-- ==== Sys2Proof/Word.lean ====
section
/-!
DEFINITION. The word types of the AQ24 model and the sparse table every indexed piece of its state is kept in.
-/

namespace Sys2Proof

/-- One byte (R3: every multi-byte field is a little-endian run of these). -/
abbrev Byte := BitVec 8

/-- Device time: a 64-bit count of nanoseconds (R7). -/
abbrev Time := BitVec 64

/-- An attribute value or a record, as its 32-bit words, word 0 (the lowest) first (R3). -/
abbrev Words := List (BitVec 32)

/-- A sparse table: keys strictly rising, and no entry equal to what an unlisted key reads as. -/
abbrev Tab (α : Type) := List (Nat × α)

namespace Tab

/-- What key `k` holds: its entry, or the default of that key. -/
def get {α : Type} (d : Nat → α) : Tab α → Nat → α
  | [], k => d k
  | (j, v) :: t, k => if j = k then v else get d t k

/-- Drop key `k`. -/
def erase {α : Type} (k : Nat) : Tab α → Tab α
  | [] => []
  | (j, v) :: t => if j = k then erase k t else (j, v) :: erase k t

/-- Put `v` at key `k`, keeping the keys rising. -/
def insert {α : Type} (k : Nat) (v : α) : Tab α → Tab α
  | [] => [(k, v)]
  | (j, w) :: t => if k < j then (k, v) :: (j, w) :: t
    else if k = j then (k, v) :: t
    else (j, w) :: insert k v t

/-- Write `v` at key `k`: a value equal to the default of `k` removes the entry. -/
def set {α : Type} [DecidableEq α] (d : Nat → α) (t : Tab α) (k : Nat) (v : α) : Tab α :=
  if v = d k then erase k t else insert k v t

/-- Every listed key lies above `b`, and the keys rise. -/
def risingAbove {α : Type} : Nat → Tab α → Bool
  | _, [] => true
  | b, (j, _) :: t => decide (b < j) && risingAbove j t

/-- The canonical form: keys strictly rising, no entry equal to its key's default. -/
def wf {α : Type} [DecidableEq α] (d : Nat → α) : Tab α → Bool
  | [] => true
  | (j, v) :: t => decide (v ≠ d j) && risingAbove j t && wf d t

end Tab

end Sys2Proof
end

