-- ==== Sys2Proof/Syntax.lean ====
section
/-!
DEFINITION. The commands of the AQ24: one constructor per row of spec/opcode_table.json. A Lysil request carries the
datagram as it is received; an event of the device or of its pins carries the device time at which it takes place and
what its outside world brings with it (pixels, frames, readings, errors found).
-/

namespace Sys2Proof

/-- The two Ethernet ports (R312). -/
inductive EthPort where
  | a
  | b
  deriving DecidableEq, Repr

/-- How a datagram arrives (R312, IPv4 reassembly): whole; as fragments of which some are still missing; or with the
last of its fragments. -/
inductive Arrival where
  | whole
  | fragment (ident : BitVec 16)
  | last (ident : BitVec 16)
  deriving DecidableEq, Repr

/-- One UDP datagram as a port receives it: its frame, its source, the header fields of Table 12-2, the parameter
bytes and the trailing CRC. The OPCODE is the command's row. -/
structure Req where
  /-- Device time of reception. -/
  time : Time
  port : EthPort
  /-- The frame addresses it, and its IP and UDP checksums hold (Table 12-1). -/
  intact : Bool
  /-- The VLAN tag's VID, or none for an untagged frame; a frame with two tags is not `intact`. -/
  vid : Option (BitVec 12)
  /-- The frame came through the MACsec secure channel with its checks good. -/
  secured : Bool
  /-- Bytes of the Ethernet frame. -/
  frameLen : Nat
  arrival : Arrival
  srcAddr : BitVec 32
  srcPort : BitVec 16
  dstPort : BitVec 16
  /-- Bytes of the datagram's payload; 36 + the parameter bytes unless it is cut short (Table 12-3, check 4). -/
  len : Nat
  magic : BitVec 16
  version : BitVec 8
  queue : BitVec 8
  seq : BitVec 32
  flags : BitVec 16
  paramLen : BitVec 16
  status : BitVec 16
  tag : BitVec 32
  expiry : BitVec 64
  eventSeq : BitVec 32
  params : List Byte
  crc : BitVec 32
  /-- Requests of the port received before this one and not yet acknowledged (Table 12-3, check 9). -/
  unacked : Nat
  /-- The frame's FCS holds; one whose FCS fails is dropped (Table 14-1). -/
  fcsOk : Bool := true
  deriving DecidableEq, Repr

/-- What a fen tick meets: how many OTP steps of an activation's advance program before one fails (R435), none where all do; and
whether the distribution of time is found in error (Table 14-5). -/
structure TickFinding where
  otp : Option Nat := none
  timeError : Bool := false
  deriving DecidableEq, Repr

/-- What tells a datagram's fragments from another's (RFC 791): its source and its identification. -/
structure DatagramKey where
  src : BitVec 32
  ident : BitVec 16
  deriving DecidableEq, Repr

/-- The frame around an ARP packet or an ICMP echo: its VLAN tag's VID, its length in bytes (the longest one's of an echo that comes
in fragments), and whether its FCS holds. -/
structure FrameHead where
  vid : Option (BitVec 12)
  len : Nat
  fcsOk : Bool
  deriving DecidableEq, Repr

/-- A path on which data meets a byte parity error (Table 14-1): a block's sluice path; a region's fabric, multicast network, DMA
arbiter or crossbar port; the chip's crossbar (Tables 14-3 to 14-5). -/
inductive DataPath where
  | sluice
  | fabric
  | multicast
  | arbiter
  | crossbarPort
  | crossbar
  deriving DecidableEq, Repr

/-- A granule of a host or peer page as it arrives (R306, R355): its number in device virtual space, its bytes, whether it carries
the poison mark, and whether the read failed: a host completion in error or timed out, a peer's refusal. -/
structure RemoteGranule where
  granule : Nat
  data : List Byte
  ep : Bool
  failed : Bool
  /-- The endpoint reports an uncorrectable error of it through AER (Table 11-7). -/
  aer : Bool := false
  deriving DecidableEq, Repr

/-- What the reads of one command find in the memories they read (R289, R121): granules or lines, by number, and what the host and
the peers answer. -/
structure MemFindings where
  /-- DRAM granules with an error in one symbol (R290); a granule of a cached line, once for each corrected word of it. -/
  corrected : List Nat
  /-- DRAM granules, or granules of cached lines, with an uncorrectable error (R291, R135): a granule whose clean cached line reads so
  and that is uncorrectable in DRAM too stands twice. -/
  uncorrectable : List Nat
  /-- DRAM granules with an error in three or more symbols that is miscorrected (listed in `corrected` too) or passes undetected
  (R289), with the bytes that they now hold. -/
  wrong : List (Nat × List Byte)
  /-- Granules whose entry in the region cache's tags reads uncorrectable (Table 14-4, CACHE_TAG). -/
  tags : List Nat
  /-- Lines of the block's scratchpad, once for each word that is corrected (R121); for STRIPE_ROW_WRITE, granules of the row in the
  front end's line buffer (Table 14-1). -/
  lineCorrected : List Nat
  /-- Such lines with an uncorrectable word (R121). -/
  lineUncorrectable : List Nat
  /-- Granule indices in which a parity error is found in transit (R276), with the path on which it is found. -/
  parity : List (Nat × DataPath)
  /-- Scratchpad lines whose read meets a write in the same FCLK cycle (R127). -/
  collisions : List Nat
  /-- Carr map entries that read uncorrectable (R301). -/
  carr : List Nat
  /-- The mapping store reads uncorrectable in the mapping that is used (R366). -/
  store : Bool
  /-- What host and peer pages answer to the command's reads. -/
  remote : List RemoteGranule
  /-- The endpoint reports an uncorrectable error of the access through AER (Table 11-7). -/
  aer : Bool := false
  deriving DecidableEq, Repr

/-- No error found, and nothing from outside. -/
def MemFindings.none : MemFindings := ⟨[], [], [], [], [], [], [], [], [], false, [], false⟩

/-- Who asks for a placement (R168): a pipeline's streaming command, or a standalone job's launch. -/
inductive Owner where
  | pipeline (p : Fin 24)
  | job (j : BitVec 32)
  deriving DecidableEq, Repr

/-- An error of the multipliers in one step (R368): at a lane row and column of a cell, or, with no cell, of the block's adder tree;
and by how much the sum there is off. -/
structure LaneError where
  cell : Option (Fin 16)
  row : Fin 16
  col : Fin 16
  off : Int
  deriving DecidableEq, Repr

/-- What goes wrong in a step (R368, R373, Table 14-1). -/
inductive StepFinding where
  /-- Nothing. -/
  | clean
  /-- Multiplier lanes or step sums are off: whether the residue comparison fails follows from where and by how much (R368). -/
  | lanes (e : List LaneError)
  /-- A mod-31 error in the accumulate path or the requantiser (R373). -/
  | accResidue
  /-- A mod-31 error in the window unit or a Winograd transform (R373). -/
  | windowResidue
  /-- A parity error in block state (Table 14-1). -/
  | stateParity
  /-- A parity error in a carry-store entry (Table 14-1), by its index. -/
  | carryParity (i : Nat)
  /-- An error in accumulator memory that is corrected, or is not (Table 14-1). -/
  | accCorrected
  | accUncorrectable
  deriving DecidableEq, Repr

/-- The operand a staging copy serves (R152). -/
inductive StageSide where
  | a
  | b
  | out
  deriving DecidableEq, Repr

/-- A group's place in the output of an operator: fold, channel block, row and group index (R145). -/
structure GroupKey where
  op : Nat
  fold : Nat
  cb : Nat
  row : Nat
  grp : Nat
  deriving DecidableEq, Repr

/-- A node of the wait graph (R282): a block channel, or a block's thread of an owner. -/
inductive WaitNode where
  | channel (c : Fin 1024)
  | thread (b : Fin 64) (o : Owner)
  deriving DecidableEq, Repr

/-- One frame on a Fovar port (Table 13-2), as received. -/
structure LinkFrame where
  vc : Bool
  poison : Bool
  src : BitVec 3
  dst : BitVec 3
  linkSeq : BitVec 16
  linkAck : BitVec 16
  e2eSeq : BitVec 16
  epoch : BitVec 16
  window : BitVec 6
  offset : BitVec 27
  payload : List Byte
  /-- What the device's own accesses find to which the frame's arrival leads, WRITE's and READ_REQ's own apart (R289, R301). -/
  mem : MemFindings := .none
  /-- The frame's CRC-32C matches (R349). -/
  crcOk : Bool
  /-- The neighbour has discarded the frame after `linkAck`, and asks for it again (R349; how it asks, the manual does not say: DESIGN
  CHOICE, log 91). -/
  nak : Bool
  deriving DecidableEq, Repr

/-- What a collective frame is (R357 to R361). The words of data lie in its PAYLOAD, at the granule index OFFSET of the transfer; where
the other fields lie in it, the manual does not say (log 92). -/
inductive CollContent where
  /-- A member joins with these fields of R356. -/
  | join (id : BitVec 32) (op : BitVec 8) (members : BitVec 8) (root : BitVec 8) (len : BitVec 32) (seed : BitVec 64)
  /-- A member's digests, one per chunk of its contribution (R360). -/
  | digests (member : Nat) (d : List (BitVec 64))
  /-- 64-bit sums of a partial chunk of a SUM, with the members whose words it includes. -/
  | partialSum (chunk : Nat) (includes : BitVec 8)
  /-- 64-bit sums of a complete chunk of a SUM, in the all-gather. -/
  | wholeSum (chunk : Nat)
  /-- 32-bit words of a member's contribution (MAX, GATHER, BROADCAST). -/
  | contribution (member : Nat)
  /-- An abort (R359), with its status and the fields of Table 13-6. -/
  | abort (status : BitVec 16) (detector contrib sender : BitVec 8) (chunk : BitVec 32)
  deriving DecidableEq, Repr

/-- A fault of the engine's adder: a word of the chunk that an addition makes, and what it makes of it in place of the sum (R361). -/
abbrev AdderSlip := Nat × BitVec 64

/-- How a transaction ends on the bus (R50). -/
inductive I2cEnd where
  /-- STOP, with the bytes read. -/
  | done (read : List Byte)
  /-- A NACK on byte `i`; 0 is the address byte. -/
  | nack (i : BitVec 8)
  deriving DecidableEq, Repr

/-- What the second sampler of an input has counted: the data transitions within each of the 64 tap positions (R413). -/
abbrev EyeScan := List Nat

/-- A SerDes lane's figures, as it has adapted to its received data (R416, Table 15-6). -/
structure Lane where
  height : BitVec 16
  width : BitVec 8
  residual : BitVec 8
  ctle : BitVec 8
  dfe : BitVec 24
  deriving DecidableEq, Repr

/-- What a calibration run serves (R419). -/
inductive CalTarget where
  | sedge (p : Fin 24)
  | pcie
  | fovar (n : Fin 4)
  deriving DecidableEq, Repr

/-- A VSYNC active edge on a port, and what the second sampler of each input has counted by then (R413, R414). -/
structure FrameEdge where
  port : Fin 24
  scans : List EyeScan := []
  deriving DecidableEq, Repr

/-- Why a run starts of itself (Table 15-5, CAL_APPLIED). -/
inductive CalCause where
  | temperature
  | powerOn
  | modeChange
  deriving DecidableEq, Repr

/-- The derived clocks of R406. -/
inductive DerivedClock where
  | aclk (r : Fin 4)
  | fclk
  | pxclk
  | sclk
  deriving DecidableEq, Repr

/-- The interface PLLs of R406. -/
inductive IfacePll where
  | dram
  | pcie
  | fovar
  deriving DecidableEq, Repr

/-- The supply conditions of Table 15-3 (VDD_CORE below or above, another rail). -/
inductive SupplyTrip where
  | coreLow
  | coreHigh
  | other
  deriving DecidableEq, Repr

/-- A unit whose suppression window ends (Table 14-6). -/
inductive SuppressedUnit where
  | block (b : Fin 64)
  | quarter (r : Fin 4) (q : Fin 4)
  | sedge (p : Fin 24)
  | fovar (n : Fin 4)
  | sequencers
  deriving DecidableEq, Repr

/-- The straps as the pins hold them (Table 16-1). -/
structure Straps where
  bootSrc : BitVec 2
  devId : BitVec 3
  mgmtMode : Bool
  deriving DecidableEq, Repr

/-- A release of PORST_N: the straps, and the device time at which stage 3 ends, where an image of the flash is good (Table 16-6). -/
structure PowerUp where
  straps : Straps
  checked : Time := 0
  deriving DecidableEq, Repr

/-- What an hourly measurement of a location gives (R420): the delay of its replica paths, in 1/16 ps. -/
structure AgeReading where
  location : Fin 101
  delay : Nat
  deriving DecidableEq, Repr

/-- What the field test of a block finds (R392). -/
structure TestResult where
  /-- The vendor vectors that the active firmware image holds for it. -/
  vectors : BitVec 16
  /-- Index of the first failing vector or capture, or none on a pass. -/
  firstFail : Option (BitVec 16)
  deriving DecidableEq, Repr

/-- A PCIe access to the MSI-X table or pending-bit array (R307); the endpoint may report an uncorrectable error of it through AER
(Table 11-7). -/
inductive BarAccess where
  | read (offset : BitVec 16) (len : Nat) (aer : Bool := false)
  | write (offset : BitVec 16) (data : List Byte) (aer : Bool := false)
  deriving DecidableEq, Repr

/-- A granule of DRAM as a patrol read finds it (R290 to R292). -/
inductive ScrubFinding where
  | clean
  | correctable
  | uncorrectable
  /-- An error in three or more symbols (R289): reported as a correction, or undetected; the bytes that the granule now holds. -/
  | wrong (reported : Bool) (data : List Byte)
  deriving DecidableEq, Repr

/-- What the sequencers' read of control SRAM finds as they execute a request (Table 14-1): a corrected word, or an
uncorrectable word of a microcode bank (R366). -/
inductive BankFinding where
  | clean
  | corrected
  | uncorrectable
  deriving DecidableEq, Repr

/-- What the making of a detection list meets: an error in the post-processor (R374), and what its writes find (R301). -/
structure ListFindings where
  err : Bool
  mem : MemFindings := .none
  deriving DecidableEq, Repr

/-- The moment at which a report is complete (R445), and what its writes find (R301). -/
structure ReportEnd where
  time : Time
  mem : MemFindings := .none
  deriving DecidableEq, Repr

/-- The commands: one constructor per row of spec/opcode_table.json, in its order. -/
inductive Instr where
  | nop (q : Req) (opcode : BitVec 16) (bank : BankFinding)
  | attrRead (q : Req) (carr : List Nat)
  | attrWrite (q : Req)
  | commit (q : Req)
  | shadowRevert (q : Req)
  | eventRead (q : Req)
  | sessionOpen (q : Req)
  | i2cTransfer (q : Req)
  | portRecover (q : Req)
  | portClearCounters (q : Req)
  | loadCurve (q : Req)
  | loadDefects (q : Req)
  | setExposure (q : Req)
  | arithClearCounters (q : Req)
  | releaseResident (q : Req)
  | poolFlush (q : Req)
  | poolFlushDone (t : Time)
  | loadMapping (q : Req) (f : MemFindings)
  | loadMappingDone (t : Time) (f : MemFindings)
  | unloadMapping (q : Req)
  | windowClearCounters (q : Req)
  | startStream (q : Req)
  | placement (t : Time) (w : Owner)
  | residencyCopy (t : Time) (w : Owner) (id : BitVec 32) (f : MemFindings)
  | stopStream (q : Req)
  | stripeClearCounters (q : Req)
  | launchJob (q : Req)
  | heldJobStart (t : Time) (j : BitVec 32)
  | cancelJob (q : Req)
  | jobEnd (t : Time) (j : BitVec 32)
  | sluiceStart (q : Req)
  | sluiceHalt (q : Req)
  | sluiceClearCounters (q : Req)
  | instructionFetch (t : Time) (c : Fin 1024) (shapes : Bool) (f : MemFindings)
  | move (t : Time) (c : Fin 1024) (f : MemFindings)
  | moveComplete (t : Time) (c : Fin 1024)
  | loop (t : Time) (c : Fin 1024)
  | endLoop (t : Time) (c : Fin 1024)
  | endProgram (t : Time) (c : Fin 1024)
  | ringSpace (t : Time) (c : Fin 1024)
  | ringData (t : Time) (c : Fin 1024)
  | waitEvent (t : Time) (c : Fin 1024)
  | timeAbs (t : Time) (c : Fin 1024)
  | timeRel (t : Time) (c : Fin 1024)
  | waitConditionMet (t : Time) (c : Fin 1024)
  | waitTimeReached (t : Time) (c : Fin 1024)
  | ringAdvance (t : Time) (c : Fin 1024)
  | signalEvent (t : Time) (c : Fin 1024)
  | signalCompletion (t : Time) (c : Fin 1024)
  | pageFaultTimeout (t : Time) (c : Fin 1024)
  | streamDeadlock (t : Time) (nodes : List WaitNode)
  | mapPages (q : Req)
  | mapPagesDone (t : Time)
  | memClearCounters (q : Req)
  | windowOpen (q : Req)
  | windowClose (q : Req)
  | collective (q : Req)
  | collectiveStart (t : Time) (slot : Fin 4) (f : MemFindings) (adder : List AdderSlip)
  | collectiveTimeout (t : Time) (slot : Fin 4)
  | tussockRead (q : Req)
  | runBlockTest (q : Req)
  | blockTestBegin (t : Time) (b : Fin 64)
  | blockTestEnd (t : Time) (b : Fin 64) (r : TestResult)
  | alarmRelease (q : Req) (sameCycle : Bool)
  | faultClearCounters (q : Req)
  | runCalibration (q : Req)
  | calibrationApply (t : Time) (g : CalTarget) (scans : List EyeScan) (lanes : List Lane) (portSeen : Bool)
  | firmwareLoad (q : Req)
  | firmwareLoadDone (t : Time) (f : MemFindings)
  | firmwareActivate (q : Req) (otp : Option Nat)
  | attest (q : Req)
  | loadScaler (q : Req)
  | outputClearCounters (q : Req)
  | portStatusClear (q : Req) (sameCycle : Bool)
  | faultStatusClear (q : Req) (sameCycle : BitVec 64)
  | regionStatusClear (q : Req) (sameCycle : BitVec 32)
  | blockStatusClear (q : Req) (sameCycle : BitVec 32)
  | remapStatusWrite (q : Req) (sameCycle : BitVec 32)
  | memConfigWrite (q : Req)
  | fenConfigWrite (q : Req)
  | ageConfigWrite (q : Req)
  | fenTick (t : Time) (x : TickFinding)
  | quarterSwitchLive (t : Time) (r : Fin 4)
  | interleaveZeroed (t : Time)
  | waitFrameTimeout (t : Time) (p : Fin 24)
  | fsyncAssert (t : Time) (p : Fin 24)
  | fsyncDeassert (t : Time) (p : Fin 24)
  | frameStart (t : Time) (x : FrameEdge)
  | frameEnd (t : Time) (p : Fin 24)
  | lineReceived (t : Time) (p : Fin 24) (words : List (BitVec 24)) (parity : Bool)
  | syncGlitch (t : Time) (p : Fin 24)
  | cutTime (t : Time) (p : Fin 24)
  | pclkStopped (t : Time) (p : Fin 24)
  | pclkResumed (t : Time) (p : Fin 24)
  | portClockFault (t : Time) (p : Fin 24) (edges : Nat)
  | i2cTransactionStart (t : Time) (p : Fin 24) (sdaLow : Bool) (stuck : Bool)
  | i2cTransactionEnd (t : Time) (p : Fin 24) (e : I2cEnd)
  | i2cTimeout (t : Time) (p : Fin 24)
  | encodedRowFinal (t : Time) (p : Fin 24) (err : Bool)
  | stripeRowWrite (t : Time) (p : Fin 24) (f : MemFindings)
  | fallbackRowWrite (t : Time) (p : Fin 24) (err : Bool) (f : MemFindings)
  | statsPacketWrite (t : Time) (p : Fin 24) (err : Bool) (f : MemFindings)
  | stagingComplete (t : Time) (b : Fin 64) (o : Owner) (op : Nat) (level : Nat) (side : StageSide) (tile : List Nat)
      (f : MemFindings)
  | segmentStart (t : Time) (b : Fin 64) (o : Owner)
  | stepStart (t : Time) (b : Fin 64) (f : MemFindings)
  | stepEnd (t : Time) (b : Fin 64) (f : StepFinding)
  | groupRetire (t : Time) (b : Fin 64) (o : Owner) (g : GroupKey)
  | stripeDeadline (t : Time) (p : Fin 24) (frame : BitVec 32) (stripe : Nat)
  | residencyRefill (t : Time) (b : Fin 64) (id : BitVec 32) (f : MemFindings)
  | blockResetComplete (t : Time) (b : Fin 64)
  | suppressionEnd (t : Time) (u : SuppressedUnit)
  | remapComplete (t : Time) (r : Fin 4)
  | outputStripeWrite (t : Time) (p : Fin 24) (frame : BitVec 32) (stripe : Nat) (err : Bool) (f : MemFindings)
  | headRowsRead (t : Time) (p : Fin 24) (frame : BitVec 32) (stripe : Nat) (f : MemFindings)
  | detectionPostprocess (t : Time) (r : Fin 4) (x : ListFindings)
  | completionRecordWrite (t : Time) (p : Fin 24) (f : MemFindings)
  | scrubRead (t : Time) (f : ScrubFinding)
  | stackTemperatureRead (t : Time) (t0 : BitVec 8) (t1 : BitVec 8)
  | bar0Write (t : Time) (offset : BitVec 36) (data : List Byte) (ep aer : Bool) (f : MemFindings)
  | bar0Read (t : Time) (offset : BitVec 36) (len : Nat) (f : MemFindings)
  | hostReadCompletion (t : Time) (tag : Nat) (data : List Byte) (ep failed aer : Bool)
  | pciePerstN (t : Time) (low : Bool)
  | write (t : Time) (n : Fin 4) (f : LinkFrame) (m : MemFindings)
  | readReq (t : Time) (n : Fin 4) (f : LinkFrame) (m : MemFindings)
  | readData (t : Time) (n : Fin 4) (f : LinkFrame)
  | ack (t : Time) (n : Fin 4) (f : LinkFrame)
  | refuse (t : Time) (n : Fin 4) (f : LinkFrame)
  | collectiveFrame (t : Time) (n : Fin 4) (f : LinkFrame) (c : CollContent) (adder : List AdderSlip)
  | portUp (t : Time) (n : Fin 4) (neighbour : BitVec 3) (neighbourPort : BitVec 2) (bootCount : BitVec 32)
  | portDown (t : Time) (n : Fin 4)
  | linkDown (t : Time) (e : EthPort)
  | linkUp (t : Time) (e : EthPort)
  | sync (t : Time) (e : EthPort) (gptp : BitVec 64) (domain : BitVec 8) (intervalNs : BitVec 32)
  | holdover (t : Time)
  | leaseExpired (t : Time)
  | reassemblyAbandoned (t : Time) (e : EthPort) (d : DatagramKey)
  | arp (t : Time) (e : EthPort) (h : FrameHead) (secured isRequest : Bool) (senderMac : BitVec 48)
      (senderAddr target : BitVec 32)
  | icmpEcho (t : Time) (e : EthPort) (h : FrameHead) (secured : Bool) (srcAddr dstAddr : BitVec 32)
      (data : List Byte)
  | eapol (t : Time) (e : EthPort) (established : Bool)
  | recordRelease (t : Time)
  | alarmMinLowEnd (t : Time)
  | extFault (t : Time)
  | lockstep (t : Time) (executing : Option (Req × BitVec 16))
  | sequencerResyncDone (t : Time)
  | avsLoop (t : Time) (slack : List (Fin 101 × BitVec 16)) (transactionOk : Bool) (readbackMv senseMv : BitVec 16)
  | droopClamp (t : Time) (r : Fin 4) (slack : BitVec 16)
  | clampRelease (t : Time) (r : Fin 4)
  | temperatureRead (t : Time) (readings : List (Fin 101 × BitVec 16))
  | rootPllUnlock (t : Time)
  | referenceLoss (t : Time)
  | derivedClockFault (t : Time) (c : DerivedClock)
  | sclkRecovered (t : Time)
  | interfacePllUnlock (t : Time) (c : IfacePll)
  | voltageMonitor (t : Time) (v : SupplyTrip)
  | calibrationRunStart (t : Time) (g : CalTarget) (cause : CalCause)
  | ageMeasure (t : Time) (readings : List AgeReading)
  | stressAccumulate (t : Time)
  | porstNAssert (t : Time)
  | porstNRelease (x : PowerUp)
  | commandReady (t : Time)
  | rootPllRelock (t : Time)
  | referenceReturn (t : Time)
  | interfacePllRelock (t : Time) (c : IfacePll)
  | extFaultNRelease (t : Time)
  | bar2Access (t : Time) (x : BarAccess)
  | configurationRequest (t : Time)
  | pcieLinkUp (t : Time)
  | pcieLinkDown (t : Time)
  | slotVerified (t : Time)
  | attestComplete (x : ReportEnd)
  deriving DecidableEq, Repr

end Sys2Proof
end

