-- ==== Sys2Proof/Decode.lean ====
section
/-!
DEFINITION. The decoder. spec/opcode_table.json gives none of its 170 rows any bits: the AQ24's commands are datagrams,
frames, edges and readings, not words. No word spells a command.
-/

namespace Sys2Proof

/-- The command that a word spells by the table's bits: none, since the table gives no row bits. -/
def decodeTableWord (_nbits _w : Nat) : Option Instr := none

end Sys2Proof
end

