-- ==== Sys2Proof/Config.lean ====
section
/-!
DEFINITION. What the manual leaves to the silicon, to physics or to a standard that it does not reproduce. Every
constant here is opaque: nothing can be proved of its value, so a statement holds whatever the value is.
-/

namespace Sys2Proof.Config

open Sys2Proof

/-- DESIGN CHOICE (log 2). A value the manual leaves undefined after a command that goes on (such as
DST after an end other than OK, R359). The step applies it to a counter of the state. -/
opaque freeBits : Nat → BitVec 512

/-- DESIGN CHOICE (log 2). Which value of an entry a translation takes while MAP_PAGES changes it (R303): a number, taken modulo
the number of values, from a counter of the state and the address. -/
opaque mapChoice : Nat → Nat → Nat

/-- DESIGN CHOICE (log 14). The code of the event that a SIGNAL COMPLETION sends (R265), which no table gives. -/
opaque signalCode : BitVec 16

/-- DESIGN CHOICE (log 14). The data of that event: R265 names block, channel, VALUE and device time, and no layout. -/
opaque signalData : Nat → Nat → BitVec 32 → Time → List Byte

/-- DESIGN CHOICE (log 13). The port that an I2C_TRANSFER acts on: Table 02-5 gives its parameters and names no port. From the
request's QUEUE, TAG and parameters. -/
opaque i2cPort : Byte → BitVec 32 → List Byte → Fin 24

/-- DESIGN CHOICE (log 3). The random value that FIPS 204 lets a signature of a digest take in; zero for its deterministic variant. -/
opaque signRandom : BitVec 512 → BitVec 256

/-- DESIGN CHOICE (log 4). R421 and R422 are over real numbers, and the manual gives no rounding: whether one second's stress at a
temperature (1/8 degree C) and a supply (mV) is rounded up, and whether an end of life, given before rounding as a ratio, is. -/
opaque stressUp : Int → Nat → Bool
opaque eolUp : Nat → Nat → Bool

/-- DESIGN CHOICE (log 4). The factor of the 90 % interval of R422 for a number of measurements, in 2^-16 standard errors: the manual
does not name the distribution. -/
opaque interval90 : Nat → Nat

/-- DESIGN CHOICE (log 4). An end of life where the fit gives none: no positive K, no stress so far, or a count beyond 32 bits. -/
opaque eolOpen : List (Nat × Int) → BitVec 32

/-- DESIGN CHOICE (log 4). OTP's factory characterisation of a location (R420): a measured delay in 1/16 ps, at a temperature
(1/8 degree C) and a supply (mV), corrected to the reference condition. -/
opaque corrected : Nat → Nat → Int → Nat → Int

/-- DESIGN CHOICE (log 99). The shift entry that the operands of a step carry which reads nothing but the padding of a row: no scale group
holds it (R89), and the manual gives such operands no exponent. -/
opaque paddingEntry : Byte

/-- DESIGN CHOICE (log 111). What HALO_TOP or HALO_BOTTOM of STRIPE_STATUS, 8 bits wide, reads for a halo above 255 rows. -/
opaque haloOver : Nat → BitVec 8

/-- DESIGN CHOICE (log 116). DETECTOR of a record that an Ethernet port makes: Table 14-8 has no code for it. -/
opaque ethernetDetector : BitVec 8

end Sys2Proof.Config
end

