-- ==== Sys2Proof/Machine/State.lean ====
section
/-!
DEFINITION. The state of the AQ24: every register, store, queue, counter, mode and pin the manual gives it, as plain
data. Tables with an entry per unit are sparse (`Tab`), each with a default per key that is the unit's reset value.
-/

namespace Sys2Proof.Machine

open Sys2Proof

/-! ## What stops the machine -/

/-- No condition of the manual stops the AQ24: each error it names is contained and the device runs on (chapter 14).
The type is empty on purpose: no command of the model faults. -/
inductive Fault where
  deriving DecidableEq, Repr

/-- Why a command has no meaning. -/
inductive Refusal where
  /-- Raised by an arm of `exec` whose command is not modelled; safe: the machine stops. -/
  | notModelled (mnemonic : String)
  /-- Raised by `execNop` for a datagram whose OPCODE is that of another row: that datagram is the other row's
  command, and this term is no command of the AQ24 (`Instr.wellFormed` refuses it); safe: the machine stops. -/
  | otherRow
  deriving DecidableEq, Repr

/-! ## Outputs -/

/-- A Lysil packet as a port sends it (Table 12-2). -/
structure Packet where
  port : EthPort
  dstAddr : BitVec 32
  dstPort : BitVec 16
  queue : BitVec 8
  seq : BitVec 32
  opcode : BitVec 16
  flags : BitVec 16
  status : BitVec 16
  tag : BitVec 32
  time : Time
  eventSeq : BitVec 32
  data : List Byte
  deriving DecidableEq, Repr

/-- How a frame leaves an Ethernet port (Table 12-1): the VID and PCP of its tag, if it has one, and whether MACsec protects
it. -/
structure FrameTag where
  vlan : Option (BitVec 12 × BitVec 3)
  secured : Bool
  deriving DecidableEq, Repr

/-- A frame of a Fovar port as it is sent (Table 13-2): its link and end-to-end sequences, TYPE, VC, route, epoch or status,
window or slot, granule index, poison mark, payload, and what a COLLECTIVE frame holds. -/
structure LinkTx where
  linkSeq : BitVec 16
  e2eSeq : BitVec 16
  type : BitVec 4
  vc : Bool
  src : BitVec 3
  dst : BitVec 3
  epoch : BitVec 16
  window : BitVec 6
  offset : BitVec 27
  poison : Bool
  payload : List Byte
  coll : Option CollContent
  deriving DecidableEq, Repr

/-- What a command puts on the device's interfaces, beside its effect on the state. -/
inductive Output where
  /-- A Lysil packet leaves a port: its frame's tag, its header and data, and the CRC-32C after them (R316). -/
  | packet (tag : FrameTag) (p : Packet) (crc : BitVec 32)
  /-- An ARP frame leaves a port: its tag, reply (or request), target address and MAC (0 in a request). -/
  | arp (e : EthPort) (tag : FrameTag) (reply : Bool) (targetAddr : BitVec 32) (targetMac : BitVec 48)
  /-- An ICMP echo reply leaves a port: its tag, destination and data. -/
  | icmpReply (e : EthPort) (tag : FrameTag) (dst : BitVec 32) (data : List Byte)
  /-- A PCIe memory write to a host address, with its EP bit (R276, R306). -/
  | hostWrite (addr : BitVec 52) (data : List Byte) (ep : Bool)
  /-- A PCIe memory read request to a host address, with its tag (R306). -/
  | hostRead (addr : BitVec 52) (len : Nat) (tag : Nat)
  /-- An MSI-X message (Table 11-7). -/
  | msix (vector : BitVec 11)
  /-- A completion of a BAR read: data, EP bit; `none` is Unsupported Request (R307). -/
  | barCompletion (data : Option (List Byte)) (ep : Bool)
  /-- An answer to a configuration request: retry status, or the request is served (R436, stage 5). -/
  | configAnswer (retry : Bool)
  /-- A frame leaves a Fovar port, with the LINK_ACK it carries, and its bytes (Table 13-2). -/
  | fovar (port : Nat) (frame : LinkTx) (linkAck : BitVec 16) (bytes : List Byte)
  /-- What a Fovar port sends in training: device ID, port number, boot count (R346). -/
  | fovarTraining (port : Nat) (device : BitVec 3) (boot : BitVec 32)
  /-- A Fovar port has discarded a frame, and asks its neighbour for the frames after a LINK_SEQ again (R349, log 91). -/
  | fovarNak (port : Nat) (after : BitVec 16)
  /-- A transaction starts on a port's I2C bus: target, bytes written, bytes to read (R50). -/
  | i2c (port : Nat) (target : BitVec 7) (data : List Byte) (readLen : Nat)
  /-- Bus recovery: nine SCL pulses and a STOP (R50). -/
  | i2cRecovery (port : Nat)
  /-- The flash is written at a slot or record (Table 16-2). -/
  | flash (offset : Nat) (data : List Byte)
  /-- An AVSBus voltage write, in mV (R402). -/
  | avs (mv : Nat)
  deriving DecidableEq, Repr

/-! ## Memory -/

/-- A byte-addressed memory: (address, byte) pairs, addresses strictly rising, no listed byte 0. An unlisted byte
reads 0: the manual zeroes DRAM at start-up (Table 16-6), scratchpads and pools as they switch on (R410). -/
abbrev Memory := List Host.Cell

/-- What an unlisted address reads as. -/
def Memory.empty : Byte := 0

/-- The byte at an address. -/
def Memory.read : Memory → Nat → Byte
  | [], _ => Memory.empty
  | (k, v) :: t, a => if k = a then v else Memory.read t a

/-- Drop an address. -/
def Memory.erase (a : Nat) : Memory → Memory
  | [] => []
  | (k, v) :: t => if k = a then Memory.erase a t else (k, v) :: Memory.erase a t

/-- Put a byte at an address, keeping the addresses rising. -/
def Memory.insert (a : Nat) (x : Byte) : Memory → Memory
  | [] => [(a, x)]
  | (k, v) :: t => if a < k then (a, x) :: (k, v) :: t
    else if a = k then (a, x) :: t
    else (k, v) :: Memory.insert a x t

/-- Write one byte; writing what an unlisted address reads as removes the entry. -/
def Memory.write (m : Memory) (a : Nat) (x : Byte) : Memory :=
  if x = Memory.empty then Memory.erase a m else Memory.insert a x m

/-- Every listed address lies above `b`, the addresses rise, and no listed byte is 0. -/
def Memory.wfAbove : Nat → Memory → Bool
  | _, [] => true
  | b, (k, v) :: t => decide (b < k) && decide (v ≠ Memory.empty) && Memory.wfAbove k t

/-- The canonical form. -/
def Memory.wf : Memory → Bool
  | [] => true
  | (k, v) :: t => decide (v ≠ Memory.empty) && Memory.wfAbove k t

/-! ## Counters and requests -/

/-- A block of 32-bit counters, by word index; an unlisted word reads 0. -/
abbrev Counters := Tab (BitVec 32)

/-- A long command's identity: what its COMPLETION copies (R322), and where it goes (R327, R330). -/
structure Ticket where
  port : EthPort
  queue : BitVec 8
  seq : BitVec 32
  opcode : BitVec 16
  tag : BitVec 32
  srcAddr : BitVec 32
  srcPort : BitVec 16
  deriving DecidableEq, Repr

/-! ## Sedge ports (chapter 02) -/

/-- The port settings that take effect at the frame boundary (Table 02-7). -/
structure PortSettings where
  mode : BitVec 32
  geometry : BitVec 64
  pad : BitVec 32
  timing : BitVec 64
  fsync : BitVec 64
  hdr : BitVec 64
  deriving DecidableEq, Repr

/-- Reset values of Tables 02-8 to 02-13: HEIGHT 2,160 and WIDTH 3,840, LINE_TIME 7,407 ns, WIDTH_US 10. -/
def PortSettings.reset : PortSettings :=
  ⟨0, 0x0000_0000_0870_0F00#64, 0, 7407, 0x000A_0000_0000_0000#64, 0⟩

/-- PORT_STATUS.STATE (Table 02-15). -/
inductive PortState where
  | disabled
  | idle
  | waitFrame
  | inFrame
  deriving DecidableEq, Repr

/-- END_CAUSE (Table 02-18). -/
inductive EndCause where
  | normal
  | cutLines
  | cutTime
  | pclkStopped
  | clockFault
  deriving DecidableEq, Repr

/-- The frame on a port's pins, from its VSYNC active edge (R33). -/
structure PortFrame where
  /-- The pipeline and frame number it was started for, or none for a frame being discarded (R37). -/
  job : Option (Nat × BitVec 32)
  /-- The port settings it runs under (R22). -/
  cfg : PortSettings
  start : Time
  /-- Lines received since the active edge, the V_START ones included. -/
  lines : Nat
  /-- Rows delivered, exposures 0 to 2 (R39). -/
  rows : Vector Nat 3
  /-- Placeholder lines discarded so far, exposures 0 to 2 (R39). -/
  skipped : Vector Nat 3
  glitches : BitVec 16
  lineShort : Bool
  lineLong : Bool
  /-- The frame has been ended at row HEIGHT or by a cut; input is ignored until VSYNC is inactive (Table 02-3). -/
  ended : Bool
  deriving DecidableEq, Repr

/-- The last started frame of a port to end: as it ended, its pipeline and number, the cause and the time (R44). -/
structure EndedFrame where
  frame : PortFrame
  pipe : Nat
  number : BitVec 32
  cause : EndCause
  time : Time
  deriving DecidableEq, Repr

/-- One transaction of a port's I2C controller (R50). -/
structure I2cTxn where
  /-- A host transaction's long command, or none for an exposure write (R49). -/
  host : Option Ticket
  /-- The pipeline whose exposure command it belongs to. -/
  pipe : Option Nat
  target : BitVec 7
  data : List Byte
  readLen : Nat
  deriving DecidableEq, Repr

/-- A sedge port with its I2C controller and its deskew unit. -/
structure Port where
  state : PortState
  shadow : PortSettings
  pending : Option PortSettings
  /-- When the pending copy was committed (R36). -/
  pendingAt : Time
  live : PortSettings
  /-- The shadow has been written since it was last committed or reverted. -/
  shadowChanged : Bool
  clockFault : Bool
  pclkStopped : Bool
  pclkFreq : BitVec 12
  counters : Counters
  frame : Option PortFrame
  /-- A live ENABLE = 0 waits for the end of the started frame (R471). -/
  disableDue : Bool
  /-- The settings under which FSYNC is driven until then. -/
  fsyncKept : PortSettings
  /-- Its last frame boundary, substitute or not (R29, R36). -/
  boundaryAt : Option Time
  /-- The later of the last started frame's active edge and the entry into WAIT_FRAME (R36). -/
  waitSince : Time
  /-- WAIT_FRAME has lasted more than two nominal frame periods (R36). -/
  waitLong : Bool
  fsync : Bool
  /-- Start of the last pulse, and its end. -/
  fsyncStart : Option Time
  fsyncEnd : Time
  /-- A new PHASE_NS or DIV_M1 is live and has sent no pulse yet (R46). -/
  fsyncMoved : Bool
  lastEnd : Option EndedFrame
  i2cConfig : BitVec 32
  i2cQueue : List I2cTxn
  /-- Exposure writes that are due, ahead of the queue (R49). -/
  i2cDue : List I2cTxn
  i2cBus : Option I2cTxn
  taps : Tab (BitVec 6)
  /-- The eye centre of each input, as last found (R413, R414). -/
  centres : Tab (BitVec 6)
  eyes : Tab (BitVec 6)
  calRuns : BitVec 16
  /-- The temperature at the last run, in 1/8 degrees. -/
  calTemp : BitVec 16
  calZq : Bool
  calValid : Bool
  calRunning : Bool
  calCause : Option CalCause
  /-- PORT_MODE with ENABLE = 1 went live while the front end was off: it asks for it (R411). -/
  wantsPower : Bool
  deriving DecidableEq, Repr

/-- Reset of a port (Tables 02-8 to 02-16). The taps' reset value is OTP's (Table 15-6): 0, log 6. IMP_SRC resets
to 1 (ZQ). -/
def Port.reset : Port :=
  { state := .disabled, shadow := .reset, pending := none, pendingAt := 0, live := .reset, shadowChanged := false
    clockFault := false, pclkStopped := false, pclkFreq := 0, counters := [], frame := none, disableDue := false, fsyncKept := .reset
    boundaryAt := none, waitSince := 0, waitLong := false, fsync := false, fsyncStart := none, fsyncEnd := 0, fsyncMoved := false, lastEnd := none
    i2cConfig := 0x03E8_0001#32, i2cQueue := [], i2cDue := [], i2cBus := none, taps := [], centres := [], eyes := []
    calRuns := 0, calTemp := 0, calZq := true, calValid := false, calRunning := false, calCause := none
    wantsPower := false }

/-! ## Pipelines: front end, stripes and outputs (chapters 03, 08, 09) -/

/-- The pipeline settings that take effect at the frame boundary. The curve and scaler tables list only what differs
from the reset tables of R58, R59 and R230. -/
structure PipeSettings where
  feControl : BitVec 64
  black : Vector (BitVec 32) 4
  merge : Vector (BitVec 64) 3
  luma : BitVec 32
  matrix : Vector (BitVec 64) 3
  fbBuffer : BitVec 64
  statsRing : BitVec 64
  /-- Curves 0 to 4 as loaded (R60); an unlisted one is the reset curve. -/
  curves : Tab (List Nat)
  /-- The static defect table (R63). -/
  defects : List (BitVec 32)
  scaleReplay : BitVec 32
  collision : BitVec 32
  stripe : BitVec 32
  output : BitVec 64
  det : BitVec 64
  /-- DET_ANCHORS words; an unlisted one is 0x0100_0100. -/
  anchors : Tab (BitVec 32)
  /-- The display scaler table as loaded (R230), 256 signed words; none is the reset table. -/
  scaler : Option (List (BitVec 16))
  check : BitVec 32
  deriving DecidableEq, Repr

/-- Reset values of Tables 03-6 to 03-12, 04-10, 05-7, 08-6, 09-7, 09-13, 09-14 and 14-13. -/
def PipeSettings.reset : PipeSettings :=
  { feControl := 0x0010_0000_0000_0080#64
    black := Vector.replicate 4 0
    merge := Vector.replicate 3 0x0100_FFFF_FF00_0000#64
    luma := 0x0DAB_704A#32
    matrix := ⟨#[0x0000_1000_0000_0000#64, 0x0000_0000_1000_0000#64, 0x0000_0000_0000_1000#64], rfl⟩
    fbBuffer := 0, statsRing := 0, curves := [], defects := []
    scaleReplay := 0x000A_0001#32, collision := 0, stripe := 0x0080_0801#32
    output := 0x7804_3800_0200_0000#64, det := 0x0080_0100_0080_0200#64
    anchors := [], scaler := none, check := 1 }

/-- STRIPE_STATUS.STATE (Table 08-8). -/
inductive StreamState where
  | stopped
  | starting
  | streaming
  | stopping
  deriving DecidableEq, Repr

/-- One raw line the port has delivered: pixels from `padFrom` on are pad (R41). -/
structure RawLine where
  frame : BitVec 32
  exposure : Nat
  row : Nat
  words : List (BitVec 24)
  padFrom : Nat
  /-- A parity error was found on its way from the port's input register (R30). -/
  bad : Bool
  deriving DecidableEq, Repr

/-- A row of linear RGB (stage 6) with its encoded codes (stage 7), final in the line buffer. -/
structure EncodedRow where
  frame : BitVec 32
  row : Nat
  rgb : List (Nat × Nat × Nat)
  codes : List (Nat × Nat × Nat)
  pad : Bool
  poisoned : Bool
  deriving DecidableEq, Repr

/-- What the front end gathers over a frame (R72): histogram bins by 256 × histogram + bin, zone sums and counts by
4 × zone + channel. -/
structure Stats where
  hist : Tab (BitVec 32)
  zoneSum : Tab Nat
  zoneCount : Tab Nat
  clipped : Tab Nat
  pixels : Nat
  dynDefects : Nat
  motion : Nat
  padded : Bool
  checkError : Bool
  deriving DecidableEq, Repr

/-- No pixel gathered. -/
def Stats.empty : Stats := ⟨[], [], [], [], 0, 0, 0, false, false⟩

/-- A full-resolution 10-bit Y'CbCr row of the fallback path (R69): its number, its pixels, whether it is poisoned. -/
structure YuvRow where
  row : Nat
  px : List (Nat × Nat × Nat)
  bad : Bool
  deriving DecidableEq, Repr

/-- A pipeline's front end: its line buffer, and the fallback rows of the stripe in progress. -/
structure FrontEnd where
  /-- Raw lines that a row still to become final needs. -/
  lines : List RawLine
  /-- Encoded rows that a stripe or the fallback path still needs (R206). -/
  encoded : List EncodedRow
  yuv : List YuvRow
  deriving DecidableEq, Repr

/-- An idle front end. -/
def FrontEnd.reset : FrontEnd := ⟨[], [], []⟩

/-- An exposure command (R76 to R80). -/
structure ExposureCmd where
  ticket : Ticket
  target : BitVec 7
  /-- The frame it applies to; 0xFFFF_FFFF without a heron unit (R79). -/
  frame : BitVec 32
  late : Bool
  uncertain : Bool
  /-- Its heron unit, or none (R79). -/
  unit : Option Nat
  /-- Its write transactions. -/
  txns : List (List Byte)
  /-- How many have ended or will not be sent. -/
  sent : Nat
  /-- Its writes have been made due. -/
  due : Bool
  /-- Result code and index of the first transaction that failed. -/
  failed : Option (Nat × Nat)
  lastStop : Option Time
  deriving DecidableEq, Repr

/-- Provenance codes (Table 08-1). -/
inductive Provenance where
  | neural
  | late
  | poison
  | fenced
  deriving DecidableEq, Repr

/-- One stripe of a frame job (R209, R210, Table 08-3). -/
structure Stripe where
  deadline : Nat
  /-- Its code once it is final. -/
  final : Option Provenance
  /-- Its deadline has passed while a fallback row was not yet final (R211). -/
  waiting : Bool
  cancelled : Bool
  evicted : Bool
  declined : Bool
  poisoned : Bool
  /-- A block on which its unit had rows was fenced, and has been unfenced since (R215). -/
  fenced : Bool
  warned : Bool
  checkReplayed : Bool
  scaleReplayed : Bool
  padded : Bool
  fbPoisoned : Bool
  /-- Its fallback slot, if it took one (R473), and the next fallback row it lacks. -/
  fbSlot : Option Nat
  fbDropped : Bool
  fbRows : Nat
  /-- Blocks (by position) on which every unit row of every final sink has retired and reached home (R209). -/
  doneBlocks : BitVec 16
  written : Bool
  headsRead : Bool
  deriving DecidableEq, Repr

/-- A detection candidate (R235), its score exact as significand and exponent, its box decoded (R236). -/
structure Candidate where
  head : Nat
  gy : Nat
  gx : Nat
  anchor : Nat
  cls : Nat
  sig : Int
  exp : Int
  x0 : Nat
  y0 : Nat
  x1 : Nat
  y1 : Nat
  stripe : Nat
  deriving DecidableEq, Repr

/-- One frame job and the result it produces (R22, R25, R242). -/
structure FrameJob where
  frame : BitVec 32
  createdAt : Time
  startTime : Time
  endTime : Option Time
  flags : Option (BitVec 32)
  settings : PipeSettings
  port : PortSettings
  /-- Block positions of its set (R155). -/
  mask : BitVec 16
  /-- It runs no units: its pipeline is shed, or its set is empty (R215, R378). -/
  idle : Bool
  stripes : List Stripe
  /-- The first write of the result has begun (R243). -/
  begun : Bool
  overrun : Bool
  /-- The provenance map is sent; the completion record is sent; a granule of that record was dropped or refused (R245, R246). -/
  mapSent : Bool
  recordSent : Bool
  recordLost : Bool
  writeFault : Bool
  checkError : Bool
  /-- DONE of the coding marker (R227). -/
  done : Nat
  candidates : List Candidate
  candCount : Nat
  candTruncated : Bool
  /-- The detection list is complete (R239); its records. -/
  detDone : Bool
  detCount : Nat
  detTruncated : Bool
  detValid : Bool
  jobStatus : BitVec 16
  statusEvents : BitVec 16
  /-- The next row to become final in the line buffer; the next (stripe, row) the write channel copies out (R206); the next
  row of the fallback path. -/
  feRow : Nat
  write : Nat × Nat
  fbRow : Nat
  stats : Stats
  statsDone : Bool
  /-- Its completion record is written; it stays until its statistics packet is made. -/
  delivered : Bool
  deriving DecidableEq, Repr

/-- A pipeline. -/
structure Pipe where
  stream : StreamState
  shadow : PipeSettings
  pending : Option PipeSettings
  /-- When the pending copy was committed (R36). -/
  pendingAt : Time
  live : PipeSettings
  shadowChanged : Bool
  liveFrom : BitVec 32
  source : BitVec 32
  set : BitVec 64
  outTensors : BitVec 128
  outAreas : Tab (BitVec 256)
  resultRing : BitVec 128
  consumed : BitVec 32
  statsConsumed : BitVec 32
  statsProducer : BitVec 8
  statsDropped : BitVec 32
  statsSeq : BitVec 32
  nextFrame : BitVec 32
  /-- The number of the last frame whose end was accepted in this run (R76). -/
  lastEnded : Option (BitVec 32)
  streamingSince : Time
  ticket : Option Ticket
  outProducer : BitVec 32
  stripeCounters : Counters
  outCounters : Counters
  haloTop : Nat
  haloBottom : Nat
  /-- Block positions of the set that new frame jobs use (R215). -/
  blocks : BitVec 16
  /-- A shed pipeline whose shedding ends at its next boundary (R378). -/
  unshedDue : Bool
  frames : List FrameJob
  fe : FrontEnd
  fbLast : Option Nat
  /-- Exposure commands that have not ended, those whose writes are due first. -/
  exposures : List ExposureCmd
  /-- The last frames in which the front end with its fallback path, its statistics and the output channel had an error (R374). -/
  feErrorFrame : Option (BitVec 32)
  statsErrorFrame : Option (BitVec 32)
  outErrorFrame : Option (BitVec 32)
  deriving DecidableEq, Repr

/-- PIPELINE_SET at reset (Table 08-7): region p div 6; blocks 0 to 7 of it for p mod 6 < 3, else 8 to 15. -/
def Pipe.resetSet (p : Nat) : BitVec 64 :=
  BitVec.ofNat 64 ((if p % 6 < 3 then 0x00FF else 0xFF00) * 2 ^ 32 + (p / 6) * 2 ^ 16)

/-- Reset of pipeline `p`. PIPELINE_SOURCE resets to the pipeline's own number (Table 02-17). -/
def Pipe.reset (p : Nat) : Pipe :=
  { stream := .stopped, shadow := .reset, pending := none, pendingAt := 0, live := .reset, shadowChanged := false, liveFrom := 0
    source := BitVec.ofNat 32 p, set := Pipe.resetSet p
    outTensors := 0xFFFF_FFFF_FFFF_FFFF_FFFF_FFFF_0000_0000#128, outAreas := [], resultRing := 0, consumed := 0
    statsConsumed := 0, statsProducer := 0, statsDropped := 0, statsSeq := 0, nextFrame := 0, lastEnded := none
    streamingSince := 0, ticket := none, outProducer := 0, stripeCounters := [], outCounters := []
    haloTop := 0, haloBottom := 0, blocks := 0, unshedDue := false, frames := [], fe := .reset, fbLast := none
    exposures := [], feErrorFrame := none, statsErrorFrame := none, outErrorFrame := none }

/-- A heron unit (R75 to R78). -/
structure Heron where
  assign : BitVec 32
  /-- What was applied to frames whose statistics packet is still to come: frame, tag, UNCERTAIN (Table 03-2). -/
  applied : List (BitVec 32 × BitVec 32 × Bool)
  deriving DecidableEq, Repr

/-- Reset of a heron unit (Table 03-15): SENSOR_LATENCY 1, PIPELINE 0xFF. -/
def Heron.reset : Heron := ⟨0x0000_01FF#32, []⟩

/-! ## Blocks (chapters 04 to 07, 14) -/

/-- An Isauri-40 value (R98). -/
structure Isauri40 where
  sig : Int
  exp : Int
  deriving DecidableEq, Repr

/-- The place of an output element in an operator's output: fold, channel, row, pixel. -/
structure Elem where
  op : Nat
  n : Nat
  c : Nat
  y : Nat
  x : Nat
  deriving DecidableEq, Repr

/-- A residency held by a block (R123, R296). -/
structure Resident where
  id : BitVec 32
  line : Nat
  lines : Nat
  source : BitVec 64
  digest : BitVec 64
  /-- A refill of its poisoned lines is in progress; no step that reads it is selected (R296). -/
  refilling : Bool
  /-- Lines whose refill has failed (R296). -/
  failed : List Nat
  deriving DecidableEq, Repr

/-- A unit in a ring: its frame or job and stripe, its first slot, the rows of the ring's tensor that it uses, each as
fold × H + row, in the order of their places, and which of them have been written, or retired by their producer. The row at
place k lies in slot base + k div ROWS_PER_SLOT (R157; log 26). -/
structure RingUnit where
  unit : BitVec 32 × Nat
  base : BitVec 16
  rows : List Nat
  done : List Nat
  deriving DecidableEq, Repr

/-- A hardware ring (R269). -/
structure Ring where
  owner : Owner
  image : Nat
  kind : Nat
  slots : Nat
  slot4k : Nat
  baseLine : Nat
  rate : Nat
  rowsPerSlot : Nat
  head : BitVec 16
  tail : BitVec 16
  /-- The units that use its slots, oldest first. -/
  units : List RingUnit
  /-- When it last moved (R282). -/
  moved : Time
  /-- SLUICE_IN: the slot at which the data of the unit that enters next begins, and the unit that entered last (R206). -/
  next : BitVec 16
  fed : Option (BitVec 32 × Nat)
  /-- The sluice channel that last advanced it (R270). -/
  channel : Option Nat
  deriving DecidableEq, Repr

/-- A staged tile: operator, level, side, the tile's origin in the six dimensions, the line its buffer starts at; and
the shift entries of its data, which the walker keeps (R152, R470), by fold, channel block,
row and group, with their poison. -/
structure Staged where
  op : Nat
  level : Nat
  side : StageSide
  origin : List Nat
  line : Nat
  shifts : List (List Nat × Byte × Bool)
  deriving DecidableEq, Repr

/-- A scale group in progress (R103, R107). -/
structure Group where
  key : GroupKey
  /-- Start of its first step, and end of the last that reached it (R109). -/
  start : Time
  ended : Time
  /-- The carried shift it is emitted under (CARRIED), once its first code is. -/
  carried : Option Int
  /-- Its measured shift once it is known, and FLAT. -/
  measured : Option Int
  flat : Bool
  /-- Its elements whose codes have been emitted. -/
  sent : List Elem
  /-- When its last code was emitted and it was judged. -/
  emitted : Option Time
  flagged : Bool
  declined : Bool
  /-- Its scale replay is owed or runs; how many of its steps have run again; it has been replayed. -/
  replaying : Bool
  replayStep : Nat
  replayed : Bool
  poisoned : Bool
  clipped : Nat
  retired : Bool
  deriving DecidableEq, Repr

/-- A unit a thread runs (R154): the frame or job, the stripe, the segment, and how far each operator has walked. -/
structure UnitRun where
  frame : BitVec 32
  stripe : Nat
  segment : Nat
  /-- Steps started, by operator index. -/
  started : Tab Nat
  /-- Steps ended, by operator index. -/
  ended : Tab Nat
  groups : List Group
  staged : List Staged
  /-- The checksum rows of its checked level-0 tiles, by operator and tile origin (R368). -/
  checks : List (List Nat × Nat)
  /-- The current segment is finished on this block. -/
  segmentDone : Bool
  /-- When the segment began on the block, or its last step ended since. -/
  since : Time
  deriving DecidableEq, Repr

/-- A thread (R19, R20): a mapping's instance on a block. -/
structure Thread where
  owner : Owner
  mapping : Nat
  workBase : Nat
  rings : List (Nat × Nat)
  accAlloc : Nat
  carryEntries : Nat
  /-- Level-0 tiles counted, whether a check is due, checked tiles so far (R368, R370). -/
  tiles : Nat
  checkDue : Bool
  checked : Nat
  /-- The rows that opened m ranges hold: operator, level-1 tile origin, start of the range, rows (R369). -/
  cuts : List (List Nat × Nat)
  unit : Option UnitRun
  /-- Units it has finished or skipped: the next (frame, stripe) it runs. -/
  next : BitVec 32 × Nat
  deriving DecidableEq, Repr

/-- One step of the walk (R94, R151, R153). -/
structure Step where
  op : Nat
  /-- Origin and extents of its level-0 tile, in the order N, COUT, CIN, HOUT, WOUT, TAP (pixels, for Winograd too). -/
  origin : List Nat
  ext : List Nat
  /-- Origins of the tiles of the higher levels that hold it, level 1 first. -/
  parents : List (List Nat)
  /-- Its k range within the tile, in k order; for CONV_WINOGRAD its number in the tile's sequence. -/
  kStart : Nat
  kCount : Nat
  /-- It is the first, the last step of its level-0 tile. -/
  first : Bool
  last : Bool
  deriving DecidableEq, Repr

/-- How a step that a block runs came to run (R13, R371). -/
inductive StepKind where
  | normal
  | checkReplay
  | refereeFor (b : Nat)
  | scaleReplay
  deriving DecidableEq, Repr

/-- What a capture of a step's operands holds (R391): the operand format word, the output channels' weight zero points, and the
codes of the first 124 k positions, a list for each row of A and for each column of B. For CONV_WINOGRAD a row of A holds the
transformed significands, which are what the lanes take (DEDUCED, log 75). -/
structure OperandCodes where
  format : Nat
  zps : List Nat
  a : List (List Int)
  b : List (List Nat)
  deriving DecidableEq, Repr

/-- The step a block is running, or has fetched ahead: its operands are fetched and its sums known (R94, R97). -/
structure Running where
  owner : Owner
  step : Step
  kind : StepKind
  /-- Index of the step in the operator's walk of the current unit. -/
  index : Nat
  /-- Its length in cycles of its clock; how many of them are over at `since`, the end of a cycle in eighths of a nanosecond of device
  time; and the divider from then on (R401). -/
  cycles : Nat
  done : Nat
  since : Nat
  divider : Nat
  /-- κ of its operand pair (Table 05-1); the positions that its duration counts (R153). -/
  kappa : Nat
  span : Nat
  start : Time
  checked : Bool
  r : Nat
  /-- Step sums with the exponents of their row and column: element, sum, exponent. -/
  sums : List (Elem × Int × Int)
  /-- Counts for WINDOW_COUNTERS: word, number (R198). -/
  tally : List (Nat × Nat)
  /-- CRC-64 over the step's A and B operand lines in read order (Table 14-7). -/
  digest : BitVec 64
  /-- The group that a scale replay recomputes (R110). -/
  group : Option GroupKey
  codes : OperandCodes
  poisoned : Bool
  unit : BitVec 32 × Nat
  deriving DecidableEq, Repr

/-- A step in a block's lookahead queue (R117): as it was fetched; the operators of its thread that it was chosen among; and what its
fetch found, of which nothing takes effect until the step is taken: the lines that it read, those of them that were poisoned, those
that met a write, and the errors in them. -/
structure Fetched where
  run : Running
  among : List Nat
  lines : List Nat
  bad : List Nat
  entryBad : Bool
  met : List Nat
  found : MemFindings
  deriving DecidableEq, Repr

/-- A replay a block owes (R13, R371). -/
structure OwedReplay where
  run : Running
  /-- The same-block replay has failed: the referee comes next. -/
  referee : Bool
  /-- The sums as the block last computed them. -/
  sums : List (Elem × Int × Int)
  cells : BitVec 16
  tree : Bool
  found : Time
  /-- Its capture (R391). -/
  capture : BitVec 32
  deriving DecidableEq, Repr

/-- A carry-store entry (R106). -/
structure CarryEntry where
  owner : Owner
  key : GroupKey
  frame : BitVec 32
  shift : Int
  deriving DecidableEq, Repr

/-- A block. -/
structure Block where
  threads : List Thread
  residents : List Resident
  rings : Tab (Option Ring)
  acc : List ((Owner × Elem) × Isauri40)
  /-- Accumulator elements that are poisoned. -/
  accPoison : List (Owner × Elem)
  carry : List CarryEntry
  events : BitVec 64
  status : BitVec 32
  fenced : Bool
  testing : Bool
  /-- A field test waits for the block to be free of frame jobs (R392). -/
  testDue : Option (Ticket × BitVec 8)
  resetting : Bool
  running : Option Running
  /-- The lookahead queue (R117), head first. -/
  lookahead : List Fetched
  owed : Option OwedReplay
  collisions : BitVec 32
  arith : Counters
  window : Counters
  /-- Steps started since reset, and the step of the last residue-adder error (R373). -/
  steps : Nat
  adderError : Option Nat
  /-- Busy time in the tick period in progress, and over the last 16, by pipeline (24 for jobs) (R378, R400). -/
  busy : Tab Nat
  busyPast : List (Tab Nat)
  /-- Streaming pipelines whose threads are to be placed on it again after it was unfenced (R379). -/
  placeDue : List Nat
  deriving DecidableEq, Repr

/-- A block at reset. -/
def Block.reset : Block :=
  { threads := [], residents := [], rings := [], acc := [], accPoison := [], carry := [], events := 0, status := 0
    fenced := false, testing := false, testDue := none, resetting := false, running := none, lookahead := [], owed := none
    collisions := 0, arith := [], window := [], steps := 0, adderError := none, busy := [], busyPast := [], placeDue := [] }

/-! ## Regions (chapters 05, 10, 15) -/

/-- A line of a region's cache (R132). -/
structure CacheLine where
  addr : Nat
  data : List Byte
  dirty : Bool
  poison : Bool
  /-- Stamp of its last use (least recently used is replaced). -/
  used : Nat
  deriving DecidableEq, Repr

/-- A flush in progress (R134): its command, and the (region, line) pairs that were dirty at acceptance. -/
structure Flush where
  ticket : Ticket
  regions : BitVec 4
  lines : List (Nat × Nat)
  deriving DecidableEq, Repr

/-- A block taken out of its sets whose re-mapping is not complete (R377), with what R378 measures before it: LOAD_LIMIT; for
each block of the region its busy time over the last complete tick periods, by pipeline, key 25 holding their length; and
for each pipeline whose set holds the block, how many unfenced blocks the set had. -/
structure RemapDue where
  block : Nat
  time : Time
  limit : Nat
  busy : List (Tab Nat)
  sizes : List (Nat × Nat)
  deriving DecidableEq, Repr

/-- A region. -/
structure Region where
  poolRequest : BitVec 32
  poolWait : Option (BitVec 32)
  poolLive : BitVec 8
  /-- A quarter switch in progress: the modes to become live (R136). -/
  switching : Option (BitVec 8)
  cache : List CacheLine
  cacheClock : Nat
  poolCounters : Counters
  policy : BitVec 32
  policyWait : Option (BitVec 32)
  sluice : Counters
  dvfs : BitVec 32
  dvfsWait : Option (BitVec 32)
  /-- Steady divider, thermal limit: codes of Table 15-2. -/
  liveDiv : BitVec 2
  limit : BitVec 2
  /-- The limit moves slower at the next fen tick; fen ticks read cool in a row (R405). -/
  hot : Bool
  coolTicks : Nat
  droopClamped : Bool
  /-- The divider that R400 chose at the last fen tick, which the slack may not yet allow (R403). -/
  wantDiv : BitVec 2
  slack : BitVec 16
  /-- The divider in force when the slack was reported: it is against that period (R403). -/
  slackCode : BitVec 2
  /-- When a slack below GUARD_PS was last reported (R404). -/
  slackLow : Time
  tempMax : BitVec 8
  status : BitVec 32
  /-- The frame in which its post-processor last had an error (R374). -/
  detErrorFrame : Option (Nat × BitVec 32)
  /-- Fencings whose re-mapping is not complete (R377). -/
  remapDue : List RemapDue
  deriving DecidableEq, Repr

/-- A region at reset: POOL_CONFIG and LIVE_MODE 0x50 (quarters 2 and 3 CACHE), SLUICE_POLICY, DVFS_CONFIG. -/
def Region.reset : Region :=
  { poolRequest := 0x50#32, poolWait := none, poolLive := 0x50#8, switching := none, cache := [], cacheClock := 0
    poolCounters := [], policy := 0x0014_0358#32, policyWait := none, sluice := [], dvfs := 0x0046_0000#32
    dvfsWait := none, liveDiv := 0, limit := 0, hot := false, coolTicks := 0, droopClamped := false
    wantDiv := 0, slack := 0, slackCode := 0, slackLow := 0, tempMax := 0, status := 0, detErrorFrame := none, remapDue := [] }

/-! ## Sluice channels (chapter 10) -/

/-- Table 10-1. -/
inductive ChannelState where
  | idle
  | running
  | waiting
  | faulted
  | halted
  deriving DecidableEq, Repr

/-- An open loop of a program (R262). -/
structure OpenLoop where
  start : Nat
  count : BitVec 32
  iter : BitVec 32
  srcStride : Int
  dstStride : Int
  deriving DecidableEq, Repr

/-- Where a granule of a MOVE comes from or goes to, once its page is translated: local DRAM with the page's CACHEABLE, a host
address, a peer's window with the carr map entry that names it, an offset in the region's pool, or in a block's scratchpad. -/
inductive Dest where
  | dram (pa : Nat) (cacheable : Bool) (via : Nat × BitVec 64)
  | host (addr : Nat) (via : Nat × BitVec 64)
  | peer (dev win idx : Nat) (epoch : BitVec 16) (via : Nat × BitVec 64)
  | pool (a : Nat)
  | spad (b : Nat) (a : Nat)
  deriving DecidableEq, Repr

/-- What a MOVE reads and writes at once: a granule, or with a codec one row (R261). While source granules are still to come
from the host or a peer: its index, how many it takes, those that are here with their poison, and where each granule of what
comes out goes. -/
structure MoveUnit where
  index : Nat
  need : Nat
  got : List (Nat × List Byte × Bool)
  codec : Nat
  cw : Nat
  len0 : Nat
  dsts : List (List Dest)
  deriving DecidableEq, Repr

/-- A MOVE that is not complete (R266): its number and PC, units whose data is still to come, writes that a peer has still to
acknowledge. -/
structure MoveRun where
  serial : Nat
  pc : Nat
  units : List MoveUnit
  unacked : Nat
  /-- Its last granule has been issued. -/
  issued : Bool
  /-- Granules of a unit's row and the three counts: what the POSITION of a granule is taken from. -/
  dims : List Nat
  /-- The channel has halted since: a refusal of one of its granules halts nothing. -/
  ended : Bool
  deriving DecidableEq, Repr

/-- A block channel. -/
structure Channel where
  state : ChannelState
  status : BitVec 16
  pc : Nat
  ownerKind : BitVec 8
  owner : BitVec 32
  ringKind : BitVec 8
  ringOwner : BitVec 32
  vector : BitVec 16
  program : BitVec 64
  shapes : BitVec 64
  ticket : Option Ticket
  loops : List OpenLoop
  /-- Fetched instruction bursts: burst index, bytes (R255). -/
  bursts : List (Nat × List Byte)
  /-- Cached shape descriptors: index, bytes (R255). -/
  shapeCache : List (Nat × List Byte)
  waitKind : BitVec 8
  waitArg : BitVec 32
  waitN : BitVec 32
  waitUntil : BitVec 64
  waitSince : Time
  /-- MOVEs that are not complete, oldest first, and the number of the next one. -/
  moves : List MoveRun
  serial : Nat
  /-- The unit from which the MOVE at PC goes on after a page fault (R279). -/
  resume : Option Nat
  position : BitVec 64
  faultDst : Bool
  faultAddr : BitVec 36
  /-- A granule has faulted; the channel goes to FAULTED once those before it are complete (R277). -/
  faultDue : Bool
  faultTime : Time
  /-- PF_TIMEOUT_US after the fault (R280). -/
  faultUntil : Nat
  /-- FAULT_VECTOR as the fault took it, if FAULT_MSIX_EN was set (Table 10-12). -/
  faultMsix : Option (BitVec 11)
  /-- WATCHDOG_US as the wait in progress took it (Table 10-14). -/
  watchdog : Nat
  deriving DecidableEq, Repr

/-- A channel at reset: IDLE; WAIT_KIND 0xFF means none. -/
def Channel.reset : Channel :=
  { state := .idle, status := 0, pc := 0, ownerKind := 0, owner := 0, ringKind := 0, ringOwner := 0, vector := 0xFFFF
    program := 0, shapes := 0, ticket := none, loops := [], bursts := [], shapeCache := [], waitKind := 0xFF
    waitArg := 0, waitN := 0, waitUntil := 0, waitSince := 0, moves := [], serial := 0, resume := none, position := 0
    faultDst := false, faultAddr := 0, faultDue := false, faultTime := 0, faultUntil := 0, faultMsix := none, watchdog := 0 }

/-! ## Memory, carr map and PCIe (chapter 11) -/

/-- A stack of DRAM. -/
structure Stack where
  lastPoison : BitVec 35
  temp : BitVec 8
  scrubPos : Nat
  trained : Bool
  refresh2x : Bool
  counters : Counters
  deriving DecidableEq, Repr

/-- A stack at reset. -/
def Stack.reset : Stack := ⟨0, 0, 0, false, false, []⟩

/-- A host read in flight (R306): its tag; the channel, MOVE, unit and source granule that it serves; the carr map entry
that it was translated by; and whether a parity error has been found on its path (R276). -/
structure HostRead where
  tag : Nat
  channel : Nat
  serial : Nat
  unit : Nat
  part : Nat
  via : Nat × BitVec 64
  hit : Bool
  deriving DecidableEq, Repr

/-- A MAP_PAGES in progress (R303): its command, first entry, entries. -/
structure MapChange where
  ticket : Ticket
  first : Nat
  entries : List (BitVec 64)
  deriving DecidableEq, Repr

/-- An access from outside that has arrived while DRAM does not serve, and waits (R288, R406): through BAR 0, or on a Fovar
port. -/
inductive DramWait where
  | barWrite (offset : BitVec 36) (data : List Byte) (ep : Bool) (f : MemFindings)
  | barRead (offset : BitVec 36) (len : Nat) (f : MemFindings)
  /-- A peer's access that has been checked (R353), to a granule of DRAM, with the carr map entry that it was translated by. -/
  | peerWrite (granule : Nat) (x : LinkFrame) (f : MemFindings) (via : Nat × BitVec 64)
  | peerRead (granule : Nat) (x : LinkFrame) (f : MemFindings) (via : Nat × BitVec 64)
  /-- A frame of a collective. -/
  | coll (x : LinkFrame) (c : CollContent) (adder : List AdderSlip)
  deriving DecidableEq, Repr

/-- A frame that has arrived for the device itself, with what its command brings beside it. -/
inductive FovarFrame where
  | write (f : LinkFrame) (m : MemFindings)
  | readReq (f : LinkFrame) (m : MemFindings)
  | readData (f : LinkFrame)
  | ack (f : LinkFrame)
  | refuse (f : LinkFrame)
  | coll (f : LinkFrame) (c : CollContent) (adder : List AdderSlip)
  deriving DecidableEq, Repr

/-- A byte of the MSI-X table or the pending-bit array at reset: every vector masked (vector control bit 0), nothing pending
(PRESUMED, log 67). -/
def msixReset (o : Nat) : Byte := if o < 0x8000 ∧ o % 16 = 12 then 1 else 0

/-- Memory: DRAM, its poison, the carr map, the PCIe endpoint. -/
structure MemSys where
  dram : Memory
  /-- Poisoned granules of DRAM, ascending (R289). -/
  poison : List Nat
  config : BitVec 32
  /-- A waiting INTERLEAVE (R288). -/
  interleaveWait : Option (BitVec 2)
  /-- DRAM is being zeroed after a change of interleave; accesses wait (R288). -/
  zeroing : Bool
  /-- SCRUB_HOURS of the pass in progress. -/
  passHours : BitVec 8
  scrubNext : Nat
  /-- Corrections counted in each page's pass (R290). -/
  pageCe : Tab Nat
  dramStacks : Tab Stack
  /-- Carr map entries; an unlisted one holds its reset value (R298). -/
  carr : Tab (BitVec 64)
  /-- Entries that read uncorrectable (R301). -/
  carrBad : List Nat
  mapChanges : List MapChange
  pcieLink : Bool
  perstLow : Bool
  pcieCounters : Counters
  /-- The MSI-X table, pending bits (BAR 2, R307), by byte offset. -/
  msix : Tab Byte
  hostReads : List HostRead
  nextTag : Nat
  /-- Accesses that wait until DRAM serves again, oldest first (R288, R406). -/
  waiting : List DramWait
  deriving DecidableEq, Repr

/-- Memory at reset: MEM_CONFIG CE_LIMIT 16, SCRUB_HOURS 24, INTERLEAVE IL_4K. -/
def MemSys.reset : MemSys :=
  { dram := [], poison := [], config := 0x1000_1802#32, interleaveWait := none, zeroing := false, passHours := 24
    scrubNext := 0, pageCe := [], dramStacks := [], carr := [], carrBad := [], mapChanges := [], pcieLink := false
    perstLow := false, pcieCounters := [], msix := [], hostReads := [], nextTag := 0, waiting := [] }

/-- A carr map entry at reset (R298): below 131,072 VALID, LOCAL, READ, WRITE, PAGE = i; above, invalid. -/
def carrReset (i : Nat) : BitVec 64 :=
  if i < 131072 then BitVec.ofNat 64 (i * 2 ^ 18 + 0x19) else 0

/-! ## Mappings and jobs (chapters 06, 12) -/

/-- MAPPING_INFO.STATE (Table 06-16). -/
inductive MapState where
  | empty
  | loading
  | loaded
  deriving DecidableEq, Repr

/-- A mapping ID's entry: its image in the mapping store (R143). -/
structure Mapping where
  state : MapState
  regionMask : BitVec 4
  image : List Byte
  accElems : Nat
  carryEntries : Nat
  /-- An uncorrectable word in the store has made it unusable (R366). -/
  unusable : Bool
  deriving DecidableEq, Repr

/-- An empty mapping ID. -/
def Mapping.reset : Mapping := ⟨.empty, 0, [], 0, 0, false⟩

/-- A load in progress (R167), in order of acceptance. -/
structure MapLoad where
  ticket : Ticket
  id : Nat
  regionMask : BitVec 4
  addr : BitVec 64
  len : Nat
  /-- The image has been read (R143); the copy, or none where a page of it could not be read or is poisoned. -/
  copied : Bool
  image : Option (List Byte)
  deriving DecidableEq, Repr

/-- A placement in progress: residency copies are still to complete (R159, R172). -/
structure Placing where
  owner : Owner
  /-- IDs of the residencies that are still to be copied. -/
  copies : List (BitVec 32)
  deriving DecidableEq, Repr

/-- Where a standalone job stands (R20). -/
inductive JobState where
  | placing
  | held
  | running
  deriving DecidableEq, Repr

/-- A standalone job (R335). -/
structure Job where
  id : BitVec 32
  ticket : Ticket
  mapping : Nat
  region : Nat
  priority : Nat
  mask : BitVec 16
  check : Nat
  collision : BitVec 2
  created : Time
  state : JobState
  start : Time
  /-- The status that ends it, once it ends on an error or by cancellation (R323). -/
  endStatus : Option (BitVec 16)
  /-- The first class 0x03 status recorded against it, or 0. -/
  firstStatus : BitVec 16
  statusEvents : BitVec 16
  deriving DecidableEq, Repr

/-! ## Protocol and time (chapter 12) -/

/-- One queue's sequence state (R319, R320). -/
structure Queue where
  expected : BitVec 32
  stored : Option Packet
  outstanding : Nat
  deriving DecidableEq, Repr

/-- A queue after start-up. -/
def Queue.reset : Queue := ⟨0, none, 0⟩

/-- A port A session (R327, R328). -/
structure Session where
  addr : BitVec 32
  port : BitVec 16
  since : Time
  lastValid : Time
  /-- The peer's lease has run out (R328). -/
  lapsed : Bool
  deriving DecidableEq, Repr

/-- An Ethernet port. -/
structure Eth where
  net : Vector (BitVec 64) 4
  /-- The port has its settings and may run (Table 16-1). -/
  up : Bool
  link : Bool
  macsecUp : Bool
  counters : Counters
  queues : Tab Queue
  /-- The last 4,096 COMPLETION and EVENT packets, oldest first (R326, R388). -/
  ring : List Packet
  nextEvent : BitVec 32
  /-- Addresses resolved by ARP. -/
  arp : List (BitVec 32 × BitVec 48)
  /-- Datagrams being reassembled, and when each one's first fragment came (R312). -/
  reassembly : List (DatagramKey × Time)
  deriving DecidableEq, Repr

/-- An Ethernet port at reset: NET_CONFIG is read at start-up. -/
def Eth.reset : Eth :=
  { net := Vector.replicate 4 0, up := false, link := false, macsecUp := false, counters := [], queues := [], ring := []
    nextEvent := 0, arp := [], reassembly := [] }

/-- TIME_STATUS.STATE (Table 12-16). -/
inductive TimeState where
  | freeRun
  | synced
  | holdover
  | slewing
  deriving DecidableEq, Repr

/-- The time base (R314, R315). -/
structure TimeBase where
  state : TimeState
  /-- The last OFFSET in ns (device time minus gPTP time). -/
  offset : Int
  lastSync : Time
  syncInterval : BitVec 32
  /-- Rate correction in force, ppm. -/
  ratePpm : Int
  /-- Nanoseconds by which device time has stepped forward since PORST_N (R314). -/
  stepped : Nat
  config : BitVec 64
  fen0 : BitVec 64
  fen1 : BitVec 64
  deriving DecidableEq, Repr

/-- Reset: FEN_CONFIG 50,000,000 / 3 ns, phase 0; TIME_CONFIG MAX_PPM 500, STEP_THR_US 1,000. -/
def TimeBase.reset : TimeBase :=
  ⟨.freeRun, 0, 0, 0, 0, 0, 0x0000_0000_01F4_03E8#64, 0x02FA_F080_0000_0003#64, 0⟩

/-! ## Fovar link (chapter 13) -/

/-- FOVAR_STATUS.STATE (Table 13-10). -/
inductive FovarState where
  | disabled
  | training
  | up
  | down
  | miswired
  deriving DecidableEq, Repr

/-- A Fovar port. -/
structure FovarPort where
  state : FovarState
  neighbour : BitVec 3
  neighbourPort : BitVec 2
  at16 : Bool
  /-- The neighbour's last boot count, once known (R346, R351). -/
  boot : Option (BitVec 32)
  /-- The LINK_SEQ that is next in order, received and sent. -/
  rxSeq : BitVec 16
  txSeq : BitVec 16
  /-- Frames sent and not yet acknowledged by the neighbour (R349). -/
  replay : List LinkTx
  /-- Resends in a row of the oldest of them (R349). -/
  resends : Nat
  deriving DecidableEq, Repr

/-- A Fovar port at reset. -/
def FovarPort.reset : FovarPort := ⟨.disabled, 0, 0, false, none, 0, 0, [], 0⟩

/-- An exported window (R352). -/
structure Window where
  epoch : BitVec 16
  allow : BitVec 8
  perm : BitVec 2
  isOpen : Bool
  pagesM1 : BitVec 16
  base : BitVec 36
  deriving DecidableEq, Repr

/-- A window never opened. -/
def Window.reset : Window := ⟨0, 0, 0, false, 0, 0⟩

/-- What an access to a peer's window is for. -/
inductive PeerUse where
  /-- A granule of a channel's MOVE: which MOVE, unit and granule of the unit (R355). -/
  | move (c serial unit part : Nat)
  /-- A write of an output channel (R245), for a stripe where it is one's; whether it is of a coding row (R227). -/
  | output (p : Nat) (frame : BitVec 32) (stripe : Option Nat) (coding : Bool)
  /-- A staging write of a block's walker (R469). -/
  | walker (b : Nat) (o : Owner) (unit : BitVec 32 × Nat) (va : Nat)
  /-- Fallback data of a stripe, or a statistics packet. -/
  | front (p : Nat) (frame : BitVec 32) (stripe : Option Nat)
  /-- A write of the spine's engines: a report, the result of a collective. -/
  | spine
  /-- A read whose data the command that makes it brings with it (log 68). -/
  | early
  deriving DecidableEq, Repr

/-- A granule sent to a peer and not yet answered (R355). -/
structure PeerGranule where
  device : BitVec 3
  window : BitVec 6
  offset : BitVec 27
  isRead : Bool
  use : PeerUse
  /-- The carr map entry that it was translated by. -/
  via : Nat × BitVec 64
  /-- When it was sent. -/
  sentAt : Time
  /-- A parity error has been found on the path of its data (R276). -/
  hit : Bool
  deriving DecidableEq, Repr

/-- A transfer of a collective that has arrived whole: the words of a chunk or of a contribution (R358). -/
inductive CollData where
  /-- A partial chunk of a SUM, with the members whose words it includes. -/
  | partialSum (chunk : Nat) (includes : BitVec 8) (sums : List (BitVec 64))
  /-- A complete chunk of a SUM, in the all-gather. -/
  | wholeSum (chunk : Nat) (sums : List (BitVec 64))
  /-- A member's contribution (MAX, GATHER, BROADCAST). -/
  | contribution (member : Nat) (words : List (BitVec 32)) (poisoned : Bool)
  deriving DecidableEq, Repr

/-- A transfer under way from a device: what it is, its bytes so far, and whether a frame of it was poisoned. -/
structure CollPart where
  device : BitVec 3
  content : CollContent
  bytes : List Byte
  poisoned : Bool
  deriving DecidableEq, Repr

/-- A collective in a slot (R356 to R361). -/
structure Collective where
  ticket : Ticket
  id : BitVec 32
  op : BitVec 8
  members : BitVec 8
  root : BitVec 8
  len : BitVec 32
  timeoutUs : Nat
  seed : BitVec 64
  src : Nat
  dst : Nat
  /-- Devices that have joined. -/
  joined : BitVec 8
  started : Bool
  lastMove : Time
  /-- Each member's digests, one a chunk of its contribution. -/
  digests : List (Nat × List (BitVec 64))
  /-- Transfers that are arriving, one for each device. -/
  parts : List CollPart
  /-- Data that has arrived from a device and is not yet checked. -/
  held : List (BitVec 3 × CollData)
  /-- Complete chunks (SUM). -/
  whole : List (Nat × List (BitVec 64))
  /-- Contributions by member number: the device's own, and those received. -/
  contribs : List (Nat × List (BitVec 32))
  deriving DecidableEq, Repr

/-- A member's join that arrived before the device's own COLLECTIVE: device, COLL_ID[15:0], fields. -/
structure EarlyJoin where
  device : BitVec 3
  id : BitVec 16
  fields : CollContent
  deriving DecidableEq, Repr

/-- The Fovar link of the device. -/
structure Fovar where
  config : BitVec 32
  configWait : Option (BitVec 32)
  ports : Tab FovarPort
  windows : Tab Window
  counters : Counters
  sent : List PeerGranule
  /-- Next E2E_SEQ by destination, expected E2E_SEQ by source (R351). -/
  e2eTx : Tab (BitVec 16)
  e2eRx : Tab (BitVec 16)
  slots : Tab (Option Collective)
  joins : List EarlyJoin
  /-- Frames that have arrived ahead of the next of their pair (R351). -/
  ahead : List FovarFrame
  /-- ACKs of WINDOW_CLOSE commands that accesses checked before still hold back (R353). -/
  closeAcks : List Packet
  deriving DecidableEq, Repr

/-- Reset: FOVAR_CONFIG SIZE 2. -/
def Fovar.reset : Fovar :=
  { config := 2, configWait := none, ports := [], windows := [], counters := [], sent := [], e2eTx := [], e2eRx := []
    slots := [], joins := [], ahead := [], closeAcks := [] }

/-! ## Fault collector (chapter 14) -/

/-- A tussock record (Table 14-7); a field that does not apply is none and reads all ones. -/
structure Record where
  cls : BitVec 8
  concurrent : Bool
  capture : Bool
  pin : Bool
  seq : BitVec 32
  time : Time
  source : BitVec 16
  detector : BitVec 8
  outcome : BitVec 8
  region : Option Nat
  block : Option Nat
  cell : Option Nat
  pipeline : Option Nat
  frame : Option (BitVec 32)
  stripe : Option Nat
  status : BitVec 16
  address : Option (BitVec 64)
  address2 : Option (BitVec 64)
  fen : BitVec 64
  operandDigest : Option (BitVec 64)
  temp : BitVec 16
  voltage : BitVec 16
  aclkDiv : Option (BitVec 8)
  margin : BitVec 8
  hours : BitVec 32
  stress : BitVec 32
  eol : BitVec 32
  captureId : Option (BitVec 32)
  /-- Ports A and B send it, by the ALARM_CONFIG under which it was made (R388). -/
  toA : Bool
  toB : Bool
  /-- The command that completes once the record has its SEQ, and its data up to that (R392). -/
  reply : Option (Ticket × List Byte)
  deriving DecidableEq, Repr

/-- An operand capture (R391): its block, the checksum row, and the operands. -/
structure Capture where
  id : BitVec 32
  block : Nat
  r : Nat
  codes : OperandCodes
  deriving DecidableEq, Repr

/-- A suppression window (R385): the unit, and its end once the state has ended. -/
structure Suppression where
  unit : SuppressedUnit
  ends : Option Time
  deriving DecidableEq, Repr

/-- The fault collector. -/
structure Collector where
  /-- It runs, from stage 4 of Table 16-6, which a start-up from the flash reaches at `startsAt`. -/
  up : Bool
  startsAt : Time
  status : BitVec 64
  times : Tab (BitVec 64)
  alarmConfig : BitVec 32
  hold : Bool
  pinSeq : BitVec 32
  /-- ALARM_N is low; the minimum low time ends at `pinUntil` (R386). -/
  pinLow : Bool
  pinUntil : Time
  extFault : Bool
  /-- First EXT_FAULT_N assertion that passed before the collector ran (R457). -/
  extHeld : Option Time
  remapConfig : BitVec 32
  remapStatus : BitVec 32
  counters : Counters
  /-- Records made and not yet released (R383). -/
  held : List Record
  /-- The last 4,096 records, oldest first (R389). -/
  ring : List Record
  nextSeq : BitVec 32
  captures : List Capture
  nextCapture : BitVec 32
  suppressed : List Suppression
  /-- A temperature monitor has fired and is not yet re-armed, by location (Table 15-3). -/
  thermalFired : List Nat
  deriving DecidableEq, Repr

/-- Reset: ALARM_N low (R429), ALARM_CONFIG and REMAP_CONFIG at Table 14-13's values. -/
def Collector.reset : Collector :=
  { up := false, startsAt := 0, status := 0, times := [], alarmConfig := 0x2F2F_0004#32, hold := false, pinSeq := 0, pinLow := true
    pinUntil := 0, extFault := false, extHeld := none, remapConfig := 90, remapStatus := 0, counters := [], held := []
    ring := [], nextSeq := 0, captures := [], nextCapture := 0, suppressed := [], thermalFired := [] }

/-! ## Clocks, power, calibration, ageing (chapter 15) -/

/-- A switched power domain (R408, R409). -/
structure Domain where
  mode : BitVec 32
  modeWait : Option (BitVec 32)
  isOn : Bool
  switches : BitVec 16
  idleTicks : Nat
  /-- An AUTO block that work asked for and whose region was off at the last fen tick: it stays PENDING (R410). -/
  waits : Bool := false
  deriving DecidableEq, Repr

/-- Reset mode (Table 15-4): AUTO, but ON for the DRAM interfaces, the PCIe endpoint and port B. -/
def Domain.reset (i : Nat) : Domain :=
  { mode := if 92 ≤ i ∧ i ≤ 94 ∨ i = 99 then 1 else 0, modeWait := none, isOn := false
    switches := 0, idleTicks := 0 }

/-- Pins of the package as R450 gives them: by port, whether the pull-down of its inputs is enabled, the level of FSYNC, and whether SCL
and SDA are released; whether the xSPI outputs are driven; the level of XSPI_RESET_N. -/
structure Pins where
  pullDown : List Bool
  fsync : List Bool
  i2cReleased : List Bool
  xspiDriven : Bool
  xspiResetN : Bool
  deriving DecidableEq, Repr

/-- An ageing location (R420 to R424). -/
structure Location where
  temp : BitVec 16
  /-- The slack that its monitors report, at the operating point of now (MARGIN_PS). -/
  margin : BitVec 16
  /-- The corrected delay of its first measurement after manufacture, and the shift since then, in 1/16 ps (R420). -/
  firstDelay : Option Int
  deltaD : Int
  /-- Accumulated stress in 2^-40 hours. -/
  stress : Nat
  eol : BitVec 32
  eolLow : BitVec 32
  eolHigh : BitVec 32
  factoryMargin : BitVec 32
  /-- Stress in 2^-40 hours and delay shift in 1/16 ps of each measurement. -/
  fit : List (Nat × Int)
  warned : Bool
  deriving DecidableEq, Repr

/-- A location at reset: no prediction reads 0xFFFF_FFFF (R422). FACTORY_MARGIN is OTP's: 0, log 6. -/
def Location.reset : Location :=
  ⟨0, 0, none, 0, 0, 0xFFFF_FFFF, 0xFFFF_FFFF, 0xFFFF_FFFF, 0, [], false⟩

/-- A calibration run of the SerDes lanes: PCIe is 0, Fovar port n is n + 1. -/
structure LaneRun where
  running : Bool
  cause : Option CalCause
  /-- The temperature at its last run, in 1/8 degrees. -/
  temp : BitVec 16
  deriving DecidableEq, Repr

/-- No run. -/
def LaneRun.reset : LaneRun := ⟨false, none, 0⟩

/-- One RUN_CALIBRATION command that names several ports or lanes: what is still to apply (R419). -/
structure CalCommand where
  ticket : Ticket
  target : BitVec 8
  index : BitVec 8
  waiting : List Nat
  calibrated : Nat
  worst : BitVec 8
  deriving DecidableEq, Repr

/-- Clocks, supply, power, calibration and ageing. -/
structure Health where
  /-- CLOCK_STATUS LOCK, REF_OK, BACKUP. -/
  lock : BitVec 4
  refOk : Bool
  backup : Bool
  voltageConfig : BitVec 32
  targetMv : Nat
  readbackMv : BitVec 16
  senseMv : BitVec 16
  avsFault : Bool
  avsFails : Nat
  thermalConfig : BitVec 32
  domains : Tab Domain
  powerConfig : BitVec 32
  powerConfigWait : Option (BitVec 32)
  clockCounters : Counters
  calConfig : BitVec 32
  lanes : Tab Lane
  laneRuns : Tab LaneRun
  calCommands : List CalCommand
  ageConfig : BitVec 32
  locations : Tab Location
  hours : BitVec 32
  deriving DecidableEq, Repr

/-- Reset values of Table 15-6. -/
def Health.reset : Health :=
  { lock := 0, refOk := false, backup := false, voltageConfig := 0x0005_1400#32, targetMv := 750, readbackMv := 0
    senseMv := 0, avsFault := false, avsFails := 0, thermalConfig := 0x0000_7D78#32, domains := [], powerConfig := 60
    powerConfigWait := none, clockCounters := [], calConfig := 0x000A_0801#32, lanes := [], laneRuns := []
    calCommands := [], ageConfig := 0x000A_000F#32, locations := [], hours := 0 }

/-! ## Start-up and firmware (chapter 16) -/

/-- Where start-up stands (Table 16-6). -/
inductive Phase where
  /-- PORST_N is low. -/
  | reset
  /-- The ROM, after both slots were refused or for a network boot; `waiting` accepts a network image (R437). -/
  | rom (waiting : Bool)
  /-- An image is verified; stages 4 and 5 run. -/
  | starting
  /-- Command-ready. -/
  | ready
  deriving DecidableEq, Repr

/-- What the image header and checks of R434 leave of an image. -/
structure ImageInfo where
  keySet : Nat
  secVersion : Nat
  stateFormat : BitVec 32
  build : BitVec 64
  revoke : BitVec 4
  digest : BitVec 512
  deriving DecidableEq, Repr

/-- What the last check left of a slot (Table 16-12, STATE; it reads LOADING while a load of it is outstanding). -/
inductive SlotState where
  | empty
  | valid
  | refused
  deriving DecidableEq, Repr

/-- A flash slot: its bytes and what is known of them. -/
structure Slot where
  image : List Byte
  state : SlotState
  lastStatus : BitVec 16
  info : Option ImageInfo
  deriving DecidableEq, Repr

/-- An erased slot. -/
def Slot.reset : Slot := ⟨[], .empty, 0, none⟩

/-- Where an image came from (BOOT_STATUS.SOURCE). -/
inductive ImageSource where
  | slot (i : Nat)
  | network
  deriving DecidableEq, Repr

/-- What a microcode bank holds: where its image came from and what that says of itself, and its microcode section (R434). -/
structure Bank where
  source : ImageSource
  info : ImageInfo
  microcode : List Byte
  deriving DecidableEq, Repr

/-- A FIRMWARE_LOAD in progress. -/
structure FwLoad where
  ticket : Ticket
  target : BitVec 8
  slot : Nat
  len : Nat
  source : BitVec 64
  deriving DecidableEq, Repr

/-- A FIRMWARE_ACTIVATE in progress: verifying, or its switch armed (R441). -/
structure FwActivate where
  ticket : Ticket
  slot : Nat
  advance : Bool
  armed : Bool
  /-- The switch is to be followed by a reset of the spine tables (R441, step 2). -/
  resetTables : Bool
  deriving DecidableEq, Repr

/-- An ATTEST in progress (R445). -/
structure AttestRun where
  ticket : Ticket
  nonce : List Byte
  dest : BitVec 64
  cert : Bool
  deriving DecidableEq, Repr

/-- The OTP (R443). -/
structure Otp where
  secret : BitVec 256
  /-- (Ed25519 key hash, ML-DSA key hash) of key sets 0 to 3; all ones is absent. -/
  keys : Tab (BitVec 512 × BitVec 512)
  revoked : BitVec 4
  rollback : Nat
  macs : Vector (BitVec 48) 2
  serial : BitVec 128
  grade : BitVec 8
  stepping : BitVec 8
  deriving DecidableEq, Repr

/-- An absent key set: both hashes all ones (R443). -/
def otpKeyAbsent : Nat → BitVec 512 × BitVec 512 := fun _ => (BitVec.allOnes 512, BitVec.allOnes 512)

/-- A blank OTP (log 6). -/
def Otp.reset : Otp := ⟨0, [], 0, 0, Vector.replicate 2 0, 0, 0, 0⟩

/-- The age area of the flash (R423): operating hours, and each location's stress and fit data. -/
structure AgeArea where
  hours : BitVec 32
  stress : Tab Nat
  firstDelay : Tab (Option Int)
  fit : Tab (List (Nat × Int))
  deriving DecidableEq, Repr

/-- Flash, OTP and firmware. -/
structure Firmware where
  otp : Otp
  slots : Tab Slot
  /-- Boot control record copies 0 and 1 (R431), network settings block copies 0 and 1 (R432), as stored. -/
  bootRecords : Vector (List Byte) 2
  netBlocks : Vector (List Byte) 2
  certificate : List Byte
  ageArea : AgeArea
  bootCount : BitVec 32
  banks : Tab (Option Bank)
  activeBank : Nat
  bootRefusal : BitVec 16
  readyMs : BitVec 16
  netSettings : BitVec 2
  source : BitVec 2
  fallback : Bool
  load : Option FwLoad
  activate : Option FwActivate
  attests : List AttestRun
  /-- A network image as received so far, its length, and the chunk whose command is outstanding (R437). -/
  netImage : List Byte
  netLen : Nat
  netTicket : Option Ticket
  /-- Images refused at start-up whose records wait for the collector: status and time (R436). -/
  refusals : List (BitVec 16 × Time)
  /-- The network settings block in use, as stored; empty for defaults (Table 16-10). -/
  netInUse : List Byte
  /-- When the last switch of banks ends (R442). -/
  switchEnd : Time
  deriving DecidableEq, Repr

/-- Blank flash and OTP (log 6). -/
def Firmware.reset : Firmware :=
  { otp := .reset, slots := [], bootRecords := Vector.replicate 2 [], netBlocks := Vector.replicate 2 []
    certificate := [], ageArea := ⟨0, [], [], []⟩, bootCount := 0, banks := [], activeBank := 0, bootRefusal := 0, readyMs := 0, netSettings := 0
    source := 0, fallback := false, load := none, activate := none, attests := [], netImage := [], netLen := 0, netTicket := none
    refusals := [], netInUse := [], switchEnd := 0 }

/-! ## The whole device -/

/-- The AQ24. -/
structure State where
  /-- Commands waiting, first in, first out: the model's own field. -/
  pending : List Instr
  /-- What the last command put on the interfaces: the model's own field. -/
  out : List Output
  /-- How many free values have been taken: the model's own field (log 2). -/
  fresh : Nat
  phase : Phase
  time : Time
  straps : Straps
  base : TimeBase
  session : Option Session
  eth : Tab Eth
  /-- The sequencers are resynchronising (R367). -/
  resync : Bool
  pipes : Tab Pipe
  ports : Tab Port
  herons : Tab Heron
  blocks : Tab Block
  regions : Tab Region
  channels : Tab Channel
  /-- Scratchpads, by 0x30_0000 × block + offset; pools, by 0x100_0000 × region + offset. -/
  spad : Memory
  spadPoison : List Nat
  pool : Memory
  poolPoison : List Nat
  flushes : List Flush
  /-- COLLISION_MODE index 24 (R129). -/
  jobCollision : BitVec 32
  sluiceConfig : BitVec 64
  /-- Earlier values of WATCHDOG_US with the time at which each was replaced, latest first: a wait keeps the value of its start
  (Table 10-12). -/
  watchdogWas : List (Time × Nat)
  mem : MemSys
  mappings : Tab Mapping
  loads : List MapLoad
  placings : List Placing
  jobs : List Job
  nextJob : BitVec 32
  faults : Collector
  health : Health
  fovar : Fovar
  fw : Firmware
  deriving DecidableEq, Repr

/-- The AQ24 right after reset: PORST_N low, every register at its reset value, no command waiting (R429). -/
def State.reset : State :=
  { pending := [], out := [], fresh := 0, phase := .reset, time := 0, straps := ⟨0, 0, false⟩, base := .reset
    session := none, eth := [], resync := false, pipes := [], ports := [], herons := [], blocks := [], regions := []
    channels := [], spad := [], spadPoison := [], pool := [], poolPoison := [], flushes := [], jobCollision := 0
    sluiceConfig := 0x0000_0040_0000_03E8#64, watchdogWas := [], mem := .reset, mappings := [], loads := [], placings := [], jobs := []
    nextJob := 1, faults := .reset, health := .reset, fovar := .reset, fw := .reset }

end Sys2Proof.Machine
end

