-- ==== Sys2Proof/Machine/Ops.lean ====
section
/-!
DEFINITION. The operations every family of commands shares: bit fields and byte order, the two CRCs, the pieces of the
state by index, saturating counters, device time and the fen tick, and the Lysil packets the device sends.
-/

namespace List

/-- The elements of a list without repeats, each at its first place. -/
def uniq {α : Type} [DecidableEq α] : List α → List α := List.foldl (fun acc x => if x ∈ acc then acc else acc ++ [x]) []

/-- Put an element before the first that it may precede. -/
def insertBy {α : Type} (r : α → α → Bool) (x : α) : List α → List α
  | [] => [x]
  | y :: t => if r x y then x :: y :: t else y :: insertBy r x t

/-- A list in order: elements that may precede each other keep their places. -/
def sortBy {α : Type} (r : α → α → Bool) : List α → List α := List.foldr (insertBy r) []

end List

namespace Sys2Proof.Machine

open Sys2Proof

/-- The outcome of a command. -/
abbrev Result := Host.Outcome State Fault Refusal

/-! ## Bit fields and byte order -/

/-- Field [hi:lo] of a value. -/
def fld (hi lo v : Nat) : Nat := v / 2 ^ lo % 2 ^ (hi + 1 - lo)

/-- Field [hi:lo] of a register. -/
def bits {w : Nat} (hi lo : Nat) (v : BitVec w) : Nat := fld hi lo v.toNat

/-- A value of `w` bits read as two's complement. -/
def toSigned (w v : Nat) : Int := if v < 2 ^ (w - 1) then (v : Int) else (v : Int) - 2 ^ w

/-- Keep the bits of a written value that the field map does not reserve (R4: a reserved field reads 0). -/
def maskTo {w : Nat} (mask : Nat) (v : Nat) : BitVec w := BitVec.ofNat w (v &&& mask)

/-- The `n` bytes of a value, least significant first (R3). -/
def leBytes : Nat → Nat → List Byte
  | 0, _ => []
  | n + 1, v => BitVec.ofNat 8 v :: leBytes n (v / 256)

/-- The value of a run of bytes, least significant first (R3). -/
def ofLe : List Byte → Nat
  | [] => 0
  | b :: t => b.toNat + 256 * ofLe t

/-- `n` bytes from position `o`. -/
def slice {α : Type} (l : List α) (o n : Nat) : List α := (l.drop o).take n

/-- The value of the `n` bytes at position `o`. -/
def le (l : List Byte) (o n : Nat) : Nat := ofLe (slice l o n)

/-- A run of zero bytes (reserved fields read 0). -/
def zeros (n : Nat) : List Byte := List.replicate n 0

/-- A value's words of 32 bits, low first. -/
def toWords : Nat → Nat → Words
  | 0, _ => []
  | n + 1, v => BitVec.ofNat 32 v :: toWords n (v / 2 ^ 32)

/-- The value of a run of words, low first. -/
def ofWords : Words → Nat
  | [] => 0
  | w :: t => w.toNat + 2 ^ 32 * ofWords t

/-- The bytes of a run of words. -/
def wordBytes (ws : Words) : List Byte := ws.flatMap fun w => leBytes 4 w.toNat

/-! ## CRCs (R466) -/

/-- One reflected step per bit of a byte. -/
def crcBits {w : Nat} (poly : BitVec w) : Nat → BitVec w → BitVec w
  | 0, c => c
  | n + 1, c => crcBits poly n (if c.getLsbD 0 then (c >>> 1) ^^^ poly else c >>> 1)

/-- A reflected CRC over bytes in order, from a running value. -/
def crcRun {w : Nat} (poly : BitVec w) (c : BitVec w) : List Byte → BitVec w
  | [] => c
  | b :: t => crcRun poly (crcBits poly 8 (c ^^^ b.setWidth w)) t

/-- CRC-32C: polynomial 0x1EDC_6F41, reflected; initial value and final XOR all ones (R466). -/
def crc32c (l : List Byte) : BitVec 32 := ~~~ (crcRun 0x82F6_3B78#32 (BitVec.allOnes 32) l)

/-- CRC-64 (ECMA-182): polynomial 0x42F0_E1EB_A9EA_3693, reflected; initial value and final XOR all ones (R466). -/
def crc64 (l : List Byte) : BitVec 64 := ~~~ (crcRun 0xC96C_5795_D787_0F42#64 (BitVec.allOnes 64) l)

/-! ## Counters -/

/-- A counter word. -/
def Counters.get (c : Counters) (w : Nat) : BitVec 32 := Tab.get (fun _ => 0) c w

/-- Add to a counter word, which saturates at 0xFFFF_FFFF (R53, R342, R310, R395 and their like). -/
def Counters.add (c : Counters) (w n : Nat) : Counters :=
  Tab.set (fun _ => 0) c w (BitVec.ofNat 32 (min (2 ^ 32 - 1) ((Counters.get c w).toNat + n)))

/-- Count once. -/
def Counters.bump (c : Counters) (w : Nat) : Counters := Counters.add c w 1

/-- Keep the largest value seen in a counter word. -/
def Counters.raise (c : Counters) (w n : Nat) : Counters :=
  if (Counters.get c w).toNat < n then Tab.set (fun _ => 0) c w (BitVec.ofNat 32 (min (2 ^ 32 - 1) n)) else c

/-- The first `n` words of a counter block. -/
def Counters.words (c : Counters) (n : Nat) : Words := (List.range n).map (Counters.get c)

/-- A saturating 16-bit count. -/
def sat16 (v : BitVec 16) (n : Nat := 1) : BitVec 16 := BitVec.ofNat 16 (min 0xFFFF (v.toNat + n))

/-- A saturating 32-bit count. -/
def sat32 (v : BitVec 32) (n : Nat := 1) : BitVec 32 := BitVec.ofNat 32 (min 0xFFFF_FFFF (v.toNat + n))

/-! ## The pieces of the state by index -/

/-- The index of an Ethernet port: 0 for A, 1 for B (R341). -/
def ethIdx : EthPort → Nat
  | .a => 0
  | .b => 1

def State.ethOf (s : State) (e : EthPort) : Eth := Tab.get (fun _ => Eth.reset) s.eth (ethIdx e)
def State.setEth (s : State) (e : EthPort) (v : Eth) : State :=
  { s with eth := Tab.set (fun _ => Eth.reset) s.eth (ethIdx e) v }
def Eth.queue (e : Eth) (q : Nat) : Queue := Tab.get (fun _ => Queue.reset) e.queues q
def Eth.setQueue (e : Eth) (q : Nat) (v : Queue) : Eth :=
  { e with queues := Tab.set (fun _ => Queue.reset) e.queues q v }
def State.pipe (s : State) (p : Nat) : Pipe := Tab.get Pipe.reset s.pipes p
def State.setPipe (s : State) (p : Nat) (v : Pipe) : State := { s with pipes := Tab.set Pipe.reset s.pipes p v }
def State.updPipe (s : State) (p : Nat) (f : Pipe → Pipe) : State := s.setPipe p (f (s.pipe p))
def State.port (s : State) (p : Nat) : Port := Tab.get (fun _ => Port.reset) s.ports p
def State.setPort (s : State) (p : Nat) (v : Port) : State :=
  { s with ports := Tab.set (fun _ => Port.reset) s.ports p v }
def State.updPort (s : State) (p : Nat) (f : Port → Port) : State := s.setPort p (f (s.port p))
def State.heron (s : State) (h : Nat) : Heron := Tab.get (fun _ => Heron.reset) s.herons h
def State.setHeron (s : State) (h : Nat) (v : Heron) : State :=
  { s with herons := Tab.set (fun _ => Heron.reset) s.herons h v }
def State.block (s : State) (b : Nat) : Block := Tab.get (fun _ => Block.reset) s.blocks b
def State.setBlock (s : State) (b : Nat) (v : Block) : State :=
  { s with blocks := Tab.set (fun _ => Block.reset) s.blocks b v }
def State.updBlock (s : State) (b : Nat) (f : Block → Block) : State := s.setBlock b (f (s.block b))
def State.region (s : State) (r : Nat) : Region := Tab.get (fun _ => Region.reset) s.regions r
def State.setRegion (s : State) (r : Nat) (v : Region) : State :=
  { s with regions := Tab.set (fun _ => Region.reset) s.regions r v }
def State.updRegion (s : State) (r : Nat) (f : Region → Region) : State := s.setRegion r (f (s.region r))
def State.channel (s : State) (c : Nat) : Channel := Tab.get (fun _ => Channel.reset) s.channels c
def State.setChannel (s : State) (c : Nat) (v : Channel) : State :=
  { s with channels := Tab.set (fun _ => Channel.reset) s.channels c v }
def State.updChannel (s : State) (c : Nat) (f : Channel → Channel) : State := s.setChannel c (f (s.channel c))
def State.mapping (s : State) (m : Nat) : Mapping := Tab.get (fun _ => Mapping.reset) s.mappings m
def State.setMapping (s : State) (m : Nat) (v : Mapping) : State :=
  { s with mappings := Tab.set (fun _ => Mapping.reset) s.mappings m v }
def State.dramStack (s : State) (k : Nat) : Stack := Tab.get (fun _ => Stack.reset) s.mem.dramStacks k
def State.setDramStack (s : State) (k : Nat) (v : Stack) : State :=
  { s with mem := { s.mem with dramStacks := Tab.set (fun _ => Stack.reset) s.mem.dramStacks k v } }
def State.domain (s : State) (d : Nat) : Domain := Tab.get Domain.reset s.health.domains d
def State.setDomain (s : State) (d : Nat) (v : Domain) : State :=
  { s with health := { s.health with domains := Tab.set Domain.reset s.health.domains d v } }
def State.location (s : State) (l : Nat) : Location := Tab.get (fun _ => Location.reset) s.health.locations l
def State.setLocation (s : State) (l : Nat) (v : Location) : State :=
  { s with health := { s.health with locations := Tab.set (fun _ => Location.reset) s.health.locations l v } }
def State.fovarPort (s : State) (n : Nat) : FovarPort := Tab.get (fun _ => FovarPort.reset) s.fovar.ports n
def State.setFovarPort (s : State) (n : Nat) (v : FovarPort) : State :=
  { s with fovar := { s.fovar with ports := Tab.set (fun _ => FovarPort.reset) s.fovar.ports n v } }
def State.window (s : State) (w : Nat) : Window := Tab.get (fun _ => Window.reset) s.fovar.windows w
def State.setWindow (s : State) (w : Nat) (v : Window) : State :=
  { s with fovar := { s.fovar with windows := Tab.set (fun _ => Window.reset) s.fovar.windows w v } }
def State.collSlot (s : State) (k : Nat) : Option Collective := Tab.get (fun _ => none) s.fovar.slots k
def State.setCollSlot (s : State) (k : Nat) (v : Option Collective) : State :=
  { s with fovar := { s.fovar with slots := Tab.set (fun _ => none) s.fovar.slots k v } }
def State.fwSlot (s : State) (k : Nat) : Slot := Tab.get (fun _ => Slot.reset) s.fw.slots k
def State.setFwSlot (s : State) (k : Nat) (v : Slot) : State :=
  { s with fw := { s.fw with slots := Tab.set (fun _ => Slot.reset) s.fw.slots k v } }
def State.bank (s : State) (k : Nat) : Option Bank := Tab.get (fun _ => none) s.fw.banks k
def State.setBank (s : State) (k : Nat) (v : Option Bank) : State :=
  { s with fw := { s.fw with banks := Tab.set (fun _ => none) s.fw.banks k v } }
def Block.ring (b : Block) (i : Nat) : Option Ring := Tab.get (fun _ => none) b.rings i
def Block.setRing (b : Block) (i : Nat) (v : Option Ring) : Block :=
  { b with rings := Tab.set (fun _ => none) b.rings i v }

/-- All indices below `n` that satisfy a test. -/
def indices (n : Nat) (p : Nat → Bool) : List Nat := (List.range n).filter p

/-- Run an update for each index of a list, in order. -/
def forEach {α : Type} (l : List α) (f : α → State → State) (s : State) : State := l.foldl (fun s x => f x s) s

/-! ## Time (R7, R9, R315) -/

/-- A command takes place at time `t`: device time never steps backward (R314), and what the last command put on the
interfaces is gone (log 1). While a MAP_PAGES is in progress, each command's translations choose anew (R303, log 2). -/
def State.begin (s : State) (t : Time) : State :=
  { s with time := if s.time.toNat < t.toNat then t else s.time, out := []
           fresh := if s.mem.mapChanges.isEmpty then s.fresh else s.fresh + 1 }

/-- Put something on an interface. -/
def State.send (s : State) (o : Output) : State := { s with out := s.out ++ [o] }

/-- NUM_NS, DEN and PHASE_NS of FEN_CONFIG (Table 12-16). -/
def TimeBase.num (b : TimeBase) : Nat := bits 63 32 b.fen0
def TimeBase.den (b : TimeBase) : Nat := bits 31 0 b.fen0
def TimeBase.phase (b : TimeBase) : Nat := bits 31 0 b.fen1

/-- Fen tick `n` falls at ⌊n × NUM_NS / DEN⌋ + PHASE_NS (R315). -/
def TimeBase.tickTime (b : TimeBase) (n : Nat) : Nat := n * b.num / b.den + b.phase

/-- The largest `n` whose tick time is not later than `t`; 0 before tick 0 (R315). -/
def TimeBase.tickNumber (b : TimeBase) (t : Nat) : Nat :=
  if t < b.phase then 0 else ((t - b.phase + 1) * b.den - 1) / b.num

/-- Device time as a number. -/
def State.now (s : State) : Nat := s.time.toNat

/-- Frame `a` is later than frame `b` (R8). -/
def frameLater (a b : BitVec 32) : Bool := 1 ≤ (a - b).toNat && (a - b).toNat ≤ 2 ^ 31 - 1

/-! ## Status codes (Table 12-10) -/

namespace Code
def ok : BitVec 16 := 0x0000
def accepted : BitVec 16 := 0x0001
def badOpcode : BitVec 16 := 0x0101
def badLength : BitVec 16 := 0x0102
def badCrc : BitVec 16 := 0x0103
def queueFull : BitVec 16 := 0x0104
def notPermitted : BitVec 16 := 0x0105
def staleSequence : BitVec 16 := 0x0106
def tooLate : BitVec 16 := 0x0107
def sluiceMisaligned : BitVec 16 := 0x0201
def bufferOvercommit : BitVec 16 := 0x0202
def accOvercommit : BitVec 16 := 0x0203
def filterTooLarge : BitVec 16 := 0x0204
def emptyOutput : BitVec 16 := 0x0205
def scaleGroupStraddle : BitVec 16 := 0x0206
def ringCycle : BitVec 16 := 0x0207
def portShared : BitVec 16 := 0x0208
def bankPlanConflict : BitVec 16 := 0x0209
def loopDepth : BitVec 16 := 0x020A
def tileTooLarge : BitVec 16 := 0x020B
def poisonConsumed : BitVec 16 := 0x0301
def deadlineMissed : BitVec 16 := 0x0302
def streamDeadlock : BitVec 16 := 0x0303
def pageFaultTimeout : BitVec 16 := 0x0304
def bankCollision : BitVec 16 := 0x0305
def checkMismatch : BitVec 16 := 0x0306
def windowClosed : BitVec 16 := 0x0307
def digestMismatch : BitVec 16 := 0x0308
def blockFenced : BitVec 16 := 0x0309
def scaleReplayed : BitVec 16 := 0x030A
def jobCancelled : BitVec 16 := 0x030B
def sigEd25519Fail : BitVec 16 := 0x0401
def sigMldsaFail : BitVec 16 := 0x0402
def rollback : BitVec 16 := 0x0403
def imageCorrupt : BitVec 16 := 0x0404
end Code

/-- An event whose condition does not hold has no effect (log 7). -/
def State.onlyIf (s : State) (c : Bool) (f : State → State) : State := if c then f s else s

/-- Time since the release of PORST_N, when device time was 0: device time less its steps (R314). -/
def State.sinceRelease (s : State) : Nat := s.now - s.base.stepped

/-! ## Packets (R316, R322, R325 to R327, R330, R388) -/

/-- IPV4_ADDR, PEER_ADDR and their like of NET_CONFIG (Table 12-14). -/
def Eth.ipv4 (e : Eth) : Nat := bits 63 32 e.net[0]
def Eth.udpPort (e : Eth) : Nat := bits 15 0 e.net[0]
def Eth.peerAddr (e : Eth) : Nat := bits 31 0 e.net[1]
def Eth.peerPort (e : Eth) : Nat := bits 63 48 e.net[2]
def Eth.leaseMs (e : Eth) : Nat := bits 47 32 e.net[2]
def Eth.vid (e : Eth) : Nat := bits 27 16 e.net[2]
def Eth.pcp (e : Eth) : Nat := bits 15 13 e.net[2]
def Eth.prefixLen (e : Eth) : Nat := bits 31 24 e.net[0]
def Eth.gateway (e : Eth) : Nat := bits 63 32 e.net[1]
def Eth.macsecEn (e : Eth) : Bool := e.net[2].getLsbD 5
/-- Frames other than EAPOL and gPTP pass the port: its link is up and, with MACsec required, its secure channel stands (Table 12-1). -/
def Eth.sends (e : Eth) : Bool := e.link && (!e.macsecEn || e.macsecUp)
def Eth.jumbo (e : Eth) : Bool := e.net[2].getLsbD 4
def Eth.gptp (e : Eth) : Bool := e.net[2].getLsbD 3

/-- The header of Table 12-2 and the data of a packet. -/
def Packet.bytes (p : Packet) : List Byte :=
  leBytes 2 0x4151 ++ [1, p.queue] ++ leBytes 4 p.seq.toNat ++ leBytes 2 p.opcode.toNat ++ leBytes 2 p.flags.toNat
    ++ leBytes 2 p.data.length ++ leBytes 2 p.status.toNat ++ leBytes 4 p.tag.toNat ++ leBytes 8 p.time.toNat
    ++ leBytes 4 p.eventSeq.toNat ++ p.data

/-- The tag of a port's frames (Table 12-1): its VID and PCP, no tag where VID is 0; protected by MACsec where the port
requires it. -/
def Eth.tag (e : Eth) : FrameTag :=
  { vlan := if e.vid = 0 then none else some (BitVec.ofNat 12 e.vid, BitVec.ofNat 3 e.pcp), secured := e.macsecEn }

/-- A packet as it leaves a port: tagged, its CRC-32C over header and data after them (R316). -/
def Eth.packetOut (e : Eth) (p : Packet) : Output := .packet e.tag p (crc32c p.bytes)

/-- Where a frame for an address goes next (RFC 826): the address itself inside the port's prefix, else the gateway. -/
def Eth.nextHop (e : Eth) (dst : BitVec 32) : BitVec 32 :=
  let n := 2 ^ (32 - e.prefixLen)
  if dst.toNat / n = e.ipv4 / n ∨ e.gateway = 0 then dst else BitVec.ofNat 32 e.gateway

/-- A packet that is not an ACK leaves its port; where its next hop is not resolved, an ARP request for it leaves first
(Table 12-1; log 95). -/
def State.sendResolved (s : State) (p : Packet) : State :=
  let e := s.ethOf p.port
  let hop := e.nextHop p.dstAddr
  (s.onlyIf (!e.arp.any fun a => a.1 == hop) fun s => s.send (.arp p.port e.tag false hop 0)).send (e.packetOut p)

/-- Where a port's COMPLETION and EVENT packets go now, if anywhere: the session peer on port A (R327), the given
address on port B (R330, R388); nowhere while the link is down (R326, R388), or before MACsec's secure channel stands. -/
def State.destination (s : State) (e : EthPort) (addr : BitVec 32) (port : BitVec 16) :
    Option (BitVec 32 × BitVec 16) :=
  if (s.ethOf e).sends then
    match e with
    | .a => s.session.map fun x => (x.addr, x.port)
    | .b => if addr = 0 then none else some (addr, port)
  else none

/-- Make a COMPLETION or EVENT: number it, keep it in the port's ring of 4,096, and send it where it goes. -/
def State.post (s : State) (p : Packet) : State :=
  let e := s.ethOf p.port
  let d := s.destination p.port p.dstAddr p.dstPort
  let q := { p with time := s.time, eventSeq := e.nextEvent
                    dstAddr := (d.getD (0, 0)).1, dstPort := (d.getD (0, 0)).2 }
  let ring := e.ring ++ [q]
  let s := s.setEth p.port { e with ring := ring.drop (ring.length - 4096), nextEvent := e.nextEvent + 1 }
  if d.isSome then s.sendResolved q else s

/-- A port's EVENT packet (R322, R338): QUEUE 0xFF, SEQUENCE, STATUS and TAG 0. -/
def State.event (s : State) (e : EthPort) (code : BitVec 16) (data : List Byte) : State :=
  s.post { port := e, dstAddr := BitVec.ofNat 32 (s.ethOf e).peerAddr, dstPort := BitVec.ofNat 16 (s.ethOf e).peerPort
           queue := 0xFF, seq := 0, opcode := code, flags := 3, status := 0, tag := 0, time := 0, eventSeq := 0
           data := data }

/-- A long command completes (R321, R322): one COMPLETION, and it is outstanding no longer. -/
def State.complete (s : State) (k : Ticket) (status : BitVec 16) (data : List Byte) : State :=
  let e := s.ethOf k.port
  let q := e.queue k.queue.toNat
  let s := s.setEth k.port (e.setQueue k.queue.toNat { q with outstanding := q.outstanding - 1 })
  s.post { port := k.port, dstAddr := k.srcAddr, dstPort := k.srcPort, queue := k.queue, seq := k.seq
           opcode := k.opcode, flags := 2, status := status, tag := k.tag, time := 0, eventSeq := 0, data := data }

/-- Complete a command that may have no requester. -/
def State.completeOpt (s : State) (k : Option Ticket) (status : BitVec 16) (data : List Byte) : State :=
  match k with
  | some k => s.complete k status data
  | none => s

/-! ## Free values (log 2) -/

/-- Take a fresh free value. -/
def State.free (s : State) : BitVec 512 × State := (Config.freeBits s.fresh, { s with fresh := s.fresh + 1 })

/-- A command of the device that is live only at command-ready: otherwise only time passes (log 7). -/
def whenReady (t : Time) (body : State → State) (s : State) : Result :=
  .next (if s.phase = .ready then body (s.begin t) else s.begin t)

end Sys2Proof.Machine
end

