-- ==== Sys2Proof/Machine/Flags.lean ====
section
/-!
DEFINITION. The flag computations of the AQ24: the block, region and chip status words with their error lines (R381),
and the making of a fault record by the collector: its class (R380), its suppression (R385), the bittern pin (R386),
its fields (R390), and its bytes (Table 14-7).
-/

namespace Sys2Proof.Machine

open Sys2Proof

/-! ## Detectors -/

/-- Where a detector lies (R382): a cell, a block, a region, or a chip unit by its chip status bit and unit number. -/
inductive Site where
  | cell (b c : Nat)
  | block (b : Nat)
  | region (r : Nat)
  | chip (bit unit : Nat)
  deriving DecidableEq, Repr

/-- Source ID: level × 0x1000 plus an index (R382). -/
def Site.source : Site → BitVec 16
  | .cell b c => BitVec.ofNat 16 (16 * b + c)
  | .block b => BitVec.ofNat 16 (0x1000 + b)
  | .region r => BitVec.ofNat 16 (0x2000 + r)
  | .chip i u => BitVec.ofNat 16 (0x3000 + 32 * i + u)

/-! Chip status bits (Table 14-5). -/
namespace Chip
def crossbar : Nat := 4
def lockstep : Nat := 5
def clock : Nat := 6
def voltage : Nat := 7
def thermal : Nat := 8
def dram0 : Nat := 9
def pcie : Nat := 11
def fovar : Nat := 12
def sedge : Nat := 13
def frontEnd : Nat := 14
def output : Nat := 15
def portA : Nat := 16
def portB : Nat := 17
def extFault : Nat := 18
def carrMap : Nat := 19
def controlSram : Nat := 20
def timeBase : Nat := 21
def otpFirmware : Nat := 22
def ceSeen : Nat := 24
end Chip

/-! Block status bits (Table 14-3). -/
namespace BlockBit
def accResidue : Nat := 16
def memoryUe : Nat := 17
def memoryCe : Nat := 18
def stateParity : Nat := 19
def sluiceParity : Nat := 20
def windowResidue : Nat := 21
def treeResidue : Nat := 25
end BlockBit

/-! Region status bits (Table 14-4). -/
namespace RegionBit
def fabric : Nat := 20
def multicast : Nat := 21
def detection : Nat := 22
def arbiter : Nat := 23
def crossbarPort : Nat := 24
def cacheTag : Nat := 25
end RegionBit

/-! Record classes (Table 14-2). -/
namespace Cls
def ce : BitVec 8 := 0
def ucc : BitVec 8 := 1
def ucf : BitVec 8 := 2
def saf : BitVec 8 := 3
def fence : BitVec 8 := 4
def info : BitVec 8 := 5
end Cls

/-! Detector codes (Table 14-8). -/
namespace Det
def residueCheck : BitVec 8 := 0x01
def residueAdder : BitVec 8 := 0x02
def memoryEcc : BitVec 8 := 0x03
def dramEcc : BitVec 8 := 0x04
def weakPage : BitVec 8 := 0x05
def pathParity : BitVec 8 := 0x06
def stateParity : BitVec 8 := 0x07
def carrMap : BitVec 8 := 0x08
def lockstep : BitVec 8 := 0x09
def clockMonitor : BitVec 8 := 0x0A
def voltageMonitor : BitVec 8 := 0x0B
def thermal : BitVec 8 := 0x0C
def sedgePort : BitVec 8 := 0x0D
def fovarPort : BitVec 8 := 0x0E
def collective : BitVec 8 := 0x0F
def stripeFallback : BitVec 8 := 0x10
def fallbackPoison : BitVec 8 := 0x11
def outputWrite : BitVec 8 := 0x12
def residencyRefill : BitVec 8 := 0x13
def mappingStore : BitVec 8 := 0x14
def extFault : BitVec 8 := 0x15
def fieldTest : BitVec 8 := 0x16
def remap : BitVec 8 := 0x17
def pcie : BitVec 8 := 0x18
def firmwareImage : BitVec 8 := 0x19
def frontEndCheck : BitVec 8 := 0x1A
def outputCheck : BitVec 8 := 0x1B
def detectionCheck : BitVec 8 := 0x1C
def stagingFault : BitVec 8 := 0x1D
end Det

/-! Outcome codes (Table 14-9). -/
namespace Outc
def none : BitVec 8 := 0
def corrected : BitVec 8 := 1
def contained : BitVec 8 := 2
def transient : BitVec 8 := 3
def checkerFault : BitVec 8 := 4
def datapathFault : BitVec 8 := 5
def inconclusive : BitVec 8 := 6
def notReplayed : BitVec 8 := 7
def fenced : BitVec 8 := 8
def testPass : BitVec 8 := 9
def testFail : BitVec 8 := 10
def shed : BitVec 8 := 11
end Outc

/-- The unit a UCF record names, for R380: whether it serves a safety-relevant pipeline. -/
inductive Served where
  | nobody
  | block (b : Nat)
  | port (p : Nat)
  | pipe (p : Nat)
  | region (r : Nat)
  deriving DecidableEq, Repr

/-- What a detector reports to the collector. -/
structure FaultInfo where
  cls : BitVec 8
  detector : BitVec 8
  outcome : BitVec 8 := 0
  site : Site
  served : Served := .nobody
  /-- Bits of the block and region status words that it sets (its site says whose). -/
  blockBits : List Nat := []
  regionBits : List Nat := []
  /-- Bits of the chip status word beside its site's own. -/
  chipBits : List Nat := []
  /-- The suppression window that covers it (R385). -/
  suppressed : Option SuppressedUnit := none
  location : Nat := 100
  region : Option Nat := none
  block : Option Nat := none
  cell : Option Nat := none
  pipeline : Option Nat := none
  frame : Option (BitVec 32) := none
  stripe : Option Nat := none
  status : BitVec 16 := 0
  address : Option Nat := none
  address2 : Option Nat := none
  operandDigest : Option (BitVec 64) := none
  captureId : Option (BitVec 32) := none
  /-- When its detector fired, where the report comes later (R371, R383). -/
  found : Option Time := none
  /-- The command that its SEQ completes, and the data before it (R392). -/
  reply : Option (Ticket × List Byte) := none
  deriving DecidableEq, Repr

/-! ## Pipelines that a unit serves (R214, R380) -/

/-- SAFETY of STRIPE_CONFIG (Table 08-6). -/
def PipeSettings.safety (p : PipeSettings) : Bool := p.stripe.getLsbD 19
/-- PRIORITY of STRIPE_CONFIG. -/
def PipeSettings.priority (p : PipeSettings) : Nat := bits 23 20 p.stripe
/-- PIPELINE_SET (Table 08-7). -/
def Pipe.setMask (p : Pipe) : Nat := bits 47 32 p.set
def Pipe.setRegion (p : Pipe) : Nat := bits 17 16 p.set
def Pipe.mapped (p : Pipe) : Bool := p.set.getLsbD 10
def Pipe.mappingId (p : Pipe) : Nat := bits 9 0 p.set
/-- PIPELINE_SOURCE: the sedge port, or none for 0xFF (Table 02-17). -/
def Pipe.sourcePort (p : Pipe) : Option Nat := if bits 7 0 p.source = 0xFF then none else some (bits 7 0 p.source)
/-- STREAMING or STOPPING: it still carries started frames (R380). -/
def Pipe.carrying (p : Pipe) : Bool := p.stream = .streaming || p.stream = .stopping

/-- Whether a pipeline's PIPELINE_SET names a block. -/
def Pipe.names (p : Pipe) (b : Nat) : Bool := p.setRegion == b / 16 && p.setMask.testBit (b % 16)

/-- Whether a unit serves pipeline `p` (R380). -/
def State.serves (s : State) (u : Served) (p : Nat) : Bool :=
  match u with
  | .nobody => false
  | .block b => (s.pipe p).setRegion == b / 16 && (s.pipe p).blocks.getLsbD (b % 16)
  | .port n => (s.pipe p).sourcePort == some n
  | .pipe q => p == q
  | .region r => (s.pipe p).setRegion == r

/-- A unit serves a safety-relevant pipeline that is STREAMING or STOPPING (R380). -/
def State.servesSafety (s : State) (u : Served) : Bool :=
  (List.range 24).any fun p => (s.pipe p).live.safety && (s.pipe p).carrying && s.serves u p

/-! ## Status words (R381) -/

/-- Latch a chip status bit: it is set, and FAULT_TIMES takes the device time, set before or not (R381). -/
def State.setChip (s : State) (i : Nat) : State :=
  { s with faults := { s.faults with
      status := s.faults.status ||| BitVec.ofNat 64 (2 ^ i)
      times := Tab.set (fun _ => 0) s.faults.times i s.time } }

/-- Set a bit of a region's status word; the chip latches the region's summary bit when it goes from 0 to 1 (R381). -/
def State.setRegionBit (s : State) (r i : Nat) : State :=
  let x := s.region r
  let s' := s.setRegion r { x with status := x.status ||| BitVec.ofNat 32 (2 ^ i) }
  if x.status.getLsbD i then s' else s'.setChip r

/-- A unit goes into a state of Table 14-6: its detectors are fenced (R385). -/
def State.suppress (s : State) (u : SuppressedUnit) : State :=
  { s with faults := { s.faults with
      suppressed := (s.faults.suppressed.filter fun x => x.unit != u) ++ [{ unit := u, ends := none }] } }

/-- That state has ended: the window lasts 1 µs more (R385). -/
def State.suppressTail (s : State) (u : SuppressedUnit) : State :=
  { s with faults := { s.faults with
      suppressed := (s.faults.suppressed.filter fun x => x.unit != u) ++ [{ unit := u, ends := some (s.time + 1000) }] } }

/-- A unit is in a state of Table 14-6, or its window has not ended (R385). -/
def State.isSuppressed (s : State) (u : SuppressedUnit) : Bool :=
  s.faults.suppressed.any (fun x => x.unit == u && x.ends.all fun e => s.time.toNat ≤ e.toNat) ||
    match u with
    | .sedge p => (s.port p).state == .disabled
    | _ => false

/-- Set a W1C bit of a block's status word; on 0 to 1 the block pulses its error line, which the region latches in
BLOCK bit b mod 16 (R381) unless the block is under suppression (R385). -/
def State.setBlockBit (s : State) (b i : Nat) : State :=
  let x := s.block b
  let s' := s.setBlock b { x with status := x.status ||| BitVec.ofNat 32 (2 ^ i) }
  if x.status.getLsbD i || s.isSuppressed (.block (Fin.ofNat 64 b)) then s' else s'.setRegionBit (b / 16) (b % 16)

/-! ## Fields of a record (R390) -/

/-- The ACLK divider in force: /8 under a droop or AVSBus clamp, else the steady divider (R401, Table 15-2). -/
def State.aclkCode (s : State) (r : Nat) : Nat :=
  if (s.region r).droopClamped || s.health.avsFault then 3 else (s.region r).liveDiv.toNat

/-- Divider codes 0 to 3 are /4, /5, /6 and /8 (Table 15-2). -/
def dividerOf (code : Nat) : Nat := if code = 0 then 4 else if code = 1 then 5 else if code = 2 then 6 else 8

/-- MARGIN: the location's margin in ps, from 0, saturating at 255 (Table 14-7; log 9). -/
def marginByte (m : BitVec 16) : BitVec 8 := BitVec.ofNat 8 (min 255 m.toInt.toNat)

/-- Accumulated stress in whole hours. -/
def Location.stressHours (l : Location) : BitVec 32 := BitVec.ofNat 32 (l.stress / 2 ^ 40)

/-- Whether a class drives the pin: SAF always, CE, UCC and UCF by PIN_CLASSES (R386, Table 14-13). -/
def Collector.pinClass (c : Collector) (k : BitVec 8) : Bool := k == Cls.saf || (k.toNat < 3 && c.alarmConfig.getLsbD k.toNat)

/-- The class the collector gives a record: FENCE under suppression (R385), SAF for a UCF on a unit that serves a
streaming safety-relevant pipeline (R380), else its detector's. -/
def State.classOf (s : State) (f : FaultInfo) : BitVec 8 :=
  if f.suppressed.any s.isSuppressed && f.cls != Cls.info then Cls.fence
  else if f.cls == Cls.ucf && s.servesSafety f.served then Cls.saf
  else f.cls

/-- The record a detector's report becomes, before its release gives it SEQ and CONCURRENT. -/
def State.mkRecord (s : State) (f : FaultInfo) (cls : BitVec 8) : Record :=
  let l := s.location f.location
  let at_ := f.found.getD s.time
  { cls := cls, concurrent := false, capture := f.captureId.isSome, pin := s.faults.pinClass cls, seq := 0
    time := at_, source := f.site.source, detector := f.detector, outcome := f.outcome, region := f.region
    block := f.block, cell := f.cell, pipeline := f.pipeline, frame := f.frame, stripe := f.stripe
    status := f.status, address := f.address.map (BitVec.ofNat 64), address2 := f.address2.map (BitVec.ofNat 64)
    fen := BitVec.ofNat 64 (s.base.tickNumber at_.toNat), operandDigest := f.operandDigest, temp := l.temp
    voltage := s.health.senseMv, aclkDiv := f.region.map fun r => BitVec.ofNat 8 (dividerOf (s.aclkCode r))
    margin := marginByte l.margin, hours := s.health.hours, stress := l.stressHours, eol := l.eol
    captureId := f.captureId, toA := s.faults.alarmConfig.getLsbD (24 + cls.toNat), toB := s.faults.alarmConfig.getLsbD (16 + cls.toNat)
    reply := f.reply }

/-- The status bits of a record: those of its site and the class's SEEN bit; none for FENCE and INFO (R381). -/
def State.setStatusFor (s : State) (f : FaultInfo) (cls : BitVec 8) : State :=
  if cls == Cls.fence || cls == Cls.info then s else
    let s := match f.site with
      | .cell b _ => f.blockBits.foldl (fun s i => s.setBlockBit b i) s
      | .block b => f.blockBits.foldl (fun s i => s.setBlockBit b i) s
      | .region r => f.regionBits.foldl (fun s i => s.setRegionBit r i) s
      | .chip i _ => s.setChip i
    (f.chipBits ++ [Chip.ceSeen + cls.toNat]).foldl State.setChip s

/-- Word of FAULT_COUNTERS for a class (Table 14-14). -/
def classCounter (cls : BitVec 8) : Option Nat := if cls.toNat ≤ 4 then some cls.toNat else none

/-- The pin and HOLD for a record made now: a pin-visible record asserts ALARM_N, sets HOLD and restarts the 20 µs
minimum low time (R386). -/
def Collector.assertPin (c : Collector) (now : Time) : Collector :=
  { c with hold := true, pinLow := true, pinUntil := now + 20000 }

/-- Start-up is past stage 3 (Table 16-6). -/
def State.pastCheck (s : State) : Bool := s.phase == .ready || (s.phase == .starting && decide (s.faults.startsAt.toNat ≤ s.now))

/-- The collector makes a record (R380 to R386): class, counters, status bits, pin; the record waits for release. It
runs from stage 4 of start-up (R436). -/
def State.fault (s : State) (f : FaultInfo) : State :=
  if s.faults.up then
    let cls := s.classOf f
    let rec_ := s.mkRecord f cls
    let s := s.setStatusFor f cls
    let c := s.faults
    let c := { c with held := c.held ++ [rec_]
                      counters := (classCounter cls).elim c.counters c.counters.bump }
    { s with faults := if rec_.pin then c.assertPin s.time else c }
  else s

/-- A record made at an earlier time. -/
def State.faultAt (s : State) (t : Time) (f : State → State) : State := { f { s with time := t } with time := s.time }


/-! ## The bytes of a record (Table 14-7) -/

/-- A field of `n` bytes: all ones when it does not apply. -/
def optBytes (n : Nat) (v : Option Nat) : List Byte := leBytes n (v.getD (2 ^ (8 * n) - 1))

/-- PART, GRADE, STEPPING and the straps (Table 12-12). -/
def State.deviceId (s : State) : Nat :=
  0x0A24 * 2 ^ 48 + s.fw.otp.grade.toNat * 2 ^ 40 + s.fw.otp.stepping.toNat * 2 ^ 32 + s.straps.devId.toNat * 2 ^ 21
    + s.straps.bootSrc.toNat * 2 ^ 19 + (if s.straps.mgmtMode then 2 ^ 18 else 0)

/-- FLAGS: CONCURRENT, CAPTURE, PIN. -/
def Record.flags (r : Record) : Nat :=
  (if r.concurrent then 1 else 0) + (if r.capture then 2 else 0) + (if r.pin then 4 else 0)

/-- Bytes 0 to 123. -/
def State.recordBody (s : State) (r : Record) : List Byte :=
  leBytes 2 1 ++ [r.cls, BitVec.ofNat 8 r.flags] ++ leBytes 4 r.seq.toNat ++ leBytes 8 r.time.toNat
    ++ leBytes 2 r.source.toNat ++ [r.detector, r.outcome] ++ optBytes 1 r.region ++ optBytes 1 r.block
    ++ optBytes 1 r.cell ++ optBytes 1 r.pipeline ++ optBytes 4 (r.frame.map BitVec.toNat) ++ optBytes 2 r.stripe
    ++ leBytes 2 r.status.toNat ++ optBytes 8 (r.address.map BitVec.toNat) ++ optBytes 8 (r.address2.map BitVec.toNat)
    ++ leBytes 8 s.deviceId ++ leBytes 8 r.fen.toNat ++ optBytes 8 (r.operandDigest.map BitVec.toNat)
    ++ leBytes 2 r.temp.toNat ++ leBytes 2 r.voltage.toNat ++ optBytes 1 (r.aclkDiv.map BitVec.toNat) ++ [r.margin]
    ++ zeros 2 ++ leBytes 4 r.hours.toNat ++ leBytes 4 r.stress.toNat ++ leBytes 4 r.eol.toNat
    ++ optBytes 4 (r.captureId.map BitVec.toNat) ++ leBytes 16 s.fw.otp.serial.toNat ++ zeros 12

/-- The 128 bytes of a record, with their CRC-32C. -/
def State.recordBytes (s : State) (r : Record) : List Byte :=
  s.recordBody r ++ leBytes 4 (crc32c (s.recordBody r)).toNat

end Sys2Proof.Machine
end

