-- ==== Sys2Proof/Machine/Operands.lean ====
section
/-!
DEFINITION. The operand forms of the AQ24: DRAM by granule with its error code and poison (R287 to R295), the carr map
and its three targets (R297 to R301), the routes of the Fovar link (R345, R350), the region caches (R132 to R135), and
scratchpad and pool lines (R118, R121, R131).
-/

namespace Sys2Proof.Machine

open Sys2Proof

/-! ## Runs of bytes -/

/-- `n` bytes from address `a`. -/
def Memory.bytes (m : Memory) (a n : Nat) : List Byte := (List.range n).map fun i => m.read (a + i)

/-- Write a run of bytes from address `a` upward. -/
def Memory.put (m : Memory) (a : Nat) : List Byte → Memory
  | [] => m
  | x :: t => Memory.put (m.write a x) (a + 1) t

/-- Zero the bytes of [lo, hi). -/
def Memory.clear (m : Memory) (lo hi : Nat) : Memory := m.filter fun c => c.1 < lo || hi ≤ c.1

/-- Put a number into an ascending list. -/
def insertAsc (k : Nat) : List Nat → List Nat
  | [] => [k]
  | j :: t => if k < j then k :: j :: t else if k = j then j :: t else j :: insertAsc k t

/-- Drop the numbers of [lo, hi) from a list. -/
def dropRange (l : List Nat) (lo hi : Nat) : List Nat := l.filter fun k => k < lo || hi ≤ k

/-! ## DRAM (R286 to R295) -/

/-- The interleave shift s of the live INTERLEAVE (Table 11-2). -/
def MemSys.shift (m : MemSys) : Nat :=
  let c := bits 1 0 m.config
  if c = 0 then 8 else if c = 1 then 10 else if c = 2 then 12 else 16

/-- The stack that holds a physical address: channel (a >> s) mod 32, of stack c div 16 (R287). -/
def MemSys.stackOf (m : MemSys) (a : Nat) : Nat := a / 2 ^ m.shift % 32 / 16

/-- Accesses are served: no zeroing is in progress (R288) and the DRAM interface PLL is locked (R406). -/
def State.dramServes (s : State) : Bool := !s.mem.zeroing && s.health.lock.getLsbD 1

/-- Whose access it is, for the record of R291. -/
structure Reader where
  va : Option Nat := none
  pipeline : Option Nat := none
  frame : Option (BitVec 32) := none
  stripe : Option Nat := none
  /-- The block and the region that the data goes to, for a parity error on the way (R276). -/
  block : Option Nat := none
  region : Option Nat := none
  deriving DecidableEq, Repr

/-- No job. -/
def Reader.nobody : Reader := {}

/-- Count in a stack's MEM_COUNTERS (Table 11-12). -/
def State.countMem (s : State) (k w : Nat) : State :=
  let x := s.dramStack k
  s.setDramStack k { x with counters := x.counters.bump w }

/-- Count in PCIE_COUNTERS (Table 11-13). -/
def State.countPcie (s : State) (w : Nat) : State :=
  { s with mem := { s.mem with pcieCounters := s.mem.pcieCounters.bump w } }

/-- A DRAM detector's report: chip status bit 9 + stack, unit the stack (R382). -/
def dramFault (k : Nat) (cls det out : BitVec 8) (pa : Nat) (r : Reader) : FaultInfo :=
  { cls := cls, detector := det, outcome := out, site := .chip (Chip.dram0 + k) k, location := 92 + k
    pipeline := r.pipeline, frame := r.frame, stripe := r.stripe, address := some pa, address2 := r.va }

/-- A read corrects granule `g` (R290): CE_CORRECTED, the page's count, a CE record for its first correction, and a
WEAK_PAGE record when the count reaches CE_LIMIT. -/
def State.correctGranule (s : State) (g : Nat) (r : Reader) : State :=
  let pa := 64 * g
  let k := s.mem.stackOf pa
  let page := pa / 2 ^ 18
  let n := Tab.get (fun _ => 0) s.mem.pageCe page + 1
  let s := s.countMem k 0
  let s := { s with mem := { s.mem with pageCe := Tab.set (fun _ => 0) s.mem.pageCe page n } }
  let s := if n = 1 then s.fault (dramFault k Cls.ce Det.dramEcc Outc.corrected pa r) else s
  if n = bits 31 24 s.mem.config then
    (s.countMem k 6).fault (dramFault k Cls.ce Det.weakPage Outc.corrected (page * 2 ^ 18) r)
  else s

/-- A read finds granule `g` uncorrectable (R291): the poison pattern is written, a UCC record is made, UE_DETECTED and
POISON_SET count, and LAST_POISON_PA takes the address (R295). -/
def State.poisonGranule (s : State) (g : Nat) (r : Reader) : State :=
  let pa := 64 * g
  let k := s.mem.stackOf pa
  let s := (s.countMem k 1).countMem k 2
  let s := s.setDramStack k { s.dramStack k with lastPoison := BitVec.ofNat 35 pa }
  let s := { s with mem := { s.mem with poison := insertAsc g s.mem.poison } }
  s.fault (dramFault k Cls.ucc Det.dramEcc Outc.contained pa r)

/-- An error in three or more symbols leaves granule `g` with wrong data, which it holds from then on (R289). -/
def State.wrongGranule (s : State) (g : Nat) (d : List Byte) : State :=
  { s with mem := { s.mem with dram := s.mem.dram.put (64 * g) ((d ++ zeros 64).take 64) } }

/-- Read granule `g` of DRAM: its 64 bytes and whether they are delivered poisoned (R289 to R291, R295). -/
def State.readGranule (s : State) (g : Nat) (f : MemFindings) (r : Reader) : (List Byte × Bool) × State :=
  let d := s.mem.dram.bytes (64 * g) 64
  if s.mem.poison.contains g then ((d, true), s.countMem (s.mem.stackOf (64 * g)) 4)
  else if f.uncorrectable.contains g then ((d, true), s.poisonGranule g r)
  else
    let s := ((f.wrong.find? fun w => w.1 == g).map fun w => s.wrongGranule g w.2).getD s
    ((s.mem.dram.bytes (64 * g) 64, false), if f.corrected.contains g then s.correctGranule g r else s)

/-- A write of bytes within granule `g` from offset `o` (R293): a write of all 64 bytes clears poison and counts in
POISON_CLEARED, a part merges and leaves it; poisoned data sets it (R276). -/
def State.writeGranule (s : State) (g o : Nat) (data : List Byte) (poisoned : Bool) : State :=
  let was := s.mem.poison.contains g
  let whole := o = 0 && data.length == 64
  let m := { s.mem with dram := s.mem.dram.put (64 * g + o) data
                        poison := if poisoned then insertAsc g s.mem.poison
                                  else if whole then s.mem.poison.erase g else s.mem.poison }
  let s := { s with mem := m }
  if was && whole && !poisoned then s.countMem (s.mem.stackOf (64 * g)) 3 else s

/-- The pieces of a run of bytes by granule: granule, offset in it, bytes. The fuel is the number of bytes. -/
def pieces : Nat → Nat → List Byte → List (Nat × Nat × List Byte)
  | 0, _, _ => []
  | n + 1, a, d =>
    match d with
    | [] => []
    | d => let k := 64 - a % 64
           (a / 64, a % 64, d.take k) :: pieces n (a + k) (d.drop k)

/-! ## The carr map (R297 to R301) -/

/-- An entry as it translates: one that reads uncorrectable is 0, an invalid entry (R301). -/
def State.carrEntry (s : State) (i : Nat) : BitVec 64 :=
  if s.mem.carrBad.contains i then 0 else Tab.get carrReset s.mem.carr i

/-- The values an access may take an entry to have: as it stands, and, until a MAP_PAGES that changes it completes, the new ones
(R303). -/
def State.entryChoices (s : State) (i : Nat) : List (BitVec 64) :=
  s.carrEntry i :: s.mem.mapChanges.filterMap fun m => if m.first ≤ i then m.entries[i - m.first]? else none

/-- The entry that an access at `va` is translated by. -/
def State.entryFor (s : State) (va : Nat) : BitVec 64 :=
  match s.entryChoices (va / 2 ^ 18) with
  | [e] => e
  | es => es.getD (Config.mapChoice s.fresh va % es.length) 0

/-- The entry's index and its value, as an access at `va` takes it. -/
def State.via (s : State) (va : Nat) : Nat × BitVec 64 := (va / 2 ^ 18, s.entryFor va)

/-- The same for a place of an access that starts at `o`: one choice for each page of the access (R303). -/
def State.viaFrom (s : State) (o va : Nat) : Nat × BitVec 64 := (va / 2 ^ 18, s.entryFor (max o (va / 2 ^ 18 * 2 ^ 18)))

/-- What an address translates to. -/
inductive Target where
  /-- Local DRAM: physical address; whether the page is CACHEABLE. -/
  | local_ (pa : Nat) (cacheable : Bool)
  /-- Host memory: PCIe address (R306). -/
  | host (addr : Nat)
  /-- A peer's window: device, window, granule index in it, epoch (Table 11-6). -/
  | peer (dev win idx : Nat) (epoch : BitVec 16)
  /-- The access faults (R300). -/
  | fault
  deriving DecidableEq, Repr

/-- What an entry makes of an address on its page, for a read or a write (R300, Tables 11-5 and 11-6). -/
def translateBy (e : BitVec 64) (va : Nat) (isWrite : Bool) : Target :=
  let o := va % 2 ^ 18
  if !e.getLsbD 0 || !(if isWrite then e.getLsbD 4 else e.getLsbD 3) then .fault
  else if bits 2 1 e = 0 then .local_ (bits 34 18 e * 2 ^ 18 + o) (e.getLsbD 5)
  else if bits 2 1 e = 1 then .host (bits 51 18 e * 2 ^ 18 + o)
  else if bits 2 1 e = 2 then
    .peer (bits 41 39 e) (bits 38 33 e) ((bits 32 18 e * 2 ^ 18 + o) / 64) (BitVec.ofNat 16 (bits 63 48 e))
  else .fault

/-- Translate a device virtual address by an entry for a read or a write (R297). -/
def targetBy (e : BitVec 64) (va : Nat) (isWrite : Bool) : Target := if 2 ^ 36 ≤ va then .fault else translateBy e va isWrite

/-- Translate a device virtual address for a read or a write. -/
def State.translate (s : State) (va : Nat) (isWrite : Bool) : Target := targetBy (s.entryFor va) va isWrite

/-- A carr map entry reads uncorrectable (R301): it is not VALID until it is rewritten, and a record names it. -/
def State.badEntry (s : State) (i : Nat) : State :=
  if s.mem.carrBad.contains i then s else
    { s with mem := { s.mem with carrBad := insertAsc i s.mem.carrBad } }.fault
      { cls := Cls.ucf, detector := Det.carrMap, site := .chip Chip.carrMap 0, address := some i }

/-- An access reads the entry of an address, which may read uncorrectable. -/
def State.meetEntry (s : State) (va : Nat) (carr : List Nat) : State :=
  if carr.contains (va / 2 ^ 18) then s.badEntry (va / 2 ^ 18) else s

/-- An access to a run of device virtual space waits: it reaches local DRAM, which does not serve (R288, R406). HOST and PEER entries
alone lie from 0x8_0000_0000 up (R297). -/
def State.deviceWaits (s : State) (va : Nat) : Bool := !s.dramServes && decide (va < 2 ^ 35)

/-! ## Parity in transit (R276) -/

/-- The report of a parity error on a path, which names it (Tables 14-3 to 14-6). -/
def pathFault (p : DataPath) (r : Reader) : FaultInfo :=
  let f : FaultInfo :=
    { cls := Cls.ucc, detector := Det.pathParity, outcome := Outc.contained, site := .chip Chip.crossbar 0, pipeline := r.pipeline
      frame := r.frame, stripe := r.stripe, address2 := r.va, suppressed := r.block.map fun b => .block (Fin.ofNat 64 b) }
  let region := fun (i : Nat) => (r.region.map fun k =>
    { f with site := .region k, regionBits := [i], location := 64 + k, region := some k }).getD f
  match p with
  | .sluice => (r.block.map fun b =>
      { f with site := .block b, blockBits := [BlockBit.sluiceParity], location := b, region := some (b / 16), block := some b }).getD f
  | .fabric => region RegionBit.fabric
  | .multicast => region RegionBit.multicast
  | .arbiter => { region RegionBit.arbiter with suppressed := none }
  | .crossbarPort => region RegionBit.crossbarPort
  | .crossbar => f

/-- The parity errors that a granule meets on its way, each with a record; whether there is one. -/
def State.transit (s : State) (f : MemFindings) (i : Nat) (r : Reader) : Bool × State :=
  let hits := f.parity.filter fun h => h.1 == i
  (!hits.isEmpty, hits.foldl (fun s h => s.fault (pathFault h.2 r)) s)

/-! ## Routes of the Fovar link (R345, R350, R351) -/

/-- SIZE, TOPOLOGY, RATE and PORT_EN of FOVAR_CONFIG (Table 13-9). -/
def Fovar.size (f : Fovar) : Nat := bits 3 0 f.config
def Fovar.torus (f : Fovar) : Bool := f.config.getLsbD 8
def Fovar.rate16 (f : Fovar) : Bool := f.config.getLsbD 9
def Fovar.portEn (f : Fovar) (n : Nat) : Bool := f.config.getLsbD (10 + n)

/-- The neighbour of port `n` of device `d`, and the neighbour's port (Table 13-1). -/
def Fovar.wiring (f : Fovar) (d n : Nat) : Nat × Nat :=
  if f.torus then
    let x := d % 4
    let y := d / 4
    if n = 0 then (4 * y + (x + 1) % 4, 1)
    else if n = 1 then (4 * y + (x + 3) % 4, 0)
    else (4 * ((y + 1) % 2) + x, n)
  else
    if n < 2 then ((d + 1) % f.size, n + 2) else ((d + f.size - 1) % f.size, n - 2)

/-- The first-hop port groups to device `t`, preferred first (R350, R351). -/
def Fovar.hops (f : Fovar) (d t : Nat) : List (List Nat) :=
  if f.torus then
    let dx := (t % 4 + 4 - d % 4) % 4
    if dx = 0 then (if t / 4 = d / 4 then [] else [[2, 3]])
    else if dx ≤ 2 then [[0], [1]] else [[1], [0]]
  else if f.size ≤ t ∨ t = d then []
  else if f.size = 2 then [[0, 1, 2, 3]]
  else if (t + f.size - d) % f.size ≤ (d + f.size - t) % f.size then [[0, 1], [2, 3]] else [[2, 3], [0, 1]]

/-- The ports that carry frames to device `t` now: the UP ports of the first group that has one. -/
def State.routePorts (s : State) (t : Nat) : List Nat :=
  (((s.fovar.hops s.straps.devId.toNat t).map fun g =>
    g.filter fun n => (s.fovarPort n).state == .up).find? fun g => !g.isEmpty).getD []

/-- A destination with no route left is unreachable (R351). -/
def State.reachable (s : State) (t : Nat) : Bool := !(s.routePorts t).isEmpty

/-- The port for traffic of a given key (device channel number or chunk), spread over the UP ports (R350). -/
def State.routePort (s : State) (t key : Nat) : Nat :=
  let l := s.routePorts t
  l.getD (key % max 1 l.length) 0

/-! ## Region caches (R132 to R135) -/

/-- The live mode of quarter `q`: true for CACHE (Table 05-8). -/
def Region.cacheMode (r : Region) (q : Nat) : Bool := bits (2 * q + 1) (2 * q) r.poolLive == 1

/-- Q, the quarters in CACHE mode. -/
def Region.quarters (r : Region) : Nat := (indices 4 r.cacheMode).length

/-- Where a line address lies: index of its quarter and set (R132). -/
def Region.cacheSet (r : Region) (a : Nat) : Nat × Nat := (a % r.quarters, a / r.quarters % 16384)

/-- Find a line. -/
def Region.lookup (r : Region) (a : Nat) : Option CacheLine := r.cache.find? fun l => l.addr == a

/-- Drop a line. -/
def Region.dropLine (r : Region) (a : Nat) : Region := { r with cache := r.cache.filter fun l => l.addr != a }

/-- Count in a region's POOL_COUNTERS (Table 05-10). -/
def State.countPool (s : State) (r w : Nat) : State :=
  s.updRegion r fun x => { x with poolCounters := x.poolCounters.bump w }

/-- A line as it is kept after a use: the region's use stamp moves on (least recently used is replaced). -/
def Region.keep (r : Region) (l : CacheLine) : Region :=
  { r.dropLine l.addr with cache := (r.dropLine l.addr).cache ++ [{ l with used := r.cacheClock }]
                           cacheClock := r.cacheClock + 1 }

/-- The least recently used of some lines. -/
def oldestLine : List CacheLine → Option CacheLine
  | [] => none
  | l :: t => match oldestLine t with
    | none => some l
    | some m => if l.used ≤ m.used then some l else some m

/-- A write to local DRAM by an agent other than region `own` invalidates the line in each other region's cache; a dirty
one is discarded and counts in CONFLICTS (R133). -/
def State.invalidateOthers (s : State) (own : Option Nat) (g : Nat) : State :=
  forEach (indices 4 fun r => own != some r) (fun r s =>
    match (s.region r).lookup g with
    | some l =>
      let s := (s.updRegion r fun x => x.dropLine g).countPool r 3
      if l.dirty then s.countPool r 4 else s
    | none => s) s

/-- Write one dirty line back: its poison goes with it (R132, R135), and to the other regions it is a write by another agent
(R133). -/
def State.writeBack (s : State) (r : Nat) (l : CacheLine) : State :=
  if l.dirty then ((s.writeGranule l.addr 0 l.data l.poison).invalidateOthers (some r) l.addr).countPool r 2 else s

/-- The write-back of a region's cache has to wait for DRAM (R288, R406). -/
def State.writeBackWaits (s : State) (r : Nat) : Bool := !s.dramServes && (s.region r).cache.any fun l => l.dirty

/-- Write every dirty line of a region's cache back; the lines stay, clean (R134). -/
def State.writeBackAll (s : State) (r : Nat) : State :=
  let s := forEach (s.region r).cache (fun l s => s.writeBack r l) s
  s.updRegion r fun x => { x with cache := x.cache.map fun l => { l with dirty := false } }

/-- Write back only the lines named that are still dirty (R134). -/
def State.writeBackLines (s : State) (ls : List (Nat × Nat)) : State :=
  forEach ls (fun (r, a) s =>
    match (s.region r).lookup a with
    | some l => (s.writeBack r l).updRegion r fun x =>
        { x with cache := x.cache.map fun m => if m.addr = a then { m with dirty := false } else m }
    | none => s) s

/-- Allocate a line, replacing the least recently used of a full set of four (R132); while a switch is in progress the
cache does not allocate (R136). -/
def State.allocLine (s : State) (r : Nat) (l : CacheLine) : State :=
  let x := s.region r
  if x.quarters = 0 || x.switching.isSome then s else
    let set := x.cache.filter fun m => x.cacheSet m.addr == x.cacheSet l.addr
    let s := if set.length < 4 then s else
      match oldestLine set with
      | some v => (s.writeBack r v).updRegion r fun x => x.dropLine v.addr
      | none => s
    s.updRegion r fun x => x.keep l

/-- A pool detector's report on quarter `q` of region `r`. -/
def poolFault (r q : Nat) (cls out : BitVec 8) (ub : List Nat) (addr : Nat) : FaultInfo :=
  { cls := cls, detector := Det.memoryEcc, outcome := out, site := .region r, regionBits := ub
    suppressed := some (.quarter (Fin.ofNat 4 r) (Fin.ofNat 4 q)), location := 64 + r, region := some r
    address := some addr }

/-- Report each of `n` corrected words of a pool line: each makes one CE record (R121). -/
def State.poolCorrected (s : State) (r q addr n : Nat) : State :=
  forEach (List.range n) (fun _ s => s.fault (poolFault r q Cls.ce Outc.corrected [] addr)) s

/-- A cacheable access that the cache serves counts in HITS, one that goes to DRAM in MISSES (Table 05-10). -/
def State.countAccess (s : State) (r : Nat) (cacheable hit : Bool) : State :=
  if cacheable then s.countPool r (if hit then 0 else 1) else s

/-- A read hits line `l` in the cache of region `r`. Where the line reads uncorrectable, a clean one is filled again from DRAM and a
dirty one is poisoned (R135); an uncorrectable tag is treated as its line is (DESIGN CHOICE, log 69). -/
def State.readHit (s : State) (r g : Nat) (l : CacheLine) (cacheable : Bool) (f : MemFindings) (who : Reader) :
    (List Byte × Bool) × State :=
  let q := (indices 4 (s.region r).cacheMode).getD ((s.region r).cacheSet g).1 0
  let tag := f.tags.contains g
  if (tag || f.uncorrectable.contains g) && !l.dirty then
    let (x, s) := s.readGranule g { f with uncorrectable := if tag then f.uncorrectable else f.uncorrectable.erase g } who
    let s := ((s.countAccess r cacheable false).countPool r 5).fault
      (poolFault r q Cls.ce Outc.corrected (if tag then [RegionBit.cacheTag] else []) (64 * g))
    (x, s.updRegion r fun y => y.keep { l with data := x.1, poison := x.2 })
  else if tag || f.uncorrectable.contains g then
    let s := s.fault (poolFault r q Cls.ucc Outc.contained [if tag then RegionBit.cacheTag else 16 + q] (64 * g))
    ((l.data, true), (s.countAccess r cacheable true).updRegion r fun y => y.keep { l with poison := true })
  else
    let s := (s.countAccess r cacheable true).poolCorrected r q (64 * g) (f.corrected.filter fun k => k == g).length
    ((l.data, l.poison), s.updRegion r fun y => y.keep l)

/-- A block channel of region `r` reads a granule of local DRAM: from the cache on a hit, else from DRAM, filling the
cache when the page is cacheable (R132, R135). -/
def State.regionRead (s : State) (r g : Nat) (cacheable : Bool) (f : MemFindings) (who : Reader) :
    (List Byte × Bool) × State :=
  match (s.region r).lookup g with
  | some l => s.readHit r g l cacheable f who
  | none =>
    let (x, s) := s.readGranule g f who
    let s := s.countAccess r cacheable false
    (x, if cacheable then s.allocLine r { addr := g, data := x.1, dirty := false, poison := x.2, used := 0 } else s)

/-- A block channel of region `r` writes a whole granule of local DRAM: into the cache when the page is cacheable and
the cache allocates, else to DRAM, invalidating the cached line (R132, R136). The line of each other region is invalidated at once,
not first when this one is written back (R133; DESIGN CHOICE, log 70). -/
def State.regionWrite (s : State) (r g : Nat) (cacheable : Bool) (data : List Byte) (poisoned : Bool) : State :=
  let x := s.region r
  let s := s.invalidateOthers (some r) g
  let l : CacheLine := { addr := g, data := data, dirty := true, poison := poisoned, used := 0 }
  if cacheable && x.quarters != 0 && !x.switching.isSome then
    let s := s.countAccess r true (x.lookup g).isSome
    if (x.lookup g).isSome then s.updRegion r fun y => y.keep l else s.allocLine r l
  else ((s.countAccess r cacheable false).writeGranule g 0 data poisoned).updRegion r fun y => y.dropLine g

/-! ## Scratchpad and pool lines (R118, R121, R131) -/

/-- Lines of a block's scratchpad (R118). -/
def spadLines : Nat := 49152

/-- The address of a line of block `b` in the scratchpad memory. -/
def spadAddr (b line : Nat) : Nat := 0x30_0000 * b + 64 * line

/-- A scratchpad error of block `b`: corrected or poisoned (Table 14-1). -/
def spadFault (b : Nat) (cls out : BitVec 8) (bit line : Nat) (r : Reader) : FaultInfo :=
  { cls := cls, detector := Det.memoryEcc, outcome := out, site := .block b, blockBits := [bit]
    suppressed := some (.block (Fin.ofNat 64 b)), location := b, region := some (b / 16), block := some b
    pipeline := r.pipeline, frame := r.frame, stripe := r.stripe, address := some (64 * line) }

/-- Whether a line of block `b` is poisoned. -/
def State.lineBad (s : State) (b line : Nat) : Bool := s.spadPoison.contains (spadLines * b + line)

/-- Read a scratchpad line (R121): each corrected word makes one CE record, an uncorrectable one poisons the line. -/
def State.readLine (s : State) (b line : Nat) (f : MemFindings) (r : Reader) : (List Byte × Bool) × State :=
  let d := s.spad.bytes (spadAddr b line) 64
  if s.lineBad b line then ((d, true), s)
  else if f.lineUncorrectable.contains line then
    ((d, true), { s with spadPoison := insertAsc (spadLines * b + line) s.spadPoison }.fault
      (spadFault b Cls.ucc Outc.contained BlockBit.memoryUe line r))
  else ((d, false), forEach (f.lineCorrected.filter fun k => k == line) (fun k s =>
    s.fault (spadFault b Cls.ce Outc.corrected BlockBit.memoryCe k r)) s)

/-- Write bytes to block `b`'s scratchpad from offset `a` (R293): whole lines take the poison given, partly written ones
keep theirs or take it. -/
def State.writeSpad (s : State) (b a : Nat) (data : List Byte) (poisoned : Bool) : State :=
  forEach (pieces data.length a data) (fun (l, o, d) s =>
    let k := spadLines * b + l
    { s with spad := s.spad.put (spadAddr b l + o) d
             spadPoison := if poisoned then insertAsc k s.spadPoison
                           else if o = 0 && d.length == 64 then s.spadPoison.erase k else s.spadPoison }) s

/-- Read `n` bytes of block `b`'s scratchpad from offset `a`. -/
def State.readSpad (s : State) (b a n : Nat) (f : MemFindings) (r : Reader) : (List Byte × Bool) × State :=
  (pieces n a (zeros n)).foldl (fun (acc, s) (l, o, d) =>
    let (x, s) := s.readLine b l f r
    ((acc.1 ++ slice x.1 o d.length, acc.2 || x.2), s)) (([], false), s)

/-- The address of an offset of region `r`'s pool in the pool memory. -/
def poolAddr (r a : Nat) : Nat := 0x100_0000 * r + a

/-- Read a pool line by its offset (R131, R121). -/
def State.readPoolLine (s : State) (r line : Nat) (f : MemFindings) : (List Byte × Bool) × State :=
  let d := s.pool.bytes (poolAddr r (64 * line)) 64
  let k := 0x4_0000 * r + line
  let q := line / 0x1_0000
  if s.poolPoison.contains k then ((d, true), s)
  else if f.lineUncorrectable.contains line then
    ((d, true), { s with poolPoison := insertAsc k s.poolPoison }.fault
      (poolFault r q Cls.ucc Outc.contained [16 + q] (64 * line)))
  else ((d, false), s.poolCorrected r q (64 * line) (f.lineCorrected.filter fun k => k == line).length)

/-- Write bytes to a region's pool from offset `a`. -/
def State.writePool (s : State) (r a : Nat) (data : List Byte) (poisoned : Bool) : State :=
  forEach (pieces data.length a data) (fun (l, o, d) s =>
    let k := 0x4_0000 * r + l
    { s with pool := s.pool.put (poolAddr r (64 * l) + o) d
             poolPoison := if poisoned then insertAsc k s.poolPoison
                           else if o = 0 && d.length == 64 then s.poolPoison.erase k else s.poolPoison }) s

/-- Read `n` bytes of a region's pool from offset `a`. -/
def State.readPool (s : State) (r a n : Nat) (f : MemFindings) : (List Byte × Bool) × State :=
  (pieces n a (zeros n)).foldl (fun (acc, s) (l, o, d) =>
    let (x, s) := s.readPoolLine r l f
    ((acc.1 ++ slice x.1 o d.length, acc.2 || x.2), s)) (([], false), s)

/-! ## The Fovar link's frames -/

/-- The device channel number that spreads an access over ports (R350). -/
def useChannel : PeerUse → Nat
  | .move c _ _ _ => c
  | .output p _ _ _ => p
  | .walker b _ _ _ => 16 * b
  | .front p _ _ => p
  | .spine => 0
  | .early => 0

/-- The frame or job number, pipeline and stripe that a record names for a unit. -/
def unitReader (o : Owner) (id : BitVec 32 × Nat) : Reader :=
  match o with
  | .pipeline p => { pipeline := some p, frame := some id.1, stripe := some id.2 }
  | .job k => { frame := some k }

/-- On whose behalf the read of a partial write is made (R289, R291). -/
def PeerUse.reader : PeerUse → Reader
  | .output p f i _ => { pipeline := some p, frame := some f, stripe := i }
  | .walker b o u _ => { unitReader o u with block := some b, region := some (b / 16) }
  | .front p f i => { pipeline := some p, frame := some f, stripe := i }
  | .move _ _ _ _ => .nobody
  | .spine => .nobody
  | .early => .nobody

/-- The use is an output write of a result; of coding rows of a stripe of it. -/
def PeerUse.isOutput (u : PeerUse) (q : Nat) (f : BitVec 32) : Bool :=
  match u with
  | .output p g _ _ => p == q && g == f
  | _ => false
def PeerUse.isCoding (u : PeerUse) (q : Nat) (f : BitVec 32) (i : Nat) : Bool := u == .output q f (some i) true

/-- The hop of a port crosses the wrap from the highest ID, in x on a TORUS, to ID 0, where the virtual channel changes (R350). -/
def State.wraps (s : State) (port : Nat) : Bool :=
  let d := s.straps.devId.toNat
  let t := (s.fovar.wiring d port).1
  if s.fovar.torus then port == 0 && d % 4 == 3 && t % 4 == 0
  else decide (port < 2) && d + 1 == s.fovar.size && t == 0

/-- The bytes of a frame with its LINK_ACK (Table 13-2): 84 with a payload, 20 without, the last four a CRC-32C over the others. -/
def LinkTx.bytes (x : LinkTx) (linkAck : BitVec 16) : List Byte :=
  let b := leBytes 1 (x.type.toNat + (if x.vc then 16 else 0) + (if x.poison then 32 else 0)) ++ leBytes 1 (x.src.toNat + 8 * x.dst.toNat)
    ++ leBytes 2 x.linkSeq.toNat ++ leBytes 2 linkAck.toNat ++ leBytes 2 x.e2eSeq.toNat ++ leBytes 2 x.epoch.toNat
    ++ leBytes 1 x.window.toNat ++ zeros 1 ++ leBytes 4 x.offset.toNat ++ x.payload
  b ++ leBytes 4 (crc32c b).toNat

/-- A frame goes out on a port with the LINK_ACK of now, and with its virtual channel changed where the hop is the wrap. -/
def State.emit (s : State) (port : Nat) (x : LinkTx) : State :=
  let a := (s.fovarPort port).rxSeq - 1
  let y := { x with vc := x.vc || s.wraps port }
  s.send (.fovar port y a (y.bytes a))

/-- A frame leaves a port, with the port's next LINK_SEQ; it stays, as it came, until the neighbour acknowledges it (R349). -/
def State.transmit (s : State) (port : Nat) (x : LinkTx) : State :=
  let p := s.fovarPort port
  let y := { x with linkSeq := p.txSeq }
  (s.setFovarPort port { p with txSeq := p.txSeq + 1, replay := p.replay ++ [y] }).emit port y

/-- A frame of the device's own to a destination, with the pair's next E2E_SEQ (Table 13-2). -/
def State.sendFrame (s : State) (port : Nat) (type : BitVec 4) (dst : BitVec 3) (epoch : BitVec 16) (w : BitVec 6) (i : BitVec 27)
    (poisoned : Bool) (d : List Byte) (coll : Option CollContent := none) : State :=
  let e := Tab.get (fun _ => 0) s.fovar.e2eTx dst.toNat
  let s := { s with fovar := { s.fovar with e2eTx := Tab.set (fun _ => 0) s.fovar.e2eTx dst.toNat (e + 1) } }
  s.transmit port { linkSeq := 0, e2eSeq := e, type := type, vc := false, src := s.straps.devId, dst := dst, epoch := epoch, window := w
                    offset := i, poison := poisoned, payload := d, coll := coll }

/-- Send a WRITE or a READ_REQ to a peer's window; it stays until it is answered (R351, R355). -/
def State.sendPeer (s : State) (via : Nat × BitVec 64) (dev w i : Nat) (ep : BitVec 16) (isRead poisoned : Bool) (d : List Byte) (u : PeerUse)
    (hit : Bool := false) : State :=
  let g : PeerGranule := { device := BitVec.ofNat 3 dev, window := BitVec.ofNat 6 w, offset := BitVec.ofNat 27 i
                           isRead := isRead, use := u, via := via, sentAt := s.time, hit := hit }
  let s := { s with fovar := { s.fovar with sent := s.fovar.sent ++ [g] } }
  s.sendFrame (s.routePort dev (useChannel u)) (if isRead then 1 else 0) g.device ep g.window g.offset poisoned d

/-! ## Errors that the endpoint and the Ethernet ports report (R365, Table 14-1) -/

/-- The endpoint reports an uncorrectable error through AER (Table 11-7, Table 14-8); its class is Table 14-1's, its outcome DESIGN
CHOICE (log 72). -/
def pcieFault : FaultInfo :=
  { cls := Cls.ce, detector := Det.pcie, outcome := Outc.none, site := .chip Chip.pcie 0, location := 94 }

/-- With an error that AER reports, its record. -/
def State.noteAer (s : State) (aer : Bool) : State := if aer then s.fault pcieFault else s

/-! ## Uncached accesses to device virtual space -/

/-- What the read of one granule gives: bytes and whether they are poisoned; a refusal by a peer, or one that cannot be reached; or a
page that faults. -/
inductive DeviceRead where
  | data (d : List Byte) (bad : Bool)
  | refused
  | fault
  deriving DecidableEq, Repr

/-- A host page is read (R306): the request leaves while the link is up, and its completion is in the findings; a poisoned, failed or
missing one delivers poison (R276). -/
def State.readHost (s : State) (g a : Nat) (f : MemFindings) : DeviceRead × State :=
  if s.mem.pcieLink then
    let n := s.mem.nextTag
    let s := { s with mem := { s.mem with nextTag := n + 1 } }.send (.hostRead (BitVec.ofNat 52 a) 64 n)
    match f.remote.find? fun x => x.granule == g with
    | some x => (.data ((x.data ++ zeros 64).take 64) (x.ep || x.failed), (if x.ep then s.countPcie 2 else s).noteAer x.aer)
    | none => (.data (zeros 64) true, s)
  else (.data (zeros 64) true, s)

/-- A peer's window is read: the READ_REQ leaves, and the READ_DATA or the refusal is in the findings (log 68). -/
def State.readPeer (s : State) (via : Nat × BitVec 64) (g dev w i : Nat) (ep : BitVec 16) (f : MemFindings) : DeviceRead × State :=
  if s.reachable dev then
    let s := s.sendPeer via dev w i ep true false [] .early
    match (f.remote.find? fun x => x.granule == g).filter fun x => !x.failed with
    | some x => (.data ((x.data ++ zeros 64).take 64) x.ep, s)
    | none => (.refused, s)
  else (.refused, s)

/-- Read a granule of device virtual space, as an entry translates it, by an agent that is not cached. -/
def State.readVia (s : State) (via : Nat × BitVec 64) (g : Nat) (f : MemFindings) (who : Reader) : DeviceRead × State :=
  let who := { who with va := some (64 * g) }
  let r := match targetBy via.2 (64 * g) false with
    | .local_ pa _ => let x := s.readGranule (pa / 64) f who
                      (DeviceRead.data x.1.1 x.1.2, x.2)
    | .host a => s.readHost g a f
    | .peer dev w i ep => s.readPeer via g dev w i ep f
    | .fault => (.fault, s)
  match r.1 with
  | .data d bad => let h := r.2.transit f g who
                   (.data d (bad || h.1), h.2)
  | x => (x, r.2)

/-- Read a granule of device virtual space by an agent that is not cached. -/
def State.readDevice (s : State) (g : Nat) (f : MemFindings) (who : Reader) : DeviceRead × State :=
  let s := s.meetEntry (64 * g) f.carr
  s.readVia (s.via (64 * g)) g f who

/-- Read `n` bytes of device virtual space by an agent that is not cached, granule by granule: the bytes and whether one is poisoned;
none at a fault or a refusal. -/
def State.readVa (s : State) (va n : Nat) (f : MemFindings) (who : Reader) : Option (List Byte × Bool) × State :=
  (pieces n va (zeros n)).foldl (fun (acc, s) (g, o, d) =>
    match acc with
    | none => (none, s)
    | some x => match s.readDevice g f who with
      | (.data y bad, s) => (some (x.1 ++ slice y o d.length, x.2 || bad), s)
      | (_, s) => (none, s)) (some ([], false), s)

/-- The bytes and poison of a peer's granule that a write covers in part: as the same command last wrote it, else as a read of it
answers; a WRITE frame carries whole granules (Table 13-2; DESIGN CHOICE, log 71). -/
def State.peerGranule (s : State) (via : Nat × BitVec 64) (g dev w i : Nat) (ep : BitVec 16) (f : MemFindings) : DeviceRead × State :=
  match s.out.reverse.findSome? fun o => match o with
    | .fovar _ x _ _ => if x.type = 0 ∧ x.dst.toNat = dev ∧ x.window.toNat = w ∧ x.offset.toNat = i then some x else none
    | _ => none with
  | some x => (.data x.payload x.poison, s)
  | none => s.readPeer via g dev w i ep f

/-- Write a part of a granule to a peer's window. -/
def State.writePeer (s : State) (via : Nat × BitVec 64) (g o : Nat) (d : List Byte) (poisoned : Bool) (u : PeerUse) (f : MemFindings) (dev w i : Nat)
    (ep : BitVec 16) : Bool × State :=
  let put := fun (s : State) (bad : Bool) (x : List Byte) => (true, s.sendPeer via dev w i ep false bad x u)
  if !s.reachable dev then (false, s)
  else if d.length = 64 then put s poisoned d
  else match s.peerGranule via g dev w i ep f with
    | (.data x bad, s) => put s (bad || poisoned) (x.take o ++ d ++ x.drop (o + d.length))
    | (_, s) => (false, s)

/-- Write a part of a granule of local DRAM from outside every region's cache, invalidating the line in each (the walker's own too:
DESIGN CHOICE, log 70). Accesses are to whole granules: a part is a read-modify-write, whose read may find an error (R289 to R291). -/
def State.writeLocal (s : State) (g o : Nat) (d : List Byte) (poisoned : Bool) (f : MemFindings) (who : Reader) : State :=
  let s := if d.length = 64 then s else (s.readGranule g f who).2
  (s.writeGranule g o d poisoned).invalidateOthers none g

/-- One piece of an uncached write to device virtual space, translated once (R303): local DRAM is written; a host page becomes a PCIe write with EP as the data's poison (R276), a peer page a WRITE
frame; a fault, an unreachable peer or a down PCIe link drops it. -/
def State.writeVaPiece (s : State) (g o : Nat) (d : List Byte) (poisoned : Bool) (u : PeerUse) (f : MemFindings) : Bool × State :=
  let s := s.meetEntry (64 * g) f.carr
  let via := s.via (64 * g)
  match targetBy via.2 (64 * g + o) true with
  | .local_ pa _ => (true, s.writeLocal (pa / 64) o d poisoned f { u.reader with va := some (64 * g) })
  | .host a =>
    if s.mem.pcieLink then
      (true, (if poisoned then s.countPcie 3 else s).send (.hostWrite (BitVec.ofNat 52 a) d poisoned))
    else (false, s)
  | .peer dev w i ep => s.writePeer via g o d poisoned u f dev w i ep
  | .fault => (false, s)

/-- An uncached write to device virtual space: whether every piece of it went through. -/
def State.writeVa (s : State) (va : Nat) (data : List Byte) (poisoned : Bool) (u : PeerUse) (f : MemFindings := .none) : Bool × State :=
  (pieces data.length va data).foldl (fun (ok, s) (g, o, d) =>
    let (k, s) := s.writeVaPiece g o d poisoned u f
    (ok && k, s)) (true, s)

/-! ## MSI-X (Table 11-7, R307) -/

/-- A byte of BAR 2's two structures. -/
def MemSys.msixByte (m : MemSys) (o : Nat) : Byte := Tab.get msixReset m.msix o

/-- Write such a byte. -/
def MemSys.putMsix (m : MemSys) (o : Nat) (x : Byte) : MemSys := { m with msix := Tab.set msixReset m.msix o x }

/-- The mask bit of a vector: bit 0 of its vector control (PRESUMED, log 67). -/
def MemSys.masked (m : MemSys) (v : Nat) : Bool := (m.msixByte (16 * v + 12)).getLsbD 0

/-- The pending bit of a vector. -/
def MemSys.isPending (m : MemSys) (v : Nat) : Bool := (m.msixByte (0x8000 + v / 8)).getLsbD (v % 8)

/-- Set or clear it. -/
def MemSys.setPending (m : MemSys) (v : Nat) (on : Bool) : MemSys :=
  let x := m.msixByte (0x8000 + v / 8)
  let bit := BitVec.ofNat 8 (2 ^ (v % 8))
  m.putMsix (0x8000 + v / 8) (if on then x ||| bit else x &&& ~~~bit)

/-- An MSI-X message leaves the endpoint while the PCIe link is up (Table 11-7); while its vector is masked, it becomes pending
instead. While PCIE_PERST_N holds the endpoint in reset, it is lost (R458). -/
def State.interrupt (s : State) (v : BitVec 11) : State :=
  if s.mem.perstLow then s
  else if s.mem.masked v.toNat then { s with mem := s.mem.setPending v.toNat true }
  else if s.mem.pcieLink then s.send (.msix v) else s

end Sys2Proof.Machine
end

