-- ==== Sys2Proof/Machine/Lysil.lean ====
section
/-!
DEFINITION. How a Lysil request is received: the request checks of Table 12-3 in their order, the queue's sequence and
its stored ACK (R318 to R321), the ACK, and the session rules (R327 to R330). Every command of Table 12-8 runs through
`State.lysil`.
-/

namespace Sys2Proof.Machine

open Sys2Proof

/-- A row of Table 12-8: the opcode, its marks L and B, and which parameter lengths it takes. -/
structure OpRow where
  code : BitVec 16
  long : Bool := false
  portB : Bool := false
  lenOk : List Byte → Bool

/-- A row whose parameters have one length. -/
def opRow (code : BitVec 16) (n : Nat) (long : Bool := false) (portB : Bool := false) : OpRow :=
  { code := code, long := long, portB := portB, lenOk := fun p => p.length == n }

/-- What a request's execution answers: the status and the returned data of its ACK. -/
structure Ack where
  status : BitVec 16
  data : List Byte := []
  /-- The ACK is sent later, once what holds it back has completed (R353). -/
  held : Bool := false
  deriving DecidableEq, Repr

/-- OK with data. -/
def Ack.ok (data : List Byte := []) : Ack := { status := Code.ok, data := data }

/-- A refusal without data. -/
def Ack.err (c : BitVec 16) : Ack := { status := c }

/-- A command's execution: what it does and answers. -/
abbrev Body := Ticket → List Byte → State → State × Ack

/-! Opcodes of Table 12-8 that the checks name. -/
namespace Opc
def nop : BitVec 16 := 0x0001
def attrRead : BitVec 16 := 0x0002
def attrWrite : BitVec 16 := 0x0003
def eventRead : BitVec 16 := 0x0006
def sessionOpen : BitVec 16 := 0x0007
def loadMapping : BitVec 16 := 0x0450
def runBlockTest : BitVec 16 := 0x0811
def runCalibration : BitVec 16 := 0x0910
def firmwareLoad : BitVec 16 := 0x0A10
def attest : BitVec 16 := 0x0A12
end Opc

/-- The opcodes of Table 12-8 (R337). -/
def knownOpcodes : List (BitVec 16) :=
  [0x0001, 0x0002, 0x0003, 0x0004, 0x0005, 0x0006, 0x0007, 0x0210, 0x0211, 0x0212, 0x0310, 0x0311, 0x0320, 0x0410,
   0x0430, 0x0431, 0x0450, 0x0451, 0x0470, 0x0490, 0x0491, 0x0492, 0x04A0, 0x04A1, 0x0510, 0x0511, 0x0512, 0x0610,
   0x0611, 0x0710, 0x0711, 0x0712, 0x0810, 0x0811, 0x0812, 0x0813, 0x0910, 0x0A10, 0x0A11, 0x0A12, 0x0B10, 0x0B11]

/-- The header bytes of a request as received (Table 12-2). -/
def reqHeader (q : Req) (opcode : BitVec 16) : List Byte :=
  leBytes 2 q.magic.toNat ++ [q.version, q.queue] ++ leBytes 4 q.seq.toNat ++ leBytes 2 opcode.toNat
    ++ leBytes 2 q.flags.toNat ++ leBytes 2 q.paramLen.toNat ++ leBytes 2 q.status.toNat ++ leBytes 4 q.tag.toNat
    ++ leBytes 8 q.expiry.toNat ++ leBytes 4 q.eventSeq.toNat

/-- The CRC-32C the request should carry, over header and parameters (R316). -/
def reqCrc (q : Req) (opcode : BitVec 16) : BitVec 32 := crc32c (reqHeader q opcode ++ q.params)

/-- The long command a request would become. -/
def reqTicket (q : Req) (opcode : BitVec 16) : Ticket :=
  { port := q.port, queue := q.queue, seq := q.seq, opcode := opcode, tag := q.tag, srcAddr := q.srcAddr
    srcPort := q.srcPort }

/-- The port requires MACsec, and the frame has not come through its secure channel (Table 12-1). -/
def Eth.macsecDrops (e : Eth) (secured : Bool) : Bool := e.macsecEn && !(secured && e.macsecUp)

/-- The longest frame that the port takes (Table 12-1, MAC). -/
def Eth.maxFrame (e : Eth) : Nat := if e.jumbo then 9022 else 1522

/-- The frame carries the port's VID, and no tag where that is 0 (Table 12-1). -/
def Eth.vlanFits (e : Eth) (vid : Option (BitVec 12)) : Bool :=
  if e.vid = 0 then vid == none else vid.map BitVec.toNat == some e.vid

/-- The filters of Table 12-1 that a frame meets, a fragment's too. -/
def Eth.framePasses (e : Eth) (q : Req) : Bool :=
  q.fcsOk && q.intact && e.vlanFits q.vid && q.frameLen ≤ e.maxFrame && !e.macsecDrops q.secured

/-- Check 1: the filters of Table 12-1 and the port's UDP_PORT. -/
def Eth.filterPasses (e : Eth) (q : Req) : Bool := e.framePasses q && q.len ≤ 8192 && q.dstPort.toNat == e.udpPort

/-- The PROTOCOL_COUNTERS words that count a datagram dropped at check 1 (Table 12-15). -/
def Eth.filterWords (e : Eth) (q : Req) : List Nat := if e.macsecDrops q.secured then [1, 7] else [1]

/-- The datagram that a fragment belongs to. -/
def reqKey (q : Req) (ident : BitVec 16) : DatagramKey := { src := q.srcAddr, ident := ident }

/-- A datagram's reassembly is under way, begun at most 2 ms ago (Table 12-1). -/
def Eth.reassembles (e : Eth) (now : Nat) (d : DatagramKey) : Bool :=
  e.reassembly.any fun x => x.1 == d && now ≤ x.2.toNat + 2000000

/-- The source is the session's peer. -/
def Session.isPeer (x : Session) (q : Req) : Bool := x.addr == q.srcAddr && x.port == q.srcPort

/-- R328: a SESSION_OPEN of this source is taken. -/
def State.sessionTaken (s : State) (q : Req) : Bool :=
  let owner := BitVec.ofNat 32 (s.ethOf .a).peerAddr
  match s.session with
  | none => owner == 0 || owner == q.srcAddr
  | some x => x.isPeer q || (owner == 0 && x.lapsed) || (owner != 0 && owner == q.srcAddr)

/-- Check 2: the source may send this request (R327 to R330). -/
def State.sourcePasses (s : State) (q : Req) (opcode : BitVec 16) : Bool :=
  match q.port with
  | .a => if opcode = Opc.sessionOpen then s.sessionTaken q else s.session.any fun x => x.isPeer q
  | .b => let p := (s.ethOf .b).peerAddr
          p == 0 || p == q.srcAddr.toNat

/-- R438: what a port in ROM mode accepts; a port that runs before command-ready accepts the same. -/
def State.romAccepts (waiting : Bool) (q : Req) (opcode : BitVec 16) : Bool :=
  opcode == Opc.nop || (opcode == Opc.sessionOpen && q.port == .a)
    || (opcode == Opc.attrRead && (q.params.length == 8 &&
         (le q.params 0 2 == 0x0000 || le q.params 0 2 == 0x0001 || le q.params 0 2 == 0x0A01)))
    || (opcode == Opc.firmwareLoad && q.port == .a && waiting)

/-- R330: what a port accepts at command-ready. -/
def portAccepts (q : Req) (o : OpRow) : Bool := q.port == .a || o.portB

/-- The commands held back from an activation's acceptance until its switch (R441, step 3). -/
def heldBack (opcode : BitVec 16) : Bool :=
  [Opc.loadMapping, Opc.firmwareLoad, Opc.runBlockTest, Opc.runCalibration, Opc.attest].contains opcode

/-- What the checks of Table 12-3 decide. -/
inductive Gate where
  /-- The port takes no frames: it is down, or its link is. -/
  | deaf
  /-- A fragment waits for the rest of its datagram (R312). -/
  | wait
  /-- Dropped, counted in these words of PROTOCOL_COUNTERS. -/
  | drop (words : List Nat)
  /-- The stored ACK is sent again (R320). -/
  | resend (p : Packet)
  /-- Answered; whether its sequence is consumed. -/
  | reply (a : Ack) (consumed : Bool)
  /-- Every check is passed. -/
  | run
  deriving DecidableEq, Repr

/-- The PROTOCOL_COUNTERS word a refusal counts in, if any (Table 12-15). -/
def replyCounter (c : BitVec 16) : Option Nat :=
  if c = Code.badCrc then some 3 else if c = Code.staleSequence then some 4 else if c = Code.queueFull then some 6
  else none

/-- Check 8: the queue's expected sequence (R319, R320). SESSION_OPEN's is not checked. -/
def Queue.sequenceGate (x : Queue) (q : Req) (opcode : BitVec 16) : Option Gate :=
  if opcode = Opc.sessionOpen ∨ q.seq = x.expected then none
  else if q.seq = x.expected - 1 then
    match x.stored with
    | some p => some (.resend p)
    | none => some (.reply { status := Code.staleSequence, data := leBytes 4 x.expected.toNat } false)
  else some (.reply { status := Code.staleSequence, data := leBytes 4 x.expected.toNat } false)

/-- Checks 9 to 14, and the commands that an armed activation holds back. -/
def State.gateRest (s : State) (o : OpRow) (q : Req) : Gate :=
  if 32 ≤ q.unacked then .reply (.err Code.queueFull) false
  else if q.expiry ≠ 0 ∧ q.expiry.toNat < s.now then .reply (.err Code.tooLate) true
  else if !knownOpcodes.contains o.code then .reply (.err Code.badOpcode) true
  else if !(match s.phase with
            | .rom w => State.romAccepts w q o.code
            | .starting => State.romAccepts false q o.code
            | _ => portAccepts q o) then .reply (.err Code.notPermitted) true
  else if !o.lenOk q.params then .reply (.err Code.badLength) true
  else if o.long && decide (64 ≤ ((s.ethOf q.port).queue q.queue.toNat).outstanding) then
    .reply (.err Code.queueFull) false
  else if s.fw.activate.isSome && heldBack o.code then .reply (.err Code.queueFull) false
  else .run

/-- The sequencer pair moves to another bank (R441, R442). -/
def State.bankSwitching (s : State) : Bool := decide (s.time < s.fw.switchEnd)

/-- Checks 4 to 14; while the sequencers resynchronise, or switch banks, every request is answered with QUEUE_FULL (R367, R441). -/
def State.gateReply (s : State) (o : OpRow) (q : Req) : Gate :=
  if s.resync || s.bankSwitching then .reply (.err Code.queueFull) false
  else if q.len < 36 ∨ q.len ≠ 36 + q.paramLen.toNat ∨ q.params.length ≠ q.paramLen.toNat then
    .reply (.err Code.badLength) false
  else if q.crc ≠ reqCrc q o.code then .reply (.err Code.badCrc) false
  else if q.version ≠ 1 then .reply (.err Code.badOpcode) false
  else if (match q.port with
           | .a => decide (15 < q.queue.toNat)
           | .b => decide (q.queue ≠ 0)) then .reply (.err Code.notPermitted) false
  else match ((s.ethOf q.port).queue q.queue.toNat).sequenceGate q o.code with
    | some g => g
    | none => s.gateRest o q

/-- The checks of Table 12-3 in order (R317). -/
def State.gate (s : State) (o : OpRow) (q : Req) : Gate :=
  let e := s.ethOf q.port
  if !e.up || !e.link then .deaf
  else match q.arrival with
    | .fragment _ => if e.framePasses q then .wait else .drop (e.filterWords q)
    | a =>
      if (match a with
          | .last i => e.framePasses q && !e.reassembles s.now (reqKey q i)
          | _ => false) then .drop []
      else if !e.filterPasses q then .drop (e.filterWords q)
      else if !s.sourcePasses q o.code then .drop [2]
      else if q.magic ≠ 0x4151 ∨ q.flags.toNat % 4 ≠ 0 then .drop [1]
      else s.gateReply o q

/-- Count in a port's PROTOCOL_COUNTERS (Table 12-15). -/
def State.countEth (s : State) (e : EthPort) (w : Nat) : State :=
  let x := s.ethOf e
  s.setEth e { x with counters := x.counters.bump w }

/-- An error that an Ethernet port finds (Table 14-1, Table 14-5); DETECTOR and OUTCOME are DESIGN CHOICE (log 116). -/
def ethernetFault (e : EthPort) : FaultInfo :=
  let f : FaultInfo := { cls := Cls.ce, detector := Config.ethernetDetector, outcome := Outc.none, site := .chip Chip.portA 0 }
  match e with
  | .a => f
  | .b => { f with site := .chip Chip.portB 0, location := 99 }

/-- What arrives at a port fails its FCS or its CRC-32C, or not (R365). -/
def State.linkError (s : State) (e : EthPort) (ok : Bool) : State := if ok then s else s.fault (ethernetFault e)

/-- IPv4 reassembly (R312): a fragment whose frame is taken opens one of four datagrams, the last one closes its own. -/
def State.noteArrival (s : State) (q : Req) : State :=
  let e := s.ethOf q.port
  s.onlyIf (e.framePasses q) fun s =>
    match q.arrival with
    | .whole => s
    | .fragment i =>
      let live := e.reassembly.filter fun x => s.now ≤ x.2.toNat + 2000000
      if e.reassembles s.now (reqKey q i) || 4 ≤ live.length then s
      else s.setEth q.port { e with reassembly := live ++ [(reqKey q i, s.time)] }
    | .last i => s.setEth q.port { e with reassembly := e.reassembly.filter fun x => x.1 != reqKey q i }

/-- The ACK packet of a request (R317, R321). -/
def reqAck (q : Req) (opcode : BitVec 16) (now : Time) (a : Ack) : Packet :=
  { port := q.port, dstAddr := q.srcAddr, dstPort := q.srcPort, queue := q.queue, seq := q.seq, opcode := opcode
    flags := 1, status := a.status, tag := q.tag, time := now, eventSeq := 0, data := a.data }

/-- Send an ACK; a consumed sequence moves the queue on and stores the ACK (R319, R320). -/
def State.answer (s : State) (o : OpRow) (q : Req) (a : Ack) (consumed : Bool) : State :=
  let p := reqAck q o.code s.time a
  let s := ((replyCounter a.status).elim s (s.countEth q.port)).linkError q.port (a.status != Code.badCrc)
  let e := s.ethOf q.port
  let x := e.queue q.queue.toNat
  let s := if consumed then
      s.setEth q.port (e.setQueue q.queue.toNat { x with expected := x.expected + 1, stored := some p })
    else s
  if a.held then { s with fovar := { s.fovar with closeAcks := s.fovar.closeAcks ++ [p] } }
  else s.send ((s.ethOf q.port).packetOut p)

/-- The stored ACK is sent again, with RESENT set and TIME updated, to where this request came from (R317, R320); one that is held back
is still to be sent for the first time. -/
def State.resendAck (s : State) (q : Req) (p : Packet) : State :=
  if s.fovar.closeAcks.contains p then s else (s.countEth q.port 5).send ((s.ethOf q.port).packetOut
    { p with dstAddr := q.srcAddr, dstPort := q.srcPort, flags := 5, time := s.time })

/-- A request is executed: RECEIVED counts it and the peer's lease starts again (R328). -/
def State.noteRequest (s : State) (q : Req) : State :=
  let s := s.countEth q.port 0
  match q.port with
  | .a => { s with session := s.session.map fun x => { x with lastValid := s.time, lapsed := false } }
  | .b => s

/-- A long command that is taken is outstanding from its ACK (R321). -/
def State.noteLong (s : State) (o : OpRow) (q : Req) (a : Ack) : State :=
  if o.long && a.status == Code.accepted then
    let e := s.ethOf q.port
    let x := e.queue q.queue.toNat
    s.setEth q.port (e.setQueue q.queue.toNat { x with outstanding := x.outstanding + 1 })
  else s

/-- Receive a request and, if it passes every check, execute it (R317, R318). SESSION_OPEN leaves e at 0 in every queue and
no ACK stored (R319, R328). -/
def State.lysil (s : State) (o : OpRow) (q : Req) (body : Body) : State :=
  let s := s.begin q.time
  let g := s.gate o q
  let s := match g with
    | .deaf => s
    | _ => s.noteArrival q
  match g with
  | .deaf => s
  | .wait => s
  | .drop ws => (forEach ws (fun w s => s.countEth q.port w) s).linkError q.port q.fcsOk
  | .resend p => s.resendAck q p
  | .reply a consumed => s.answer o q a consumed
  | .run =>
    let s := s.noteRequest q
    let r := body (reqTicket q o.code) q.params s
    (r.1.noteLong o q r.2).answer o q r.2 (o.code != Opc.sessionOpen)

/-- A command's meaning: receive it. -/
def lysil (o : OpRow) (q : Req) (body : Body) (s : State) : Result := .next (s.lysil o q body)

/-- A command whose execution may itself end long commands: their COMPLETIONs follow its ACK (R321). -/
def lysilThen (o : OpRow) (q : Req) (body : Body) (after : State → State) (s : State) : Result :=
  let t := s.lysil o q body
  .next (match (s.begin q.time).gate o q with
    | .run => after t
    | _ => t)

end Sys2Proof.Machine
end

