-- ==== Sys2Proof/Machine/Attr.lean ====
section
/-!
DEFINITION. What the attribute tables of every chapter share: the size and index range of an attribute, the outcome of a
write, and the writes to a pipeline's or a port's shadow (Tables 12-5, R331, R332).
-/

namespace Sys2Proof.Machine

open Sys2Proof

/-- An attribute: its size in 32-bit words, its index count (1 for an attribute without an index), and whether all its
fields are RO. -/
structure AttrSpec where
  words : Nat
  count : Nat
  ro : Bool
  deriving DecidableEq, Repr

/-- A writable attribute. -/
def rw (words : Nat) (count : Nat := 1) : Option AttrSpec := some ⟨words, count, false⟩
/-- A read-only attribute. -/
def roAttr (words : Nat) (count : Nat := 1) : Option AttrSpec := some ⟨words, count, true⟩

/-- What a write of a value ends in: the new state, or the status that refuses it. -/
abbrev Written := Except (BitVec 16) State

/-- A write is refused with a status unless a rule holds. -/
def require (c : Bool) (e : BitVec 16) (k : Written) : Written := if c then k else .error e

/-- A write is refused with NOT_PERMITTED unless a rule holds. -/
def permit (c : Bool) (k : Written) : Written := require c Code.notPermitted k

/-- The fields of a value that are not reserved (R4). -/
def keep (w mask v : Nat) : BitVec w := BitVec.ofNat w (v &&& mask)

/-- The 64-bit word `i` of a value of several. -/
def word64 (v i : Nat) : Nat := v / 2 ^ (64 * i) % 2 ^ 64

/-- The 32-bit word `i` of a value of several. -/
def word32 (v i : Nat) : Nat := v / 2 ^ (32 * i) % 2 ^ 32

/-- A value of several 64-bit words, low first. -/
def join64 : List (BitVec 64) → Nat
  | [] => 0
  | w :: t => w.toNat + 2 ^ 64 * join64 t

/-- Write to a pipeline's shadow. -/
def State.putShadow (s : State) (p : Nat) (f : PipeSettings → PipeSettings) : State :=
  s.updPipe p fun x => { x with shadow := f x.shadow, shadowChanged := true }

/-- Write to a port's shadow. -/
def State.putPortShadow (s : State) (p : Nat) (f : PortSettings → PortSettings) : State :=
  s.updPort p fun x => { x with shadow := f x.shadow, shadowChanged := true }

/-- A flag as a bit at position `n`. -/
def flagAt (n : Nat) (b : Bool) : Nat := if b then 2 ^ n else 0

end Sys2Proof.Machine
end

