-- ==== Sys2Proof/Machine/SedgeAttr.lean ====
section
/-!
DEFINITION. The attributes of the sedge ports (R40, R45, R47, R51, Tables 02-7 to 02-17) and what a port's settings do as
they go live (R36, R471).
-/

namespace Sys2Proof.Machine

open Sys2Proof

/-! ## Fields -/

/-- PORT_MODE (Table 02-8). -/
def PortSettings.enable (c : PortSettings) : Bool := c.mode.getLsbD 11
def PortSettings.fsyncEn (c : PortSettings) : Bool := c.mode.getLsbD 10
def PortSettings.lineSelDe (c : PortSettings) : Bool := c.mode.getLsbD 6
def PortSettings.laneSwap (c : PortSettings) : Bool := c.mode.getLsbD 5
def PortSettings.two12 (c : PortSettings) : Bool := bits 3 2 c.mode == 1
def PortSettings.modeField (c : PortSettings) : Nat := bits 1 0 c.mode
/-- Raw words of 12 bits: SINGLE12 and TWO12 (Table 02-2). -/
def PortSettings.raw12 (c : PortSettings) : Bool := c.modeField == 0 || c.two12
/-- PORT_GEOMETRY (Table 02-9). -/
def PortSettings.vStart (c : PortSettings) : Nat := bits 63 48 c.geometry
def PortSettings.hStart (c : PortSettings) : Nat := bits 47 32 c.geometry
def PortSettings.height (c : PortSettings) : Nat := bits 31 16 c.geometry
def PortSettings.width (c : PortSettings) : Nat := bits 15 0 c.geometry
/-- FRAME_TIMING (Table 02-11). -/
def PortSettings.maxFrameUs (c : PortSettings) : Nat := bits 63 32 c.timing
def PortSettings.lineTime (c : PortSettings) : Nat := bits 31 0 c.timing
/-- FSYNC_CONFIG (Table 02-12). -/
def PortSettings.fsyncWidthUs (c : PortSettings) : Nat := bits 63 48 c.fsync
def PortSettings.fsyncDiv (c : PortSettings) : Nat := bits 43 40 c.fsync + 1
def PortSettings.fsyncPhase (c : PortSettings) : Nat := bits 31 0 c.fsync
/-- HDR_CONFIG (Table 02-13). -/
def PortSettings.exposures (c : PortSettings) : Nat := bits 37 36 c.hdr + 1
def PortSettings.patLen (c : PortSettings) : Nat := bits 35 32 c.hdr + 1
def PortSettings.pattern (c : PortSettings) (i : Nat) : Nat := bits (2 * i + 1) (2 * i) c.hdr
def PortSettings.offset (c : PortSettings) (e : Nat) : Nat := bits (43 + 6 * e) (38 + 6 * e) c.hdr

/-! ## The checks of a write -/

/-- Pixels per PCLK cycle (Table 02-2). -/
def pixelsPerCycle (mode pack : Nat) : Nat := if mode < 2 then 1 else if pack = 1 then 4 else 2

/-- The conditions that tie H_START and WIDTH to MODE, PACK and LINE_SEL (R51, Table 02-9). -/
def geometryFits (mode : Nat) (geometry : Nat) : Bool :=
  let m := fld 1 0 mode
  let k := fld 3 2 mode
  let h := fld 47 32 geometry
  (if mode.testBit 6 then h == 0 else h % pixelsPerCycle m k == 0)
    && (k != 1 || fld 15 0 geometry % 4 == 0)

/-- PORT_MODE's encodings: MODE 3, PACK 2 and 3 are reserved, TWO12 is for DUAL24 only. -/
def modeLegal (mode : Nat) : Bool := fld 1 0 mode != 3 && (fld 3 2 mode == 0 || (fld 3 2 mode == 1 && fld 1 0 mode == 2))

/-- PORT_GEOMETRY's ranges. -/
def geometryLegal (g : Nat) : Bool :=
  decide (fld 63 48 g ≤ 1023) && decide (fld 47 32 g ≤ 8191) && decide (16 ≤ fld 31 16 g) && decide (fld 31 16 g ≤ 2160)
    && fld 31 16 g % 2 == 0 && decide (64 ≤ fld 15 0 g) && decide (fld 15 0 g ≤ 3840) && fld 15 0 g % 2 == 0

/-- FRAME_TIMING's ranges. -/
def timingLegal (v : Nat) : Bool :=
  (fld 63 32 v == 0 || (decide (1000 ≤ fld 63 32 v) && decide (fld 63 32 v ≤ 1000000)))
    && decide (1000 ≤ fld 31 0 v) && decide (fld 31 0 v ≤ 1000000)

/-- FSYNC_CONFIG: WIDTH_US 1 to 1,000; PHASE_NS below the nominal frame period, WIDTH_US µs below half of it (R45). -/
def fsyncLegal (b : TimeBase) (v : Nat) : Bool :=
  let n := (fld 43 40 v + 1) * b.num
  decide (1 ≤ fld 63 48 v) && decide (fld 63 48 v ≤ 1000) && decide (fld 31 0 v * b.den < n)
    && decide (2 * 1000 * fld 63 48 v * b.den < n)

/-- HDR_CONFIG's checks (R40). -/
def hdrLegal (v : Nat) : Bool :=
  let e := fld 37 36 v + 1
  let pat := (List.range (fld 35 32 v + 1)).map fun i => fld (2 * i + 1) (2 * i) v
  e != 4 && decide (fld 43 38 v ≤ 32) && decide (fld 49 44 v ≤ 32) && decide (fld 55 50 v ≤ 32)
    && (e == 1 || ((List.range e).all (fun x => pat.contains x) && pat.all fun x => decide (x < e) || x == 3))

/-- I2C_CONFIG's ranges. -/
def i2cLegal (v : Nat) : Bool := decide (100 ≤ fld 31 16 v) && decide (fld 31 16 v ≤ 25000) && fld 1 0 v != 3

/-! ## The attributes -/

/-- Table 02-7. -/
def sedgeSpec (id : Nat) : Option AttrSpec :=
  if id = 0x0200 ∨ id = 0x0202 ∨ id = 0x0206 ∨ id = 0x0208 ∨ id = 0x020A then rw 1 24
  else if id = 0x0201 ∨ id = 0x0203 ∨ id = 0x0204 ∨ id = 0x0205 then rw 2 24
  else if id = 0x0209 then roAttr 8 24
  else none

/-- STATE of PORT_STATUS. -/
def portStateCode : PortState → Nat
  | .disabled => 0
  | .idle => 1
  | .waitFrame => 2
  | .inFrame => 3

/-- PORT_STATUS (Table 02-15). -/
def Port.statusWord (p : Port) : Nat :=
  p.pclkFreq.toNat * 2 ^ 16 + flagAt 4 p.pclkStopped + flagAt 3 p.clockFault + portStateCode p.state

/-- Read a sedge attribute. -/
def State.sedgeRead (s : State) (id i : Nat) (shadow : Bool) : Nat :=
  let p := s.port i
  let c := if shadow then p.shadow else p.live
  if id = 0x0200 then c.mode.toNat
  else if id = 0x0201 then c.geometry.toNat
  else if id = 0x0202 then c.pad.toNat
  else if id = 0x0203 then c.timing.toNat
  else if id = 0x0204 then c.fsync.toNat
  else if id = 0x0205 then c.hdr.toNat
  else if id = 0x0206 then p.i2cConfig.toNat
  else if id = 0x0208 then p.statusWord
  else if id = 0x0209 then ofWords (p.counters.words 8)
  else (s.pipe i).source.toNat

/-- A port is already named by another pipeline (R47). -/
def State.portNamed (s : State) (p port : Nat) : Bool :=
  (List.range 24).any fun q => q != p && (s.pipe q).sourcePort == some port

/-- Write a sedge attribute; `again` is the W1C bits that hardware sets in the same cycle (R6). -/
def State.sedgeWrite (s : State) (id i v again : Nat) : Written :=
  let c := (s.port i).shadow
  if id = 0x0200 then
    let v := v % 2 ^ 12
    permit (modeLegal v && geometryFits v c.geometry.toNat)
      (.ok (s.putPortShadow i fun x => { x with mode := BitVec.ofNat 32 v }))
  else if id = 0x0201 then
    permit (geometryLegal v && geometryFits c.mode.toNat v)
      (.ok (s.putPortShadow i fun x => { x with geometry := BitVec.ofNat 64 v }))
  else if id = 0x0202 then .ok (s.putPortShadow i fun x => { x with pad := keep 32 0xFF_FFFF v })
  else if id = 0x0203 then
    permit (timingLegal v) (.ok (s.putPortShadow i fun x => { x with timing := BitVec.ofNat 64 v }))
  else if id = 0x0204 then
    permit (fsyncLegal s.base v) (.ok (s.putPortShadow i fun x => { x with fsync := keep 64 0xFFFF_0F00_FFFF_FFFF v }))
  else if id = 0x0205 then
    permit (hdrLegal v) (.ok (s.putPortShadow i fun x => { x with hdr := keep 64 0x00FF_FFFF_FFFF_FFFF v }))
  else if id = 0x0206 then
    permit (i2cLegal v) (.ok (s.updPort i fun x => { x with i2cConfig := keep 32 0xFFFF_0003 v }))
  else if id = 0x0208 then
    .ok (s.updPort i fun x => { x with pclkStopped := (x.pclkStopped && !v.testBit 4) || again.testBit 4 })
  else
    let n := v % 256
    permit ((s.pipe i).stream == .stopped) (permit (decide (n < 24) || n == 0xFF)
      (require (n == 0xFF || !s.portNamed i n) Code.portShared
        (.ok (s.updPipe i fun x => { x with source := BitVec.ofNat 32 n }))))

/-! ## Settings that go live (R36, R468, R471) -/

/-- The port goes DISABLED: it discards what it was discarding and drives FSYNC no longer. -/
def Port.disable (p : Port) : Port :=
  { p with state := .disabled, frame := none, disableDue := false, fsync := false }

/-- A new MODE, PACK or PCLK_INV restarts the port's calibration: a run in progress measured under the old mode (R417). -/
def Port.recalibrate (p : Port) (c : PortSettings) (on : Bool) : Port :=
  if on && bits 4 0 c.mode != bits 4 0 p.live.mode then { p with calRunning := true, calCause := some .modeChange } else p

/-- A new PHASE_NS or DIV_M1 takes the place of the old ones (R46). -/
def Port.rephase (p : Port) (c : PortSettings) : Port :=
  { p with fsyncMoved := p.fsyncMoved || c.fsyncPhase != p.live.fsyncPhase || c.fsyncDiv != p.live.fsyncDiv }

/-- Port settings go live; `on` is whether the port's front end is powered (R411). With ENABLE = 0 a started frame is first
carried to its end, with FSYNC driven as before (R471); with ENABLE = 1 a DISABLED port without CLOCK_FAULT goes IDLE. -/
def Port.goLive (p : Port) (c : PortSettings) (on : Bool) : Port :=
  let p := (p.recalibrate c on).rephase c
  let was := if p.disableDue then p.fsyncKept else p.live
  let p := { p with live := c, pending := none, wantsPower := c.enable && !on }
  if c.enable then
    { p with disableDue := false, fsync := p.fsync && c.fsyncEn
             state := if p.state == .disabled && !p.clockFault && on then .idle else p.state }
  else if p.frame.any fun f => f.job.isSome && !f.ended then { p with disableDue := true, fsyncKept := was }
  else p.disable

/-- The front end of port (and pipeline) `n` is powered (Table 15-4, domain 68 + n). -/
def State.frontOn (s : State) (n : Nat) : Bool := (s.domain (68 + n)).isOn

/-- A port changes; when it leaves DISABLED for IDLE its suppression window has 1 µs left (R385). -/
def State.portChange (s : State) (n : Nat) (p : Port) : State :=
  let was := (s.port n).state
  let s := s.setPort n p
  if was == .disabled && p.state != .disabled then s.suppressTail (.sedge (Fin.ofNat 24 n)) else s

/-- A port's pending settings, if any, go live. -/
def State.portGoLive (s : State) (n : Nat) : State :=
  match (s.port n).pending with
  | some c => s.portChange n ((s.port n).goLive c (s.frontOn n))
  | none => s

/-- The ports whose settings a COMMIT that names pipeline `p` carries (R468): its source, and port `p` when no pipeline
names that. -/
def State.carriedPorts (s : State) (p : Nat) : List Nat :=
  (s.pipe p).sourcePort.toList
    ++ (if (List.range 24).any fun q => (s.pipe q).sourcePort == some p then [] else [p])

/-- The nominal frame period in ns times DEN (R45). -/
def State.nominalNum (s : State) (c : PortSettings) : Nat := c.fsyncDiv * s.base.num

end Sys2Proof.Machine
end

