-- ==== Sys2Proof/Machine/FrontAttr.lean ====
section
/-!
DEFINITION. The attributes of the front ends and heron units (R75, R81, Tables 03-5 to 03-16), the line-buffer count of
R68, and the two loads of a pipeline's curves and defects (R60, R64).
-/

namespace Sys2Proof.Machine

open Sys2Proof

/-! ## Fields -/

/-- FE_CONTROL (Table 03-6). -/
def PipeSettings.dynThr (c : PipeSettings) : Nat := bits 63 40 c.feControl
def PipeSettings.motionThr (c : PipeSettings) : Nat := bits 39 32 c.feControl
def PipeSettings.yuvMatrix (c : PipeSettings) : Nat := bits 19 18 c.feControl
def PipeSettings.yuvFull (c : PipeSettings) : Bool := c.feControl.getLsbD 17
def PipeSettings.statsEn (c : PipeSettings) : Bool := c.feControl.getLsbD 7
def PipeSettings.dynDefectEn (c : PipeSettings) : Bool := c.feControl.getLsbD 6
def PipeSettings.staticDefectEn (c : PipeSettings) : Bool := c.feControl.getLsbD 5
def PipeSettings.cfaOrder (c : PipeSettings) : Nat := bits 1 0 c.feControl
/-- BLACK_LEVEL of Bayer channel `ch` (R, Gr, Gb, B). -/
def PipeSettings.blackLevel (c : PipeSettings) (ch : Nat) : Nat := ((c.black.toList).getD ch 0).toNat
/-- MERGE_CONFIG word `e` (Table 03-8). -/
def PipeSettings.gain (c : PipeSettings) (e : Nat) : Nat := bits 63 48 ((c.merge.toList).getD e 0)
def PipeSettings.knee (c : PipeSettings) (e : Nat) : Nat := bits 47 24 ((c.merge.toList).getD e 0)
def PipeSettings.ramp (c : PipeSettings) (e : Nat) : Nat := bits 23 0 ((c.merge.toList).getD e 0)
/-- LUMA_WEIGHTS (Table 03-9). -/
def PipeSettings.wr (c : PipeSettings) : Nat := bits 29 20 c.luma
def PipeSettings.wg (c : PipeSettings) : Nat := bits 19 10 c.luma
def PipeSettings.wb (c : PipeSettings) : Nat := bits 9 0 c.luma
/-- Coefficient (i, j) of FALLBACK_MATRIX (Table 03-10). -/
def PipeSettings.coef (c : PipeSettings) (i j : Nat) : Int :=
  toSigned 16 (bits (47 - 16 * j) (32 - 16 * j) ((c.matrix.toList).getD i 0))
/-- FALLBACK_BUFFER (Table 03-11). -/
def PipeSettings.fbSize (c : PipeSettings) : Nat := bits 51 36 c.fbBuffer * 65536
def PipeSettings.fbBase (c : PipeSettings) : Nat := bits 35 0 c.fbBuffer
/-- STATS_RING (Table 03-12). -/
def PipeSettings.statsMsix (c : PipeSettings) : Bool := c.statsRing.getLsbD 63
def PipeSettings.statsVector (c : PipeSettings) : BitVec 11 := BitVec.ofNat 11 (bits 62 52 c.statsRing)
def PipeSettings.statsSlotsM1 (c : PipeSettings) : Nat := bits 51 44 c.statsRing
def PipeSettings.statsBase (c : PipeSettings) : Nat := bits 35 0 c.statsRing

/-- HERON_ASSIGN (Table 03-15). -/
def Heron.latency (h : Heron) : Nat := bits 9 8 h.assign
def Heron.pipeline (h : Heron) : Nat := bits 7 0 h.assign

/-- The heron unit that serves pipeline `p`, if any. -/
def State.heronOf (s : State) (p : Nat) : Option Nat := (indices 4 fun u => (s.heron u).pipeline == p).head?

/-! ## The line buffer (R68, R206) -/

/-- One counted line of an interleaved frame: rows delivered by exposure, placeholders still to come, as pattern entry
`x` delivers it (R39). -/
def takeLine (c : PortSettings) (x : Nat) (rows skips : List Nat) : List Nat × List Nat :=
  if c.exposures ≤ x then (rows, skips)
  else if skips.getD x 0 != 0 then (rows, skips.set x (skips.getD x 0 - 1))
  else if rows.getD x 0 < c.height then (rows.set x (rows.getD x 0 + 1), skips)
  else (rows, skips)

/-- The most raw lines held at once from counted line `k` on (R68). -/
def heldFrom (c : PortSettings) : Nat → Nat → List Nat → List Nat → Nat
  | 0, _, _, _ => 0
  | n + 1, k, rows, skips =>
    let (rows, skips) := takeLine c (c.pattern (k % c.patLen)) rows skips
    let low := rows.foldl min c.height
    if low = c.height then 0 else max (rows.sum - rows.length * low) (heldFrom c n (k + 1) rows skips)

/-- The raw lines held for alignment: the largest number at any point of a frame. -/
def rawHeld (c : PortSettings) : Nat :=
  if c.exposures = 1 then 0
  else heldFrom c (c.patLen * (c.height + 33)) 0 (List.replicate c.exposures 0) ((List.range c.exposures).map c.offset)

/-- Slots that a configuration needs: the window, the raw lines, the encoded rows of the halo (R68, R206). -/
def lineNeed (c : PortSettings) (halo : Nat) : Nat := 10 + rawHeld c * (if c.raw12 then 1 else 2) + 3 * halo

/-- The line buffer's capacity in slots of WIDTH × 1.5 bytes. -/
def lineCapacity (c : PortSettings) : Nat := 2097152 / (3 * c.width)

/-- The port whose geometry a pipeline's FE_STATUS shows: its source, or the port of the same number (log 19). -/
def State.statusPort (s : State) (p : Nat) : Nat := ((s.pipe p).sourcePort).getD p

/-- FE_STATUS (Table 03-16). LB_NEEDED and LB_CAPACITY are the live need and capacity from reset on, as R68 has them, where the table's
Reset column gives 0 (DEDUCED, log 87). -/
def State.feStatus (s : State) (p : Nat) : Nat :=
  let c := (s.port (s.statusPort p)).live
  let x := s.pipe p
  let u := s.heronOf p
  lineNeed c (x.haloTop + x.haloBottom) * 2 ^ 48 + lineCapacity c * 2 ^ 32
    + (u.elim 0 fun u => (x.exposures.filter fun e => e.unit == some u).length) * 2 ^ 4 + flagAt 2 u.isSome + u.getD 0

/-! ## The attributes -/

/-- Table 03-5. -/
def frontSpec (id : Nat) : Option AttrSpec :=
  if id = 0x0300 ∨ id = 0x0305 ∨ id = 0x0306 then rw 2 24
  else if id = 0x0301 then rw 4 24
  else if id = 0x0302 ∨ id = 0x0304 then rw 6 24
  else if id = 0x0303 ∨ id = 0x0307 then rw 1 24
  else if id = 0x0308 ∨ id = 0x030A then roAttr 2 24
  else if id = 0x0309 then rw 1 4
  else none

/-- Read a front-end attribute. -/
def State.frontRead (s : State) (id i : Nat) (shadow : Bool) : Nat :=
  let p := s.pipe i
  let c := if shadow then p.shadow else p.live
  if id = 0x0300 then c.feControl.toNat
  else if id = 0x0301 then ofWords c.black.toList
  else if id = 0x0302 then join64 c.merge.toList
  else if id = 0x0303 then c.luma.toNat
  else if id = 0x0304 then join64 c.matrix.toList
  else if id = 0x0305 then c.fbBuffer.toNat
  else if id = 0x0306 then c.statsRing.toNat
  else if id = 0x0307 then p.statsConsumed.toNat
  else if id = 0x0308 then p.statsDropped.toNat * 2 ^ 32 + p.statsProducer.toNat
  else if id = 0x0309 then (s.heron i).assign.toNat
  else s.feStatus i

/-- MERGE_CONFIG word: GAIN not 0, RAMP at most KNEE (Table 03-8). -/
def mergeLegal (w : Nat) : Bool := fld 63 48 w != 0 && decide (fld 23 0 w ≤ fld 47 24 w)

/-- A pipeline streams (R36, R75; log 12): it is STREAMING. -/
def State.streams (s : State) (p : Nat) : Bool := decide (p < 24) && (s.pipe p).stream == .streaming

/-- Write a front-end attribute. -/
def State.frontWrite (s : State) (id i v : Nat) : Written :=
  if id = 0x0300 then
    permit (fld 19 18 v != 3) (.ok (s.putShadow i fun x => { x with feControl := keep 64 0xFFFF_FFFF_000E_00E3 v }))
  else if id = 0x0301 then
    .ok (s.putShadow i fun x => { x with black := Vector.ofFn fun j : Fin 4 => keep 32 0xFF_FFFF (word32 v j) })
  else if id = 0x0302 then
    permit ((List.range 3).all fun e => mergeLegal (word64 v e))
      (.ok (s.putShadow i fun x => { x with merge := Vector.ofFn fun j : Fin 3 => BitVec.ofNat 64 (word64 v j) }))
  else if id = 0x0303 then
    permit (fld 29 20 v + fld 19 10 v + fld 9 0 v == 1024)
      (.ok (s.putShadow i fun x => { x with luma := keep 32 0x3FFF_FFFF v }))
  else if id = 0x0304 then
    .ok (s.putShadow i fun x => { x with matrix := Vector.ofFn fun j : Fin 3 => keep 64 0xFFFF_FFFF_FFFF (word64 v j) })
  else if id = 0x0305 then
    permit (fld 35 0 v % 65536 == 0 && decide (fld 35 0 v < 2 ^ 35)) (.ok (s.putShadow i fun x => { x with fbBuffer := keep 64 0xF_FFFF_FFFF_FFFF v }))
  else if id = 0x0306 then
    permit (fld 35 0 v % 64 == 0) (.ok (s.putShadow i fun x => { x with statsRing := keep 64 0xFFFF_F00F_FFFF_FFFF v }))
  else if id = 0x0307 then .ok (s.updPipe i fun x => { x with statsConsumed := keep 32 0xFF v })
  else
    let n := v % 256
    let old := (s.heron i).pipeline
    permit (!s.streams old && !s.streams n)
      (permit (fld 9 8 v != 0 && (decide (n < 24) || n == 0xFF))
        (permit (n == 0xFF || (List.range 4).all fun u => u == i || (s.heron u).pipeline != n)
          (.ok (s.setHeron i { s.heron i with assign := keep 32 0x3FF v, applied := [] }))))

/-! ## Loads -/

/-- A list never decreases. -/
def nonDecreasing : List Nat → Bool
  | a :: b :: t => decide (a ≤ b) && nonDecreasing (b :: t)
  | _ => true

/-- Entries of the static defect table ascend by row, then column: as y × 4,096 + x (R63). -/
def ascending : List Nat → Bool
  | a :: b :: t => decide (a < b) && ascending (b :: t)
  | _ => true

/-- The values of a run of `w`-byte words. -/
def valuesOf (w : Nat) (l : List Byte) : List Nat := (List.range (l.length / w)).map fun i => le l (w * i) w

/-- LOAD_CURVE (R60). -/
def loadCurveBody : Body := fun _ p s =>
  let pipe := le p 0 1
  let k := le p 1 1
  let points := p.drop 4
  let linear := k < 3
  if 24 ≤ pipe ∨ 5 ≤ k then (s, .err Code.notPermitted)
  else
    let vs := valuesOf (if linear then 4 else 2) points
    if nonDecreasing vs && vs.all (fun x => decide (x < (if linear then 2 ^ 24 else 2 ^ 12))) then
      (s.putShadow pipe fun x => { x with curves := Tab.insert k vs x.curves }, .ok)
    else (s, .err Code.notPermitted)

def execLoadCurve (q : Req) (s : State) : Result :=
  lysil { code := 0x0310
          lenOk := fun p => if le p 1 1 < 3 then p.length == 1032 else if le p 1 1 < 5 then p.length == 550
                            else p.length == 1032 || p.length == 550 } q loadCurveBody s

/-- LOAD_DEFECTS (R64). Table entries stay as they are read, 32 bits each. WIDTH and HEIGHT are those of the shadow geometry of the port
whose FE_STATUS shows (DESIGN CHOICE, log 85). -/
def loadDefectsBody : Body := fun _ p s =>
  let pipe := le p 0 1
  let start := le p 2 2
  let count := le p 4 2
  let new := valuesOf 4 (p.drop 8)
  let old := (s.pipe pipe).shadow.defects
  let c := (s.port (s.statusPort pipe)).shadow
  if 24 ≤ pipe ∨ 4095 < start ∨ 256 < count then (s, .err Code.notPermitted)
  else
    let keys := new.map fun e => fld 23 12 e * 4096 + fld 11 0 e
    let before := if start = 0 then [] else
      [(old.getD (start - 1) 0).toNat].map fun e => fld 23 12 e * 4096 + fld 11 0 e
    if decide (start ≤ old.length) && decide (start + count ≤ 4096)
        && new.all (fun e => decide (fld 11 0 e < c.width) && decide (fld 23 12 e < c.height))
        && ascending (before ++ keys) then
      (s.putShadow pipe fun x => { x with defects := old.take start ++ new.map (keep 32 0xFF_FFFF) }, .ok)
    else (s, .err Code.notPermitted)

def execLoadDefects (q : Req) (s : State) : Result :=
  lysil { code := 0x0311, lenOk := fun p => p.length == 8 + 4 * le p 4 2 } q loadDefectsBody s

end Sys2Proof.Machine
end

