-- ==== Sys2Proof/Machine/Arith.lean ====
section
/-!
DEFINITION. The narrow arithmetic of chapter 04, exact on integers: rounding shifts, weight codes, the Isauri-40
accumulator (R98, R99), requantisation (R102 to R107), and the peat codec and Winograd transforms of chapter 07.
-/

namespace Sys2Proof.Machine

open Sys2Proof

/-! ## Rounding -/

/-- An integer divided by a positive one, to nearest, ties to even (R190's rne_div). -/
def rneDiv (v : Int) (n : Nat) : Int :=
  let q := v.ediv n
  let r := v.emod n
  if 2 * r < n then q else if (n : Int) < 2 * r then q + 1 else if q % 2 = 0 then q else q + 1

/-- rne_shift of R99: v / 2^k to nearest, ties to even; a shift of 41 or more gives 0. -/
def rneShift (v : Int) (k : Nat) : Int := if 41 ≤ k then 0 else rneDiv v (2 ^ k)

/-! ## Codes (R83 to R87) -/

/-- The code of an activation width field: 0 is 4 bits, 1 is 3, 2 is 2 (Table 04-2). -/
def widthBits (w : Nat) : Nat := if w = 0 then 4 else if w = 1 then 3 else 2

/-- The 4-bit container of element `i` in a run of bytes: the lower index in bits [3:0] (R83). -/
def nibble (l : List Byte) (i : Nat) : Nat :=
  let b := (l.getD (i / 2) 0).toNat
  if i % 2 = 0 then b % 16 else b / 16

/-- The significand of an activation code (R85): the upper container bits are ignored (R83). -/
def actSig (width zp code : Nat) : Int := (code % 2 ^ widthBits width : Nat) - (zp : Int)

/-- Bits per weight code (Table 04-1). -/
def kindBits (kind : Nat) : Nat := if kind = 0 then 4 else if kind = 3 then 1 else 2

/-- Weight code `i` of a run of bytes: the lower index in the lower bits (R84). -/
def weightCode (kind : Nat) (l : List Byte) (i : Nat) : Nat :=
  let b := kindBits kind
  (l.getD (i * b / 8) 0).toNat / 2 ^ (i * b % 8) % 2 ^ b

/-- The significand of a weight code (R84, R85). -/
def weightSig (kind zp code : Nat) : Int :=
  if kind = 2 then (if code = 1 then 1 else if code = 3 then -1 else 0)
  else if kind = 3 then (if code = 1 then 1 else -1)
  else (code : Int) - zp

/-- Products per lane w of an operand pair (Tables 04-4 and 05-1): `a` the A width field, `k` the weight kind or the
kind that a B activation counts as. -/
def lanesOf (a k : Nat) : Nat :=
  if a = 2 then (if k = 0 then 2 else 4) else if k = 0 then 1 else if k = 3 then 4 else 2

/-- κ, the k positions of a slice (Table 05-1). -/
def kappaOf (w : Nat) : Nat := 16 * w

/-- The largest k per step (Table 04-6); 32,768 × κ of R13 is never smaller. -/
def kMaxOf (w : Nat) : Nat := 32768 * w

/-- c_min of a divider code (Table 15-2). -/
def cMin (code : Nat) : Nat := if code = 3 then 1 else 2

/-- ACLK cycles of a step over K positions (R116). -/
def stepCycles (k kappa code : Nat) : Nat := max ((k + kappa - 1) / kappa) (cMin code)


/-! ## Isauri-40 (R98, R99) -/

/-- The final shift of R99: back into 40 bits, then the exponent's clamp. The flag says that it saturated. -/
def normI40 (s e : Int) : Isauri40 × Bool :=
  let a := if s < -(2 ^ 39) ∨ 2 ^ 39 - 1 < s then (rneShift s 1, e + 1) else (s, e)
  if 127 < a.2 then (⟨if 0 < a.1 then 2 ^ 39 - 1 else -(2 ^ 39), 127⟩, true) else (⟨a.1, a.2⟩, false)

/-- Add a step sum `p` with exponent `f` to an element (R99). -/
def addI40 (x : Isauri40) (p f : Int) : Isauri40 × Bool :=
  if p = 0 then (x, false)
  else if x.sig = 0 then (⟨p, f⟩, false)
  else if x.exp < f then normI40 (rneShift x.sig (f - x.exp).toNat + p) f
  else normI40 (x.sig + rneShift p (x.exp - f).toNat) x.exp

/-- Bring a wide sum into range by repeated final shifts of R99 (R190). -/
def shrinkI40 : Nat → Int → Int → Isauri40 × Bool
  | 0, s, e => normI40 s e
  | n + 1, s, e => if s < -(2 ^ 39) ∨ 2 ^ 39 - 1 < s then shrinkI40 n (rneShift s 1) (e + 1) else normI40 s e

/-- Compare two exact values across exponents (R189). -/
def ltI40 (a b : Isauri40) : Bool :=
  let m := min a.exp b.exp
  decide (a.sig * 2 ^ (a.exp - m).toNat < b.sig * 2 ^ (b.exp - m).toNat)

/-! ## Requantisation (R101 to R107) -/

/-- The quotient of an element under shift x (R102). -/
def quotient (v : Isauri40) (x : Int) : Int :=
  if x ≤ v.exp then v.sig * 2 ^ (v.exp - x).toNat else rneShift v.sig (x - v.exp).toNat

/-- The code of an element under shift x, for width b and zero point z; and whether it counts as clipped (R102): a side
with no headroom clamps without counting. -/
def requant (b z : Nat) (v : Isauri40) (x : Int) : Nat × Bool :=
  let q := quotient v x
  let top : Int := 2 ^ b - 1
  let c := z + q
  if c < 0 then (0, decide (z ≠ 0)) else if top < c then (2 ^ b - 1, decide ((z : Int) ≠ top)) else (c.toNat, false)

/-- Whether a shift fits every value of a group (R103). -/
def fitsShift (b z : Nat) (vs : List Isauri40) (x : Int) : Bool :=
  let p : Int := 2 ^ b - 1 - z
  vs.all fun v => (p = 0 || quotient v x ≤ p) && (z = 0 || -(quotient v x) ≤ (z : Int))

/-- The smallest fitting shift from x upward, at most +31 (R103). -/
def searchShift (b z : Nat) (vs : List Isauri40) : Nat → Int → Int
  | 0, x => x
  | n + 1, x => if x < 31 ∧ !fitsShift b z vs x then searchShift b z vs n (x + 1) else x

/-- The shift and FLAT of a group from its non-poisoned values (R103 to R105); `poisoned` says that it also holds
poisoned elements. -/
def onlineShift (b z : Nat) (vs : List Isauri40) (poisoned : Bool) : Int × Bool :=
  if vs.isEmpty then (-32, !poisoned)
  else if vs.all fun v => v.sig = 0 then (-32, true)
  else (searchShift b z vs 63 (-32), false)

/-- A shift entry (Table 04-5). -/
def shiftEntry (x : Int) (flat replayed : Bool) : Byte :=
  BitVec.ofNat 8 ((x.emod 64).toNat + (if flat then 128 else 0) + (if replayed then 64 else 0))

/-- SHIFT of an entry. -/
def entryShift (e : Byte) : Int := toSigned 6 (e.toNat % 64)

/-- Whether a CARRIED group is flagged for replay (R107): x_m and x_c differ, and it clips too much or its codes all lie
within 1 of z; a flat group never is. -/
def flagged (thr n z clipped : Nat) (codes : List Nat) (xm xc : Int) (flat : Bool) : Bool :=
  !flat && xm != xc && (decide (thr * n < clipped * 1024) || codes.all fun c => z ≤ c + 1 && c ≤ z + 1)

/-! ## Winograd (R183 to R187) -/

/-- Bᵀ applied to a column of four (R183). -/
def btRow (a b c d : Int) : List Int := [a - c, b + c, c - b, b - d]

/-- Transpose a list of four rows of four. -/
def transpose4 (m : List (List Int)) : List (List Int) :=
  (List.range 4).map fun j => m.map fun r => r.getD j 0

/-- Apply Bᵀ to each row of a 4 × 4 matrix seen as columns. -/
def btEach (m : List (List Int)) : List (List Int) :=
  m.map fun r => btRow (r.getD 0 0) (r.getD 1 0) (r.getD 2 0) (r.getD 3 0)

/-- u = Bᵀ d' B (R183). -/
def winoInput (d : List (List Int)) : List (List Int) := btEach (transpose4 (btEach (transpose4 d)))

/-- An aligned significand of R183. -/
def winoAlign (d x xp : Int) : Int :=
  if xp ≤ x then d * 2 ^ (x - xp).toNat else rneShift d (xp - x).toNat

/-- The two signed digits of EXACT mode: low, high (R184). -/
def winoDigits (u : Int) : Int × Int :=
  let l := (u + 8).emod 16 - 8
  (l, (u - l) / 16)

/-- The group shift j of REQUANTISED mode (R185). -/
def winoShift (us : List Int) : Nat :=
  let big := us.foldl (fun m u => max m u.natAbs) 0
  ((List.range 5).find? fun j => rneShift big j ≤ 15).getD 4

/-- The coefficient of transform position (i, j) in output (a, b): Aᵀ M A (R187). -/
def winoCoef (a i : Nat) : Int :=
  if a = 0 then (if i < 3 then 1 else 0) else (if i = 0 then 0 else if i = 1 then 1 else -1)

/-! ## The peat codec (R194 to R197) -/

/-- Payload bits per element of PEAT 1 and 2. -/
def peatBits (p : Nat) : Nat := if p = 1 then 3 else 2

/-- Payload bytes of a peat block (R195). -/
def peatPayload (p : Nat) : Nat := 8 * peatBits p

/-- Round up to a multiple of 64. -/
def up64 (n : Nat) : Nat := (n + 63) / 64 * 64

/-- Peat blocks along a row. -/
def peatBlocks (wAlloc : Nat) : Nat := (wAlloc + 63) / 64

/-- Bytes of a compressed row (R195). -/
def peatRow (p cw wAlloc : Nat) : Nat := up64 (peatBlocks wAlloc * cw * peatPayload p) + up64 (peatBlocks wAlloc * cw)

/-- The shift s of a block whose codes span R (R196). -/
def peatShift (b r : Nat) : Nat := ((List.range 4).find? fun s => rneShift r s ≤ (2 ^ b - 1 : Nat)).getD 3

/-- Encode 64 codes: header byte and stored values (R196, Table 07-6). -/
def peatEncode (b : Nat) (codes : List Nat) : Byte × List Nat :=
  let mn := codes.foldl min 15
  let mx := codes.foldl max 0
  let s := peatShift b (mx - mn)
  (BitVec.ofNat 8 ((if s = 0 then 128 else 0) + 32 * s + mn),
   codes.map fun (c : Nat) => min (rneShift ((c : Int) - mn) s).toNat (2 ^ b - 1))

/-- Decode one stored value under a header (R196). -/
def peatDecode (h : Byte) (q : Nat) : Nat := min (h.toNat % 16 + q * 2 ^ (h.toNat / 32 % 4)) 15

/-- Stored value `i` of a payload: bits [b·i + b − 1 : b·i] across bytes (R195). -/
def peatValue (b : Nat) (payload : List Byte) (i : Nat) : Nat := ofLe payload / 2 ^ (b * i) % 2 ^ b

/-- The payload bytes of stored values. -/
def peatPack (b : Nat) (qs : List Nat) : List Byte :=
  leBytes (8 * b) (qs.foldr (fun q acc => q + 2 ^ b * acc) 0)

/-- Code (c mod Cw, x) of an uncompressed row of one channel block. -/
def rowCode (cw : Nat) (row : List Byte) (ch x : Nat) : Nat := nibble row (x * cw + ch)

/-- Compress one row of one channel block: its bytes, blocks encoded, blocks with SHIFT > 0 (R195, R196). Elements past
W_ALLOC repeat the last. -/
def peatEncodeRow (p cw wAlloc : Nat) (row : List Byte) : List Byte × Nat × Nat :=
  let b := peatBits p
  let blocks := (List.range (peatBlocks wAlloc)).flatMap fun j => (List.range cw).map fun ch =>
    peatEncode b ((List.range 64).map fun i => rowCode cw row ch (min (64 * j + i) (wAlloc - 1)))
  let payload := blocks.flatMap fun x => peatPack b x.2
  let heads := blocks.map Prod.fst
  (payload ++ zeros (up64 payload.length - payload.length) ++ heads ++ zeros (up64 heads.length - heads.length),
   blocks.length, (blocks.filter fun x => x.1.toNat / 32 % 4 != 0).length)

/-- Two nibbles to a byte. -/
def packNibbles : List Nat → List Byte
  | a :: b :: t => BitVec.ofNat 8 (a + 16 * b) :: packNibbles t
  | [a] => [BitVec.ofNat 8 a]
  | [] => []

/-- Expand one compressed row of one channel block (R195, R196). -/
def peatDecodeRow (p cw wAlloc : Nat) (row : List Byte) : List Byte :=
  let b := peatBits p
  let headAt := up64 (peatBlocks wAlloc * cw * peatPayload p)
  packNibbles ((List.range wAlloc).flatMap fun x => (List.range cw).map fun ch =>
    let k := x / 64 * cw + ch
    peatDecode (row.getD (headAt + k) 0) (peatValue b (slice row (k * peatPayload p) (peatPayload p)) (x % 64)))

/-- Bytes of a compressed row that hold the payload or header of the blocks that cover pixels of an uncompressed granule,
and the reverse: which 64-byte granules of the compressed row share a block with uncompressed granule `g` (R197). -/
def peatGranulesOf (p cw wAlloc g : Nat) : List Nat :=
  let j := g * (128 / cw) / 64
  let headAt := up64 (peatBlocks wAlloc * cw * peatPayload p)
  let lo := j * cw * peatPayload p
  let hi := (j + 1) * cw * peatPayload p - 1
  (List.range (hi / 64 + 1 - lo / 64)).map (fun i => lo / 64 + i) ++
    (let a := (headAt + j * cw) / 64
     let z := (headAt + (j + 1) * cw - 1) / 64
     (List.range (z + 1 - a)).map fun i => a + i)

end Sys2Proof.Machine
end

