-- ==== Sys2Proof/Machine/Image.lean ====
section
/-!
DEFINITION. A mapping image as the loader and the walker read it (R142 to R150, R157, R159, R160): its header, tensor
descriptors, operator headers, loop levels, channel entries, ring bindings, residency entries and bank plans.
-/

namespace Sys2Proof.Machine

open Sys2Proof

/-- Header of Table 06-1. -/
structure ImgHeader where
  magic : Nat
  version : Nat
  opCount : Nat
  imageLen : Nat
  checksum : Nat
  tensorCount : Nat
  ringCount : Nat
  residCount : Nat
  opOff : Nat
  tensorOff : Nat
  ringOff : Nat
  residOff : Nat
  workLines : Nat
  buildId : Nat
  reserved : Bool
  deriving DecidableEq, Repr

/-- Every byte of some ranges is 0. -/
def zeroAt (l : List Byte) (rs : List (Nat × Nat)) : Bool := rs.all fun r => (slice l r.1 r.2).all (· == 0)

/-- Read the header. -/
def imgHeader (l : List Byte) : ImgHeader :=
  { magic := le l 0 4, version := le l 4 2, opCount := le l 6 2, imageLen := le l 8 4, checksum := le l 12 4
    tensorCount := le l 16 2, ringCount := le l 18 2, residCount := le l 20 2, opOff := le l 24 4
    tensorOff := le l 28 4, ringOff := le l 32 4, residOff := le l 36 4, workLines := le l 40 4
    buildId := le l 48 8, reserved := zeroAt l [(22, 2), (44, 4), (56, 8)] }

/-- CRC-32C over the whole image with CHECKSUM taken as 0. -/
def imgChecksum (l : List Byte) : Nat := (crc32c (l.take 12 ++ zeros 4 ++ l.drop 16)).toNat

/-- Tensor descriptor of Table 06-2. -/
structure ImgTensor where
  location : Nat
  layout : Nat
  peat : Nat
  ref : Nat
  base : Nat
  n : Nat
  c : Nat
  h : Nat
  w : Nat
  wAlloc : Nat
  rowPitch : Nat
  cbPitch : Nat
  nPitch : Nat
  shiftBase : Nat
  reserved : Bool
  deriving DecidableEq, Repr

/-- Read tensor descriptor `i`. -/
def imgTensor (l : List Byte) (i : Nat) : ImgTensor :=
  let d := slice l ((imgHeader l).tensorOff + 64 * i) 64
  { location := le d 0 1, layout := le d 1 1, peat := le d 2 1, ref := le d 4 4, base := le d 8 8, n := le d 16 4
    c := le d 20 4, h := le d 24 4, w := le d 28 4, wAlloc := le d 32 4, rowPitch := le d 36 4, cbPitch := le d 40 4
    nPitch := le d 44 4, shiftBase := le d 48 8, reserved := zeroAt d [(3, 1), (56, 8)] }

namespace ImgTensor
/-- Locations of Table 06-2. -/
def isDram (t : ImgTensor) : Bool := t.location == 0
def isPool (t : ImgTensor) : Bool := t.location == 1
def isRing (t : ImgTensor) : Bool := t.location == 3
def isResid (t : ImgTensor) : Bool := t.location == 4
/-- Layouts. -/
def isImage (t : ImgTensor) : Bool := t.layout < 2
def isToken (t : ImgTensor) : Bool := t.layout == 2
def isWeight (t : ImgTensor) : Bool := t.layout == 3
/-- Channels per block; a token is one block of its allocated features. -/
def cw (t : ImgTensor) : Nat := if t.layout = 0 then 16 else if t.layout = 1 then 32 else max 1 t.wAlloc
/-- Channel blocks CB. -/
def cb (t : ImgTensor) : Nat := if t.isImage then (t.c + t.cw - 1) / t.cw else 1
/-- Allocated channels or features along k (R148). -/
def kExtent (t : ImgTensor) : Nat := if t.isImage then t.cb * t.cw else t.wAlloc
/-- Pixels (or features) of a whole scale group, and G groups per row (R89). -/
def groupSpan (t : ImgTensor) : Nat := if t.isImage then 131072 / t.cw else 131072
def groups (t : ImgTensor) : Nat := ((if t.isImage then t.w else t.c) + t.groupSpan - 1) / t.groupSpan
/-- Bytes of one row of one channel block, uncompressed. -/
def rowBytes (t : ImgTensor) : Nat := if t.isImage then t.wAlloc * t.cw / 2 else t.wAlloc / 2
/-- Bytes of one row of one channel block as it is stored. -/
def storedRow (t : ImgTensor) : Nat := if t.peat = 0 then t.rowBytes else peatRow t.peat t.cw t.wAlloc
/-- Offset of row `y` of channel block `b` of fold `f` from BASE (R173). -/
def rowOffset (t : ImgTensor) (f b y : Nat) : Nat := f * t.nPitch + b * t.cbPitch + y * t.rowPitch
/-- Index of a shift entry from SHIFT_BASE (R145). -/
def shiftIndex (t : ImgTensor) (f b y g : Nat) : Nat := ((f * t.cb + b) * t.h + y) * t.groups + g
/-- Bytes that one k position of a weight tensor takes under a kind (Table 06-2). -/
def posBytes (kind : Nat) : Nat := 2 * kindBits kind
end ImgTensor

/-- Operator header of Table 06-3 with its words. -/
structure ImgOp where
  kind : Nat
  levels : Nat
  segment : Nat
  operandFormat : Nat
  requant : Nat
  aTensor : Nat
  bTensor : Nat
  outTensor : Nat
  loopOff : Nat
  chanOff : Nat
  planOff : Nat
  window : Nat
  padding : Nat
  mode : Nat
  reserved : Bool
  deriving DecidableEq, Repr

/-- Read operator header `i`. -/
def imgOp (l : List Byte) (i : Nat) : ImgOp :=
  let d := slice l ((imgHeader l).opOff + 128 * i) 128
  { kind := le d 0 1, levels := le d 1 1, segment := le d 2 1, operandFormat := le d 4 4, requant := le d 8 4
    aTensor := le d 12 2, bTensor := le d 14 2, outTensor := le d 16 2, loopOff := le d 20 4, chanOff := le d 24 4
    planOff := le d 28 4, window := le d 32 8, padding := le d 40 8, mode := le d 48 4
    reserved := zeroAt d [(3, 1), (18, 2), (52, 76)] }

namespace ImgOp
/-- Table 06-4. -/
def isMatmul (o : ImgOp) : Bool := o.kind == 0
def isConv (o : ImgOp) : Bool := o.kind == 1
def isWino (o : ImgOp) : Bool := o.kind == 2
def isPoolMax (o : ImgOp) : Bool := o.kind == 3
def isPoolAvg (o : ImgOp) : Bool := o.kind == 4
def isPooling (o : ImgOp) : Bool := o.isPoolMax || o.isPoolAvg
def isS2D (o : ImgOp) : Bool := o.kind == 5
def isD2S (o : ImgOp) : Bool := o.kind == 6
/-- Runs on the multipliers (R368: the kinds whose tiles are counted and checked). -/
def isMultiplier (o : ImgOp) : Bool := o.kind < 3
/-- WINDOW (Table 06-5) and PADDING (Table 06-6). -/
def kh (o : ImgOp) : Nat := fld 55 48 o.window
def kw (o : ImgOp) : Nat := fld 47 40 o.window
def strideY (o : ImgOp) : Nat := fld 39 32 o.window
def strideX (o : ImgOp) : Nat := fld 31 24 o.window
def dilY (o : ImgOp) : Nat := fld 23 16 o.window
def dilX (o : ImgOp) : Nat := fld 15 8 o.window
def padTop (o : ImgOp) : Nat := fld 31 24 o.padding
def padBottom (o : ImgOp) : Nat := fld 23 16 o.padding
def padLeft (o : ImgOp) : Nat := fld 15 8 o.padding
def padRight (o : ImgOp) : Nat := fld 7 0 o.padding
/-- OPERAND_FORMAT (Table 04-2). -/
def bAct (o : ImgOp) : Bool := o.operandFormat.testBit 16
def aZp (o : ImgOp) : Nat := fld 15 12 o.operandFormat
def aWidth (o : ImgOp) : Nat := fld 9 8 o.operandFormat
def bZp (o : ImgOp) : Nat := fld 7 4 o.operandFormat
def bWidth (o : ImgOp) : Nat := fld 3 2 o.operandFormat
def bKind (o : ImgOp) : Nat := fld 1 0 o.operandFormat
/-- The weight kind, or the kind a B activation counts as (R87). -/
def pairKind (o : ImgOp) : Nat := if o.bAct then (if o.bWidth = 2 then 1 else 0) else o.bKind
def lanes (o : ImgOp) : Nat := lanesOf o.aWidth o.pairKind
def kappa (o : ImgOp) : Nat := kappaOf o.lanes
/-- REQUANT_CONTROL (Table 04-7). -/
def clipThr (o : ImgOp) : Nat := fld 31 24 o.requant
def carryInit (o : ImgOp) : Int := toSigned 6 (fld 23 18 o.requant)
def prevFrame (o : ImgOp) : Bool := fld 17 16 o.requant == 1
def carried (o : ImgOp) : Bool := fld 9 8 o.requant == 1
def outZp (o : ImgOp) : Nat := fld 7 4 o.requant
def outBits (o : ImgOp) : Nat := widthBits (fld 1 0 o.requant)
/-- OP_MODE (Table 07-3). -/
def winoExact (o : ImgOp) : Bool := !o.mode.testBit 0
def avgInBounds (o : ImgOp) : Bool := o.mode.testBit 1
def factor (o : ImgOp) : Nat := if fld 5 4 o.mode = 0 then 2 else 4
def inCh (o : ImgOp) : Nat := fld 13 8 o.mode
end ImgOp

/-- Loop-level entry of Table 06-8. The extents stand in the order of Table 06-7. -/
structure ImgLevel where
  oBuf : Nat
  mem : Nat
  double : Bool
  order : List Nat
  aBuf : Nat
  bBuf : Nat
  ext : List Nat
  reserved : Bool
  deriving DecidableEq, Repr

/-- Read level `v` of an operator. -/
def imgLevel (l : List Byte) (o : ImgOp) (v : Nat) : ImgLevel :=
  let x := le l (o.loopOff + 32 * v) 32
  { oBuf := fld 255 235 x, mem := fld 191 190 x, double := x.testBit 189
    order := (List.range 6).map fun j => fld (3 * j + 2) (3 * j) (fld 187 170 x)
    aBuf := fld 169 149 x, bBuf := fld 148 128 x
    ext := [fld 59 40 x, fld 39 20 x, fld 19 0 x, fld 123 104 x, fld 103 84 x, fld 83 64 x]
    reserved := fld 234 192 x == 0 && fld 188 188 x == 0 && fld 127 124 x == 0 && fld 63 60 x == 0 }

/-- The levels of an operator, innermost first. -/
def imgLevels (l : List Byte) (o : ImgOp) : List ImgLevel := (List.range o.levels).map (imgLevel l o)

/-- Channel parameter entry of Table 04-3. -/
structure ImgChan where
  wShift : Int
  wZp : Nat
  biasExp : Int
  biasSig : Int
  reserved : Bool
  deriving DecidableEq, Repr

/-- Read the entry of output channel `c`. -/
def imgChan (l : List Byte) (o : ImgOp) (c : Nat) : ImgChan :=
  let x := le l (o.chanOff + 8 * c) 8
  { wShift := toSigned 6 (fld 53 48 x), wZp := fld 47 44 x, biasExp := toSigned 8 (fld 39 32 x)
    biasSig := toSigned 32 (fld 31 0 x), reserved := fld 63 54 x == 0 && fld 43 40 x == 0 }

/-- Ring binding of Table 06-10. -/
structure ImgRing where
  ring : Nat
  kind : Nat
  slots : Nat
  slot4k : Nat
  rowsPerSlot : Nat
  producer : Nat
  consumer : Nat
  baseLine : Nat
  rate : Nat
  reserved : Bool
  deriving DecidableEq, Repr

/-- Read ring binding `i`. -/
def imgRing (l : List Byte) (i : Nat) : ImgRing :=
  let d := slice l ((imgHeader l).ringOff + 32 * i) 32
  { ring := le d 0 2, kind := le d 2 1, slots := le d 3 1, slot4k := le d 4 2, rowsPerSlot := le d 6 2
    producer := le d 8 2, consumer := le d 10 2, baseLine := le d 12 4, rate := le d 16 4
    reserved := zeroAt d [(20, 12)] }

/-- Residency entry of Table 06-11. -/
structure ImgResid where
  id : Nat
  line : Nat
  lines : Nat
  source : Nat
  digest : Nat
  reserved : Bool
  deriving DecidableEq, Repr

/-- Read residency entry `i`. -/
def imgResid (l : List Byte) (i : Nat) : ImgResid :=
  let d := slice l ((imgHeader l).residOff + 32 * i) 32
  { id := le d 0 4, line := le d 4 4, lines := le d 8 4, source := le d 16 8, digest := le d 24 8
    reserved := zeroAt d [(12, 4)] }

/-- All operators, tensors, rings and residencies of an image. -/
def imgOps (l : List Byte) : List ImgOp := (List.range (imgHeader l).opCount).map (imgOp l)
def imgTensors (l : List Byte) : List ImgTensor := (List.range (imgHeader l).tensorCount).map (imgTensor l)
def imgRings (l : List Byte) : List ImgRing := (List.range (imgHeader l).ringCount).map (imgRing l)
def imgResids (l : List Byte) : List ImgResid := (List.range (imgHeader l).residCount).map (imgResid l)

/-- The ring binding of an image-local ID. -/
def imgRingOf (l : List Byte) (id : Nat) : Option ImgRing := (imgRings l).find? fun r => r.ring == id

/-- The residency entry of an ID. -/
def imgResidOf (l : List Byte) (id : Nat) : Option ImgResid := (imgResids l).find? fun r => r.id == id

/-- The claim of slot `s` of bank `b`'s read (or write) port: 0 NONE, 1 COMPUTE, 2 DMA (R160). -/
def planClaim (l : List Byte) (o : ImgOp) (b : Nat) (wr : Bool) (s : Nat) : Nat :=
  fld (2 * s + 1) (2 * s) (le l (o.planOff + 2 * b + (if wr then 1 else 0)) 1)

/-- The claim of a mapping on a port slot: 1 COMPUTE if an operator claims it so, else 2 DMA, else 0. -/
def mapClaim (l : List Byte) (b : Nat) (wr : Bool) (s : Nat) : Nat :=
  let cs := (imgOps l).map fun o => planClaim l o b wr s
  if cs.contains 1 then 1 else if cs.contains 2 then 2 else 0

/-- The tensors of an operator. -/
def opA (l : List Byte) (o : ImgOp) : ImgTensor := imgTensor l o.aTensor
def opB (l : List Byte) (o : ImgOp) : ImgTensor := imgTensor l o.bTensor
def opOut (l : List Byte) (o : ImgOp) : ImgTensor := imgTensor l o.outTensor
/-- Whether it has a B operand. -/
def ImgOp.hasB (o : ImgOp) : Bool := o.isMultiplier && o.bTensor != 0xFFFF

/-- The six extents of an operator, in the order of Table 06-7 (R148). -/
def opExtents (l : List Byte) (o : ImgOp) : List Nat :=
  let a := opA l o
  let t := opOut l o
  [t.n, t.c, a.kExtent, t.h, if o.isMatmul then 1 else t.w,
   if o.isWino then 16 else if o.isMatmul then 1 else o.kh * o.kw]

/-- The dimension that is m: HOUT for MATMUL, WOUT for the window kinds (R148). -/
def ImgOp.mDim (o : ImgOp) : Nat := if o.isMatmul then 3 else 4

/-- The output size of a window kind along one axis (R174), which may be below 1. -/
def outSize (size padLo padHi dil k stride : Nat) : Int :=
  ((size : Int) + padLo + padHi - dil * ((k : Int) - 1) - 1).fdiv stride + 1

/-- Output height and width of R174. -/
def opOutSize (l : List Byte) (o : ImgOp) : Int × Int :=
  let a := opA l o
  (outSize a.h o.padTop o.padBottom o.dilY o.kh o.strideY, outSize a.w o.padLeft o.padRight o.dilX o.kw o.strideX)

/-- An operator's index by what reads or writes a tensor: the operator that writes tensor `t`, if any. -/
def imgProducer (l : List Byte) (t : Nat) : Option Nat :=
  (indices (imgHeader l).opCount fun i => (imgOp l i).outTensor == t).head?

/-- A run of rows: the first and how many. -/
abbrev Rows := Nat × Nat

/-- The smallest run that holds both. -/
def joinRows (a b : Rows) : Rows :=
  if a.2 = 0 then b else if b.2 = 0 then a else
    let lo := min a.1 b.1
    (lo, max (a.1 + a.2) (b.1 + b.2) - lo)

/-- The numbers of a run. -/
def runOf (p : Nat × Nat) : List Nat := (List.range p.2).map (p.1 + ·)

/-- A position along an axis of some size, or none for a border tap (R175). -/
def inSize (v : Int) (n : Nat) : Option Nat := if 0 ≤ v ∧ v < n then some v.toNat else none

/-- Two tensor descriptors name one tensor: the same index, the same ring, or the same base in one memory (DEDUCED, log 110). -/
def sameTensor (l : List Byte) (t u : Nat) : Bool :=
  let a := imgTensor l t
  let b := imgTensor l u
  t == u || (a.location == b.location && (if a.isRing then a.ref == b.ref else a.ref == b.ref && a.base == b.base))

/-- The rows of tensor `t` that hold one of `n` bytes from `p` on, over its folds and channel blocks, lowest to highest. -/
def rowsAt (t : ImgTensor) (p n : Nat) : Rows :=
  (List.range (if t.nPitch = 0 then 1 else t.n)).foldl (fun acc f => (List.range t.cb).foldl (fun acc b =>
    let v := t.base + f * t.nPitch + b * t.cbPitch
    let pitch := max 1 t.rowPitch
    let lo := if p < v + t.storedRow then 0 else (p - v - t.storedRow) / pitch + 1
    let hi := if p + n ≤ v then 0 else min t.h ((p + n - 1 - v) / pitch + 1)
    joinRows acc (lo, hi - lo)) acc) (0, 0)

/-- Rows `r` of a tensor, by channel block and fold, as runs of bytes: where one starts, and its length; a weight tensor's blocks under
a kind (R173, Table 06-2). -/
def ImgTensor.runs (t : ImgTensor) (kind : Nat) (r : Rows) : List (Nat × Nat) :=
  (List.range (if t.nPitch = 0 then 1 else t.n)).flatMap fun f =>
    if t.isWeight then (List.range (t.wAlloc / 16)).map fun b => (t.base + f * t.nPitch + b * t.cbPitch, t.h * ImgTensor.posBytes kind)
    else (List.range t.cb).flatMap fun b => (runOf r).map fun y => (t.base + t.rowOffset f b y, t.storedRow)

/-- The rows of tensor `t` that lie under rows `r` of tensor `u` of the same memory, lowest to highest. -/
def rowsUnder (t u : ImgTensor) (kind : Nat) (r : Rows) : Rows :=
  (u.runs kind r).foldl (fun acc x => joinRows acc (rowsAt t x.1 x.2)) (0, 0)

/-- A reader of tensor `u` reads what is written as tensor `t`: they are one tensor, or share a byte of one memory (log 110). -/
def readsTensor (l : List Byte) (u t kind : Nat) : Bool :=
  let a := imgTensor l u
  let b := imgTensor l t
  sameTensor l u t || (a.location == b.location && a.ref == b.ref && !a.isRing && (rowsUnder b a kind (0, a.h)).2 != 0)

/-- The operators that read what operator `i` writes. One that writes its own input's place reads no output of another (R154). -/
def imgReaders (l : List Byte) (i : Nat) : List Nat :=
  let t := (imgOp l i).outTensor
  indices (imgHeader l).opCount fun j =>
    let o := imgOp l j
    (j != i || (imgTensor l t).isRing) && (readsTensor l o.aTensor t o.bKind || (o.hasB && readsTensor l o.bTensor t o.bKind))

end Sys2Proof.Machine
end

