-- ==== Sys2Proof/Machine/Walk.lean ====
section
/-!
DEFINITION. The loop-descriptor walker (R148 to R156, R162, R178, R182, R368, R369) as lists: the rows each operator
computes on a block, the level-0 tiles and steps of an operator in walk order, and the accumulator and carry-store
accounting that the loader takes from it (R165, R166).
-/

namespace Sys2Proof.Machine

open Sys2Proof

/-! ## Rows (R155, R156, R202, R203) -/

/-- The rows from `a` to `b` inclusive, or none. -/
def rowSpan (a b : Int) : Rows := if a ≤ b then (a.toNat, (b - a + 1).toNat) else (0, 0)

/-- Block `i` of `b` takes rows i·c to min((i + 1)·c, R) − 1 of the unit's, c = ⌈R / B⌉ (R155). -/
def splitRows (u : Rows) (i b : Nat) : Rows :=
  let c := (u.2 + b - 1) / max 1 b
  if u.2 ≤ i * c then (0, 0) else (u.1 + i * c, min ((i + 1) * c) u.2 - i * c)

/-- The rows of its producer, of height `h`, that an operator needs for rows `r` of its own (R156). -/
def neededRows (o : ImgOp) (h cout : Nat) (asB : Bool) (r : Rows) : Rows :=
  if r.2 = 0 then (0, 0)
  else if asB then (0, cout)
  else
    let a : Int := r.1
    let b : Int := r.1 + r.2 - 1
    if o.isMatmul then r
    else if o.isS2D then (r.1 * o.factor, r.2 * o.factor)
    else if o.isD2S then rowSpan (a / o.factor) (b / o.factor)
    else rowSpan (max 0 (a * o.strideY - o.padTop)) (min ((h : Int) - 1) (b * o.strideY - o.padTop + o.dilY * ((o.kh : Int) - 1)))

/-- The rows of operator `i` that operator `j` needs for rows `r` of its own, as A and as B (R156). Where `j` reads them under a
descriptor of its own, the rows that it needs are that tensor's, and those of `i` the ones that lie under them (log 110). -/
def readRows (l : List Byte) (i j : Nat) (r : Rows) : Rows :=
  let o := imgOp l j
  let t := (imgOp l i).outTensor
  let under := fun (u : Nat) (asB : Bool) =>
    if sameTensor l u t then neededRows o (imgTensor l t).h (opOut l o).c asB r
    else rowsUnder (imgTensor l t) (imgTensor l u) o.bKind (neededRows o (imgTensor l u).h (opOut l o).c asB r)
  joinRows (if readsTensor l o.aTensor t o.bKind then under o.aTensor false else (0, 0))
    (if o.hasB && readsTensor l o.bTensor t o.bKind then under o.bTensor o.bAct else (0, 0))

/-- An operator is a sink when no operator of its own segment reads its output through a ring (R155). -/
def isSink (l : List Byte) (i : Nat) : Bool :=
  !(imgReaders l i).any fun j => (imgOp l j).segment == (imgOp l i).segment && (opOut l (imgOp l i)).isRing

/-- A final sink: no operator of a later segment reads it (R202). -/
def isFinal (l : List Byte) (i : Nat) : Bool :=
  isSink l i && !(imgReaders l i).any fun j => (imgOp l i).segment < (imgOp l j).segment

/-- A unit's rows: a stripe of a frame of some height, or a whole standalone job. -/
inductive UnitSpan where
  | whole
  /-- Stripe `s` of height `h` of a frame of `height` rows. -/
  | stripe (s h height : Nat)
  deriving DecidableEq, Repr

/-- The rows of a frame that a stripe covers (R201). -/
def stripeRows (s h height : Nat) : Rows := rowSpan (s * h) ((min ((s + 1) * h) height : Nat) - 1)

/-- The unit rows of a final sink (R202): HEIGHT / 2^k rows high. -/
def finalRows (u : UnitSpan) (h : Nat) : Rows :=
  match u with
  | .whole => (0, h)
  | .stripe s sh height =>
    let k := height / max 1 h
    let lo := s * sh / max 1 k
    (lo, min ((s + 1) * sh) height / max 1 k - lo)

mutual
/-- The unit rows of a sink: a final sink's by R202, an intermediate one's by what later segments need over the whole
block set, clipped to its extent (R203). The fuel is the number of operators. -/
def sinkRows (l : List Byte) (u : UnitSpan) (b : Nat) : Nat → Nat → Rows
  | 0, _ => (0, 0)
  | n + 1, i =>
    let h := (opOut l (imgOp l i)).h
    match u with
    | .whole => (0, h)
    | .stripe _ _ _ =>
      if isFinal l i then finalRows u h
      else
        let late := (imgReaders l i).filter fun j => (imgOp l i).segment < (imgOp l j).segment
        let r := late.foldl (fun acc j =>
          (List.range b).foldl (fun acc x => joinRows acc (readRows l i j (blockRows l u b x n j))) acc) ((0, 0) : Rows)
        (min r.1 h, min (r.1 + r.2) h - min r.1 h)

/-- The rows that operator `i` computes on the block at index `x` of a set of `b` (R155, R156). -/
def blockRows (l : List Byte) (u : UnitSpan) (b x : Nat) : Nat → Nat → Rows
  | 0, _ => (0, 0)
  | n + 1, i =>
    if isSink l i then splitRows (sinkRows l u b n i) x b
    else
      let near := (imgReaders l i).filter fun j => (imgOp l j).segment == (imgOp l i).segment
      near.foldl (fun acc j => joinRows acc (readRows l i j (blockRows l u b x n j))) (0, 0)
end

/-- Fuel for the row rules: twice the operators of an image. -/
def rowFuel (l : List Byte) : Nat := 2 * (imgHeader l).opCount + 2

/-- The rows operator `i` computes on a block. -/
def opRows (l : List Byte) (u : UnitSpan) (b x i : Nat) : Rows := blockRows l u b x (rowFuel l) i

/-! ## Tiles (R151, R153, R178, R182, R369) -/

/-- Cut a run into pieces of `t` from its start; the fuel is its length. -/
def cutRun (t : Nat) : Nat → Nat → Nat → List (Nat × Nat)
  | 0, _, _ => []
  | n + 1, o, e => if e = 0 then [] else (o, min (max 1 t) e) :: cutRun t n (o + max 1 t) (e - max 1 t)

/-- Cut a run at the multiples of `t` counted from 0 (R151, HOUT). -/
def cutAnchored (t o e : Nat) : List (Nat × Nat) :=
  let t := max 1 t
  let k := min (t - o % t) e
  if e = 0 then [] else (o, k) :: cutRun t (e - k) (o + k) (e - k)

/-- The recorded m ranges of checked tiling: (operator, level-1 tile origin, start), rows (R369). -/
abbrev Cuts := List (List Nat × Nat)

/-- Rows of the m range of a level-1 tile that starts at `o`: as opened, else T0(m). -/
def cutSize (cuts : Cuts) (op : Nat) (parent : List Nat) (o t : Nat) : Nat :=
  ((cuts.find? fun c => c.1 == op :: parent ++ [o]).map Prod.snd).getD t

/-- The rows of an m range that opens at the start `o` of its level-1 tile when no check is due: T0(m), but in HOUT only up to the
next tile boundary, which stays anchored at row 0 (R151, R369). -/
def ImgOp.firstRange (o : ImgOp) (t start : Nat) : Nat := if o.isMatmul then t - start % max 1 t else t

/-- Cut the m range of a level-1 tile into consecutive ranges under the recorded cuts; an unrecorded one has `t` rows, the first
`first`. -/
def cutM (cuts : Cuts) (op : Nat) (parent : List Nat) (t : Nat) : Nat → Nat → Nat → Nat → List (Nat × Nat)
  | 0, _, _, _ => []
  | n + 1, first, o, e =>
    if e = 0 then [] else
      let k := max 1 (cutSize cuts op parent o first)
      (o, min k e) :: cutM cuts op parent t n t (o + k) (e - k)

/-- The child tiles of one parent in the loop nest of its ORDER, outermost first (R150, R151): each dimension's pieces,
nested. -/
def nestTiles (pieces : Nat → List (Nat × Nat)) : List Nat → List (Nat × Nat) → List (List (Nat × Nat))
  | [], cur => [cur]
  | d :: ds, cur => (pieces d).flatMap fun p => nestTiles pieces ds (cur.set d p)

/-- The pieces of one dimension of a parent tile for a child level (R151; R182: at level 0 of CONV_WINOGRAD the HOUT
and WOUT extents count patches of two rows, two pixels). -/
def tilePieces (o : ImgOp) (op : Nat) (cuts : Cuts) (ext : List Nat) (tile : List (Nat × Nat)) (level0 : Bool) (d : Nat) :
    List (Nat × Nat) :=
  let p := tile.getD d (0, 0)
  let t := ext.getD d 1 * (if level0 && o.isWino && (d == 3 || d == 4) then 2 else 1)
  if level0 && o.isMultiplier && d == o.mDim then
    cutM cuts op (tile.map Prod.fst) t p.2 (o.firstRange t p.1) p.1 p.2
  else if d = 3 then cutAnchored t p.1 p.2
  else cutRun t p.2 p.1 p.2

/-- A level-0 tile with the origins of the tiles that hold it, level 1 first. -/
abbrev Tile0 := List (Nat × Nat) × List (List Nat)

/-- The level-0 tiles of a tile; the levels from its own inward, outermost first. -/
def tilesIn (o : ImgOp) (op : Nat) (cuts : Cuts) : List ImgLevel → List (Nat × Nat) → List (List Nat) → List Tile0
  | [], _, _ => []
  | [_], tile, up => [(tile, up)]
  | p :: c :: rest, tile, up =>
    (nestTiles (tilePieces o op cuts c.ext tile rest.isEmpty) p.order tile).flatMap fun t =>
      tilesIn o op cuts (c :: rest) t (tile.map Prod.fst :: up)

/-- The level-0 tiles of an operator over some rows, fold by fold as the loops give them. -/
def opTiles (l : List Byte) (op : Nat) (cuts : Cuts) (r : Rows) : List Tile0 :=
  let o := imgOp l op
  let e := opExtents l o
  let tile := (e.map fun x => ((0 : Nat), x)).set 3 r
  if r.2 = 0 then [] else tilesIn o op cuts (imgLevels l o).reverse tile []

/-- The steps of one level-0 tile (R153, R182, R188, R193); `whole` is the k extent of a whole one. A tile cut short has as many steps
as a whole one, those beyond its extent without positions, so that it takes as long and no step passes the limit of R13 (log 98). -/
def tileSteps (o : ImgOp) (op whole : Nat) (t : Tile0) : List Step :=
  let org := t.1.map Prod.fst
  let ext := t.1.map Prod.snd
  let mk := fun (ks : List (Nat × Nat)) => ks.mapIdx fun i k =>
    ({ op := op, origin := org, ext := ext, parents := t.2, kStart := k.1, kCount := k.2, first := i == 0
       last := i + 1 == ks.length } : Step)
  let cin := ext.getD 2 1
  if o.isWino then mk ((List.range (if o.winoExact then 32 else 16)).map fun i => (i, cin))
  else if o.isMultiplier then
    let n := cin * ext.getD 5 1
    let w := max n whole
    mk ((cutRun (kMaxOf o.lanes) w 0 w).map fun x => (x.1, min x.2 (n - x.1)))
  else mk [(0, cin * ext.getD 5 1)]

/-- The k extent of a whole level-0 tile (R153). -/
def wholeK (l : List Byte) (o : ImgOp) : Nat := (imgLevel l o 0).ext.getD 2 1 * (imgLevel l o 0).ext.getD 5 1

/-- The steps of an operator in walk order. -/
def opSteps (l : List Byte) (op : Nat) (cuts : Cuts) (r : Rows) : List Step :=
  let o := imgOp l op
  (opTiles l op cuts r).flatMap (tileSteps o op (wholeK l o))

/-- m positions of a tile: rows, pixels or (CONV_WINOGRAD) patches. -/
def tileM (o : ImgOp) (ext : List Nat) : Nat :=
  if o.isWino then (ext.getD 4 0 + 1) / 2 else ext.getD o.mDim 0

/-! ## Elements and groups -/

/-- The output elements of a step's tile. -/
def stepElems (s : Step) : List Elem :=
  let r := fun d => (List.range (s.ext.getD d 0)).map (s.origin.getD d 0 + ·)
  (r 0).flatMap fun n => (r 3).flatMap fun y => (r 4).flatMap fun x => (r 1).map fun c =>
    { op := s.op, n := n, c := c, y := y, x := x }

/-- A step reaches an element (its output tile holds it). -/
def Step.reaches (s : Step) (e : Elem) : Bool :=
  let within := fun d v => s.origin.getD d 0 ≤ v && v < s.origin.getD d 0 + s.ext.getD d 0
  s.op == e.op && within 0 e.n && within 1 e.c && within 3 e.y && within 4 e.x

/-- The scale group of an output element (R88, R89). -/
def elemGroup (t : ImgTensor) (e : Elem) : GroupKey :=
  if t.isToken then { op := e.op, fold := e.n, cb := 0, row := e.y, grp := e.c / 131072 }
  else { op := e.op, fold := e.n, cb := e.c / t.cw, row := e.y, grp := e.x / t.groupSpan }

/-- The valid elements of a group (R164): those inside the tensor's valid extents. -/
def groupElems (t : ImgTensor) (k : GroupKey) : List Elem :=
  if t.isToken then
    ((List.range t.c).filter fun c => c / 131072 == k.grp).map fun c => { op := k.op, n := k.fold, c := c, y := k.row, x := 0 }
  else
    let xs := (List.range t.w).filter fun x => x / t.groupSpan == k.grp
    let cs := (List.range t.c).filter fun c => c / t.cw == k.cb
    xs.flatMap fun x => cs.map fun c => { op := k.op, n := k.fold, c := c, y := k.row, x := x }

/-- The groups that a step's tile holds elements of. -/
def stepGroups (t : ImgTensor) (s : Step) : List GroupKey := ((stepElems s).map (elemGroup t)).uniq

/-! ## Accumulator and carry accounting (R165, R166) -/

/-- The output tile of a step: its origin in the output dimensions. -/
def Step.outKey (s : Step) : List Nat := [s.origin.getD 0 0, s.origin.getD 1 0, s.origin.getD 3 0, s.origin.getD 4 0]

/-- Whether two runs meet. -/
def runsMeet (a ea b eb : Nat) : Bool := a < b + eb && b < a + ea

/-- Whether two steps' output tiles hold elements of a common scale group. -/
def shareGroup (t : ImgTensor) (a b : Step) : Bool :=
  let meet := fun d => runsMeet (a.origin.getD d 0) (a.ext.getD d 0) (b.origin.getD d 0) (b.ext.getD d 0)
  let span := fun (x : Step) d k => (x.origin.getD d 0 / k, (x.origin.getD d 0 + x.ext.getD d 0 - 1) / k)
  let near := fun d k => (span a d k).1 ≤ (span b d k).2 && (span b d k).1 ≤ (span a d k).2
  meet 0 && meet 3 && (if t.isToken then near 1 131072 else near 1 t.cw && near 4 t.groupSpan)

/-- Whether step `i`'s output tile is still open at step `j` of a walk (R165): a later step reaches one of its elements
or, in ONLINE mode, one of its scale group's. -/
def tileOpenAt (t : ImgTensor) (carried : Bool) (walk : List Step) (j : Nat) (s : Step) : Bool :=
  (walk.drop j).any fun x =>
    if carried then
      (List.range 5).all fun d => d == 2 ||
        runsMeet (s.origin.getD d 0) (s.ext.getD d 0) (x.origin.getD d 0) (x.ext.getD d 0)
    else shareGroup t s x

/-- Elements that an open tile counts: 256 per 16 × 16 output tile it holds, and 4,096 more for CONV_WINOGRAD (R187). -/
def tileCount (o : ImgOp) (s : Step) : Nat :=
  let up16 := fun n => (n + 15) / 16
  256 * s.ext.getD 0 1 * up16 (s.ext.getD 1 1) * up16 (s.ext.getD 3 1 * s.ext.getD 4 1) + (if o.isWino then 4096 else 0)

/-- The elements open at step `j` of a walk. -/
def openAt (l : List Byte) (op : Nat) (walk : List Step) (j : Nat) : Nat :=
  let o := imgOp l op
  let t := opOut l o
  let seen := (walk.take (j + 1)).filter fun s => s.first
  let distinctTiles := seen.foldl (fun acc s => if acc.any fun a => a.outKey == s.outKey then acc else acc ++ [s]) []
  ((distinctTiles.filter (tileOpenAt t o.carried walk j)).map (tileCount o)).sum

/-- An operator's allocation: the most elements open at one time, as if the block held every row (R165). -/
def opAcc (l : List Byte) (op : Nat) : Nat :=
  let walk := opSteps l op [] (0, (opOut l (imgOp l op)).h)
  (List.range walk.length).foldl (fun m j => max m (openAt l op walk j)) 0

/-- A mapping's allocation: the largest, over its segments, of the sum over the segment's operators (R165). -/
def imgAcc (l : List Byte) : Nat :=
  let ops := List.range (imgHeader l).opCount
  let segs := (ops.map fun i => (imgOp l i).segment).uniq
  segs.foldl (fun m g => max m ((ops.filter fun i => (imgOp l i).segment == g).map (opAcc l)).sum) 0

/-- Carry-store entries an operator needs (R166). -/
def opCarry (l : List Byte) (op : Nat) : Nat :=
  let o := imgOp l op
  let t := opOut l o
  if o.carried then t.cb * t.groups * t.n * (if o.prevFrame then t.h else 1) else 0

/-- Carry-store entries a mapping needs. -/
def imgCarry (l : List Byte) : Nat := ((List.range (imgHeader l).opCount).map (opCarry l)).sum

end Sys2Proof.Machine
end

