-- ==== Sys2Proof/Machine/Stripes.lean ====
section
/-!
DEFINITION. Stripes and their deadlines (R201 to R208), the fallback slots' size (R70), the check report (Table 06-13), and
the stripe and output checks that START_STREAM and COMMIT run (Tables 08-4 and 09-5).
-/

namespace Sys2Proof.Machine

open Sys2Proof

/-! ## The check report (Table 06-13) -/

/-- Where and why a check fails. -/
structure CheckReport where
  status : BitVec 16
  check : Nat
  level : Nat := 0xFF
  entry : Nat := 0xFFFF
  block : Nat := 0xFF
  table : Nat := 0
  value : Nat := 0
  limit : Nat := 0
  deriving DecidableEq, Repr

/-- The 16 bytes of a report. On success every field is 0, but LEVEL and BLOCK, which concern none. -/
def reportBytes : Option CheckReport → List Byte
  | none => leBytes 2 0 ++ leBytes 1 0 ++ leBytes 1 0xFF ++ leBytes 2 0 ++ leBytes 1 0xFF ++ zeros 9
  | some r => leBytes 2 r.status.toNat ++ leBytes 1 r.check ++ leBytes 1 r.level ++ leBytes 2 r.entry ++ leBytes 1 r.block
      ++ leBytes 1 r.table ++ leBytes 4 r.value ++ leBytes 4 r.limit

/-- The status of a report, or OK. -/
def reportStatus (r : Option CheckReport) : BitVec 16 := (r.map fun x => x.status).getD Code.ok

/-- The first of some checks that fails. -/
def firstFail : List (Option CheckReport) → Option CheckReport
  | [] => none
  | some r :: _ => some r
  | none :: t => firstFail t

/-- A check: it fails with a report unless a condition holds. -/
def checkThat (c : Bool) (r : CheckReport) : Option CheckReport := if c then none else some r

/-! ## Settings -/

/-- STRIPE_CONFIG (Table 08-6): H, BUDGET_Q. -/
def PipeSettings.stripeH (c : PipeSettings) : Nat := 8 * 2 ^ bits 1 0 c.stripe
def PipeSettings.budgetQ (c : PipeSettings) : Nat := bits 15 8 c.stripe
/-- OUTPUT_CONFIG (Table 09-7). -/
def PipeSettings.displayW (c : PipeSettings) : Nat := bits 63 52 c.output
def PipeSettings.displayH (c : PipeSettings) : Nat := bits 51 40 c.output
def PipeSettings.outMsix (c : PipeSettings) : Bool := c.output.getLsbD 39
def PipeSettings.outVector (c : PipeSettings) : BitVec 11 := BitVec.ofNat 11 (bits 38 28 c.output)
def PipeSettings.slotsLog2 (c : PipeSettings) : Nat := bits 27 24 c.output
def PipeSettings.mvPeat (c : PipeSettings) : Nat := bits 9 8 c.output
def PipeSettings.detEn (c : PipeSettings) : Bool := c.output.getLsbD 7
def PipeSettings.mvEn (c : PipeSettings) : Bool := c.output.getLsbD 6
def PipeSettings.displayP010 (c : PipeSettings) : Bool := c.output.getLsbD 4
def PipeSettings.displayEn (c : PipeSettings) : Bool := c.output.getLsbD 3
def PipeSettings.codingP010 (c : PipeSettings) : Bool := c.output.getLsbD 1
def PipeSettings.codingEn (c : PipeSettings) : Bool := c.output.getLsbD 0
/-- DET_CONFIG (Table 09-13). -/
def PipeSettings.scoreThr (c : PipeSettings) : Nat := bits 63 48 c.det
def PipeSettings.numClasses (c : PipeSettings) : Nat := bits 47 40 c.det
def PipeSettings.anchors_ (c : PipeSettings) : Nat := bits 39 36 c.det + 1
def PipeSettings.anchorEnc (c : PipeSettings) : Bool := bits 33 32 c.det == 1
def PipeSettings.iouThr (c : PipeSettings) : Nat := bits 24 16 c.det
def PipeSettings.maxDet (c : PipeSettings) : Nat := bits 9 0 c.det
def PipeSettings.anchor (c : PipeSettings) (a : Nat) : Nat := (Tab.get (fun _ => 0x0100_0100#32) c.anchors a).toNat
/-- OUTPUT_TENSORS (Table 09-8). -/
def Pipe.picture (p : Pipe) : Nat := bits 127 112 p.outTensors
def Pipe.mv (p : Pipe) : Nat := bits 111 96 p.outTensors
def Pipe.head (p : Pipe) (i : Nat) : Nat := bits (95 - 16 * i) (80 - 16 * i) p.outTensors
/-- OUTPUT_AREA of form `f` (Table 09-9). -/
def Pipe.area (p : Pipe) (f : Nat) : Nat := (Tab.get (fun _ => 0) p.outAreas f).toNat
def Pipe.areaBase (p : Pipe) (f : Nat) : Nat := fld 35 0 (p.area f)
def Pipe.slotPitch (p : Pipe) (f : Nat) : Nat := fld 99 64 (p.area f)
def Pipe.rowPitch (p : Pipe) (f : Nat) : Nat := fld 191 160 (p.area f)
def Pipe.cbPitch (p : Pipe) (f : Nat) : Nat := fld 159 128 (p.area f)
def Pipe.offA (p : Pipe) (f : Nat) : Nat := fld 255 224 (p.area f)
def Pipe.offB (p : Pipe) (f : Nat) : Nat := fld 223 192 (p.area f)
/-- RESULT_RING (Table 09-10). -/
def Pipe.compBase (p : Pipe) : Nat := bits 35 0 p.resultRing
def Pipe.provBase (p : Pipe) : Nat := bits 99 64 p.resultRing

/-! ## Stripes (R201, R205, R208) -/

/-- S, the stripes of a frame (R201). -/
def stripeCount (c : PipeSettings) (g : PortSettings) : Nat := (g.height + c.stripeH - 1) / c.stripeH

/-- The pattern entries that name exposure 0; 1 for a single exposure (R208). -/
def rowEntries (g : PortSettings) : Nat :=
  if g.exposures = 1 then 1 else max 1 (indices g.patLen fun i => g.pattern i == 0).length

/-- Pattern length that counts for ROW_TIME: 1 for a single exposure (R208). -/
def rowLines (g : PortSettings) : Nat := if g.exposures = 1 then 1 else g.patLen

/-- The counted line at which row `r` is complete in every exposure (R208's L). -/
def lineOf (g : PortSettings) (r : Nat) : Nat → Nat → List Nat → List Nat → Nat
  | 0, k, _, _ => k
  | n + 1, k, rows, skips =>
    let x := takeLine g (g.pattern (k % g.patLen)) rows skips
    if r < x.1.foldl min g.height then k else lineOf g r n (k + 1) x.1 x.2

/-- L(r) (R208). -/
def lineIndex (g : PortSettings) (r : Nat) : Nat :=
  if g.exposures = 1 then r
  else lineOf g r (g.patLen * (g.height + 33)) 0 (List.replicate g.exposures 0) ((List.range g.exposures).map g.offset)

/-- E(r), the end time of input row `r` (R208). -/
def rowEnd (g : PortSettings) (start r : Nat) : Nat := start + (g.vStart + lineIndex g r + 1) * g.lineTime

/-- BUDGET_Q × P / 4, rounded down to a nanosecond (R208). -/
def budgetNs (c : PipeSettings) (g : PortSettings) : Nat :=
  c.budgetQ * c.stripeH * g.lineTime * rowLines g / (4 * rowEntries g)

/-- The image's ring bindings of kind STRIPE_IN. -/
def stripeRings (l : List Byte) : List ImgRing := (imgRings l).filter fun r => r.kind == 1

/-- A tensor lies in ring `r`. -/
def ImgTensor.inRing (t : ImgTensor) (r : ImgRing) : Bool := t.isRing && t.ref == r.ring

/-- The tensor of a ring binding. -/
def ringTensor (l : List Byte) (r : ImgRing) : Option ImgTensor := (imgTensors l).find? fun t => t.inRing r

/-- The rows of a ring's tensor that its consumer needs on the block at index `x` of a set of `b` for a unit (R156, R205). -/
def ringRows (l : List Byte) (r : ImgRing) (u : UnitSpan) (b x : Nat) : Rows :=
  let o := imgOp l r.consumer
  let h := ((ringTensor l r).map fun t => t.h).getD 0
  let own := opRows l u b x r.consumer
  joinRows (if (opA l o).inRing r then neededRows o h (opOut l o).c false own else (0, 0))
    (if o.hasB && (opB l o).inRing r then neededRows o h (opOut l o).c o.bAct own else (0, 0))

/-- The input rows of stripe `s` on a block (R205). -/
def stripeInput (l : List Byte) (s h height b x : Nat) : Rows :=
  match stripeRings l with
  | r :: _ => ringRows l r (.stripe s h height) b x
  | [] => (0, 0)

/-- Input rows of a stripe over all blocks of the set; the stripe's own rows when no block needs any (R205). -/
def stripeSpan (l : List Byte) (s h height b : Nat) : Rows :=
  let r := (List.range b).foldl (fun acc x => joinRows acc (stripeInput l s h height b x)) ((0, 0) : Rows)
  if r.2 = 0 then stripeRows s h height else r

/-- HALO_TOP and HALO_BOTTOM of a mapping on a set of `b` blocks (R205). -/
def halos (l : List Byte) (c : PipeSettings) (g : PortSettings) (b : Nat) : Nat × Nat :=
  let h := c.stripeH
  (List.range (stripeCount c g)).foldl (fun acc s =>
    let r := stripeSpan l s h g.height b
    (max acc.1 (s * h - r.1), max acc.2 (r.1 + r.2 - 1 - (s * h + h - 1)))) (0, 0)

/-- D(s) (R208). -/
def deadlineOf (l : List Byte) (c : PipeSettings) (g : PortSettings) (b start s : Nat) : Nat :=
  let r := stripeSpan l s c.stripeH g.height b
  rowEnd g start (r.1 + r.2 - 1) + budgetNs c g

/-- The block positions of a mask, ascending. -/
def maskBlocks (m : Nat) : List Nat := indices 16 m.testBit

/-! ## Fallback slots (R70) -/

/-- h, the display height per stripe (R228). -/
def displayLines (c : PipeSettings) (g : PortSettings) : Nat :=
  2 * ((c.stripeH * c.displayH + 2 * g.height - 1) / (2 * g.height))

/-- The slot size, a multiple of 64 KiB. -/
def fbSlotSize (c : PipeSettings) (g : PortSettings) : Nat :=
  (3 * g.width * c.stripeH + 3 * c.displayW * displayLines c g + 65535) / 65536 * 65536

/-- The slots needed: ⌈B / P⌉ + 1. -/
def fbSlots (c : PipeSettings) : Nat := (c.budgetQ + 3) / 4 + 1

/-! ## Stripe checks (Table 08-4) -/

/-- Check 0x30: exactly one STRIPE_IN ring, with the tensor of R204. -/
def checkStripeInput (l : List Byte) (g : PortSettings) : Option CheckReport :=
  let fits := match stripeRings l with
    | [r] => (ringTensor l r).any fun t => t.layout == 0 && t.n == 1 && t.c == 48 && t.h == g.height && t.w == g.width
        && t.wAlloc == (g.width + 7) / 8 * 8
    | _ => false
  checkThat fits { status := Code.notPermitted, check := 0x30, value := (stripeRings l).length, limit := 1 }

/-- The scale k of a final sink's height: HEIGHT = H × 2^k, k from 0 to 3 (R202). -/
def sinkScale (height h : Nat) : Option Nat := (List.range 4).find? fun k => h * 2 ^ k == height

/-- Check 0x31: every final sink meets R202. -/
def checkSinks (l : List Byte) (g : PortSettings) : Option CheckReport :=
  firstFail ((List.range (imgHeader l).opCount).map fun i =>
    checkThat (!isFinal l i || (sinkScale g.height (opOut l (imgOp l i)).h).isSome)
      { status := Code.notPermitted, check := 0x31, entry := i, table := 2, value := (opOut l (imgOp l i)).h
        limit := g.height })

/-- Check 0x32: the STRIPE_IN ring on each of a set's blocks holds the rows of its largest stripe. -/
def checkStripeRing (l : List Byte) (c : PipeSettings) (g : PortSettings) (bs : List Nat) : Option CheckReport :=
  match stripeRings l with
  | r :: _ =>
    firstFail (bs.mapIdx fun x b =>
      let rows := (List.range (stripeCount c g)).foldl (fun m s =>
        max m (stripeInput l s c.stripeH g.height bs.length x).2) 0
      let need := (rows + r.rowsPerSlot - 1) / max 1 r.rowsPerSlot
      checkThat (decide (need ≤ r.slots))
        { status := Code.bufferOvercommit, check := 0x32, block := b, value := need, limit := r.slots })
  | [] => none

/-- Check 0x33: the line buffer (R68, R206). -/
def checkLineBuffer (g : PortSettings) (halo : Nat) : Option CheckReport :=
  checkThat (decide (lineNeed g halo ≤ lineCapacity g))
    { status := Code.bufferOvercommit, check := 0x33, value := lineNeed g halo, limit := lineCapacity g }

/-- Check 0x34: the fallback buffer (R70). -/
def checkFallback (c : PipeSettings) (g : PortSettings) : Option CheckReport :=
  checkThat (decide (fbSlots c * fbSlotSize c g ≤ c.fbSize))
    { status := Code.bufferOvercommit, check := 0x34, value := fbSlots c * fbSlotSize c g, limit := c.fbSize }

/-! ## Output checks (Table 09-5) -/

/-- Tensor `t` is the output of a final sink, in DRAM. -/
def isFinalOut (l : List Byte) (t : Nat) : Bool :=
  decide (t < (imgHeader l).tensorCount) && (imgTensor l t).isDram && (imgTensor l t).n == 1
    && (List.range (imgHeader l).opCount).any fun i => (imgOp l i).outTensor == t && isFinal l i

/-- The sink whose output is tensor `t`. -/
def sinkOf (l : List Byte) (t : Nat) : ImgOp := imgOp l ((imgProducer l t).getD 0)

/-- Check 0x38 (R223). -/
def checkPicture (p : Pipe) (l : List Byte) (c : PipeSettings) (g : PortSettings) : Option CheckReport :=
  let t := imgTensor l p.picture
  checkThat (!(c.codingEn || c.displayEn) || (isFinalOut l p.picture && t.layout == 0 && t.peat == 0 && t.c == 48
    && t.h == g.height && t.w == g.width)) { status := Code.notPermitted, check := 0x38, value := p.picture }

/-- Check 0x39 (R232). -/
def checkMv (p : Pipe) (l : List Byte) (c : PipeSettings) : Option CheckReport :=
  let t := imgTensor l p.mv
  checkThat (!c.mvEn || (isFinalOut l p.mv && t.layout == 0 && (t.peat == 0 || t.peat == c.mvPeat)))
    { status := Code.notPermitted, check := 0x39, value := p.mv }

/-- The heads that are named. -/
def Pipe.heads (p : Pipe) : List Nat := indices 4 fun i => p.head i != 0xFFFF

/-- A head meets R234. -/
def headFits (l : List Byte) (c : PipeSettings) (g : PortSettings) (t : Nat) : Bool :=
  let x := imgTensor l t
  isFinalOut l t && x.isImage && x.peat == 0
    && (sinkScale g.height x.h).any (fun k => x.w == (g.width + 2 ^ k - 1) / 2 ^ k)
    && x.c == (if c.anchorEnc then c.anchors_ else 1) * (4 + c.numClasses)

/-- Check 0x3A (R234). -/
def checkHeads (p : Pipe) (l : List Byte) (c : PipeSettings) (g : PortSettings) : Option CheckReport :=
  checkThat (!c.detEn || (!p.heads.isEmpty && p.heads.all fun i => headFits l c g (p.head i)))
    { status := Code.notPermitted, check := 0x3A }

/-- Check 0x3B (R228). -/
def checkDisplay (c : PipeSettings) (g : PortSettings) : Option CheckReport :=
  let fits := fun (d n : Nat) => d % 2 == 0 && decide (n ≤ 4 * d) && decide (d ≤ n)
  firstFail [
    checkThat (fits c.displayW g.width)
      { status := Code.notPermitted, check := 0x3B, value := c.displayW, limit := g.width },
    checkThat (fits c.displayH g.height)
      { status := Code.notPermitted, check := 0x3B, value := c.displayH, limit := g.height }]

/-- The enabled forms. -/
def PipeSettings.forms (c : PipeSettings) : List Nat :=
  indices 4 fun f => if f = 0 then c.codingEn else if f = 1 then c.displayEn else if f = 2 then c.mvEn else c.detEn

/-- The fields of a form that 0x3C checks. -/
def Pipe.alignFields (p : Pipe) (f : Nat) : List Nat :=
  [p.areaBase f, p.slotPitch f] ++ (if f = 3 then [] else [p.rowPitch f, p.offA f])
    ++ (if f = 0 then [p.offB f] else if f = 2 then [p.cbPitch f] else [])

/-- Check 0x3C. -/
def checkAlign (p : Pipe) (c : PipeSettings) : Option CheckReport :=
  let vs := c.forms.flatMap p.alignFields ++ [p.compBase, p.provBase]
  (vs.find? fun v => v % 64 != 0).map fun v =>
    { status := Code.sluiceMisaligned, check := 0x3C, value := v, limit := 64 }

/-- Bytes of a stored row of the machine-vision tensor under MV_PEAT (R232). -/
def mvRow (t : ImgTensor) (c : PipeSettings) : Nat :=
  if c.mvPeat = 0 then t.rowBytes else peatRow c.mvPeat t.cw t.wAlloc

/-- A form's row size, and the end of its data in a slot (R226, R231 to R233, R240). -/
def formNeed (p : Pipe) (l : List Byte) (c : PipeSettings) (g : PortSettings) (f : Nat) : Nat × Nat :=
  if f = 0 then
    let row := g.width * (if c.codingP010 then 2 else 1)
    (row, max (max ((g.height - 1) * p.rowPitch 0 + row) (p.offA 0 + (g.height / 2 - 1) * p.rowPitch 0 + row))
      (p.offB 0 + 8))
  else if f = 1 then
    let row := c.displayW * (if c.displayP010 then 2 else 1)
    (row, max ((c.displayH - 1) * p.rowPitch 1 + row) (p.offA 1 + (c.displayH / 2 - 1) * p.rowPitch 1 + row))
  else if f = 2 then
    let t := imgTensor l p.mv
    let row := mvRow t c
    (row, max ((t.cb - 1) * p.cbPitch 2 + (t.h - 1) * p.rowPitch 2 + row) (p.offA 2 + t.cb * t.h * t.groups))
  else (0, 32 * c.maxDet)

/-- The address ranges of the pipeline's results: enabled forms, provenance maps, completion records. -/
def resultRanges (p : Pipe) (c : PipeSettings) : List (Nat × Nat) :=
  let n := 2 ^ c.slotsLog2
  (c.forms.map fun f => (p.areaBase f, n * p.slotPitch f)) ++ [(p.provBase, 320 * n), (p.compBase, 64 * n)]

/-- The first two ranges that meet. -/
def firstMeet : List (Nat × Nat) → Option ((Nat × Nat) × (Nat × Nat))
  | [] => none
  | a :: t => match t.find? fun b => runsMeet a.1 a.2 b.1 b.2 with
    | some b => some (a, b)
    | none => firstMeet t

/-- Check 0x3D. -/
def checkArea (p : Pipe) (l : List Byte) (c : PipeSettings) (g : PortSettings) : Option CheckReport :=
  let bad := fun v m => ({ status := Code.bufferOvercommit, check := 0x3D, value := v, limit := m } : CheckReport)
  firstFail ((c.forms.flatMap fun f =>
      let n := formNeed p l c g f
      [checkThat (decide (n.1 ≤ p.rowPitch f) || f == 3) (bad (p.rowPitch f) n.1),
       checkThat (decide (n.1 ≤ p.cbPitch f) || f != 2) (bad (p.cbPitch f) n.1),
       checkThat (decide (n.2 ≤ p.slotPitch f)) (bad n.2 (p.slotPitch f))])
    ++ [(firstMeet (resultRanges p c)).map fun x => bad x.2.1 x.1.1])

/-- The output checks in ascending code (R247). -/
def outputChecks (p : Pipe) (l : List Byte) (c : PipeSettings) (g : PortSettings) : Option CheckReport :=
  firstFail [checkPicture p l c g, checkMv p l c, checkHeads p l c g, checkDisplay c g, checkAlign p c, checkArea p l c g]

end Sys2Proof.Machine
end

