-- ==== Sys2Proof/Machine/Loader.lean ====
section
/-!
DEFINITION. The loader (R142 to R169): the load checks of Table 06-14 on an image, in their order, and the placement checks
on the blocks of a set. A check answers the report of its first failure, or none.
-/

namespace Sys2Proof.Machine

open Sys2Proof

/-! ## Tiles of one dimension -/

/-- The pieces that dimension `d` is cut into at the last of some levels, given outermost first (R151). -/
def dimTiles (o : ImgOp) (d : Nat) : List ImgLevel → List (Nat × Nat) → List (Nat × Nat)
  | [], cur => cur
  | v :: rest, cur =>
    let t := v.ext.getD d 1 * (if rest.isEmpty && v.mem == 0 && o.isWino && (d == 3 || d == 4) then 2 else 1)
    dimTiles o d rest (cur.flatMap fun p => if d = 3 then cutAnchored t p.1 p.2 else cutRun t p.2 p.1 p.2)

/-- The pieces of dimension `d` at level `v` of an operator. -/
def levelTiles (l : List Byte) (o : ImgOp) (v d : Nat) : List (Nat × Nat) :=
  dimTiles o d ((imgLevels l o).drop v).reverse [(0, (opExtents l o).getD d 0)]

/-- The largest piece. -/
def largest (ps : List (Nat × Nat)) : Nat := ps.foldl (fun m p => max m p.2) 0

/-- The most cells of `u` that a piece touches. -/
def mostTouched (ps : List (Nat × Nat)) (u : Nat) : Nat :=
  ps.foldl (fun m p => if p.2 = 0 then m else max m ((p.1 + p.2 - 1) / u - p.1 / u + 1)) 0

/-! ## Staged buffers (R152, R470) -/

/-- The distance of a memory: CELL, SCRATCHPAD, POOL, DRAM. -/
def ImgTensor.home (t : ImgTensor) : Nat := if t.isDram then 3 else if t.isPool then 2 else 1

/-- The input positions of pieces `outs` under taps `k0` to `k1` of a window axis, clipped to the tensor (R175). -/
def reached (outs : List (Nat × Nat)) (stride dil pad k0 k1 size : Nat) : List (Nat × Nat) :=
  outs.map fun p => rowSpan (max 0 ((p.1 * stride + k0 * dil : Nat) - (pad : Int)))
    (min ((size : Int) - 1) (((p.1 + p.2 - 1) * stride + k1 * dil : Nat) - (pad : Int)))

/-- Taps of a piece: first and last ky, smallest and largest kx. -/
def tapSpan (o : ImgOp) (p : Nat × Nat) : (Nat × Nat) × (Nat × Nat) :=
  if o.isWino then ((0, 2), (0, 2)) else
    let kxs := (List.range p.2).map fun i => (p.1 + i) % max 1 o.kw
    ((p.1 / max 1 o.kw, (p.1 + p.2 - 1) / max 1 o.kw), (kxs.foldl min o.kw, kxs.foldl max 0))

/-- Patches cover whole pairs of rows and pixels (R182). -/
def evenRun (o : ImgOp) (p : Nat × Nat) : Nat × Nat :=
  if o.isWino && p.2 != 0 then (p.1 / 2 * 2, (p.1 + p.2 + 1) / 2 * 2 - p.1 / 2 * 2) else p

/-- Pieces of an output axis of SPACE_TO_DEPTH or DEPTH_TO_SPACE as input runs. -/
def rearranged (o : ImgOp) (outs : List (Nat × Nat)) : List (Nat × Nat) :=
  outs.map fun p => if o.isS2D then (p.1 * o.factor, p.2 * o.factor)
    else if p.2 = 0 then p else (p.1 / o.factor, (p.1 + p.2 - 1) / o.factor - p.1 / o.factor + 1)

/-- The cells of `u` that a run touches. -/
def cellsOf (u : Nat) (p : Nat × Nat) : Nat × Nat :=
  if p.2 = 0 then (p.1 / u, 0) else (p.1 / u, (p.1 + p.2 - 1) / u - p.1 / u + 1)

/-- G of Table 07-4: channel blocks per group of a rearrangement. -/
def ImgOp.groupBlocks (o : ImgOp) (cw : Nat) : Nat := (o.factor * o.factor * o.inCh + cw - 1) / cw

/-- The input of output channel `ch`, row `y`, pixel `x` of SPACE_TO_DEPTH or DEPTH_TO_SPACE: channel, row, pixel; none is the value 0
(R191, R192). -/
def ImgOp.source (o : ImgOp) (cw ch y x : Nat) : Option (Nat × Nat × Nat) :=
  let f := o.factor
  let g := o.groupBlocks cw
  if o.isS2D then
    let q := ch % (g * cw)
    let d := q / max 1 o.inCh
    if q < f * f * o.inCh then some (ch / (g * cw) * cw + q % max 1 o.inCh, y * f + d / f, x * f + d % f) else none
  else if ch % cw < o.inCh then
    some (ch / cw * (g * cw) + (y % f * f + x % f) * o.inCh + ch % cw, y / f, x / f)
  else none

/-- The first rows or pixels of a run, one for each offset within a block of the factor. -/
def ImgOp.offsets (o : ImgOp) (p : Nat × Nat) : List Nat := runOf (p.1, min p.2 o.factor)

/-- The input channel blocks that output channels `cs`, rows `ys` and pixels `xs` of a rearrangement read. -/
def sourceBlocks (o : ImgOp) (cw : Nat) (cs ys xs : Nat × Nat) : List Nat :=
  ((runOf cs).flatMap fun ch => (o.offsets ys).flatMap fun y => (o.offsets xs).filterMap fun x =>
    (o.source cw ch y x).map fun p => p.1 / cw).uniq

/-- Granules of the staged A buffer of level `v` (R470). -/
def aGranules (l : List Byte) (o : ImgOp) (v : Nat) : Nat :=
  let t := opA l o
  let ts := levelTiles l o v
  let folds := if t.nPitch = 0 && !t.isRing then 1 else largest (ts 0)
  if o.isMatmul then folds * largest (ts 3) * mostTouched (ts 2) 128
  else if o.isS2D || o.isD2S then
    folds * ((ts 1).flatMap fun cs => (ts 3).flatMap fun ys => (ts 4).map fun xs =>
      (sourceBlocks o t.cw cs ys xs).length * largest (rearranged o [ys]) * mostTouched (rearranged o [xs]) (128 / t.cw)).foldl max 0
  else
    let spans := (ts 5).map (tapSpan o)
    let rows := spans.foldl (fun m k => max m (largest (reached ((ts 3).map (evenRun o)) o.strideY o.dilY o.padTop k.1.1 k.1.2 t.h))) 0
    let gran := spans.foldl (fun m k =>
      max m (mostTouched (reached ((ts 4).map (evenRun o)) o.strideX o.dilX o.padLeft k.2.1 k.2.2 t.w) (128 / t.cw))) 0
    folds * rows * mostTouched (if o.isPooling then ts 1 else ts 2) t.cw * gran

/-- Granules of the staged B buffer. -/
def bGranules (l : List Byte) (o : ImgOp) (v : Nat) : Nat :=
  let ts := levelTiles l o v
  if o.bAct then (if (opB l o).nPitch = 0 then 1 else largest (ts 0)) * largest (ts 1) * mostTouched (ts 2) 128
  else (if (opB l o).nPitch = 0 then 1 else largest (ts 0)) * mostTouched (ts 1) 16 * ((largest (ts 2) * largest (ts 5) * ImgTensor.posBytes o.bKind + 63) / 64)

/-- Granules of the staged output buffer. -/
def oGranules (l : List Byte) (o : ImgOp) (v : Nat) : Nat :=
  let t := opOut l o
  let ts := levelTiles l o v
  if t.isToken then largest (ts 0) * largest (ts 3) * mostTouched (ts 1) 128
  else largest (ts 0) * largest (ts 3) * mostTouched (ts 1) t.cw * mostTouched (ts 4) (128 / t.cw)

/-- An operand is staged at level `v` (R152): its home is farther than the level's memory; an output is also staged at a
SCRATCHPAD level unless its home is SCRATCHPAD. -/
def stagedAt (l : List Byte) (o : ImgOp) (v : Nat) (side : StageSide) : Bool :=
  let m := (imgLevel l o v).mem
  m != 0 && match side with
    | .a => decide (m < (opA l o).home)
    | .b => o.hasB && decide (m < (opB l o).home)
    | .out => decide (m < (opOut l o).home)

/-- Lines of the staged buffer of an operand at level `v`, both copies under DOUBLE. -/
def bufLines (l : List Byte) (o : ImgOp) (v : Nat) (side : StageSide) : Nat :=
  let n := match side with
    | .a => aGranules l o v
    | .b => bGranules l o v
    | .out => oGranules l o v
  n * (if (imgLevel l o v).double then 2 else 1)

/-- The line offset of a staged buffer. -/
def bufLine (l : List Byte) (o : ImgOp) (v : Nat) (side : StageSide) : Nat :=
  match side with
  | .a => (imgLevel l o v).aBuf
  | .b => (imgLevel l o v).bBuf
  | .out => (imgLevel l o v).oBuf

/-- A range that an image binds: pool or scratchpad, segment, first line, lines, report table and entry, and what it is. -/
structure BoundRange where
  pool : Bool
  segment : Nat
  line : Nat
  lines : Nat
  table : Nat
  entry : Nat
  /-- 0 A buffer, 1 B buffer, 2 output buffer, 3 ring. -/
  role : Nat
  level : Nat
  deriving DecidableEq, Repr

/-- The staged buffers of an operator. -/
def opRanges (l : List Byte) (i : Nat) : List BoundRange :=
  let o := imgOp l i
  (List.range o.levels).flatMap fun v =>
    ([(StageSide.a, 0), (StageSide.b, 1), (StageSide.out, 2)].filter fun x => stagedAt l o v x.1
      && ((imgLevel l o v).mem == 1 || (imgLevel l o v).mem == 2)).map fun x =>
      { pool := (imgLevel l o v).mem == 2, segment := o.segment, line := bufLine l o v x.1, lines := bufLines l o v x.1
        table := 2, entry := i, role := x.2, level := v }

/-- The operator at the other end of a ring, for its segment. -/
def ImgRing.anOp (r : ImgRing) : Nat := if r.consumer != 0xFFFF then r.consumer else r.producer

/-- Bytes from BASE that a tensor spans, a WEIGHT tensor under the kind of the operator that reads it (R173, Table 06-2). -/
def tensorSpan (t : ImgTensor) (kind : Nat) : Nat :=
  let folds := if t.nPitch = 0 then 0 else (t.n - 1) * t.nPitch
  folds + if t.isWeight then (t.wAlloc / 16 - 1) * t.cbPitch + t.h * ImgTensor.posBytes kind
    else t.rowOffset 0 (t.cb - 1) (t.h - 1) + t.storedRow

/-- The tensors of an operator that lie in the scratchpad or a pool, each sized under the operator (Table 06-2, R159). -/
def opHomes (l : List Byte) (i : Nat) : List BoundRange :=
  let o := imgOp l i
  ([(o.aTensor, 0), (o.bTensor, 1), (o.outTensor, 2)].filter fun x => x.1 != 0xFFFF
      && ((imgTensor l x.1).location == 1 || (imgTensor l x.1).location == 2)).map fun x =>
    let t := imgTensor l x.1
    { pool := t.isPool, segment := o.segment, line := t.base / 64, lines := (tensorSpan t o.bKind + 63) / 64, table := 3
      entry := x.1, role := x.2, level := 0xFF }

/-- Every range of an image, in the order of R168: tensors in index order, each as each of its operators sizes it, staged
buffers operator by operator, rings. -/
def imgRanges (l : List Byte) : List BoundRange :=
  let ops := List.range (imgHeader l).opCount
  let homes := ops.flatMap (opHomes l)
  ((List.range (imgHeader l).tensorCount).flatMap fun i => homes.filter fun r => r.entry == i) ++ ops.flatMap (opRanges l)
    ++ (imgRings l).mapIdx fun i r =>
      { pool := false, segment := (imgOp l r.anOp).segment, line := r.baseLine, lines := r.slots * r.slot4k * 64, table := 4
        entry := i, role := 3, level := 0xFF }

/-- A range lies in a pool quarter. -/
def BoundRange.inQuarter (r : BoundRange) (q : Nat) : Bool :=
  r.pool && runsMeet (64 * r.line) (64 * r.lines) (q * 0x40_0000) 0x40_0000
/-- The pool quarters that an image binds (R136, R137). -/
def boundQuarters (l : List Byte) : List Nat := indices 4 fun q => (imgRanges l).any fun r => r.inQuarter q

/-! ## Reports -/

/-- A check of the image header. -/
def chkH (c : Bool) (code : Nat) (st : BitVec 16) (v m : Nat) : Option CheckReport :=
  checkThat c { status := st, check := code, entry := 0, table := 1, value := v, limit := m }

/-- A check of entry `e` of table `t`. -/
def chkE (t e : Nat) (c : Bool) (code : Nat) (st : BitVec 16) (v m : Nat) : Option CheckReport :=
  checkThat c { status := st, check := code, entry := e, table := t, value := v, limit := m }

/-- A check of level `v` of operator `e`. -/
def chkL (e lv : Nat) (c : Bool) (code : Nat) (st : BitVec 16) (v m : Nat) : Option CheckReport :=
  checkThat c { status := st, check := code, level := lv, entry := e, table := 2, value := v, limit := m }

/-- A check over the tensors, the operators, the rings or the residencies of an image. -/
def overTensors (l : List Byte) (f : Nat → ImgTensor → Option CheckReport) : Option CheckReport :=
  firstFail ((imgTensors l).mapIdx f)
def overOps (l : List Byte) (f : Nat → ImgOp → Option CheckReport) : Option CheckReport :=
  firstFail ((imgOps l).mapIdx f)
def overRings (l : List Byte) (f : Nat → ImgRing → Option CheckReport) : Option CheckReport :=
  firstFail ((imgRings l).mapIdx f)
def overResids (l : List Byte) (f : Nat → ImgResid → Option CheckReport) : Option CheckReport :=
  firstFail ((imgResids l).mapIdx f)
/-- A loop table has at most six entries (R142). -/
def overLevels (l : List Byte) (o : ImgOp) (f : Nat → ImgLevel → Option CheckReport) : Option CheckReport :=
  firstFail (((imgLevels l o).take 6).mapIdx f)

/-! ## 0x02 to 0x04 -/

/-- A table lies wholly within the image, at a multiple of 64 (R142). -/
def tableFits (len off n : Nat) : Bool := off % 64 == 0 && decide (off + n ≤ len)

/-- Check 0x02. -/
def checkHeader (l : List Byte) (len : Nat) : Option CheckReport :=
  let h := imgHeader l
  let st := Code.notPermitted
  firstFail [
    chkH (h.magic == 0x4D51_4150) 0x02 st h.magic 0x4D51_4150,
    chkH (h.version == 1) 0x02 st h.version 1,
    chkH (h.imageLen == len && h.imageLen % 64 == 0 && decide (h.imageLen ≤ 2 ^ 21)) 0x02 st h.imageLen len,
    chkH (decide (1 ≤ h.opCount) && decide (h.opCount ≤ 256)) 0x02 st h.opCount 256,
    chkH (decide (1 ≤ h.tensorCount) && decide (h.tensorCount ≤ 1024)) 0x02 st h.tensorCount 1024,
    chkH (decide (h.ringCount ≤ 1024)) 0x02 st h.ringCount 1024,
    chkH (decide (h.residCount ≤ 64)) 0x02 st h.residCount 64,
    chkH (tableFits len h.opOff (128 * h.opCount)) 0x02 st h.opOff len,
    chkH (tableFits len h.tensorOff (64 * h.tensorCount)) 0x02 st h.tensorOff len,
    chkH (if h.ringCount = 0 then h.ringOff == 0 else tableFits len h.ringOff (32 * h.ringCount)) 0x02 st h.ringOff len,
    chkH (if h.residCount = 0 then h.residOff == 0 else tableFits len h.residOff (32 * h.residCount)) 0x02 st h.residOff
      len,
    overOps l fun i o => firstFail [
      chkE 2 i (tableFits len o.loopOff (32 * min 6 (max 2 o.levels))) 0x02 st o.loopOff len,
      chkE 2 i (!o.isMultiplier || decide (h.tensorCount ≤ o.outTensor) || tableFits len o.chanOff (8 * (opOut l o).c))
        0x02 st o.chanOff len,
      chkE 2 i (tableFits len o.planOff 64) 0x02 st o.planOff len]]

/-! ## 0x10 ENCODING -/

/-- A tensor's fields are in range, its reserved bytes 0, its REF names a ring or residency where it must (R142, R144). -/
def tensorEncodes (l : List Byte) (t : ImgTensor) : Bool :=
  decide (t.location ≤ 4) && decide (t.layout ≤ 3) && decide (t.peat ≤ 2) && t.reserved
    && (t.peat == 0 || ((t.isDram || t.isPool) && t.isImage))
    && (if t.isRing then (imgRingOf l t.ref).isSome else if t.isResid then (imgResidOf l t.ref).isSome else t.ref == 0)
    && (!t.isRing || t.base == 0) && decide (1 ≤ t.n) && decide (t.n ≤ 65536) && decide (1 ≤ t.c) && decide (1 ≤ t.h)
    && decide (1 ≤ t.w) && (t.isImage || t.w == 1) && (!t.isWeight || t.rowPitch == 0) && (!t.isToken || t.cbPitch == 0)
    && (!(t.isWeight || t.isRing) || t.shiftBase == 0)

/-- A zero point fits the codes of a width. -/
def zpFits (z w : Nat) : Bool := decide (z < 2 ^ widthBits w)

/-- OPERAND_FORMAT (R86) of an operator. A field that Table 04-2 says to write 0 and that is not 0 fails (DESIGN CHOICE, log 79); that
the B fields are 0 where there is no B is check 0x15's (R181). -/
def formatEncodes (o : ImgOp) : Bool :=
  fld 31 17 o.operandFormat == 0 && fld 11 10 o.operandFormat == 0 && o.aWidth != 3 && zpFits o.aZp o.aWidth && o.bWidth != 3
    && (!o.isMultiplier || if o.bAct then zpFits o.bZp o.bWidth && o.bKind == 0 else o.bZp == 0 && o.bWidth == 0)

/-- A channel entry (R86, Table 04-3; log 79). -/
def chanEncodes (o : ImgOp) (c : ImgChan) : Bool :=
  c.reserved && (if o.bAct then c.wShift == 0 && c.wZp == 0
    else if o.bKind = 0 then decide (c.wZp ≤ 15) else if o.bKind = 1 then decide (c.wZp ≤ 3) else c.wZp == 0)

/-- REQUANT_CONTROL (R101). -/
def requantEncodes (o : ImgOp) : Bool :=
  decide (fld 17 16 o.requant ≤ 1) && fld 15 10 o.requant == 0 && decide (fld 9 8 o.requant ≤ 1) && fld 3 2 o.requant == 0
    && fld 1 0 o.requant != 3 && zpFits o.outZp (fld 1 0 o.requant)

/-- OP_MODE (R180). -/
def modeEncodes (l : List Byte) (o : ImgOp) : Bool :=
  let re := o.isS2D || o.isD2S
  o.mode &&& (0xFFFF_FFFF - ((if re then 0x3F30 else 0) + (if o.isPoolAvg then 2 else 0) + (if o.isWino then 1 else 0))) == 0
    && (!re || (decide (fld 5 4 o.mode ≤ 1) && decide (1 ≤ o.inCh) && decide (o.inCh ≤ (opA l o).cw)))

/-- An operator header (Table 06-3 to 06-6). A filter of 0 is out of range; one above 15 is check 0x14's. -/
def opEncodes (l : List Byte) (o : ImgOp) : Bool :=
  let n := (imgHeader l).tensorCount
  decide (o.kind ≤ 6) && o.reserved && decide (o.aTensor < n) && decide (o.outTensor < n)
    && (!o.isMultiplier || decide (o.bTensor < n))
    && fld 63 56 o.window == 0 && fld 7 0 o.window == 0 && fld 63 32 o.padding == 0
    && [o.kh, o.kw, o.strideY, o.strideX, o.dilY, o.dilX].all (fun x => decide (1 ≤ x))
    && formatEncodes o && requantEncodes o && modeEncodes l o
    && (!o.isMultiplier || (List.range (opOut l o).c).all fun c => chanEncodes o (imgChan l o c))
    && (List.range 32).all fun b => (List.range 4).all fun s =>
      planClaim l o b false s != 3 && planClaim l o b true s != 3

/-- A level entry: reserved fields 0, no ORDER at level 0, a buffer field 0 where the operand is not staged (R152). -/
def levelEncodes (l : List Byte) (o : ImgOp) (v : Nat) (x : ImgLevel) : Bool :=
  x.reserved && (v != 0 || x.order.all (· == 0))
    && (stagedAt l o v .a || x.aBuf == 0) && (stagedAt l o v .b || x.bBuf == 0) && (stagedAt l o v .out || x.oBuf == 0)

/-- A ring binding (Table 06-10). -/
def ringEncodes (l : List Byte) (i : Nat) (r : ImgRing) : Bool :=
  let n := (imgHeader l).opCount
  r.reserved && decide (r.kind ≤ 3) && decide (r.ring ≤ 1023)
    && ((imgRings l).take i).all (fun x => x.ring != r.ring)
    && decide (3 ≤ r.slots) && decide (r.slots ≤ 64) && decide (1 ≤ r.slot4k) && decide (r.slot4k ≤ 768)
    && decide (1 ≤ r.rowsPerSlot) && decide (r.rowsPerSlot ≤ 1024)
    && (if r.kind = 0 || r.kind = 3 then decide (r.producer < n) else r.producer == 0xFFFF)
    && (if r.kind = 3 then r.consumer == 0xFFFF else decide (r.consumer < n))

/-- Check 0x10. -/
def checkEncoding (l : List Byte) : Option CheckReport :=
  let h := imgHeader l
  let st := Code.notPermitted
  firstFail [
    chkH (h.reserved && h.workLines % 32 == 0 && decide (h.workLines ≤ 49152)) 0x10 st h.workLines 49152,
    overTensors l fun i t => chkE 3 i (tensorEncodes l t) 0x10 st 0 0,
    overOps l fun i o => firstFail [chkE 2 i (opEncodes l o) 0x10 st 0 0,
      overLevels l o fun v x => chkL i v (levelEncodes l o v x) 0x10 st 0 0],
    overRings l fun i r => chkE 4 i (ringEncodes l i r) 0x10 st 0 0,
    overResids l fun i r => chkE 5 i (r.reserved && r.id != 0 && decide (1 ≤ r.lines) && decide (r.lines ≤ 49152)) 0x10 st
      r.lines 49152]

/-- Check 0x11. -/
def checkAlignment (l : List Byte) : Option CheckReport :=
  let st := Code.sluiceMisaligned
  let off := fun (t e : Nat) (vs : List Nat) (m : Nat) =>
    firstFail (vs.map fun v => chkE t e (v % m == 0) 0x11 st v m)
  firstFail [
    overTensors l fun i t => off 3 i [t.base, t.rowPitch, t.cbPitch, t.nPitch, t.shiftBase] 64,
    overRings l fun i r => off 4 i [r.baseLine] 64,
    overResids l fun i r => firstFail [off 5 i [r.line] 32, off 5 i [r.source] 64]]

/-- MEM at level `v` of an operator (R152). -/
def memFits (l : List Byte) (o : ImgOp) (v : Nat) (x : ImgLevel) : Bool :=
  (x.mem == 0) == (v == 0) && (v == 0 || decide ((imgLevel l o (v - 1)).mem ≤ x.mem))
    && (v + 1 != o.levels || (decide ((opA l o).home ≤ x.mem) && (!o.hasB || decide ((opB l o).home ≤ x.mem))
      && decide ((opOut l o).home ≤ x.mem)))

/-- Check 0x12. -/
def checkLoops (l : List Byte) : Option CheckReport :=
  let st := Code.loopDepth
  overOps l fun i o => firstFail [
    chkE 2 i (decide (2 ≤ o.levels) && decide (o.levels ≤ 6)) 0x12 st o.levels 6,
    overLevels l o fun v x => chkL i v (memFits l o v x
      && (v == 0 || (List.range 6).all fun d => x.order.contains d)) 0x12 st x.mem 0,
    chkE 2 i ((imgLevels l o).any fun x => x.mem == 1) 0x12 st 0 1]

/-- A limit on one extent: whether it is kept, the extent, the limit. -/
abbrev ExtLimit := Bool × Nat × Nat

/-- The extent is `n`, or at most `n`. -/
def extIs (e n : Nat) : ExtLimit := (e == n, e, n)
def extAtMost (e n : Nat) : ExtLimit := (decide (e ≤ n), e, n)

/-- Level 0's extents by kind (R153, R178, R182, R188, R193). -/
def cellLimits (l : List Byte) (o : ImgOp) (x : ImgLevel) : List ExtLimit :=
  let e := fun d => x.ext.getD d 0
  let re := o.isS2D || o.isD2S
  [extIs (e 0) 1, extAtMost (e o.mDim) 16, extAtMost (e 1) 16, extIs (e (7 - o.mDim)) 1]
    ++ (if o.isWino || o.isMatmul then [] else if re then [extIs (e 5) ((opExtents l o).getD 5 0)] else [extAtMost (e 5) 3])

/-- Extents of level `v` against its neighbours and the operator (R151, R182, R188). -/
def extLimits (l : List Byte) (o : ImgOp) (v : Nat) (x : ImgLevel) : List ExtLimit :=
  let full := opExtents l o
  let up := if v + 1 = o.levels then full else (imgLevel l o (v + 1)).ext
  let e := fun d => x.ext.getD d 0
  (List.range 6).map (fun d => (decide (1 ≤ e d), e d, 1))
    ++ (List.range 6).map (fun d => if v + 1 = o.levels then extIs (e d) (full.getD d 0) else extAtMost (e d) (up.getD d 0))
    ++ (if !o.isWino || v == 0 then [] else [3, 4].map fun d => (e d % 2 == 0 || e d == full.getD d 0, e d, full.getD d 0))
    ++ (if o.isWino then [extIs (e 5) 16] else []) ++ (if o.isMultiplier then [] else [extIs (e 2) (full.getD 2 0)])

/-- The level from which a staged output goes to its home: the outermost one that stages it (R152). -/
def homeLevel (l : List Byte) (o : ImgOp) : Option Nat := ((List.range o.levels).filter fun v => stagedAt l o v .out).getLast?

/-- A staged write to a PEAT tensor, which only the last buffer before it makes, covers whole peat blocks along x (R194). -/
def peatFits (l : List Byte) (o : ImgOp) (v : Nat) : Bool :=
  let t := opOut l o
  t.peat == 0 || homeLevel l o != some v || (levelTiles l o v 4).all fun p =>
    p.1 % 64 == 0 && (p.2 % 64 == 0 || decide (t.wAlloc ≤ p.1 + p.2))

/-- Check 0x13. -/
def checkTiles (l : List Byte) : Option CheckReport :=
  let st := Code.tileTooLarge
  overOps l fun i o => overLevels l o fun v x =>
    let limits := extLimits l o v x ++ (if v = 0 then cellLimits l o x else []) ++ [(peatFits l o v, x.ext.getD 4 0, 64)]
    firstFail (limits.map fun c => chkL i v c.1 0x13 st c.2.1 c.2.2)

/-- Check 0x14 (R179). -/
def checkFilter (l : List Byte) : Option CheckReport :=
  overOps l fun i o =>
    let m := if o.isPooling then 8 else 15
    firstFail [chkE 2 i (decide (o.kh ≤ m)) 0x14 Code.filterTooLarge o.kh m,
      chkE 2 i (decide (o.kw ≤ m)) 0x14 Code.filterTooLarge o.kw m]

/-! ## 0x15 SHAPE -/

/-- No two rows of a tensor share a byte, over every fold (R149, R173): no difference of two rows' offsets is shorter than a
row. With N_PITCH 0 the folds share one place (DESIGN CHOICE, log 106). -/
def rowsApart (t : ImgTensor) : Bool :=
  let folds := if t.nPitch = 0 then 1 else t.n
  (List.range folds).all fun f => (List.range (2 * t.cb - 1)).all fun b =>
    let v : Int := f * t.nPitch + ((b : Int) - (t.cb - 1 : Nat)) * t.cbPitch
    let q := (-v).ediv t.rowPitch
    [q, q + 1].all fun y =>
      (f == 0 && b + 1 == t.cb && y == 0) || decide (y ≤ -(t.h : Int)) || decide ((t.h : Int) ≤ y)
        || decide (t.storedRow ≤ (v + y * t.rowPitch).natAbs)

/-- A tensor's own shape (R149, R173, R195, Table 06-2). -/
def tensorShape (t : ImgTensor) : Bool :=
  (if t.isImage then decide (t.w ≤ t.wAlloc) && t.wAlloc % (if t.layout = 0 then 8 else 4) == 0
   else if t.isToken then decide (t.c ≤ t.wAlloc) && t.wAlloc % 128 == 0
   else decide (t.c ≤ t.wAlloc) && t.wAlloc % 16 == 0)
    && (t.isRing || t.isWeight || (decide (t.storedRow ≤ t.rowPitch) && rowsApart t))

/-- The blocks of a weight tensor under a kind keep apart, over every fold (R149). -/
def weightApart (t : ImgTensor) (kind : Nat) : Bool :=
  let size := t.h * ImgTensor.posBytes kind
  let blocks := t.wAlloc / 16
  (List.range (if t.nPitch = 0 then 1 else t.n)).all fun f => (List.range (2 * blocks - 1)).all fun b =>
    (f == 0 && b + 1 == blocks) || decide (size ≤ ((f * t.nPitch : Nat) + ((b : Int) - (blocks - 1 : Nat)) * t.cbPitch).natAbs)

/-- Table 07-4, and MATMUL's operands (R144, R147, R148). The C of A per block is what every channel block of A has: the valid channels
of its last one (DEDUCED, log 80). A MATMUL of a kernel is refused here (DESIGN CHOICE, log 108). -/
def kindShape (l : List Byte) (o : ImgOp) : Bool :=
  let a := opA l o
  let b := opB l o
  let t := opOut l o
  let ones := o.strideY == 1 && o.strideX == 1 && o.dilY == 1 && o.dilX == 1
  let nopad := o.padding == 0
  let plain := o.bTensor == 0xFFFF && o.operandFormat &&& 0x100FF == 0 && o.chanOff == 0
  let weights := !o.bAct && b.isWeight && b.c == t.c && decide (t.c ≤ b.wAlloc) && weightApart b o.bKind
  if o.isMatmul then
    a.isToken && t.isToken && o.kh == 1 && o.kw == 1 && t.h == a.h
      && (if o.bAct then b.isToken && b.h == t.c && b.wAlloc == a.wAlloc else weights && b.h == a.wAlloc)
  else a.isImage && t.isImage &&
    (if o.isConv then weights && b.h == o.kh * o.kw * a.kExtent
     else if o.isWino then weights && b.h == 16 * a.kExtent && o.kh == 3 && o.kw == 3 && ones && !a.isRing
     else if o.isPooling then plain && a.layout == t.layout && t.c == a.c
     else if o.isS2D then
       plain && a.layout == t.layout && o.kh == o.factor && o.kw == o.factor && o.strideY == o.factor
         && o.strideX == o.factor && o.dilY == 1 && o.dilX == 1 && nopad
         && decide (o.inCh ≤ (a.c - 1) % a.cw + 1) && t.c == a.cb * o.groupBlocks a.cw * a.cw
     else plain && a.layout == t.layout && o.kh == 1 && o.kw == 1 && ones && nopad
       && a.cb % max 1 (o.groupBlocks a.cw) == 0 && t.h == a.h * o.factor && t.w == a.w * o.factor
       && t.c == a.cb / max 1 (o.groupBlocks a.cw) * a.cw)

/-- Output sizes of R174 that are at least 1 agree with OUT_TENSOR. -/
def sizesAgree (l : List Byte) (o : ImgOp) : Bool :=
  let z := opOutSize l o
  o.isMatmul || o.isD2S || decide (z.1 < 1) || decide (z.2 < 1)
    || (z.1 == ((opOut l o).h : Int) && z.2 == ((opOut l o).w : Int))

/-- Zero points and widths agree along every output that operator `j` consumes (Table 06-14). -/
def codesAgree (l : List Byte) (j : Nat) (o : ImgOp) : Bool :=
  (List.range (imgHeader l).opCount).all fun i =>
    let p := imgOp l i
    let reads := fun (u : Nat) => (imgReaders l i).contains j && readsTensor l u p.outTensor o.bKind
    (!reads o.aTensor || (p.outZp == o.aZp && fld 1 0 p.requant == o.aWidth))
      && (!(o.hasB && reads o.bTensor) || (p.outZp == o.bZp && fld 1 0 p.requant == o.bWidth))

/-- The rings that an operator names name it (Table 06-10). -/
def ringsAgree (l : List Byte) (i : Nat) (o : ImgOp) : Bool :=
  let reads := fun (t : ImgTensor) => !t.isRing || (imgRingOf l t.ref).any fun r => r.consumer == i
  reads (opA l o) && (!o.hasB || reads (opB l o))
    && (!(opOut l o).isRing || (imgRingOf l (opOut l o).ref).any fun r => r.producer == i)

/-- Folds of an operand (R149). -/
def foldsAgree (l : List Byte) (o : ImgOp) : Bool :=
  let n := (opOut l o).n
  let ok := fun (t : ImgTensor) => t.n == n || t.nPitch == 0
  ok (opA l o) && (!o.hasB || ok (opB l o))

/-- Check 0x15. -/
def checkShape (l : List Byte) : Option CheckReport :=
  let st := Code.notPermitted
  firstFail [
    overTensors l fun i t => chkE 3 i (tensorShape t) 0x15 st t.wAlloc t.w,
    overOps l fun i o => chkE 2 i (kindShape l o && sizesAgree l o && codesAgree l i o && ringsAgree l i o && foldsAgree l o)
      0x15 st 0 0]

/-- Check 0x16 (R174): height first, then width; VALUE is the size as 32 bits. -/
def checkEmpty (l : List Byte) : Option CheckReport :=
  overOps l fun i o =>
    let z := opOutSize l o
    let bad := fun (n : Int) => chkE 2 i (o.isMatmul || o.isD2S || decide (1 ≤ n)) 0x16 Code.emptyOutput (n.emod (2 ^ 32)).toNat 1
    firstFail [bad z.1, bad z.2]

/-- A run lies within one cell of `u`. -/
def within (u : Nat) (p : Nat × Nat) : Bool := p.2 == 0 || (p.1 + p.2 - 1) / u == p.1 / u

/-- The in-bounds input pixels that output pixels `p` read under taps of one row (R175). -/
def pixelsRead (o : ImgOp) (w : Nat) (kxs : List Nat) (p : Nat × Nat) : List Nat :=
  (runOf p).flatMap fun x => kxs.filterMap fun k => inSize ((x * o.strideX + k * o.dilX : Nat) - (o.padLeft : Int)) w

/-- The kx of a run of taps. -/
def ImgOp.kxs (o : ImgOp) (p : Nat × Nat) : List Nat := if o.isWino then [0, 1, 2] else (runOf p).map (· % max 1 o.kw)

/-- Check 0x17 (R96, R178, R182). -/
def checkStraddle (l : List Byte) : Option CheckReport :=
  overOps l fun i o =>
    let t := opA l o
    let ts := levelTiles l o 0
    let ok :=
      if o.isMatmul then (ts 2).all fun p => (cutRun (kMaxOf o.lanes) p.2 p.1 p.2).all (within 131072)
      else if o.isS2D || o.isD2S then true
      else
        (ts 2).all (within t.cw) && (o.isWino || (ts 5).all (within (max 1 o.kw)))
          && (ts 5).all fun k => (ts 4).all fun p =>
            ((pixelsRead o t.w (o.kxs k) (evenRun o p)).map (· / t.groupSpan)).uniq.length ≤ 1
    chkL i 0 ok 0x17 Code.scaleGroupStraddle 0 0

/-- Operator `j` may read what operator `i` writes (R154). -/
def mayRead (l : List Byte) (i j : Nat) : Bool :=
  let t := opOut l (imgOp l i)
  let a := (imgOp l i).segment
  let b := (imgOp l j).segment
  if t.isRing then (imgRingOf l t.ref).any (fun r => r.kind == 0) && a == b
  else (t.isDram || t.isPool) && decide (a < b)

/-- Check 0x18 (R154). -/
def checkSegments (l : List Byte) : Option CheckReport :=
  overOps l fun j o => firstFail [
    chkE 2 j (j == 0 || decide ((imgOp l (j - 1)).segment ≤ o.segment)) 0x18 Code.notPermitted o.segment 0,
    chkE 2 j ((List.range (imgHeader l).opCount).all fun i => !(imgReaders l i).contains j || mayRead l i j) 0x18
      Code.notPermitted 0 0]

/-- Remove the operators without an incoming edge, `n` times; what is left lies on or behind a cycle. -/
def peel (edges : List (Nat × Nat)) : Nat → List Nat → List Nat
  | 0, ns => ns
  | n + 1, ns => peel edges n (ns.filter fun x => edges.any fun e => e.2 == x && ns.contains e.1)

/-- What edges lead to from some operators, `n` edges on. -/
def reachFrom (edges : List (Nat × Nat)) : Nat → List Nat → List Nat
  | 0, ns => ns
  | n + 1, ns => reachFrom edges n (ns ++ (edges.filter fun e => ns.contains e.1).map Prod.snd).uniq

/-- Check 0x19 (R158). ENTRY names the first ring that lies on a cycle: its consumer leads back to its producer (DESIGN CHOICE, log 104:
the manual does not say which of a cycle's rings). -/
def checkRingGraph (l : List Byte) : Option CheckReport :=
  let edges := ((imgRings l).filter fun r => r.kind == 0).map fun r => (r.producer, r.consumer)
  let n := (imgHeader l).opCount
  let bad := peel edges n (List.range n)
  overRings l fun i r => chkE 4 i (!(r.kind == 0 && bad.contains r.producer && bad.contains r.consumer
    && (reachFrom edges n [r.consumer]).contains r.producer)) 0x19 Code.ringCycle 0 0

/-- Bytes of a slot: its rows, then their shift entries (R157). -/
def slotBytes (t : ImgTensor) (rows : Nat) : Nat := up64 (rows * t.cb * t.rowBytes) + rows * t.cb * t.groups

/-- Slots that a ring's consumer needs (R157). -/
def slotsNeeded (l : List Byte) (r : ImgRing) : Nat :=
  let o := imgOp l r.consumer
  let v := if r.kind != 3 && !o.isMatmul && !o.isD2S then o.dilY * (o.kh - 1) + 1 else 1
  (v + r.rowsPerSlot - 1) / max 1 r.rowsPerSlot + 1

/-- Check 0x1A (R157). -/
def checkRingSlots (l : List Byte) : Option CheckReport :=
  overRings l fun i r => firstFail [
    (ringTensor l r).bind fun t => chkE 4 i (decide (slotBytes t r.rowsPerSlot ≤ r.slot4k * 4096)) 0x1A
      Code.bufferOvercommit (slotBytes t r.rowsPerSlot) (r.slot4k * 4096),
    chkE 4 i (decide (slotsNeeded l r ≤ r.slots)) 0x1A Code.bufferOvercommit (slotsNeeded l r) r.slots]

/-- Two ranges of one segment and memory overlap; one tensor, as two operators size it, does not overlap itself. -/
def BoundRange.meets (a b : BoundRange) : Bool :=
  a.pool == b.pool && a.segment == b.segment && !(a.table == 3 && b.table == 3 && a.entry == b.entry)
    && runsMeet a.line a.lines b.line b.lines

/-- Check 0x1B of one range: its end, then the ranges before it. -/
def checkRange (l : List Byte) (before : List BoundRange) (r : BoundRange) : Option CheckReport :=
  let cap := if r.pool then 0x4_0000 else (imgHeader l).workLines
  let rep := fun v m =>
    ({ status := Code.bufferOvercommit, check := 0x1B, level := r.level, entry := r.entry, table := r.table, value := v
       limit := m } : CheckReport)
  firstFail [checkThat (decide (r.line + r.lines ≤ cap)) (rep (r.line + r.lines) cap),
    (before.find? fun x => x.meets r).map fun x => rep r.line x.line]

/-- Check 0x1B (R159). -/
def checkBuffers (l : List Byte) : Option CheckReport :=
  let rs := imgRanges l
  firstFail (rs.mapIdx (fun i r => checkRange l (rs.take i) r)
    ++ [overResids l fun i r => chkE 5 i (decide (r.line + r.lines ≤ 49152)) 0x1B Code.bufferOvercommit (r.line + r.lines)
          49152])

/-- Checks 0x1C and 0x1D (R165, R166). -/
def checkAcc (l : List Byte) : Option CheckReport :=
  checkThat (decide (imgAcc l ≤ 131072)) { status := Code.accOvercommit, check := 0x1C, value := imgAcc l, limit := 131072 }
def checkCarry (l : List Byte) : Option CheckReport :=
  checkThat (decide (imgCarry l ≤ 16384))
    { status := Code.bufferOvercommit, check := 0x1D, value := imgCarry l, limit := 16384 }

/-! ## 0x1E BANK_PLAN (R160) -/

/-- Lines per FCLK cycle of an operand pair (Table 05-3). -/
def linesPerCycle (o : ImgOp) : Nat :=
  let k := o.pairKind
  if !o.isMultiplier then 0
  else if o.bAct && o.bWidth = 2 then (if o.aWidth = 2 then 32 else 16)
  else if o.aWidth = 2 then (if !o.bAct && k = 3 then 20 else if k = 0 then 16 else 24)
  else if k = 0 then 8 else if k = 3 then 20 else 12

/-- A thread claims COMPUTE in some slot of bank `b`'s read (or write) port. -/
def claimsCompute (l : List Byte) (b : Nat) (wr : Bool) : Bool := (List.range 4).any fun s => mapClaim l b wr s == 1

/-- COMPUTE read slots over all banks. -/
def computeReads (l : List Byte) : Nat :=
  ((List.range 32).map fun b => (indices 4 fun s => mapClaim l b false s == 1).length).sum

/-- Every bank of a run of lines claims COMPUTE. -/
def runClaims (l : List Byte) (wr : Bool) (line n : Nat) : Bool :=
  (List.range (min 32 n)).all fun i => claimsCompute l ((line + i) % 32) wr

/-- The level to whose buffer requantisation writes: the innermost SCRATCHPAD level at which the output is staged (R152). -/
def requantLevel (l : List Byte) (o : ImgOp) : Option Nat :=
  (List.range o.levels).find? fun v => stagedAt l o v .out && (imgLevel l o v).mem == 1

/-- The banks of a range that compute reads, or that requantisation writes, claim COMPUTE. An output buffer of a farther level is
written through DMA slots. -/
def rangeClaims (l : List Byte) (r : BoundRange) : Bool :=
  if r.pool || (r.table == 2 && r.role == 2 && requantLevel l (imgOp l r.entry) != some r.level) then true
  else if r.role = 3 then
    let x := imgRing l r.entry
    (x.kind == 3 || runClaims l false r.line r.lines) && (!(x.kind == 0 || x.kind == 3) || runClaims l true r.line r.lines)
  else runClaims l (r.role == 2) r.line r.lines

/-- No slot is claimed COMPUTE by one operator and DMA by another, up to operator `i`. -/
def claimsAgree (l : List Byte) (i : Nat) : Bool :=
  (List.range 32).all fun b => [false, true].all fun wr => (List.range 4).all fun s =>
    let mine := planClaim l (imgOp l i) b wr s
    mine == 0 || (List.range i).all fun j => planClaim l (imgOp l j) b wr s == 0 || planClaim l (imgOp l j) b wr s == mine

/-- Check 0x1E. -/
def checkBankPlan (l : List Byte) : Option CheckReport :=
  let st := Code.bankPlanConflict
  let ranges := fun (t : Nat) (f : BoundRange → Bool) =>
    firstFail (((imgRanges l).filter fun r => r.table == t && f r).map fun r =>
      checkThat (rangeClaims l r) { status := st, check := 0x1E, level := r.level, entry := r.entry, table := t, value := r.line })
  firstFail [
    ranges 3 fun _ => true,
    overOps l fun i o => firstFail [chkE 2 i (claimsAgree l i) 0x1E st 0 0, ranges 2 fun r => r.entry == i,
      chkE 2 i (decide (4 * linesPerCycle o ≤ computeReads l)) 0x1E st (computeReads l) (4 * linesPerCycle o)],
    ranges 4 fun _ => true,
    overResids l fun i r => chkE 5 i (runClaims l false r.line r.lines) 0x1E st r.line 0]

/-! ## All load checks -/

/-- POOL_CONFIG's requested modes of a region: as last written (R136, R137). -/
def Region.requested (r : Region) : Nat := (r.poolWait.getD r.poolRequest).toNat

/-- A quarter of a region is in CACHE mode, live or requested. -/
def Region.cacheish (r : Region) (q : Nat) : Bool := r.cacheMode q || fld (2 * q + 1) (2 * q) r.requested == 1

/-- Check 0x1F over the regions of a mask (R137, R169). -/
def State.checkPoolMode (s : State) (l : List Byte) (mask : Nat) (block : Nat) : Option CheckReport :=
  firstFail ((imgRanges l).map fun x =>
    checkThat ((indices 4 mask.testBit).all fun r => (List.range 4).all fun q => !(x.inQuarter q && (s.region r).cacheish q))
      { status := Code.notPermitted, check := 0x1F, level := x.level, entry := x.entry, table := x.table, block := block })

/-- Store space that loaded images leave (R143, Table 06-17). -/
def State.storeFree (s : State) : Nat := 2 ^ 21 - (s.mappings.map fun m => m.2.image.length).sum

/-- The load checks 0x02 to 0x1F on an image read whole, in ascending code (R168). -/
def State.loadChecks (s : State) (l : List Byte) (len mask : Nat) : Option CheckReport :=
  match checkHeader l len with
  | some r => some r
  | none => firstFail [
      chkH ((imgHeader l).checksum == imgChecksum l) 0x03 Code.notPermitted (imgHeader l).checksum (imgChecksum l),
      chkH (decide (len ≤ s.storeFree)) 0x04 Code.bufferOvercommit len s.storeFree,
      checkEncoding l, checkAlignment l, checkLoops l, checkTiles l, checkFilter l, checkShape l, checkEmpty l,
      checkStraddle l, checkSegments l, checkRingGraph l, checkRingSlots l, checkBuffers l, checkAcc l, checkCarry l,
      checkBankPlan l, s.checkPoolMode l mask 0xFF]

/-! ## Placement checks -/

/-- Residencies and working ranges of a block, as runs of lines. -/
def Block.residentRuns (b : Block) : List (Nat × Nat) := b.residents.map fun r => (r.line, r.lines)
def State.workRuns (s : State) (b : Block) : List (Nat × Nat) :=
  b.threads.map fun t => (t.workBase, (imgHeader (s.mapping t.mapping).image).workLines)

/-- Two residency entries of one image may be created together: they are one residency, or keep apart. -/
def ImgResid.agrees (x r : ImgResid) : Bool :=
  if x.id = r.id then x.line == r.line && x.lines == r.lines && x.digest == r.digest else !runsMeet x.line x.lines r.line r.lines

/-- A residency of an image on a block, beside the entries before it: shared, new, or in conflict (R123). -/
def State.residFits (s : State) (b : Block) (before : List ImgResid) (r : ImgResid) : Bool :=
  before.all (fun x => x.agrees r) && match b.residents.find? fun x => x.id.toNat == r.id with
  | some x => x.line == r.line && x.lines == r.lines && x.digest.toNat == r.digest
  | none => (b.residentRuns ++ s.workRuns b).all fun y => !runsMeet y.1 y.2 r.line r.lines

/-- The lowest base for a working range (R161). -/
def State.workBase (s : State) (b : Block) (l : List Byte) : Option Nat :=
  let n := (imgHeader l).workLines
  let runs := b.residentRuns ++ s.workRuns b ++ (imgResids l).map fun r => (r.line, r.lines)
  ((List.range 1537).map (32 * ·)).find? fun a => decide (a + n ≤ 49152) && runs.all fun y => !runsMeet y.1 y.2 a n

/-- A block's slot map agrees with an image's plan (R119). -/
def State.slotMapFits (s : State) (b : Block) (l : List Byte) : Bool :=
  b.threads.all fun t => let m := (s.mapping t.mapping).image
    (List.range 32).all fun k => [false, true].all fun wr => (List.range 4).all fun i =>
      let x := mapClaim l k wr i
      let y := mapClaim m k wr i
      x == 0 || y == 0 || x == y

/-- Rings, accumulator elements, carry entries that a block's threads hold. -/
def Block.ringCount (b : Block) : Nat := (b.threads.map fun t => t.rings.length).sum
def Block.accHeld (b : Block) : Nat := (b.threads.map fun t => t.accAlloc).sum
def Block.carryHeld (b : Block) : Nat := (b.threads.map fun t => t.carryEntries).sum

/-- A block has a free thread slot (R19, R20). -/
def Block.slotFree (b : Block) : Bool := decide (b.threads.length < 256)

/-- One placement check over the blocks of a set, ascending. -/
def State.overBlocks (s : State) (bs : List Nat) (st : BitVec 16) (code : Nat) (f : Block → Bool) (v : Block → Nat)
    (m : Nat) : Option CheckReport :=
  firstFail (bs.map fun b => checkThat (f (s.block b))
    { status := st, check := code, block := b, value := v (s.block b), limit := m })

/-- Check 0x23 on a block. -/
def State.checkResidencies (s : State) (b : Nat) (l : List Byte) : Option CheckReport :=
  firstFail ((imgResids l).mapIdx fun i r => checkThat (s.residFits (s.block b) ((imgResids l).take i) r)
    { status := Code.bankPlanConflict, check := 0x23, block := b, entry := i, table := 5, value := r.line })

/-- Placement checks 0x1F to 0x27 of mapping `id` on blocks `bs` of region `r` (R168). -/
def State.placeChecks (s : State) (id r : Nat) (bs : List Nat) : Option CheckReport :=
  let m := s.mapping id
  let l := m.image
  let n := l.length
  firstFail [
    if n = 0 then none else s.checkPoolMode l (2 ^ r) 0xFF,
    checkThat (m.regionMask.getLsbD r) { status := Code.notPermitted, check := 0x20, value := r },
    s.overBlocks bs Code.bufferOvercommit 0x21 Block.slotFree (fun b => b.threads.length + 1) 256,
    s.overBlocks bs Code.bufferOvercommit 0x22 (fun b => decide (b.ringCount + (imgHeader l).ringCount ≤ 1024))
      (fun b => b.ringCount + (imgHeader l).ringCount) 1024,
    firstFail (bs.map fun b => s.checkResidencies b l),
    s.overBlocks bs Code.bufferOvercommit 0x24 (fun b => (s.workBase b l).isSome) (fun _ => (imgHeader l).workLines) 49152,
    s.overBlocks bs Code.bankPlanConflict 0x25 (fun b => s.slotMapFits b l) (fun _ => 0) 0,
    s.overBlocks bs Code.accOvercommit 0x26 (fun b => decide (b.accHeld + m.accElems ≤ 131072))
      (fun b => b.accHeld + m.accElems) 131072,
    s.overBlocks bs Code.bufferOvercommit 0x27 (fun b => decide (b.carryHeld + m.carryEntries ≤ 16384))
      (fun b => b.carryHeld + m.carryEntries) 16384]

/-- The report of check 0x28 for residency entry `i`. -/
def sourceReport (i : Nat) : CheckReport :=
  { status := Code.notPermitted, check := 0x28, entry := i, table := 5 }

end Sys2Proof.Machine
end

