-- ==== Sys2Proof/Machine/BlockAttr.lean ====
section
/-!
DEFINITION. The attributes of arithmetic, blocks, pools, mappings and window units (R112, R139, R171, R198; Tables 04-9,
05-5, 06-15, 07-7).
-/

namespace Sys2Proof.Machine

open Sys2Proof

/-- Tables 04-9, 05-5, 06-15 and 07-7. -/
def blockSpec (id : Nat) : Option AttrSpec :=
  if id = 0x0400 ∨ id = 0x0460 then roAttr 8 64
  else if id = 0x0401 then rw 1 24
  else if id = 0x0420 then roAttr 4 64
  else if id = 0x0421 then rw 1 25
  else if id = 0x0422 then rw 1 4
  else if id = 0x0423 then roAttr 1 4
  else if id = 0x0424 then roAttr 8 4
  else if id = 0x0440 then roAttr 8 1024
  else if id = 0x0441 then roAttr 1
  else none

/-- SCALE_REPLAY_CONFIG (Table 04-10). -/
def PipeSettings.marginUs (c : PipeSettings) : Nat := bits 31 16 c.scaleReplay
def PipeSettings.replayEn (c : PipeSettings) : Bool := c.scaleReplay.getLsbD 0

/-- A quarter is referenced (R136): it is in SCRATCHPAD mode and the mapping of a resident thread of the region binds a
range in it. -/
def State.referenced (s : State) (r q : Nat) : Bool :=
  !(s.region r).cacheMode q && (List.range 16).any fun i =>
    (s.block (16 * r + i)).threads.any fun t => (boundQuarters (s.mapping t.mapping).image).contains q

/-- The sum of `2^q` over the quarters that meet a test. -/
def quarterMask (p : Nat → Bool) : Nat := ((indices 4 p).map (2 ^ ·)).sum

/-- A quarter's requested mode differs from its live mode. -/
def Region.pendingQuarter (r : Region) (q : Nat) : Bool :=
  fld (2 * q + 1) (2 * q) r.requested != bits (2 * q + 1) (2 * q) r.poolLive

/-- POOL_STATUS (Table 05-9). -/
def State.poolStatus (s : State) (r : Nat) : Nat :=
  let x := s.region r
  flagAt 16 (x.switching.isSome || s.flushes.any fun f => f.regions.getLsbD r)
    + quarterMask (s.referenced r) * 2 ^ 12 + quarterMask x.pendingQuarter * 2 ^ 8 + x.poolLive.toNat

/-- BLOCK_MEMORY (Table 05-6). -/
def State.blockMemory (s : State) (b : Nat) : Nat :=
  let x := s.block b
  (x.residentRuns.map Prod.snd).sum * 2 ^ 16 + ((s.workRuns x).map Prod.snd).sum + x.accHeld * 2 ^ 32
    + x.threads.length * 2 ^ 64 + x.collisions.toNat * 2 ^ 96

/-- Resident threads of a mapping. -/
def State.threadsOf (s : State) (m : Nat) : Nat :=
  ((List.range 64).map fun b => ((s.block b).threads.filter fun t => t.mapping == m).length).sum

/-- MAPPING_INFO.STATE. -/
def mapStateCode : MapState → Nat
  | .empty => 0
  | .loading => 1
  | .loaded => 2

/-- MAPPING_INFO (Table 06-16). -/
def State.mappingInfo (s : State) (m : Nat) : Nat :=
  let x := s.mapping m
  let h := imgHeader x.image
  if x.state == .loaded then
    2 * 2 ^ 16 + h.opCount + x.accElems * 2 ^ 32 + x.carryEntries * 2 ^ 64 + h.workLines * 2 ^ 96
      + s.threadsOf m * 2 ^ 128 + x.image.length * 2 ^ 160 + h.buildId * 2 ^ 192
  else mapStateCode x.state * 2 ^ 16

/-- MAPPING_STORE (Table 06-17). -/
def State.mappingStore (s : State) : Nat :=
  s.storeFree / 64 * 2 ^ 16 + (s.mappings.filter fun m => m.2.state == .loaded).length

/-- Read an attribute of these chapters. -/
def State.blockRead (s : State) (id i : Nat) (shadow : Bool) : Nat :=
  let c := if shadow then (s.pipe i).shadow else (s.pipe i).live
  if id = 0x0400 then ofWords ((s.block i).arith.words 8)
  else if id = 0x0460 then ofWords ((s.block i).window.words 8)
  else if id = 0x0401 then c.scaleReplay.toNat
  else if id = 0x0420 then s.blockMemory i
  else if id = 0x0421 then (if i = 24 then s.jobCollision.toNat else c.collision.toNat)
  else if id = 0x0422 then (if shadow then (s.region i).requested else (s.region i).poolRequest.toNat)
  else if id = 0x0423 then s.poolStatus i
  else if id = 0x0424 then ofWords ((s.region i).poolCounters.words 8)
  else if id = 0x0440 then s.mappingInfo i
  else s.mappingStore

/-- Write an attribute of these chapters. -/
def State.blockWrite (s : State) (id i v : Nat) : Written :=
  if id = 0x0401 then
    permit (decide (fld 31 16 v ≤ 1000)) (.ok (s.putShadow i fun x => { x with scaleReplay := keep 32 0xFFFF_0001 v }))
  else if id = 0x0421 then
    permit (fld 1 0 v != 3)
      (.ok (if i = 24 then { s with jobCollision := keep 32 3 v }
            else s.putShadow i fun x => { x with collision := keep 32 3 v }))
  else
    permit ((List.range 4).all fun q => decide (fld (2 * q + 1) (2 * q) v ≤ 1))
      (.ok (s.updRegion i fun x => { x with poolWait := some (keep 32 0xFF v) }))

end Sys2Proof.Machine
end

