-- ==== Sys2Proof/Machine/SluiceAttr.lean ====
section
/-!
DEFINITION. The attributes of sluice channels and rings (R283, Tables 10-12 to 10-17) and of memory and PCIe (R288, R309,
Tables 11-8 to 11-13).
-/

namespace Sys2Proof.Machine

open Sys2Proof

/-- Tables 10-12 and 11-8. -/
def sluiceSpec (id : Nat) : Option AttrSpec :=
  if id = 0x0500 then rw 1 4
  else if id = 0x0501 then rw 2
  else if id = 0x0502 then roAttr 12 1024
  else if id = 0x0503 then roAttr 4 65536
  else if id = 0x0504 then roAttr 8 4
  else if id = 0x0600 then rw 1
  else if id = 0x0601 then roAttr 4 2
  else if id = 0x0602 then roAttr 8 2
  else if id = 0x0603 then roAttr 2 262144
  else if id = 0x0604 then roAttr 4
  else none

/-- Table 10-1. -/
def channelStateCode : ChannelState → Nat
  | .idle => 0
  | .running => 1
  | .waiting => 2
  | .faulted => 3
  | .halted => 4

/-- CHANNEL_STATUS (Table 10-15). -/
def Channel.statusWords (c : Channel) : Nat :=
  let it := fun i => ((c.loops[i]?).map fun x => x.iter.toNat).getD 0
  c.status.toNat * 2 ^ 48 + c.pc * 2 ^ 32 + c.waitKind.toNat * 2 ^ 16 + c.ownerKind.toNat * 2 ^ 8
    + channelStateCode c.state
    + (c.owner.toNat * 2 ^ 32 + c.waitArg.toNat) * 2 ^ 64
    + (it 0 * 2 ^ 32 + it 1) * 2 ^ 128 + (it 2 * 2 ^ 32 + it 3) * 2 ^ 192
    + c.position.toNat * 2 ^ 256 + (flagAt 63 c.faultDst + c.faultAddr.toNat) * 2 ^ 320

/-- RING_STATUS (Table 10-16). -/
def State.ringStatus (s : State) (i : Nat) : Nat :=
  match (s.block (i / 1024)).ring (i % 1024) with
  | some r => r.head.toNat * 2 ^ 48 + r.tail.toNat * 2 ^ 32 + r.image * 2 ^ 16 + r.kind * 2 ^ 8 + r.slots
      + (r.slot4k * 2 ^ 48 + r.baseLine) * 2 ^ 64
  | none => 0

/-- MEM_STATUS (Tables 11-10, 11-11). -/
def State.memStatus (s : State) (k : Nat) : Nat :=
  let x := s.dramStack k
  x.lastPoison.toNat + (x.temp.toNat * 2 ^ 56 + x.scrubPos % 2 ^ 32 * 2 ^ 8 + flagAt 7 x.trained + flagAt 6 x.refresh2x) * 2 ^ 64

/-- Read an attribute of these chapters. -/
def State.sluiceRead (s : State) (id i : Nat) (shadow : Bool) : Nat :=
  if id = 0x0500 then ((if shadow then (s.region i).policyWait else none).getD (s.region i).policy).toNat
  else if id = 0x0501 then s.sluiceConfig.toNat
  else if id = 0x0502 then (s.channel i).statusWords
  else if id = 0x0503 then s.ringStatus i
  else if id = 0x0504 then ofWords ((s.region i).sluice.words 8)
  else if id = 0x0600 then
    s.mem.config.toNat / 4 * 4 + ((if shadow then s.mem.interleaveWait else none).getD (s.mem.config.setWidth 2)).toNat
  else if id = 0x0601 then s.memStatus i
  else if id = 0x0602 then ofWords ((s.dramStack i).counters.words 8)
  else if id = 0x0603 then (s.carrEntry i).toNat
  else ofWords (s.mem.pcieCounters.words 4)

/-- None of the cases in which a change of interleave is refused (R288). -/
def State.interleaveFree (s : State) : Bool :=
  (List.range 24).all (fun p => (s.pipe p).stream == .stopped)
    && (List.range 64).all (fun b => (s.block b).threads.isEmpty)
    && (List.range 1024).all fun c => (s.channel c).state == .idle || (s.channel c).state == .halted

/-- Write MEM_CONFIG (R288, R309). -/
def State.memConfigWrite (s : State) (v : Nat) : Written :=
  let live := bits 1 0 s.mem.config
  let same := fld 1 0 v == live
  permit (same || s.interleaveFree)
    (permit (decide (1 ≤ fld 31 24 v) && decide (1 ≤ fld 15 8 v) && decide (fld 15 8 v ≤ 168))
      (.ok { s with mem := { s.mem with
        config := keep 32 0xFF00_FF00 v ||| BitVec.ofNat 32 live
        interleaveWait := if same then none else some (BitVec.ofNat 2 v) } }))

/-- Write an attribute of these chapters. -/
def State.sluiceWrite (s : State) (id i v : Nat) : Written :=
  if id = 0x0500 then
    permit (decide (1 ≤ fld 23 16 v) && fld 11 8 v + fld 7 4 v + fld 3 0 v == 16)
      (.ok (s.updRegion i fun x => { x with policyWait := some (keep 32 0x01FF_0FFF v) }))
  else if id = 0x0501 then
    permit (decide (16 ≤ fld 47 32 v) && decide (fld 47 32 v ≤ 10000) && decide (10 ≤ fld 31 0 v)
        && decide (fld 31 0 v ≤ 10000000))
      (.ok { s with
        sluiceConfig := keep 64 0xFFF0_FFFF_FFFF_FFFF v, watchdogWas := (s.time, bits 47 32 s.sluiceConfig) :: s.watchdogWas })
  else s.memConfigWrite v

end Sys2Proof.Machine
end

