-- ==== Sys2Proof/Machine/DeviceAttr.lean ====
section
/-!
DEFINITION. The attributes of protocol and time (R341, Tables 12-11 to 12-16), clocks, power, calibration and ageing (R425,
Tables 15-5 to 15-7), the Fovar link (R362, Tables 13-8 to 13-12), faults (R394, Tables 14-3 to 14-14) and firmware (R446,
Tables 16-11 to 16-13).
-/

namespace Sys2Proof.Machine

open Sys2Proof

/-- Tables 12-11, 13-8, 14-12, 15-5 and 16-11. -/
def deviceSpec (id : Nat) : Option AttrSpec :=
  if id = 0x0000 ∨ id = 0x0002 then roAttr 2
  else if id = 0x0001 ∨ id = 0x0003 then roAttr 4
  else if id = 0x0004 then roAttr 8 2
  else if id = 0x0005 then roAttr 2 2
  else if id = 0x0006 then roAttr 8 2
  else if id = 0x0007 then roAttr 2 16
  else if id = 0x0008 then roAttr 2 24
  else if id = 0x0180 then roAttr 8
  else if id = 0x0181 then rw 4
  else if id = 0x0182 then rw 2
  else if id = 0x0100 ∨ id = 0x0104 then roAttr 2
  else if id = 0x0101 then rw 1 4
  else if id = 0x0102 then roAttr 2 4
  else if id = 0x0103 ∨ id = 0x0105 ∨ id = 0x0109 ∨ id = 0x0900 ∨ id = 0x0904 then rw 1
  else if id = 0x0106 then roAttr 1 101
  else if id = 0x0107 then rw 1 100
  else if id = 0x0108 then roAttr 1 100
  else if id = 0x010A then roAttr 8
  else if id = 0x0901 then roAttr 2 24
  else if id = 0x0902 then roAttr 1 624
  else if id = 0x0903 then roAttr 2 32
  else if id = 0x0905 then roAttr 6 101
  else if id = 0x0906 then roAttr 4
  else if id = 0x0700 then rw 1
  else if id = 0x0701 then roAttr 2 4
  else if id = 0x0702 then roAttr 4 64
  else if id = 0x0703 then roAttr 8
  else if id = 0x0800 then rw 2
  else if id = 0x0801 then rw 1 4
  else if id = 0x0802 then rw 1 64
  else if id = 0x0803 then roAttr 2 64
  else if id = 0x0804 then rw 1 24
  else if id = 0x0805 ∨ id = 0x0808 ∨ id = 0x0809 then rw 1
  else if id = 0x0806 ∨ id = 0x0807 ∨ id = 0x080B then roAttr 2
  else if id = 0x080A then roAttr 8
  else if id = 0x0A00 then roAttr 20 2
  else if id = 0x0A01 then roAttr 2
  else if id = 0x0A02 then roAttr 1
  else none

/-! ## Protocol and time -/

/-- TIME_STATUS.STATE (Table 12-16). -/
def timeStateCode : TimeState → Nat
  | .freeRun => 0
  | .synced => 1
  | .holdover => 2
  | .slewing => 3

/-- An integer as a saturating two's-complement word of `w` bits. -/
def satSigned (w : Nat) (v : Int) : Nat := ((max (-(2 ^ (w - 1))) (min (2 ^ (w - 1) - 1) v)).emod (2 ^ w)).toNat

/-- TIME_STATUS. -/
def State.timeStatus (s : State) : Nat :=
  s.now + s.base.tickNumber s.now * 2 ^ 64
    + (satSigned 32 s.base.offset * 2 ^ 32 + timeStateCode s.base.state) * 2 ^ 128 + s.base.lastSync.toNat * 2 ^ 192

/-- The index-th Ethernet port. -/
def ethAt (i : Nat) : EthPort := if i = 0 then .a else .b

/-- Read a protocol or time attribute. -/
def State.protocolRead (s : State) (id i : Nat) : Nat :=
  let e := s.ethOf (ethAt i)
  if id = 0x0000 then s.deviceId
  else if id = 0x0001 then s.fw.otp.serial.toNat
  else if id = 0x0002 then 8192 * 2 ^ 32 + 4096 * 2 ^ 16 + 16 * 2 ^ 8 + 1
  else if id = 0x0003 then
    s.session.elim 0 fun x => x.addr.toNat * 2 ^ 32 + x.port.toNat * 2 ^ 16 + x.since.toNat * 2 ^ 64
  else if id = 0x0004 then join64 e.net.toList
  else if id = 0x0005 then flagAt 7 e.link + flagAt 6 e.macsecUp
  else if id = 0x0006 then ofWords (e.counters.words 8)
  else if id = 0x0007 then
    let q := (s.ethOf .a).queue i
    q.expected.toNat * 2 ^ 32 + min 64 q.outstanding
  else if id = 0x0008 then
    let p := s.pipe i
    let ports := (s.carriedPorts i).map s.port
    p.liveFrom.toNat * 2 ^ 32 + flagAt 1 (p.pending.isSome || ports.any fun x => x.pending.isSome)
      + flagAt 0 (p.shadowChanged || ports.any fun x => x.shadowChanged)
  else if id = 0x0180 then s.timeStatus
  else if id = 0x0181 then s.base.fen0.toNat + s.base.fen1.toNat * 2 ^ 64
  else s.base.config.toNat

/-- FEN_CONFIG's ranges (R315). -/
def fenLegal (v : Nat) : Bool :=
  let num := fld 63 32 v
  let den := fld 31 0 v
  decide (1 ≤ den) && decide (den ≤ 1000) && decide (2000000 * den ≤ num) && decide (num ≤ 1000000000 * den)
    && decide (fld 95 64 v * den < num)

/-- Write FEN_CONFIG (R315): only while every pipeline is STOPPED. -/
def State.fenWrite (s : State) (v : Nat) : Written :=
  permit ((List.range 24).all fun p => (s.pipe p).stream == .stopped)
    (permit (fenLegal v)
      (.ok { s with base := { s.base with fen0 := BitVec.ofNat 64 v, fen1 := keep 64 0xFFFF_FFFF (word64 v 1) } }))

/-- TIME_CONFIG's ranges (Table 12-16). -/
def timeLegal (v : Nat) : Bool :=
  decide (fld 47 40 v ≤ 127) && decide (1 ≤ fld 31 16 v) && decide (fld 31 16 v ≤ 1000) && decide (1 ≤ fld 15 0 v)

/-! ## Clocks, power, calibration, ageing -/

/-- Busy time of a block over its complete tick periods, at most 16, and their length: key 25 of a period holds its length
(R378, R400). -/
def Block.busyOver (b : Block) (p : Nat → Bool) : Nat × Nat :=
  let one := fun (t : Tab Nat) => (((indices 25 p).map fun k => Tab.get (fun _ => 0) t k).sum, Tab.get (fun _ => 0) t 25)
  let ps := if b.busyPast.isEmpty then [b.busy] else b.busyPast
  ps.foldl (fun acc t => (acc.1 + (one t).1, acc.2 + (one t).2)) (0, 0)

/-- A region's busy time over its sixteen blocks, and their time (R400). -/
def State.regionBusy (s : State) (r : Nat) : Nat × Nat :=
  (List.range 16).foldl (fun acc i =>
    let x := (s.block (16 * r + i)).busyOver fun _ => true
    (acc.1 + x.1, acc.2 + x.2)) (0, 0)

/-- A domain's requested mode code: AUTO 0, ON 1, OFF 2. -/
def Domain.modeCode (d : Domain) : Nat := bits 1 0 d.mode

/-- A block channel belongs to block `c / 16`. -/
def blockOf (c : Nat) : Nat := c / 16

/-- A pipeline or its port is not STOPPED (Table 15-4, front ends). -/
def State.frontBusy (s : State) (p : Nat) : Bool :=
  (List.range 24).any fun q => (q == p || (s.pipe q).sourcePort == some p) && (s.pipe q).stream != .stopped

/-- I²C transactions of a port are queued. -/
def Port.i2cBusy (p : Port) : Bool := !p.i2cQueue.isEmpty || !p.i2cDue.isEmpty || p.i2cBus.isSome

/-- An access through BAR 0. -/
def DramWait.isBar : DramWait → Bool
  | .barWrite _ _ _ _ => true
  | .barRead _ _ _ => true
  | .peerWrite _ _ _ _ => false
  | .peerRead _ _ _ _ => false
  | .coll _ _ _ => false

/-- A domain is in use (Table 15-4). -/
def State.inUse (s : State) (d : Nat) : Bool :=
  if d < 64 then
    let b := s.block d
    !b.threads.isEmpty || b.testing || b.running.any (fun r => match r.kind with
        | .refereeFor _ => true
        | _ => false)
      || (List.range 16).any fun i => !((s.channel (16 * d + i)).state == .idle || (s.channel (16 * d + i)).state == .halted)
  else if d < 68 then
    (List.range 16).any (fun i => (s.domain (16 * (d - 64) + i)).isOn) || s.flushes.any fun f => f.regions.getLsbD (d - 64)
  else if d < 92 then s.frontBusy (d - 68) || ((s.domain d).modeCode == 0 && (s.port (d - 68)).i2cBusy)
  else if d < 94 then true
  else if d = 94 then
    (List.range 24).any (fun p => (s.pipe p).stream != .stopped) || s.jobs.any (fun j => j.state != .held)
      || !s.mem.hostReads.isEmpty || s.mem.waiting.any DramWait.isBar
  else if d < 99 then s.fovar.portEn (d - 95)
  else false

/-- A domain's requested state is not yet live. -/
def State.domainPending (s : State) (d : Nat) : Bool :=
  let x := s.domain d
  let m := (x.modeWait.getD x.mode).toNat % 4
  (m == 1 && !x.isOn) || (m == 2 && x.isOn) || (m == 0 && x.waits)

/-- POWER_STATUS (Table 15-6). -/
def State.powerStatus (s : State) (d : Nat) : Nat :=
  let x := s.domain d
  x.switches.toNat * 2 ^ 16
    + flagAt 3 (decide (d < 64) && x.modeCode == 0 && x.isOn && !(s.block d).residents.isEmpty)
    + flagAt 2 (s.inUse d) + flagAt 1 (s.domainPending d) + flagAt 0 x.isOn

/-- DVFS_STATUS. -/
def State.dvfsStatus (s : State) (r : Nat) : Nat :=
  let x := s.region r
  let b := s.regionBusy r
  x.slack.toNat * 2 ^ 48 + (if b.2 = 0 then 0 else min 255 (100 * b.1 / b.2)) * 2 ^ 40 + x.tempMax.toNat * 2 ^ 32
    + x.limit.toNat * 2 ^ 4 + flagAt 3 (decide (bits 1 0 x.dvfs < x.limit.toNat))
    + flagAt 2 (x.droopClamped || s.health.avsFault) + x.liveDiv.toNat

/-- Eye width and tap of an input of a port. -/
def Port.eye (p : Port) (i : Nat) : Nat := (Tab.get (fun _ => 0) p.eyes i).toNat
def Port.tap (p : Port) (i : Nat) : Nat := (Tab.get (fun _ => 0) p.taps i).toNat

/-- EYE_MIN and its input (R413). -/
def Port.worstEye (p : Port) : Nat × Nat :=
  (List.range 26).foldl (fun acc i => if p.eye i < acc.1 then (p.eye i, i) else acc) (p.eye 0, 0)

/-- Degrees from 1/8 degrees, in a signed byte. -/
def degrees (v : BitVec 16) : BitVec 8 := BitVec.ofInt 8 (v.toInt / 8)

/-- MIN_EYE_TAPS (Table 15-6). -/
def Health.minEye (h : Health) : Nat := bits 15 8 h.calConfig

/-- DESKEW_STATUS; PENDING holds from a run's start to its application (log 40). -/
def State.deskewStatus (s : State) (p : Nat) : Nat :=
  let x := s.port p
  let w := x.worstEye
  (degrees x.calTemp).toNat * 2 ^ 56 + w.1 * 2 ^ 40 + w.2 * 2 ^ 35 + flagAt 32 x.calZq + x.calRuns.toNat * 2 ^ 16
    + flagAt 2 (x.calValid && decide (w.1 < s.health.minEye)) + flagAt 1 x.calRunning + flagAt 0 x.calValid

/-- SERDES_STATUS. -/
def State.serdesStatus (s : State) (i : Nat) : Nat :=
  let x := Tab.get (fun _ => (⟨0, 0, 0, 0, 0⟩ : Lane)) s.health.lanes i
  x.height.toNat * 2 ^ 48 + x.width.toNat * 2 ^ 40 + x.residual.toNat * 2 ^ 32 + x.ctle.toNat * 2 ^ 24 + x.dfe.toNat

/-- AGE_STATUS (Table 15-7). -/
def Location.ageWords (l : Location) : Words :=
  [l.margin ++ BitVec.ofInt 16 l.deltaD, l.stressHours, l.eol, l.eolLow, l.eolHigh, l.factoryMargin]

/-- The location with the lowest EOL_LOW, the first at equal values (R422). -/
def State.worstLocation (s : State) : Nat :=
  (List.range 101).foldl (fun w i => if (s.location i).eolLow.toNat < (s.location w).eolLow.toNat then i else w) 0

/-- Read a clock, power, calibration or ageing attribute. -/
def State.healthRead (s : State) (id i : Nat) (shadow : Bool) : Nat :=
  let h := s.health
  if id = 0x0100 then flagAt 5 h.backup + flagAt 4 h.refOk + h.lock.toNat
  else if id = 0x0101 then ((if shadow then (s.region i).dvfsWait else none).getD (s.region i).dvfs).toNat
  else if id = 0x0102 then s.dvfsStatus i
  else if id = 0x0103 then h.voltageConfig.toNat
  else if id = 0x0104 then
    h.targetMv * 2 ^ 48 + h.readbackMv.toNat * 2 ^ 32 + h.senseMv.toNat * 2 ^ 16 + flagAt 1 h.avsFault
      + flagAt 0 (h.targetMv == 800)
  else if id = 0x0105 then h.thermalConfig.toNat
  else if id = 0x0106 then (s.location i).temp.toNat
  else if id = 0x0107 then ((if shadow then (s.domain i).modeWait else none).getD (s.domain i).mode).toNat
  else if id = 0x0108 then s.powerStatus i
  else if id = 0x0109 then ((if shadow then h.powerConfigWait else none).getD h.powerConfig).toNat
  else if id = 0x010A then ofWords (h.clockCounters.words 8)
  else if id = 0x0900 then h.calConfig.toNat
  else if id = 0x0901 then s.deskewStatus i
  else if id = 0x0902 then (s.port (i / 26)).eye (i % 26) * 2 ^ 8 + (s.port (i / 26)).tap (i % 26)
  else if id = 0x0903 then s.serdesStatus i
  else if id = 0x0904 then h.ageConfig.toNat
  else if id = 0x0905 then ofWords (s.location i).ageWords
  else
    let w := s.worstLocation
    ofWords [h.hours, (s.location w).eol, (s.location w).eolLow, BitVec.ofNat 32 w]

/-- THERMAL_CONFIG's ranges (R425). -/
def thermalLegal (v : Nat) : Bool :=
  decide (90 ≤ fld 15 8 v) && decide (fld 15 8 v ≤ 135) && decide (80 ≤ fld 7 0 v) && decide (fld 7 0 v ≤ 130)
    && decide (fld 7 0 v < fld 15 8 v)

/-- VOLTAGE_CONFIG's ranges (R425). -/
def voltageLegal (v : Nat) : Bool :=
  decide (fld 23 16 v ≤ 50) && decide (5 ≤ fld 15 8 v) && decide (fld 15 8 v ≤ 100) && decide (fld 23 16 v < fld 15 8 v)

/-- Write AGE_CONFIG: the warnings may be sent again (R424). -/
def State.ageWrite (s : State) (v : Nat) : Written :=
  permit (decide (5 ≤ fld 7 0 v) && decide (fld 7 0 v ≤ 60))
    (.ok { s with health := { s.health with
      ageConfig := keep 32 0xFFFF_00FF v
      locations := (s.health.locations.map fun l => (l.1, { l.2 with warned := false })).filter fun l => l.2 != Location.reset } })

/-- Write a clock, power, calibration or ageing attribute. -/
def State.healthWrite (s : State) (id i v : Nat) : Written :=
  if id = 0x0101 then
    permit (decide (10 ≤ fld 23 16 v) && decide (fld 23 16 v ≤ 95))
      (.ok (s.updRegion i fun x => { x with dvfsWait := some (keep 32 0x00FF_0103 v) }))
  else if id = 0x0103 then
    permit (voltageLegal v) (.ok { s with health := { s.health with voltageConfig := keep 32 0x00FF_FF00 v } })
  else if id = 0x0105 then
    permit (thermalLegal v) (.ok { s with health := { s.health with thermalConfig := keep 32 0xFFFF v } })
  else if id = 0x0107 then
    permit (!(i == 94 && fld 1 0 v == 2 &&
        ((List.range 24).any (fun p => (s.pipe p).stream != .stopped) || s.jobs.any fun j => j.state != .held)))
      (permit (fld 1 0 v != 3 && (!(i == 92 || i == 93) || fld 1 0 v == 1))
        (.ok (s.setDomain i { s.domain i with modeWait := some (keep 32 3 v) })))
  else if id = 0x0109 then .ok { s with health := { s.health with powerConfigWait := some (keep 32 0xFFFF v) } }
  else if id = 0x0900 then
    permit (decide (2 ≤ fld 23 16 v) && decide (fld 23 16 v ≤ 50) && decide (1 ≤ fld 15 8 v) && decide (fld 15 8 v ≤ 63))
      (.ok { s with health := { s.health with calConfig := keep 32 0x00FF_FF01 v } })
  else s.ageWrite v

/-- A domain's requested mode is OFF (R412): as last written. -/
def State.requestedOff (s : State) (d : Nat) : Bool :=
  (((s.domain d).modeWait.getD (s.domain d).mode).toNat % 4) == 2

/-! ## Fovar -/

/-- FOVAR_STATUS.STATE. -/
def fovarStateCode : FovarState → Nat
  | .disabled => 0
  | .training => 1
  | .up => 2
  | .down => 3
  | .miswired => 4

/-- Read a Fovar attribute. -/
def State.fovarRead (s : State) (id i : Nat) (shadow : Bool) : Nat :=
  if id = 0x0700 then ((if shadow then s.fovar.configWait else none).getD s.fovar.config).toNat
  else if id = 0x0701 then
    let p := s.fovarPort i
    p.neighbour.toNat * 2 ^ 21 + p.neighbourPort.toNat * 2 ^ 19 + flagAt 3 p.at16 + fovarStateCode p.state
  else if id = 0x0702 then
    let w := s.window i
    w.epoch.toNat * 2 ^ 48 + w.allow.toNat * 2 ^ 40 + w.perm.toNat * 2 ^ 32 + flagAt 0 w.isOpen
      + (w.pagesM1.toNat * 2 ^ 48 + w.base.toNat) * 2 ^ 64
  else ofWords (s.fovar.counters.words 8)

/-- A collective is outstanding. -/
def State.collBusy (s : State) : Bool := (List.range 4).any fun k => (s.collSlot k).isSome

/-- Write FOVAR_CONFIG (R362, R412). -/
def State.fovarWrite (s : State) (v : Nat) : Written :=
  permit (!(List.range 64).any (fun w => (s.window w).isOpen) && !s.collBusy)
    (permit (decide (2 ≤ fld 3 0 v) && decide (fld 3 0 v ≤ 8) && decide (s.straps.devId.toNat < fld 3 0 v)
        && (!v.testBit 8 || fld 3 0 v == 8))
      (permit ((List.range 4).all fun n => !(v.testBit (10 + n) && s.requestedOff (95 + n)))
        (.ok { s with fovar := { s.fovar with configWait := some (keep 32 0x3F0F v) } })))

/-! ## Faults -/

/-- BLOCK_STATUS (Table 14-3). -/
def Block.statusWord (b : Block) : Nat :=
  b.status.toNat + flagAt 24 b.testing + flagAt 23 b.resetting + flagAt 22 b.fenced

/-- ALARM_STATUS (Table 14-13). -/
def Collector.statusWord (c : Collector) : Nat :=
  c.pinSeq.toNat * 2 ^ 32 + flagAt 2 c.extFault + flagAt 1 c.hold + flagAt 0 c.pinLow

/-- TUSSOCK_STATUS: OLDEST and NEXT. -/
def Collector.oldest (c : Collector) : BitVec 32 := c.nextSeq - BitVec.ofNat 32 c.ring.length

/-- Read a fault attribute. -/
def State.faultRead (s : State) (id i : Nat) (shadow : Bool) : Nat :=
  let c := s.faults
  if id = 0x0800 then c.status.toNat
  else if id = 0x0801 then (s.region i).status.toNat
  else if id = 0x0802 then (s.block i).statusWord
  else if id = 0x0803 then (Tab.get (fun _ => 0) c.times i).toNat
  else if id = 0x0804 then (if shadow then (s.pipe i).shadow else (s.pipe i).live).check.toNat
  else if id = 0x0805 then c.alarmConfig.toNat
  else if id = 0x0806 then c.statusWord
  else if id = 0x0807 then ((indices 64 fun b => (s.block b).fenced).map (2 ^ ·)).sum
  else if id = 0x0808 then c.remapConfig.toNat
  else if id = 0x0809 then c.remapStatus.toNat
  else if id = 0x080A then ofWords (c.counters.words 8)
  else c.oldest.toNat * 2 ^ 32 + c.nextSeq.toNat

/-- Clear the bits of `v` from a status value (W1C). -/
def clearBits {w : Nat} (x : BitVec w) (v : Nat) : BitVec w := x &&& ~~~ BitVec.ofNat w v

/-- Write 1 to bits of REMAP_STATUS: their pipelines' shedding ends at their next frame boundary (R378). A bit that hardware
sets in the same cycle stays set, and its pipeline shed (R6). -/
def State.remapWrite (s : State) (v again : Nat) : State :=
  let shed := s.faults.remapStatus
  let s := forEach (indices 24 fun p => shed.getLsbD p && v.testBit p) (fun p s =>
    s.updPipe p fun x => { x with unshedDue := true }) s
  let s := forEach (indices 24 again.testBit) (fun p s => s.updPipe p fun x => { x with unshedDue := false }) s
  { s with faults := { s.faults with remapStatus := clearBits shed v ||| BitVec.ofNat 32 (again % 2 ^ 24) } }

/-- Write a fault attribute; `again` is the W1C bits that hardware sets in the same cycle (R6). -/
def State.faultWrite (s : State) (id i v again : Nat) : Written :=
  let c := s.faults
  if id = 0x0800 then
    let s := { s with faults := { c with status := clearBits c.status v } }
    .ok ((indices 28 fun k => k != 23 && again.testBit k).foldl State.setChip s)
  else if id = 0x0801 then
    let s := s.updRegion i fun x => { x with status := clearBits x.status v }
    .ok ((indices 26 again.testBit).foldl (fun s k => s.setRegionBit i k) s)
  else if id = 0x0802 then
    let s := s.updBlock i fun x => { x with status := clearBits x.status v }
    .ok ((indices 26 fun k => !(k == 22 || k == 23 || k == 24) && again.testBit k).foldl (fun s k => s.setBlockBit i k) s)
  else if id = 0x0804 then
    permit (fld 2 0 v != 7) (.ok (s.putShadow i fun x => { x with check := keep 32 7 v }))
  else if id = 0x0805 then .ok { s with faults := { c with alarmConfig := keep 32 0x3F3F_0007 v } }
  else if id = 0x0808 then
    permit (decide (50 ≤ fld 7 0 v) && decide (fld 7 0 v ≤ 100))
      (.ok { s with faults := { c with remapConfig := keep 32 0xFF v } })
  else .ok (s.remapWrite v again)

/-! ## Firmware -/

/-- FIRMWARE_STATUS.STATE (Table 16-12). -/
def slotStateCode : SlotState → Nat
  | .empty => 0
  | .valid => 1
  | .refused => 2

/-- The bank that runs holds slot `i`'s image; some bank does. -/
def State.slotRunning (s : State) (i : Nat) : Bool := (s.bank s.fw.activeBank).any fun b => b.source == .slot i
def State.slotInBank (s : State) (i : Nat) : Bool := (List.range 2).any fun k => (s.bank k).any fun b => b.source == .slot i

/-- FIRMWARE_STATUS. -/
def State.firmwareStatus (s : State) (i : Nat) : Nat :=
  let x := s.fwSlot i
  let f := x.info.getD ⟨0, 0, 0, 0, 0, 0⟩
  f.build.toNat + ((if s.fw.load.any fun l => l.target == 0 && l.slot == i then 3 else slotStateCode x.state) * 2 ^ 56 + f.secVersion * 2 ^ 48 + f.keySet * 2 ^ 40 + x.lastStatus.toNat * 2 ^ 16
      + flagAt 1 (s.slotInBank i) + flagAt 0 (s.slotRunning i)) * 2 ^ 64 + f.digest.toNat * 2 ^ 128

/-- BOOT_STATUS (Table 16-13). -/
def State.bootStatus (s : State) : Nat :=
  let f := s.fw
  f.bootRefusal.toNat * 2 ^ 48 + f.readyMs.toNat * 2 ^ 32 + f.netSettings.toNat * 2 ^ 10 + f.source.toNat * 2 ^ 8
    + flagAt 2 f.fallback + flagAt 1 (f.activate.any fun a => a.armed) + f.activeBank

/-- OTP_STATUS. -/
def State.otpStatus (s : State) : Nat :=
  let o := s.fw.otp
  o.revoked.toNat * 2 ^ 12 + quarterMask (fun k => Tab.get otpKeyAbsent o.keys k != otpKeyAbsent k) * 2 ^ 8 + o.rollback

/-- Read a firmware attribute. -/
def State.firmwareRead (s : State) (id i : Nat) : Nat :=
  if id = 0x0A00 then s.firmwareStatus i else if id = 0x0A01 then s.bootStatus else s.otpStatus

/-! ## Together -/

/-- Read an attribute of these chapters. -/
def State.deviceRead (s : State) (id i : Nat) (shadow : Bool) : Nat :=
  if id < 0x0100 ∨ 0x0180 ≤ id ∧ id < 0x0190 then s.protocolRead id i
  else if id < 0x0180 ∨ 0x0900 ≤ id ∧ id < 0x0A00 then s.healthRead id i shadow
  else if id < 0x0800 then s.fovarRead id i shadow
  else if id < 0x0900 then s.faultRead id i shadow
  else s.firmwareRead id i

/-- Write an attribute of these chapters. -/
def State.deviceWrite (s : State) (id i v again : Nat) : Written :=
  if id = 0x0181 then s.fenWrite v
  else if id = 0x0182 then
    permit (timeLegal v) (.ok { s with base := { s.base with config := keep 64 0x0000_FF00_FFFF_FFFF v } })
  else if id < 0x0200 ∨ 0x0900 ≤ id then s.healthWrite id i v
  else if id < 0x0800 then s.fovarWrite v
  else s.faultWrite id i v again

end Sys2Proof.Machine
end

