-- ==== Sys2Proof/Machine/StripeAttr.lean ====
section
/-!
DEFINITION. The attributes of stripes (R220, Tables 08-5 to 08-9) and outputs (R248, Tables 09-6 to 09-15), and the load of
a display scaler table (R230).
-/

namespace Sys2Proof.Machine

open Sys2Proof

/-- Tables 08-5 and 09-6. -/
def stripeSpec (id : Nat) : Option AttrSpec :=
  if id = 0x0480 then rw 1 24
  else if id = 0x0481 then rw 2 24
  else if id = 0x0482 then roAttr 2 24
  else if id = 0x0483 then roAttr 8 24
  else if id = 0x0B00 ∨ id = 0x0B06 then rw 2 24
  else if id = 0x0B01 ∨ id = 0x0B03 then rw 4 24
  else if id = 0x0B02 then rw 8 96
  else if id = 0x0B04 then rw 1 24
  else if id = 0x0B05 then roAttr 2 24
  else if id = 0x0B07 then rw 16 24
  else if id = 0x0B08 then roAttr 8 24
  else none

/-- STRIPE_STATUS.STATE. -/
def streamCode : StreamState → Nat
  | .stopped => 0
  | .starting => 1
  | .streaming => 2
  | .stopping => 3

/-- The number of blocks in a mask. -/
def maskCount (m : Nat) : Nat := (maskBlocks m).length

/-- A halo as its 8-bit field reads: one that the field cannot hold reads as an open value (log 111). -/
def haloField (n : Nat) : Nat := if n < 256 then n else (Config.haloOver n).toNat

/-- STRIPE_STATUS (Table 08-8); BLOCKS reads 0 while STOPPED (log 25). -/
def State.stripeStatus (s : State) (p : Nat) : Nat :=
  let x := s.pipe p
  haloField x.haloTop * 2 ^ 40 + haloField x.haloBottom * 2 ^ 32 + stripeCount x.live (s.port (s.statusPort p)).live * 2 ^ 16
    + (if x.stream == .stopped then 0 else maskCount x.blocks.toNat) * 2 ^ 8 + streamCode x.stream

/-- OUTPUT_STATUS (Table 09-12). -/
def Pipe.outputStatus (p : Pipe) : Nat :=
  p.outProducer.toNat * 2 ^ 32 + min 255 (p.frames.filter fun f => f.begun && !f.delivered).length

/-- DET_ANCHORS' sixteen words. -/
def anchorWords (t : Tab (BitVec 32)) : Words := (List.range 16).map (Tab.get (fun _ => 0x0100_0100) t)

/-- Read a stripe or output attribute. -/
def State.stripeRead (s : State) (id i : Nat) (shadow : Bool) : Nat :=
  let p := s.pipe i
  let c := if shadow then p.shadow else p.live
  if id = 0x0480 then c.stripe.toNat
  else if id = 0x0481 then p.set.toNat
  else if id = 0x0482 then s.stripeStatus i
  else if id = 0x0483 then ofWords (p.stripeCounters.words 8)
  else if id = 0x0B00 then c.output.toNat
  else if id = 0x0B01 then p.outTensors.toNat
  else if id = 0x0B02 then (s.pipe (i / 4)).area (i % 4)
  else if id = 0x0B03 then p.resultRing.toNat
  else if id = 0x0B04 then p.consumed.toNat
  else if id = 0x0B05 then p.outputStatus
  else if id = 0x0B06 then c.det.toNat
  else if id = 0x0B07 then ofWords (anchorWords c.anchors)
  else ofWords (p.outCounters.words 8)

/-- STRIPE_CONFIG's ranges. -/
def stripeLegal (v : Nat) : Bool := fld 1 0 v != 3 && decide (1 ≤ fld 15 8 v) && decide (fld 15 8 v ≤ 32)

/-- OUTPUT_CONFIG's ranges. -/
def outputLegal (v : Nat) : Bool := fld 9 8 v != 3 && decide (1 ≤ fld 27 24 v) && decide (fld 27 24 v ≤ 8)

/-- DET_CONFIG's ranges. -/
def detLegal (v : Nat) : Bool :=
  decide (1 ≤ fld 47 40 v) && decide (fld 33 32 v < 2) && (fld 33 32 v == 1 || fld 39 36 v == 0)
    && decide (fld 24 16 v ≤ 256) && decide (1 ≤ fld 9 0 v) && decide (fld 9 0 v ≤ 512)

/-- Write a stripe or output attribute. -/
def State.stripeWrite (s : State) (id i v : Nat) : Written :=
  let p := s.pipe i
  let stopped := p.stream == .stopped
  if id = 0x0480 then
    let new := keep 32 0x00F8_FF03 v
    permit (stopped || (fld 1 0 v == bits 1 0 p.shadow.stripe && v.testBit 19 == p.shadow.safety))
      (permit (stripeLegal v) (.ok (s.putShadow i fun x => { x with stripe := new })))
  else if id = 0x0481 then
    let new := keep 64 0x0000_FFFF_0003_07FF v
    permit (stopped || new == p.set)
      (permit (fld 47 32 v != 0) (.ok (s.updPipe i fun x => { x with set := new })))
  else if id = 0x0B00 then
    permit (stopped || fld 27 24 v == p.shadow.slotsLog2)
      (permit (outputLegal v) (.ok (s.putShadow i fun x => { x with output := keep 64 0xFFFF_FFFF_FF00_03DB v })))
  else if id = 0x0B01 then
    permit stopped (.ok (s.updPipe i fun x => { x with outTensors := BitVec.ofNat 128 (v / 2 ^ 32 * 2 ^ 32) }))
  else if id = 0x0B02 then
    let w := word64 v 0 % 2 ^ 36 + word64 v 1 % 2 ^ 36 * 2 ^ 64 + word64 v 2 * 2 ^ 128 + word64 v 3 * 2 ^ 192
    permit ((s.pipe (i / 4)).stream == .stopped)
      (.ok (s.updPipe (i / 4) fun x => { x with outAreas := Tab.set (fun _ => 0) x.outAreas (i % 4) (BitVec.ofNat 256 w) }))
  else if id = 0x0B03 then
    permit stopped (.ok (s.updPipe i fun x =>
      { x with resultRing := BitVec.ofNat 128 (word64 v 0 % 2 ^ 36 + word64 v 1 % 2 ^ 36 * 2 ^ 64) }))
  else if id = 0x0B04 then .ok (s.updPipe i fun x => { x with consumed := BitVec.ofNat 32 v })
  else if id = 0x0B06 then
    permit (detLegal v) (.ok (s.putShadow i fun x => { x with det := keep 64 0xFFFF_FFF3_01FF_03FF v }))
  else
    permit ((List.range 16).all fun a => fld 31 16 (word32 v a) != 0 && fld 15 0 (word32 v a) != 0)
      (.ok (s.putShadow i fun x => { x with anchors := (List.range 16).foldl (fun t a =>
        Tab.set (fun _ => 0x0100_0100) t a (BitVec.ofNat 32 (word32 v a))) [] }))

/-- LOAD_SCALER (R230). -/
def loadScalerBody : Body := fun _ p s =>
  let pipe := le p 0 1
  let cs := valuesOf 2 (p.drop 4)
  let sg := cs.map (toSigned 16)
  let sums := (List.range 64).all fun f => ((slice sg (4 * f) 4).sum : Int) == 256
  if decide (pipe < 24) && sg.all (fun c => decide (-512 ≤ c) && decide (c ≤ 511)) && sums then
    (s.putShadow pipe fun x => { x with scaler := some (cs.map (BitVec.ofNat 16)) }, .ok)
  else (s, .err Code.notPermitted)

def execLoadScaler (q : Req) (s : State) : Result := lysil (opRow 0x0B10 516) q loadScalerBody s

/-- T[φ][j] of a scaler table (R229, R230). -/
def PipeSettings.tap (c : PipeSettings) (f j : Nat) : Int :=
  match c.scaler with
  | some t => toSigned 16 (t.getD (4 * f + j) 0).toNat
  | none => if j = 1 then 256 - 4 * (f : Int) else if j = 2 then 4 * (f : Int) else 0

end Sys2Proof.Machine
end

