-- ==== Sys2Proof/Machine/Attributes.lean ====
section
/-!
DEFINITION. Attributes and settings (R331 to R334, R339, R468): ATTR_READ, ATTR_WRITE and the attributes whose write has a
row of its own, COMMIT with its checks, SHADOW_REVERT, and the counter clears.
-/

namespace Sys2Proof.Machine

open Sys2Proof

/-! ## The attribute table (Table 12-9) -/

/-- The chapter that defines an attribute, as the reads and writes are split. -/
inductive AttrGroup where
  | sedge
  | front
  | stripe
  | block
  | sluice
  | device
  deriving DecidableEq, Repr

/-- The group of an ID, by its range in Table 12-9. -/
def attrGroup (id : Nat) : AttrGroup :=
  if 0x0200 ≤ id ∧ id < 0x0300 then .sedge
  else if 0x0300 ≤ id ∧ id < 0x0400 then .front
  else if (0x0480 ≤ id ∧ id < 0x0500) ∨ (0x0B00 ≤ id ∧ id < 0x0C00) then .stripe
  else if 0x0400 ≤ id ∧ id < 0x0480 then .block
  else if 0x0500 ≤ id ∧ id < 0x0700 then .sluice
  else .device

/-- An attribute in use, or none (R339). -/
def attrSpec (id : Nat) : Option AttrSpec :=
  match attrGroup id with
  | .sedge => sedgeSpec id
  | .front => frontSpec id
  | .stripe => stripeSpec id
  | .block => blockSpec id
  | .sluice => sluiceSpec id
  | .device => deviceSpec id

/-- The value of an attribute at an index, live or as last written (R331). -/
def State.attrValue (s : State) (id i : Nat) (shadow : Bool) : Nat :=
  match attrGroup id with
  | .sedge => s.sedgeRead id i shadow
  | .front => s.frontRead id i shadow
  | .stripe => s.stripeRead id i shadow
  | .block => s.blockRead id i shadow
  | .sluice => s.sluiceRead id i shadow
  | .device => s.deviceRead id i shadow

/-- Write a value: state rules, ranges, relations (R332, checks 4 to 6); `again` is the W1C bits that hardware sets in the
same cycle (R6). -/
def State.attrPut (s : State) (id i v again : Nat) : Written :=
  match attrGroup id with
  | .sedge => s.sedgeWrite id i v again
  | .front => s.frontWrite id i v
  | .stripe => s.stripeWrite id i v
  | .block => s.blockWrite id i v
  | .sluice => s.sluiceWrite id i v
  | .device => s.deviceWrite id i v again

/-! ## ATTR_READ and ATTR_WRITE -/

/-- The carr map entries that a read of CARR_ENTRY meets, of which some read uncorrectable (R301). -/
def State.meetEntries (s : State) (id i n : Nat) (carr : List Nat) : State :=
  s.onlyIf (id == 0x0603) fun s => forEach ((indices n fun k => carr.contains (i + k)).map (i + ·)) (fun k s => s.badEntry k) s

/-- ATTR_READ (R331). -/
def attrReadBody (carr : List Nat) : Body := fun _ p s =>
  let id := le p 0 2
  let n := le p 3 1
  let i := le p 4 4
  match attrSpec id with
  | none => (s, .err Code.notPermitted)
  | some a =>
    if 1 ≤ n ∧ n ≤ 64 ∧ i + n ≤ a.count then
      if 4 * a.words * n ≤ 8156 then
        let s := s.meetEntries id i n carr
        (s, .ok ((List.range n).flatMap fun k => leBytes (4 * a.words) (s.attrValue id (i + k) (le p 2 1 % 2 == 1))))
      else (s, .err Code.badLength)
    else (s, .err Code.notPermitted)

def execAttrRead (q : Req) (carr : List Nat) (s : State) : Result := lysil (opRow 0x0002 8 false true) q (attrReadBody carr) s

/-- ATTR_WRITE's row of Table 12-8: the parameters hold at least the eight bytes before the value. -/
def attrWriteRow : OpRow := { code := 0x0003, lenOk := fun p => decide (8 ≤ p.length) }

/-- ATTR_WRITE (R332): the checks in their order; a rejected write changes nothing. -/
def attrWriteBody (again : Nat) : Body := fun _ p s =>
  let id := le p 0 2
  let i := le p 4 4
  match attrSpec id with
  | none => (s, .err Code.notPermitted)
  | some a =>
    if a.count ≤ i ∨ a.ro = true then (s, .err Code.notPermitted)
    else if p.length ≠ 8 + 4 * a.words then (s, .err Code.badLength)
    else match s.attrPut id i (ofLe (p.drop 8)) again with
      | .ok s' => (s', .ok)
      | .error e => (s, .err e)

def execAttrWrite (q : Req) (s : State) : Result := lysil attrWriteRow q (attrWriteBody 0) s

/-- The write of an attribute whose row names it: `again` counts only for that attribute. -/
def ownRowBody (id again : Nat) : Body := fun k p s => attrWriteBody (if le p 0 2 = id then again else 0) k p s

/-- PORT_STATUS's W1C write (R6): PCLK_STOPPED is bit 4. -/
def execPortStatusClear (q : Req) (sameCycle : Bool) (s : State) : Result :=
  lysil attrWriteRow q (ownRowBody 0x0208 (flagAt 4 sameCycle)) s

/-- FAULT_STATUS's W1C write clears the chip's bits only (R381). -/
def execFaultStatusClear (q : Req) (sameCycle : BitVec 64) (s : State) : Result :=
  lysil attrWriteRow q (ownRowBody 0x0800 sameCycle.toNat) s

/-- REGION_STATUS's W1C write clears that region's bits only (R381). -/
def execRegionStatusClear (q : Req) (sameCycle : BitVec 32) (s : State) : Result :=
  lysil attrWriteRow q (ownRowBody 0x0801 sameCycle.toNat) s

/-- BLOCK_STATUS's W1C write clears that block's bits only (R381). -/
def execBlockStatusClear (q : Req) (sameCycle : BitVec 32) (s : State) : Result :=
  lysil attrWriteRow q (ownRowBody 0x0802 sameCycle.toNat) s

/-- REMAP_STATUS's write ends the shedding of the pipelines it names (R378). -/
def execRemapStatusWrite (q : Req) (sameCycle : BitVec 32) (s : State) : Result :=
  lysil attrWriteRow q (ownRowBody 0x0809 sameCycle.toNat) s

/-- MEM_CONFIG's write (R288). -/
def execMemConfigWrite (q : Req) (s : State) : Result := lysil attrWriteRow q (ownRowBody 0x0600 0) s

/-- FEN_CONFIG's write (R315). -/
def execFenConfigWrite (q : Req) (s : State) : Result := lysil attrWriteRow q (ownRowBody 0x0181 0) s

/-- AGE_CONFIG's write (R424). -/
def execAgeConfigWrite (q : Req) (s : State) : Result := lysil attrWriteRow q (ownRowBody 0x0904 0) s

/-! ## COMMIT and SHADOW_REVERT (R333, R334) -/

/-- Check R52 of a COMMIT: the frame size of a pipeline that is not STOPPED stays. -/
def State.checkSize (s : State) (p : Nat) : Option CheckReport :=
  match (s.pipe p).sourcePort with
  | some n =>
    let a := (s.port n).shadow
    let b := (s.port n).live
    if (s.pipe p).stream == .stopped then none
    else firstFail [
      checkThat (a.height == b.height) { status := Code.notPermitted, check := 0x30, value := a.height, limit := b.height },
      checkThat (a.width == b.width) { status := Code.notPermitted, check := 0x30, value := a.width, limit := b.width }]
  | none => none

/-- The checks of a COMMIT that names pipeline `p` (R333; the checks that depend on a source port are skipped without one,
R468). The halos counted are those of its last placement, which for a STOPPED pipeline may be another mapping's, and 0 before any (DESIGN
CHOICE, log 101: R205 has placement compute them). -/
def State.commitCheck (s : State) (p : Nat) : Option CheckReport :=
  let x := s.pipe p
  let g := x.sourcePort.map fun n => (s.port n).shadow
  firstFail [
    s.checkSize p,
    g.bind fun g => checkLineBuffer g (x.haloTop + x.haloBottom),
    g.bind fun g => checkFallback x.shadow g,
    if x.stream == .stopped then none
    else g.bind fun g => outputChecks x (s.mapping x.mappingId).image x.shadow g]

/-- A pipeline's pending settings, if any, go live at a boundary before frame `n` (R36, R333); a new STATS_RING resets
PRODUCER and CONSUMER (R74). -/
def State.pipeGoLive (s : State) (p : Nat) (n : BitVec 32) : State :=
  match (s.pipe p).pending with
  | some c => s.updPipe p fun x =>
      let fresh := c.statsRing != x.live.statsRing
      { x with live := c, pending := none, liveFrom := n
               statsProducer := if fresh then 0 else x.statsProducer
               statsConsumed := if fresh then 0 else x.statsConsumed }
  | none => s

/-- The number of the next frame as a pipeline takes settings up: 0 while it is STOPPED (R8). -/
def Pipe.upcoming (x : Pipe) : BitVec 32 := if x.stream == .stopped then 0 else x.nextFrame

/-- A streaming pipeline names port `n`: the port has a frame boundary (R36, R468). -/
def State.hasBoundary (s : State) (n : Nat) : Bool :=
  (List.range 24).any fun q => (s.pipe q).sourcePort == some n && s.streams q

/-- COMMIT copies pipeline `p`'s shadow, and that of the ports it carries, to the pending copy, which goes live at the next
frame boundary, or at once where there is none. -/
def State.commitPipe (s : State) (p : Nat) : State :=
  let ports := s.carriedPorts p
  let s := forEach ports (fun n s => s.updPort n fun x =>
    { x with pending := some x.shadow, pendingAt := s.time, shadowChanged := false }) s
  let s := s.updPipe p fun x => { x with pending := some x.shadow, pendingAt := s.time, shadowChanged := false }
  let s := forEach ports (fun n s => s.onlyIf (!s.hasBoundary n) fun s => s.portGoLive n) s
  if s.streams p then s else s.pipeGoLive p (s.pipe p).upcoming

/-- The data of COMMIT's ACK: its report is all zero on success (R333). -/
def State.commitData (s : State) (r : Option CheckReport) (p : Nat) : List Byte :=
  (if r.isSome then reportBytes r else zeros 16) ++ leBytes 1 p ++ zeros 7 ++ leBytes 8 s.now

/-- COMMIT (R333): the first failure over the named pipelines, ascending, commits nothing. -/
def commitBody : Body := fun _ p s =>
  let ps := indices 24 (le p 0 4).testBit
  match ps.findSome? fun q => (s.commitCheck q).map fun r => (q, r) with
  | some (q, r) => (s, { status := r.status, data := s.commitData (some r) q })
  | none => (forEach ps (fun q s => s.commitPipe q) s, .ok (s.commitData none 0xFF))

def execCommit (q : Req) (s : State) : Result := lysil (opRow 0x0004 8) q commitBody s

/-- SHADOW_REVERT of one pipeline. -/
def State.revertPipe (s : State) (p : Nat) : State :=
  let s := forEach (s.carriedPorts p) (fun n s =>
    s.updPort n fun x => { x with shadow := x.pending.getD x.live, shadowChanged := false }) s
  s.updPipe p fun x => { x with shadow := x.pending.getD x.live, shadowChanged := false }

/-- SHADOW_REVERT (R334): it takes the PIPELINE_MASK of COMMIT. -/
def shadowRevertBody : Body := fun _ p s =>
  (forEach (indices 24 (le p 0 4).testBit) (fun q s => s.revertPipe q) s, .ok)

def execShadowRevert (q : Req) (s : State) : Result := lysil (opRow 0x0005 8) q shadowRevertBody s

/-! ## Counter clears -/

/-- A clear of the counters of one index below `n`, or of all with 0xFF: byte 0 names it, bytes 1 to 3 are reserved. -/
def clearBody (n : Nat) (f : Nat → State → State) : Body := fun _ p s =>
  let i := le p 0 1
  if i < n then (f i s, .ok) else if i = 0xFF then (forEach (List.range n) f s, .ok) else (s, .err Code.notPermitted)

def execPortClearCounters (q : Req) (s : State) : Result :=
  lysil (opRow 0x0212 4) q (clearBody 24 fun i s => s.updPort i fun x => { x with counters := [] }) s

def execArithClearCounters (q : Req) (s : State) : Result :=
  lysil (opRow 0x0410 4) q (clearBody 64 fun i s => s.updBlock i fun x => { x with arith := [] }) s

def execWindowClearCounters (q : Req) (s : State) : Result :=
  lysil (opRow 0x0470 4) q (clearBody 64 fun i s => s.updBlock i fun x => { x with window := [] }) s

def execStripeClearCounters (q : Req) (s : State) : Result :=
  lysil (opRow 0x0492 4) q (clearBody 24 fun i s => s.updPipe i fun x => { x with stripeCounters := [] }) s

def execSluiceClearCounters (q : Req) (s : State) : Result :=
  lysil (opRow 0x0512 4) q (clearBody 4 fun i s => s.updRegion i fun x => { x with sluice := [] }) s

def execOutputClearCounters (q : Req) (s : State) : Result :=
  lysil (opRow 0x0B11 4) q (clearBody 24 fun i s => s.updPipe i fun x => { x with outCounters := [] }) s

/-- MEM_CLEAR_COUNTERS: MEM_COUNTERS of stack 0 or 1, PCIE_COUNTERS with 2, all with 0xFF (Table 11-8). -/
def execMemClearCounters (q : Req) (s : State) : Result :=
  lysil (opRow 0x0611 4) q (clearBody 3 fun i s =>
    if i = 2 then { s with mem := { s.mem with pcieCounters := [] } }
    else s.setDramStack i { s.dramStack i with counters := [] }) s

end Sys2Proof.Machine
end

