-- ==== Sys2Proof/Machine/Sha.lean ====
section
/-!
DEFINITION. The hash functions that chapter 16 names and does not reproduce: SHA-512 (FIPS 180-4; R433, R434, R444, R445), with HMAC and
HKDF over it (RFC 2104, RFC 5869; R444), and SHAKE128 and SHAKE256 (FIPS 202), which ML-DSA rests on. PRESUMED, log 3: their text
comes from those standards.
-/

namespace Sys2Proof.Machine

open Sys2Proof

/-! ## Lists of bytes -/

/-- A list cut into `n` cutAll of `k`. -/
def cutAll {α : Type} (k : Nat) : Nat → List α → List (List α)
  | 0, _ => []
  | n + 1, l => l.take k :: cutAll k n (l.drop k)

/-- The bytes of a number, the last one first. -/
def beBytes (n v : Nat) : List Byte := (leBytes n v).reverse

/-- The number that bytes spell, the last one lowest. -/
def beNat (l : List Byte) : Nat := l.foldl (fun v b => 256 * v + b.toNat) 0

/-! ## SHA-512 (FIPS 180-4) -/

/-- The first 64 bits of the fractional parts of the cube roots of the first 80 primes. -/
def sha512K : List (BitVec 64) :=
  [0x428a2f98d728ae22, 0x7137449123ef65cd, 0xb5c0fbcfec4d3b2f, 0xe9b5dba58189dbbc, 0x3956c25bf348b538,
   0x59f111f1b605d019, 0x923f82a4af194f9b, 0xab1c5ed5da6d8118, 0xd807aa98a3030242, 0x12835b0145706fbe,
   0x243185be4ee4b28c, 0x550c7dc3d5ffb4e2, 0x72be5d74f27b896f, 0x80deb1fe3b1696b1, 0x9bdc06a725c71235,
   0xc19bf174cf692694, 0xe49b69c19ef14ad2, 0xefbe4786384f25e3, 0x0fc19dc68b8cd5b5, 0x240ca1cc77ac9c65] ++
  [0x2de92c6f592b0275, 0x4a7484aa6ea6e483, 0x5cb0a9dcbd41fbd4, 0x76f988da831153b5, 0x983e5152ee66dfab,
   0xa831c66d2db43210, 0xb00327c898fb213f, 0xbf597fc7beef0ee4, 0xc6e00bf33da88fc2, 0xd5a79147930aa725,
   0x06ca6351e003826f, 0x142929670a0e6e70, 0x27b70a8546d22ffc, 0x2e1b21385c26c926, 0x4d2c6dfc5ac42aed,
   0x53380d139d95b3df, 0x650a73548baf63de, 0x766a0abb3c77b2a8, 0x81c2c92e47edaee6, 0x92722c851482353b] ++
  [0xa2bfe8a14cf10364, 0xa81a664bbc423001, 0xc24b8b70d0f89791, 0xc76c51a30654be30, 0xd192e819d6ef5218,
   0xd69906245565a910, 0xf40e35855771202a, 0x106aa07032bbd1b8, 0x19a4c116b8d2d0c8, 0x1e376c085141ab53,
   0x2748774cdf8eeb99, 0x34b0bcb5e19b48a8, 0x391c0cb3c5c95a63, 0x4ed8aa4ae3418acb, 0x5b9cca4f7763e373,
   0x682e6ff3d6b2b8a3, 0x748f82ee5defb2fc, 0x78a5636f43172f60, 0x84c87814a1f0ab72, 0x8cc702081a6439ec] ++
  [0x90befffa23631e28, 0xa4506cebde82bde9, 0xbef9a3f7b2c67915, 0xc67178f2e372532b, 0xca273eceea26619c,
   0xd186b8c721c0c207, 0xeada7dd6cde0eb1e, 0xf57d4f7fee6ed178, 0x06f067aa72176fba, 0x0a637dc5a2c898a6,
   0x113f9804bef90dae, 0x1b710b35131c471b, 0x28db77f523047d84, 0x32caab7b40c72493, 0x3c9ebe0a15c9bebc,
   0x431d67c49c100d4c, 0x4cc5d4becb3e42b6, 0x597f299cfc657e2a, 0x5fcb6fab3ad6faec, 0x6c44198c4a475817]

/-- The same of the square roots of the first 8 primes. -/
def sha512H : List (BitVec 64) :=
  [0x6a09e667f3bcc908, 0xbb67ae8584caa73b, 0x3c6ef372fe94f82b, 0xa54ff53a5f1d36f1,
   0x510e527fade682d1, 0x9b05688c2b3e6c1f, 0x1f83d9abfb41bd6b, 0x5be0cd19137e2179]

/-- The message with its padding: a one bit, zeros, and its length in bits. -/
def sha512Pad (m : List Byte) : List Byte :=
  m ++ 0x80 :: zeros ((239 - m.length % 128) % 128) ++ beBytes 16 (8 * m.length)

/-- One more word of the message schedule, the newest first. -/
def sha512Extend (w : List (BitVec 64)) : List (BitVec 64) :=
  let a := w.getD 1 0
  let b := w.getD 14 0
  ((a.rotateRight 19 ^^^ a.rotateRight 61 ^^^ a >>> 6) + w.getD 6 0 + (b.rotateRight 1 ^^^ b.rotateRight 8 ^^^ b >>> 7)
    + w.getD 15 0) :: w

/-- The 80 words of a block's message schedule. -/
def sha512Words (block : List Byte) : List (BitVec 64) :=
  ((List.range 64).foldl (fun w _ => sha512Extend w) ((cutAll 8 16 block).map fun b => BitVec.ofNat 64 (beNat b)).reverse).reverse

/-- The eight working variables. -/
structure Sha512State where
  a : BitVec 64
  b : BitVec 64
  c : BitVec 64
  d : BitVec 64
  e : BitVec 64
  f : BitVec 64
  g : BitVec 64
  h : BitVec 64
  deriving DecidableEq, Repr

/-- One of the 80 rounds, with its constant and its word. -/
def sha512Round (x : Sha512State) (k w : BitVec 64) : Sha512State :=
  let s1 := x.e.rotateRight 14 ^^^ x.e.rotateRight 18 ^^^ x.e.rotateRight 41
  let t1 := x.h + s1 + ((x.e &&& x.f) ^^^ (~~~x.e &&& x.g)) + k + w
  let s0 := x.a.rotateRight 28 ^^^ x.a.rotateRight 34 ^^^ x.a.rotateRight 39
  let t2 := s0 + ((x.a &&& x.b) ^^^ (x.a &&& x.c) ^^^ (x.b &&& x.c))
  { a := t1 + t2, b := x.a, c := x.b, d := x.c, e := x.d + t1, f := x.e, g := x.f, h := x.g }

/-- A block joins the hash value. -/
def sha512Block (h : List (BitVec 64)) (block : List Byte) : List (BitVec 64) :=
  let i := fun n => h.getD n 0
  let x := (sha512K.zip (sha512Words block)).foldl (fun x c => sha512Round x c.1 c.2)
    { a := i 0, b := i 1, c := i 2, d := i 3, e := i 4, f := i 5, g := i 6, h := i 7 }
  List.zipWith (· + ·) h [x.a, x.b, x.c, x.d, x.e, x.f, x.g, x.h]

/-- The 64 bytes of a SHA-512 digest, as a number whose lowest byte is the first. -/
@[irreducible] def sha512 (m : List Byte) : BitVec 512 :=
  let p := sha512Pad m
  BitVec.ofNat 512 (ofLe (((cutAll 128 (p.length / 128) p).foldl sha512Block sha512H).flatMap fun w => beBytes 8 w.toNat))

/-- A digest's bytes. -/
def digestBytes (d : BitVec 512) : List Byte := leBytes 64 d.toNat

/-- HMAC over SHA-512, for a key of at most 128 bytes. -/
def hmac (key msg : List Byte) : List Byte :=
  let k := (key ++ zeros 128).take 128
  digestBytes (sha512 (k.map (· ^^^ 0x5C) ++ digestBytes (sha512 (k.map (· ^^^ 0x36) ++ msg))))

/-- The bytes of an info string. -/
def ascii (s : String) : List Byte := s.toList.map fun c => BitVec.ofNat 8 c.toNat

/-- HKDF-SHA-512 of a secret with an empty salt: the first 32 bytes for an info string. -/
def hkdf (secret : BitVec 256) (info : String) : BitVec 256 :=
  BitVec.ofNat 256 (le (hmac (hmac (zeros 64) (leBytes 32 secret.toNat)) (ascii info ++ [1])) 0 32)

/-! ## Keccak and SHAKE (FIPS 202) -/

/-- The round constants. -/
def keccakRc : List (BitVec 64) :=
  [0x0000000000000001, 0x0000000000008082, 0x800000000000808a, 0x8000000080008000,
   0x000000000000808b, 0x0000000080000001, 0x8000000080008081, 0x8000000000008009,
   0x000000000000008a, 0x0000000000000088, 0x0000000080008009, 0x000000008000000a,
   0x000000008000808b, 0x800000000000008b, 0x8000000000008089, 0x8000000000008003,
   0x8000000000008002, 0x8000000000000080, 0x000000000000800a, 0x800000008000000a,
   0x8000000080008081, 0x8000000000008080, 0x0000000080000001, 0x8000000080008008]

/-- The rotations of ρ, lane (x, y) at 5 y + x. -/
def keccakRho : List Nat :=
  [0, 1, 62, 28, 27, 36, 44, 6, 55, 20, 3, 10, 43, 25, 39, 41, 45, 15, 21, 8, 18, 2, 61, 56, 14]

/-- One round: θ, ρ and π, χ, ι. -/
def keccakRound (a : List (BitVec 64)) (rc : BitVec 64) : List (BitVec 64) :=
  let c := (List.range 5).map fun x => (List.range 5).foldl (fun v y => v ^^^ a.getD (5 * y + x) 0) 0
  let d := (List.range 5).map fun x => c.getD ((x + 4) % 5) 0 ^^^ (c.getD ((x + 1) % 5) 0).rotateLeft 1
  let r := (List.range 25).map fun i => (a.getD i 0 ^^^ d.getD (i % 5) 0).rotateLeft (keccakRho.getD i 0)
  let b := (List.range 25).map fun i => r.getD (5 * (i % 5) + (i % 5 + 3 * (i / 5)) % 5) 0
  let e := (List.range 25).map fun i =>
    b.getD i 0 ^^^ (~~~(b.getD (5 * (i / 5) + (i + 1) % 5) 0) &&& b.getD (5 * (i / 5) + (i + 2) % 5) 0)
  match e with
  | [] => []
  | v :: t => (v ^^^ rc) :: t

/-- The permutation of 24 rounds. -/
def keccak (a : List (BitVec 64)) : List (BitVec 64) := keccakRc.foldl keccakRound a

/-- The bytes of a state. -/
def keccakBytes (a : List (BitVec 64)) : List Byte := a.flatMap fun v => leBytes 8 v.toNat

/-- A block of `rate` bytes joins the state. -/
def keccakAbsorb (a : List (BitVec 64)) (block : List Byte) : List (BitVec 64) :=
  keccak (List.zipWith (fun v b => v ^^^ BitVec.ofNat 64 (ofLe b)) a (cutAll 8 25 (block ++ zeros (200 - block.length))))

/-- `n` blocks of output. -/
def keccakSqueeze (rate : Nat) : Nat → List (BitVec 64) → List Byte
  | 0, _ => []
  | n + 1, a => (keccakBytes a).take rate ++ keccakSqueeze rate n (keccak a)

/-- SHAKE of a rate: `n` bytes of output. -/
def shake (rate n : Nat) (m : List Byte) : List Byte :=
  let z := rate - 1 - m.length % rate
  let p := if z = 0 then m ++ [0x9F] else m ++ 0x1F :: zeros (z - 1) ++ [0x80]
  let a := (cutAll rate (p.length / rate) p).foldl keccakAbsorb (List.replicate 25 0)
  (keccakSqueeze rate ((n + rate - 1) / rate) a).take n

/-- SHAKE128 and SHAKE256. -/
def shake128 (n : Nat) (m : List Byte) : List Byte := shake 168 n m
def shake256 (n : Nat) (m : List Byte) : List Byte := shake 136 n m

end Sys2Proof.Machine
end

