-- ==== Sys2Proof/Machine/Aes.lean ====
section
/-!
DEFINITION. AES-256 (FIPS 197) and its key wrap (NIST SP 800-38F, KW), under which the CAK is stored (Table 16-3, R440). PRESUMED,
log 3: the manual names them and does not reproduce them.
-/

namespace Sys2Proof.Machine

open Sys2Proof

/-- Twice a byte in the field of AES, modulo x^8 + x^4 + x^3 + x + 1. -/
def aesDouble (b : Byte) : Byte := b <<< 1 ^^^ (if b.msb then 0x1B else 0)

/-- The product of two bytes in the field of AES. -/
def aesMul (a b : Byte) : Byte :=
  ((List.range 8).foldl (fun (p : Byte × Byte) i => (p.1 ^^^ (if b.getLsbD i then p.2 else 0), aesDouble p.2)) (0, a)).1

/-- The inverse of a byte in the field, 0 for 0: its 254th power. -/
def aesInv (a : Byte) : Byte :=
  ((List.range 7).foldl (fun (p : Byte × Byte) _ => let q := aesMul p.2 p.2; (aesMul p.1 q, q)) (1, a)).1

/-- SubBytes of one byte. -/
def aesSub (b : Byte) : Byte :=
  let i := aesInv b
  i ^^^ i.rotateLeft 1 ^^^ i.rotateLeft 2 ^^^ i.rotateLeft 3 ^^^ i.rotateLeft 4 ^^^ 0x63

/-- The next word of the key schedule, the newest first, of four bytes; `r` is the round constant in force. -/
def aesExtend (r : Byte) (n : Nat) (w : List (List Byte)) : List (List Byte) :=
  let t := w.getD 0 []
  let x := if n % 8 = 0 then
      List.zipWith (· ^^^ ·) ((t.drop 1 ++ t.take 1).map aesSub) [r, 0, 0, 0]
    else if n % 8 = 4 then t.map aesSub else t
  List.zipWith (· ^^^ ·) (w.getD 7 []) x :: w

/-- The round keys of a 32-byte key: fifteen of sixteen bytes. -/
def aesKeys (key : List Byte) : List (List Byte) :=
  let w := ((List.range 52).foldl (fun (p : Byte × List (List Byte)) i =>
    let n := i + 8
    (if n % 8 = 0 then aesDouble p.1 else p.1, aesExtend p.1 n p.2)) (1, (cutAll 4 8 key).reverse)).2
  cutAll 16 15 w.reverse.flatten

/-- ShiftRows of a state in column order. -/
def aesShift (s : List Byte) : List Byte := (List.range 16).map fun i => s.getD (4 * ((i / 4 + i % 4) % 4) + i % 4) 0

/-- MixColumns. -/
def aesMix (s : List Byte) : List Byte :=
  (List.range 16).map fun i =>
    let c := fun (k : Nat) => s.getD (4 * (i / 4) + (i + k) % 4) 0
    aesDouble (c 0) ^^^ (aesDouble (c 1) ^^^ c 1) ^^^ c 2 ^^^ c 3

/-- One block of AES-256 under its round keys. -/
def aesBlock (keys : List (List Byte)) (block : List Byte) : List Byte :=
  let add := fun (s : List Byte) (k : Nat) => List.zipWith (· ^^^ ·) s (keys.getD k [])
  let s := (List.range 13).foldl (fun s i => add (aesMix (aesShift (s.map aesSub))) (i + 1)) (add block 0)
  add (aesShift (s.map aesSub)) 14

/-- One step of the wrapping: semiblock `i` of `r` is enciphered with the check value, to which the step's number `t` is added. -/
def kwStep (keys : List (List Byte)) (x : List Byte × List (List Byte)) (t i : Nat) : List Byte × List (List Byte) :=
  let b := aesBlock keys (x.1 ++ x.2.getD i [])
  (List.zipWith (· ^^^ ·) (b.take 8) (beBytes 8 t), x.2.set i (b.drop 8))

/-- AES-256 key wrap of `n` semiblocks: the check value and the wrapped semiblocks. -/
def keyWrap (key : List Byte) (n : Nat) (data : List Byte) : List Byte :=
  let keys := aesKeys key
  let x := (List.range (6 * n)).foldl (fun x j => kwStep keys x (j + 1) (j % n)) (List.replicate 8 0xA6, cutAll 8 n data)
  x.1 ++ x.2.flatten

/-- The CAK as it is stored: 40 bytes, wrapped under the device wrapping key (R444). -/
@[irreducible] def wrapCak (key : BitVec 256) (cak : List Byte) : List Byte :=
  (keyWrap (leBytes 32 key.toNat) 4 (cak ++ zeros 32) ++ zeros 40).take 40

end Sys2Proof.Machine
end

