-- ==== Sys2Proof/Machine/Ed25519.lean ====
section
/-!
DEFINITION. Ed25519 (FIPS 186-5, RFC 8032): the device's key and signature (R444, R445) and the check of an image's (R434). PRESUMED,
log 3: the manual names the standard and does not reproduce it.
-/

namespace Sys2Proof.Machine

open Sys2Proof

/-- The field's prime, the order of the base point, and the curve's constant d. -/
def edP : Nat := 2 ^ 255 - 19
def edL : Nat := 2 ^ 252 + 27742317777372353535851937790883648493
def edD : Nat := 37095705934669439343138083508754565189542113879843219016388785533085940283555

/-- `a` to the power of an exponent of 256 bits, modulo the prime. -/
def edPow (a e : Nat) : Nat :=
  (List.range 256).foldr (fun i r => let q := r * r % edP; if e.testBit i then q * a % edP else q) 1

/-- The inverse modulo the prime. -/
def edInv (a : Nat) : Nat := edPow a (edP - 2)

/-- A point in extended coordinates: x = X / Z, y = Y / Z, x y = T / Z. -/
structure EdPoint where
  x : Nat
  y : Nat
  z : Nat
  t : Nat
  deriving DecidableEq, Repr

/-- The neutral point. -/
def EdPoint.zero : EdPoint := { x := 0, y := 1, z := 1, t := 0 }

/-- The sum of two points. -/
def EdPoint.add (p q : EdPoint) : EdPoint :=
  let a := (p.y + edP - p.x) * (q.y + edP - q.x) % edP
  let b := (p.y + p.x) * (q.y + q.x) % edP
  let c := 2 * p.t * q.t % edP * edD % edP
  let d := 2 * p.z * q.z % edP
  let e := (b + edP - a) % edP
  let f := (d + edP - c) % edP
  let g := (d + c) % edP
  let h := (b + a) % edP
  { x := e * f % edP, y := g * h % edP, z := f * g % edP, t := e * h % edP }

/-- A multiple of a point, by a number of 256 bits. -/
def EdPoint.mul (p : EdPoint) (n : Nat) : EdPoint :=
  (List.range 256).foldr (fun i r => let q := r.add r; if n.testBit i then q.add p else q) .zero

/-- Two points are the same. -/
def EdPoint.same (p q : EdPoint) : Bool := (p.x * q.z) % edP == (q.x * p.z) % edP && (p.y * q.z) % edP == (q.y * p.z) % edP

/-- The 32 bytes of a point: y, and the lowest bit of x as the highest bit. -/
def EdPoint.bytes (p : EdPoint) : List Byte :=
  let i := edInv p.z
  leBytes 32 (p.y * i % edP + 2 ^ 255 * (p.x * i % edP % 2))

/-- The point that 32 bytes spell, if they spell one. -/
def edDecode (l : List Byte) : Option EdPoint :=
  let v := ofLe l
  let y := v % 2 ^ 255
  let sign := v / 2 ^ 255
  let u := (y * y + edP - 1) % edP
  let w := (edD * (y * y % edP) + 1) % edP
  let r := u * edPow w 3 % edP * edPow (u * edPow w 7 % edP) ((edP - 5) / 8) % edP
  let root :=
    if w * (r * r % edP) % edP = u then some r
    else if w * (r * r % edP) % edP = (edP - u) % edP then some (r * edPow 2 ((edP - 1) / 4) % edP)
    else none
  match root with
  | some x =>
    if l.length ≠ 32 ∨ edP ≤ y ∨ (x = 0 ∧ sign = 1) then none else
      let x := if x % 2 = sign then x else edP - x
      some { x := x, y := y, z := 1, t := x * y % edP }
  | none => none

/-- The base point: y = 4/5, x even. -/
def edBase : EdPoint := (edDecode (leBytes 32 (4 * edInv 5 % edP))).getD .zero

/-- A key's halves: the scalar, with its fixed bits, and the prefix. -/
def edSecret (key : BitVec 256) : Nat × List Byte :=
  let h := digestBytes (sha512 (leBytes 32 key.toNat))
  ((ofLe (h.take 32) % 2 ^ 254 / 8) * 8 + 2 ^ 254, h.drop 32)

/-- A digest modulo the order of the base point. -/
def edHash (m : List Byte) : Nat := (sha512 m).toNat % edL

/-- The public key, 32 bytes. -/
@[irreducible] def ed25519Public (key : BitVec 256) : List Byte := (edBase.mul (edSecret key).1).bytes

/-- The signature of a message, 64 bytes. -/
def edSign (key : BitVec 256) (m : List Byte) : List Byte :=
  let k := edSecret key
  let a := ed25519Public key
  let r := edHash (k.2 ++ m)
  let big := (edBase.mul r).bytes
  big ++ leBytes 32 ((r + edHash (big ++ a ++ m) * k.1) % edL)

/-- A signature of a message verifies under a key: the equation of FIPS 186-5, 7.7, with the cofactor. -/
def edVerify (key m sig : List Byte) : Bool :=
  match edDecode key, edDecode (sig.take 32) with
  | some a, some r =>
    let s := ofLe (sig.drop 32)
    decide (sig.length = 64) && decide (s < edL)
      && ((edBase.mul s).mul 8).same ((r.mul 8).add ((a.mul (edHash (sig.take 32 ++ key ++ m))).mul 8))
  | _, _ => false

/-- The signature of a digest under the device's key, and the check of one (R434, R445): the message is the digest's 64 bytes. -/
@[irreducible] def ed25519Sign (key : BitVec 256) (d : BitVec 512) : List Byte := edSign key (digestBytes d)
@[irreducible] def ed25519Verifies (key : List Byte) (d : BitVec 512) (sig : List Byte) : Bool := edVerify key (digestBytes d) sig

end Sys2Proof.Machine
end

