-- ==== Sys2Proof/Machine/Mldsa.lean ====
section
/-!
DEFINITION. ML-DSA-65 (FIPS 204): the device's key and signature (R444, R445) and the check of an image's (R434). PRESUMED, log 3: the
manual names the standard and does not reproduce it. A polynomial is the list of its 256 coefficients modulo q, the constant one first.
-/

namespace Sys2Proof.Machine

open Sys2Proof

/-- The modulus; γ2; k and l, the rows and columns of A. γ1 is 2^19, d is 13, η is 4, τ is 49, β is 196 and ω is 55. -/
def mlQ : Nat := 8380417
def mlG : Nat := 261888
def mlK : Nat := 6
def mlL : Nat := 5

/-! ## Polynomials -/

/-- Sum and difference. -/
def mlAdd (a b : List Nat) : List Nat := List.zipWith (fun x y => (x + y) % mlQ) a b
def mlSub (a b : List Nat) : List Nat := List.zipWith (fun x y => (x + mlQ - y) % mlQ) a b

/-- The product of two polynomials under the number-theoretic transform. -/
def mlMul (a b : List Nat) : List Nat := List.zipWith (fun x y => x * y % mlQ) a b

/-- A power of ζ = 1753, a root of order 512. -/
def mlZeta (e : Nat) : Nat := (List.range 9).foldr (fun i r => let s := r * r % mlQ; if e.testBit i then s * 1753 % mlQ else s) 1

/-- The eight bits of an index, reversed. -/
def bitRev8 (k : Nat) : Nat := (List.range 8).foldl (fun v i => 2 * v + (k.testBit i).toNat) 0

/-- The transform of 2^`n` coefficients, at node `k` of its tree. -/
def mlNtt : Nat → Nat → List Nat → List Nat
  | 0, _, w => w
  | n + 1, k, w =>
    let z := mlZeta (bitRev8 k)
    let hi := (w.drop (2 ^ n)).map fun x => z * x % mlQ
    let lo := w.take (2 ^ n)
    mlNtt n (2 * k) (mlAdd lo hi) ++ mlNtt n (2 * k + 1) (mlSub lo hi)

/-- Its inverse, 2^`n` times. -/
def mlInv : Nat → Nat → List Nat → List Nat
  | 0, _, w => w
  | n + 1, k, w =>
    let z := mlZeta (512 - bitRev8 k)
    let a := mlInv n (2 * k) (w.take (2 ^ n))
    let b := mlInv n (2 * k + 1) (w.drop (2 ^ n))
    mlAdd a b ++ (mlSub a b).map fun x => z * x % mlQ

/-- The transform of a polynomial, and back; 8347681 is the inverse of 256. -/
def toNtt (w : List Nat) : List Nat := mlNtt 8 1 w
def ofNtt (w : List Nat) : List Nat := (mlInv 8 1 w).map fun x => 8347681 * x % mlQ

/-- The product of a matrix and a vector, both transformed, back as polynomials. -/
def mlApply (a : List (List (List Nat))) (v : List (List Nat)) : List (List Nat) :=
  a.map fun row => ofNtt ((List.zipWith mlMul row v).foldl mlAdd (List.replicate 256 0))

/-- A polynomial times each of a vector, all transformed, back as polynomials. -/
def mlScale (c : List Nat) (v : List (List Nat)) : List (List Nat) := v.map fun p => ofNtt (mlMul c p)

/-- The size of a coefficient, and of the largest one of a vector. -/
def mlSize (x : Nat) : Nat := min x (mlQ - x)
def mlNorm (v : List (List Nat)) : Nat := (v.flatten.map mlSize).foldl max 0

/-! ## Bits and bytes -/

/-- Numbers of `b` bits, packed, the first one lowest: 32 bytes for each bit. -/
def mlPack (b : Nat) (l : List Nat) : List Byte := leBytes (32 * b) (l.foldr (fun x v => v * 2 ^ b + x) 0)

/-- The 256 numbers of `b` bits that bytes hold. -/
def mlUnpack (b : Nat) (l : List Byte) : List Nat :=
  let v := ofLe l
  (List.range 256).map fun i => v / 2 ^ (b * i) % 2 ^ b

/-! ## Rounding -/

/-- The upper ten bits of a coefficient of t, and what is left, modulo q (Power2Round). -/
def mlT1 (r : Nat) : Nat := (r + 4095) / 2 ^ 13
def mlT0 (r : Nat) : Nat := (r + mlQ - mlT1 r * 2 ^ 13) % mlQ

/-- The high and low part of a coefficient, the low one modulo q (Decompose). -/
def mlHigh (r : Nat) : Nat := (r + mlG - 1) / (2 * mlG) % 16
def mlLow (r : Nat) : Nat := (r + mlQ - mlHigh r * (2 * mlG)) % mlQ

/-- The high part that a hint corrects (UseHint). -/
def mlUseHint (h : Bool) (r : Nat) : Nat :=
  let low := mlLow r
  if !h then mlHigh r else if 0 < low ∧ low ≤ mlG then (mlHigh r + 1) % 16 else (mlHigh r + 15) % 16

/-! ## Sampling -/

/-- A row of the matrix Â: coefficients of 23 bits below q. -/
def mlUniform (seed : List Byte) : List Nat :=
  ((cutAll 3 448 (shake128 1344 seed)).filterMap fun b =>
    let v := ofLe b % 2 ^ 23
    if v < mlQ then some v else none).take 256

/-- The matrix Â of a seed. -/
def mlMatrix (rho : List Byte) : List (List (List Nat)) :=
  (List.range mlK).map fun r => (List.range mlL).map fun s => mlUniform (rho ++ leBytes 1 s ++ leBytes 1 r)

/-- A short polynomial, of coefficients from -4 to 4. -/
def mlShort (seed : List Byte) : List Nat :=
  (((shake256 1088 seed).flatMap fun b => [b.toNat % 16, b.toNat / 16]).filterMap fun v =>
    if v < 9 then some ((mlQ + 4 - v) % mlQ) else none).take 256

/-- The challenge: 49 coefficients of 1 or -1, the rest 0 (SampleInBall). -/
def mlChallenge (seed : List Byte) : List Nat :=
  let x := shake256 1088 seed
  let h := ofLe (x.take 8)
  ((List.range 49).foldl (fun (p : List Nat × List Byte) n =>
    let i := 207 + n
    let left := p.2.dropWhile fun b => decide (i < b.toNat)
    let j := (left.headD 0).toNat
    ((p.1.set i (p.1.getD j 0)).set j (if h.testBit n then mlQ - 1 else 1), left.drop 1)) (List.replicate 256 0, x.drop 8)).1

/-! ## The key (R444) -/

/-- What the seed gives: ρ, K, and the secret vectors s1 and s2. -/
structure MlKey where
  rho : List Byte
  k : List Byte
  s1 : List (List Nat)
  s2 : List (List Nat)
  deriving DecidableEq, Repr

/-- The key of a seed. -/
def mlKey (seed : BitVec 256) : MlKey :=
  let h := shake256 128 (leBytes 32 seed.toNat ++ leBytes 1 mlK ++ leBytes 1 mlL)
  let short := fun (n : Nat) => mlShort (slice h 32 64 ++ leBytes 2 n)
  { rho := h.take 32, k := h.drop 96, s1 := (List.range mlL).map short, s2 := (List.range mlK).map fun i => short (mlL + i) }

/-- t = A s1 + s2. -/
def MlKey.t (x : MlKey) : List (List Nat) := List.zipWith mlAdd (mlApply (mlMatrix x.rho) (x.s1.map toNtt)) x.s2

/-- The bytes of a public key: ρ and the upper bits of t. -/
def MlKey.publicBytes (x : MlKey) : List Byte := x.rho ++ x.t.flatMap fun p => mlPack 10 (p.map mlT1)

/-- The public key, 1,952 bytes. -/
@[irreducible] def mldsaPublic (seed : BitVec 256) : List Byte := ((mlKey seed).publicBytes ++ zeros 1952).take 1952

/-! ## Signatures (R434, R445) -/

/-- What is signed: the key and the message, with an empty context string. -/
def mlMu (key m : List Byte) : List Byte := shake256 64 (shake256 64 key ++ [0, 0] ++ m)

/-- The high parts of a vector, as the challenge takes them. -/
def mlHighBytes (w : List (List Nat)) : List Byte := w.flatMap (mlPack 4)

/-- The bytes of a hint: the places of its ones, and how many there are up to each polynomial (HintBitPack). -/
def mlHintBytes (h : List (List Bool)) : List Byte :=
  let at_ := h.map fun p => indices 256 fun i => p.getD i false
  let y := at_.flatten
  ((y ++ List.replicate 55 0).take 55 ++ (List.range h.length).map fun i => (at_.take (i + 1)).flatten.length).map (BitVec.ofNat 8)

/-- The hint that 61 bytes hold, if they are well formed (HintBitUnpack). -/
def mlHint (y : List Byte) : Option (List (List Bool)) :=
  let ends := 0 :: (y.drop 55).map BitVec.toNat
  let part := fun (i : Nat) => (slice y (ends.getD i 0) (ends.getD (i + 1) 0 - ends.getD i 0)).map BitVec.toNat
  let rises := fun (l : List Nat) => (l.zip (l.drop 1)).all fun p => decide (p.1 < p.2)
  if (ends.zip (ends.drop 1)).all (fun p => decide (p.1 ≤ p.2) && decide (p.2 ≤ 55)) && (List.range mlK).all (fun i => rises (part i))
      && ((y.take 55).drop (ends.getD mlK 0)).all (· == 0) then
    some ((List.range mlK).map fun i => (List.range 256).map fun j => (part i).contains j)
  else none

/-- One try of signing: a mask from `kappa` on, and the signature unless it must be rejected. -/
def mlTry (a : List (List (List Nat))) (s1 s2 t0 : List (List Nat)) (mu rho2 : List Byte) (kappa : Nat) : Option (List Byte) :=
  let y := (List.range mlL).map fun r =>
    (mlUnpack 20 (shake256 640 (rho2 ++ leBytes 2 (kappa + r)))).map fun v => (mlQ + 2 ^ 19 - v) % mlQ
  let w := mlApply a (y.map toNtt)
  let ct := shake256 48 (mu ++ mlHighBytes (w.map (·.map mlHigh)))
  let c := toNtt (mlChallenge ct)
  let z := List.zipWith mlAdd y (mlScale c s1)
  let u := List.zipWith mlSub w (mlScale c s2)
  let ct0 := mlScale c t0
  let h := List.zipWith (List.zipWith fun x v => mlHigh x != mlHigh ((x + v) % mlQ)) u ct0
  if 2 ^ 19 - 196 ≤ mlNorm z ∨ mlG - 196 ≤ mlNorm (u.map (·.map mlLow)) ∨ mlG ≤ mlNorm ct0 ∨ 55 < h.flatten.countP id then none
  else some (ct ++ z.flatMap (fun p => mlPack 20 (p.map fun x => (mlQ + 2 ^ 19 - x) % mlQ)) ++ mlHintBytes h)

/-- The tries of signing, at most as many as FIPS 204 asks for (its appendix C). -/
def mlTries (f : Nat → Option (List Byte)) : Nat → Nat → List Byte
  | 0, _ => []
  | n + 1, kappa => match f kappa with
    | some s => s
    | none => mlTries f n (kappa + mlL)

/-- The signature of a message under the key of a seed, with the standard's random value. -/
def mlSign (seed : BitVec 256) (m rnd : List Byte) : List Byte :=
  let x := mlKey seed
  let mu := mlMu x.publicBytes m
  mlTries (mlTry (mlMatrix x.rho) (x.s1.map toNtt) (x.s2.map toNtt) (x.t.map fun p => toNtt (p.map mlT0)) mu
    (shake256 64 (x.k ++ rnd ++ mu))) 814 0

/-- A signature of a message verifies under a public key. -/
def mlVerify (key m sig : List Byte) : Bool :=
  match mlHint (sig.drop 3248) with
  | some h =>
    let z := (cutAll 640 mlL (sig.drop 48)).map fun b => (mlUnpack 20 b).map fun v => (mlQ + 2 ^ 19 - v) % mlQ
    let t := (cutAll 320 mlK (key.drop 32)).map fun b => toNtt ((mlUnpack 10 b).map fun v => v * 2 ^ 13 % mlQ)
    let w := List.zipWith mlSub (mlApply (mlMatrix (key.take 32)) (z.map toNtt)) (mlScale (toNtt (mlChallenge (sig.take 48))) t)
    let w1 := List.zipWith (List.zipWith mlUseHint) h w
    decide (key.length = 1952) && decide (sig.length = 3309) && decide (mlNorm z < 2 ^ 19 - 196)
      && shake256 48 (mlMu key m ++ mlHighBytes w1) == sig.take 48
  | none => false

/-- The signature of a digest's 64 bytes, 3,309 bytes, and the check of one. -/
@[irreducible] def mldsaSign (seed : BitVec 256) (d : BitVec 512) (rnd : BitVec 256) : List Byte :=
  (mlSign seed (digestBytes d) (leBytes 32 rnd.toNat) ++ zeros 3309).take 3309
@[irreducible] def mldsaVerifies (key : List Byte) (d : BitVec 512) (sig : List Byte) : Bool := mlVerify key (digestBytes d) sig

end Sys2Proof.Machine
end

