-- ==== Sys2Proof/Machine/Sedge.lean ====
section
/-!
DEFINITION. The sedge ports (chapter 02): frames and lines (R33 to R44, R471), frame boundaries and the frame jobs they
create (R22, R36), FSYNC (R45, R46), the I²C controllers (R48 to R50) and the exposure commands they carry (R75 to R80).
-/

namespace Sys2Proof.Machine

open Sys2Proof

/-! ## Pipelines of a port -/

/-- The pipeline that names port `n`. -/
def State.pipeOf (s : State) (n : Nat) : Option Nat := (indices 24 fun q => (s.pipe q).sourcePort == some n).head?

/-- The streaming pipeline that names port `n` (R37). -/
def State.streamOf (s : State) (n : Nat) : Option Nat := (s.pipeOf n).filter s.streams

/-- A frame job of a pipeline by its number, until its result is delivered. -/
def Pipe.job (x : Pipe) (f : BitVec 32) : Option FrameJob := x.frames.find? fun j => j.frame == f && !j.delivered

/-- Change a frame job. -/
def Pipe.updFrame (x : Pipe) (f : BitVec 32) (g : FrameJob → FrameJob) : Pipe :=
  { x with frames := x.frames.map fun j => if j.frame == f && !j.delivered then g j else j }

/-- Count in PORT_COUNTERS (Table 02-16). -/
def State.countPort (s : State) (n w : Nat) : State := s.updPort n fun p => { p with counters := p.counters.bump w }

/-! ## Exposure commands (R76 to R80) -/

/-- The completion data of SET_EXPOSURE (R80); with no STOP the manual states no time for it (log 2). Without a heron unit
APPLIED_FRAME is all ones (DESIGN CHOICE, log 88). -/
def exposureData (e : ExposureCmd) (code first : Nat) (stop : Nat) : List Byte :=
  leBytes 1 code ++ leBytes 1 first ++ leBytes 1 (flagAt 0 e.late + flagAt 1 e.uncertain) ++ [0]
    ++ leBytes 4 e.frame.toNat ++ leBytes 8 stop

/-- An exposure command ends with a result. -/
def State.endExposure (s : State) (e : ExposureCmd) (code first : Nat) : State :=
  match e.lastStop with
  | some t => s.complete e.ticket Code.ok (exposureData e code first t.toNat)
  | none => let (v, s) := s.free
            s.complete e.ticket Code.ok (exposureData e code first v.toNat)

/-- The writes of some commands of pipeline `q` become due, ahead of all queued host transactions (R49); a heron unit's
command is then applied to its frame. -/
def State.exposuresDue (s : State) (q n : Nat) (sel : ExposureCmd → Bool) : State :=
  let x := s.pipe q
  let new := x.exposures.filter fun e => !e.due && sel e
  let s := s.updPipe q fun x => { x with
    exposures := (x.exposures.filter fun e => e.due) ++ new.map (fun e => { e with due := true })
      ++ x.exposures.filter fun e => !e.due && !sel e }
  let s := s.updPort n fun p => { p with
    i2cDue := p.i2cDue ++ new.flatMap fun e => e.txns.map fun d =>
      { host := none, pipe := some q, target := e.target, data := d, readLen := 0 } }
  forEach new (fun e s => match e.unit with
    | some u => s.setHeron u { s.heron u with applied := (s.heron u).applied ++ [(e.frame, e.ticket.tag, false)] }
    | none => s) s

/-- At the end of frame `f` the heron unit makes the writes for frame f + L due (R76). -/
def State.heronDue (s : State) (q n : Nat) (f : BitVec 32) : State :=
  match s.heronOf q with
  | some u => s.exposuresDue q n fun e => e.unit == some u && e.frame == f + BitVec.ofNat 32 (s.heron u).latency
  | none => s

/-- At an accepted VSYNC active edge, heron commands whose writes are due and not finished are UNCERTAIN (R78). -/
def State.markUncertain (s : State) (q : Nat) : State :=
  let late := (s.pipe q).exposures.filter fun e => e.due && e.unit.isSome
  let s := s.updPipe q fun x => { x with
    exposures := x.exposures.map fun e => if e.due && e.unit.isSome then { e with uncertain := true } else e }
  forEach late (fun e s => match e.unit with
    | some u => s.setHeron u { s.heron u with
        applied := (s.heron u).applied.map fun a => if a.1 == e.frame && a.2.1 == e.ticket.tag then (a.1, a.2.1, true) else a }
    | none => s) s

/-- A transaction of the first due command of pipeline `q` has ended on port `n`: after a NACK its remaining transactions are
not sent (R80). -/
def State.exposureResult (s : State) (n q code : Nat) (stop : Bool) : State :=
  match (s.pipe q).exposures with
  | [] => s
  | e :: rest =>
    let nack := code = 1 ∨ code = 2
    let left := e.txns.length - (e.sent + 1)
    let e := { e with sent := if nack then e.txns.length else e.sent + 1
                      failed := if code ≠ 0 ∧ e.failed = none then some (code, e.sent) else e.failed
                      lastStop := if stop then some s.time else e.lastStop }
    let s := if nack then s.updPort n fun p => { p with i2cDue := p.i2cDue.drop left } else s
    let s := s.updPipe q fun x => { x with exposures := if e.txns.length ≤ e.sent then rest else e :: rest }
    if e.txns.length ≤ e.sent then s.endExposure e (e.failed.map Prod.fst |>.getD 0) (e.failed.map Prod.snd |>.getD 0)
    else s

/-- Exposure commands of pipeline `q` that meet a test end with CANCELLED; nothing of theirs is sent any more, and
no packet names them (R50, R73, R77). -/
def State.cancelExposures (s : State) (q : Nat) (sel : ExposureCmd → Bool) : State :=
  let gone := (s.pipe q).exposures.filter sel
  let s := s.updPipe q fun x => { x with exposures := x.exposures.filter fun e => !sel e }
  let s := match (s.pipe q).sourcePort with
    | some n => if gone.any fun e => e.due then s.updPort n fun p => { p with
        i2cDue := p.i2cDue.filter fun t => t.pipe != some q
        i2cBus := p.i2cBus.map fun t => if t.pipe == some q then { t with pipe := none } else t } else s
    | none => s
  let s := forEach gone (fun e s => match e.unit with
    | some u => s.setHeron u { s.heron u with applied := (s.heron u).applied.filter fun a => !(a.1 == e.frame && a.2.1 == e.ticket.tag) }
    | none => s) s
  forEach gone (fun e s => s.endExposure e 5 0) s

/-! ## Frame boundaries (R36) -/

/-- A frame boundary, substitute or not, of streaming pipeline `q` on port `n`: settings committed before its device time go live,
exposure commands without a heron unit are issued (R79), a shedding that was ended ends (R378). -/
def State.boundary (s : State) (q n : Nat) : State :=
  let s := if (s.port n).pendingAt.toNat < s.now then s.portGoLive n else s
  let s := if (s.pipe q).pendingAt.toNat < s.now then s.pipeGoLive q (s.pipe q).nextFrame else s
  let s := s.updPort n fun p => { p with boundaryAt := some s.time }
  let s := s.updPipe q fun x => { x with unshedDue := false }
  s.exposuresDue q n fun e => e.unit.isNone

/-- A substitute boundary of port `n` (R36): its pipeline streams and it starts no frames. -/
def State.substitute (s : State) (n : Nat) : State :=
  let p := s.port n
  match s.streamOf n with
  | some q => if p.state == .disabled || p.state == .idle || (p.state == .waitFrame && p.waitLong) then s.boundary q n else s
  | none => s

/-- WAIT_FRAME has lasted more than two nominal frame periods (R36). -/
def execWaitFrameTimeout (t : Time) (n : Fin 24) (s : State) : Result :=
  whenReady t (fun s =>
    let p := s.port n
    s.onlyIf (p.state == .waitFrame && decide (2 * s.nominalNum p.live < (s.now - p.waitSince.toNat) * s.base.den))
      fun s => s.updPort n fun p => { p with waitLong := true }) s

/-! ## Frame jobs (R22, R208, R215) -/

/-- A stripe of a new frame job. -/
def newStripe (d : Nat) : Stripe :=
  { deadline := d, final := none, waiting := false, cancelled := false, evicted := false, declined := false
    poisoned := false, fenced := false, warned := false, checkReplayed := false, scaleReplayed := false, padded := false
    fbPoisoned := false, fbSlot := none, fbDropped := false, fbRows := 0, doneBlocks := 0, written := false
    headsRead := false }

/-- A pipeline is shed, or its shedding has not ended yet (R378). -/
def State.isShed (s : State) (q : Nat) : Bool := s.faults.remapStatus.getLsbD q || (s.pipe q).unshedDue

/-- The frame job of frame `f` of pipeline `q`, under the settings that are live now; its deadlines are fixed. -/
def State.newJob (s : State) (q n : Nat) (f : BitVec 32) : FrameJob :=
  let x := s.pipe q
  let g := (s.port n).live
  let l := (s.mapping x.mappingId).image
  { frame := f, createdAt := s.time, startTime := s.time, endTime := none, flags := none, settings := x.live, port := g
    mask := x.blocks, idle := s.isShed q || x.blocks == 0
    stripes := (List.range (stripeCount x.live g)).map fun i =>
      newStripe (deadlineOf l x.live g (maskCount x.blocks.toNat) s.now i)
    begun := false, overrun := false, mapSent := false, recordSent := false, recordLost := false, writeFault := false
    checkError := false, done := 0, candidates := [], candCount := 0, candTruncated := false, detDone := false, detCount := 0
    detTruncated := false, detValid := false
    jobStatus := 0, statusEvents := 0, feRow := 0, write := (0, 0), fbRow := 0, stats := .empty, statsDone := false
    delivered := false }

/-- The frame on the pins from a VSYNC active edge on. -/
def newFrame (job : Option (Nat × BitVec 32)) (g : PortSettings) (t : Time) : PortFrame :=
  { job := job, cfg := g, start := t, lines := 0, rows := Vector.replicate 3 0, skipped := Vector.replicate 3 0
    glitches := 0, lineShort := false, lineLong := false, ended := false }

/-- An eye: the first position and the number of positions of the longest run without a transition, the first of equal ones (R413;
which of equal ones, the manual does not say: DESIGN CHOICE, log 94). -/
def eyeOf (scan : EyeScan) : Nat × Nat :=
  ((List.range 64).foldl (fun (a : Nat × Nat × Nat) i =>
    if scan.getD i 0 = 0 then
      let n := a.1 + 1
      (n, if a.2.2 < n then (i + 1 - n, n) else a.2)
    else (0, a.2)) (0, 0, 0)).2

/-- The centre of an eye, the lower of two middle positions (log 94). -/
def eyeCentre (e : Nat × Nat) : Nat := e.1 + (e.2 - 1) / 2

/-- An input has seen enough transitions. -/
def enoughSeen (scan : EyeScan) : Bool := decide (65536 ≤ (scan.take 64).sum)

/-- One tap's move towards its eye centre. -/
def moveTap (tap centre : Nat) : BitVec 6 :=
  BitVec.ofNat 6 (if tap < centre then tap + 1 else if centre < tap then tap - 1 else tap)

/-- The centre of input `i`'s eye: a free value for an eye of no width, which has none (log 94). -/
def scanCentre (v : BitVec 512) (scan : EyeScan) (i : Nat) : BitVec 6 :=
  if (eyeOf scan).2 = 0 then v.extractLsb' (6 * i) 6 else BitVec.ofNat 6 (eyeCentre (eyeOf scan))

/-- With TRACK_EN = 1, between runs, each input's tap follows the centre of its eye, as the second sampler has scanned it by this frame, by
at most one tap per frame; an input with fewer than 65,536 transitions keeps its tap (R413, R414). -/
def State.trackTaps (s : State) (n : Nat) (scans : List EyeScan) : State :=
  let p := s.port n
  if s.health.calConfig.getLsbD 0 ∧ p.calValid = true ∧ p.calRunning = false then
    let v := s.free
    let seen := indices 26 fun i => enoughSeen (scans.getD i [])
    let centre := fun (i : Nat) => scanCentre v.1 (scans.getD i []) i
    v.2.setPort n { p with
      centres := seen.foldl (fun t i => Tab.set (fun _ => 0) t i (centre i)) p.centres
      taps := seen.foldl (fun t i => Tab.set (fun _ => 0) t i (moveTap (p.tap i) (centre i).toNat)) p.taps }
  else s

/-- A VSYNC active edge is accepted in WAIT_FRAME: the frame is discarded unless a streaming pipeline names the port (R37);
else it is the pipeline's frame boundary, and its frame job is created. -/
def State.frameStart (s : State) (n : Nat) (scans : List EyeScan) : State :=
  let s := s.updPort n fun p => { p with state := .inFrame, waitLong := false }
  match s.streamOf n with
  | none => (s.updPort n fun p => { p with frame := some (newFrame none p.live s.time) }).countPort n 1 |>.trackTaps n scans
  | some q =>
    let f := (s.pipe q).nextFrame
    let s := s.markUncertain q
    let s := s.updPort n fun p => { p with frame := some (newFrame (some (q, f)) p.live s.time), waitSince := s.time }
    let s := (s.boundary q n).trackTaps n scans
    let s := s.updPort n fun p => { p with frame := p.frame.map fun x => { x with cfg := p.live } }
    (s.updPipe q fun x => { x with nextFrame := f + 1, frames := x.frames ++ [s.newJob q n f] }).countPort n 0

def execFrameStart (t : Time) (x : FrameEdge) (s : State) : Result :=
  whenReady t (fun s => s.onlyIf ((s.port x.port).state == .waitFrame) fun s => s.frameStart x.port x.scans) s

/-! ## The end of a frame (R41, R44, R54) -/

/-- END_CAUSE (Table 02-18). -/
def endCode : EndCause → Nat
  | .normal => 0
  | .cutLines => 1
  | .cutTime => 2
  | .pclkStopped => 3
  | .clockFault => 4

/-- The frame flags that a cause sets of itself (Table 02-3). -/
def causeFlags : EndCause → Nat
  | .normal => 0
  | .cutLines => 2
  | .cutTime => 2
  | .pclkStopped => 1
  | .clockFault => 33

/-- Placeholder lines of exposure `e` still to come (R39, R40). -/
def PortFrame.skips (f : PortFrame) : List Nat :=
  (List.range f.cfg.exposures).map fun e => (if f.cfg.exposures = 1 then 0 else f.cfg.offset e) - f.skipped.toList.getD e 0

/-- Rows delivered, by exposure. -/
def PortFrame.rowCounts (f : PortFrame) : List Nat := (List.range f.cfg.exposures).map fun e => f.rows.toList.getD e 0

/-- Every exposure holds HEIGHT rows (R40). -/
def PortFrame.complete (f : PortFrame) : Bool := f.rowCounts.all fun r => decide (f.cfg.height ≤ r)

/-- The frame flags word (Table 02-18). -/
def PortFrame.flagsWord (f : PortFrame) (c : EndCause) : Nat :=
  f.glitches.toNat * 2 ^ 16 + endCode c * 2 ^ 8
    + ((flagAt 4 (f.glitches != 0) + flagAt 3 f.lineLong + flagAt 2 f.lineShort + flagAt 0 (!f.complete)) ||| causeFlags c)

/-- The pad lines of a frame's missing rows (R41): no word received. -/
def PortFrame.padLines (f : PortFrame) (num : BitVec 32) : List RawLine :=
  (List.range f.cfg.exposures).flatMap fun e =>
    ((List.range f.cfg.height).filter fun r => decide (f.rows.toList.getD e 0 ≤ r)).map fun r =>
      { frame := num, exposure := e, row := r, words := [], padFrom := 0, bad := false }

/-- A further cause in the same cycle joins the frame just ended (R44). -/
def joinFlags (w : BitVec 32) (c : EndCause) : BitVec 32 :=
  BitVec.ofNat 32 ((w.toNat ||| causeFlags c) - bits 10 8 w * 256 + max (bits 10 8 w) (endCode c) * 256)

/-- FRAMES_SHORT and FRAMES_LONG count a frame whose flags word, so far `was`, now carries FRAME_SHORT or FRAME_LONG (Table 02-16). -/
def State.countFrameFlags (s : State) (n : Nat) (was now : BitVec 32) : State :=
  let s := if now.getLsbD 0 && !was.getLsbD 0 then s.countPort n 5 else s
  if now.getLsbD 1 && !was.getLsbD 1 then s.countPort n 6 else s

/-- A started frame of port `n` ends: missing rows are padded and delivered, the flags word is final, the frame's heron
writes become due, and a port that waits to be disabled is (R471). -/
def State.endStarted (s : State) (n : Nat) (f : PortFrame) (q : Nat) (num : BitVec 32) (c : EndCause) : State :=
  let s := s.updPipe q fun x =>
    { x with fe := { x.fe with lines := x.fe.lines ++ f.padLines num }, lastEnded := some num }
  let s := s.updPipe q fun x => x.updFrame num fun j =>
    { j with flags := some (BitVec.ofNat 32 (f.flagsWord c)), endTime := some s.time }
  let s := s.countFrameFlags n 0 (BitVec.ofNat 32 (f.flagsWord c))
  let f := { f with ended := true }
  let s := s.updPort n fun p => { p with
    frame := some f, lastEnd := some { frame := f, pipe := q, number := num, cause := c, time := s.time } }
  let s := s.heronDue q n num
  s.updPort n fun p => if p.disableDue then p.disable else p

/-- A further condition that ends the frame of port `n` that has just ended, in the same cycle, and that holds of it (R44). -/
def State.joinEnd (s : State) (n : Nat) (c : EndCause) (holds : EndedFrame → Bool) : State :=
  match (s.port n).lastEnd with
  | some e => if e.time = s.time ∧ holds e = true then
      let was := (((s.pipe e.pipe).job e.number).bind fun j => j.flags).getD (BitVec.ofNat 32 (e.frame.flagsWord e.cause))
      (s.updPipe e.pipe fun x => x.updFrame e.number fun j => { j with flags := j.flags.map fun w => joinFlags w c }).countFrameFlags n
        was (joinFlags was c) else s
  | none => s

/-- What ends a frame on port `n`: the started frame in progress, or, in the same cycle, the one that has just ended. -/
def State.endFrame (s : State) (n : Nat) (c : EndCause) : State :=
  let join := fun (s : State) => s.joinEnd n c fun _ => true
  match (s.port n).frame with
  | some f => match f.job with
    | some (q, num) => if f.ended then join s else s.endStarted n f q num c
    | none => s
  | none => join s

/-- The port waits for its next frame (R36). -/
def State.toWait (s : State) (n : Nat) : State :=
  s.updPort n fun p => { p with state := .waitFrame, frame := none, waitSince := s.time, waitLong := false }

/-- VSYNC inactive is accepted (R33). -/
def execFrameEnd (t : Time) (n : Fin 24) (s : State) : Result :=
  whenReady t (fun s => s.onlyIf ((s.port n).state == .inFrame) fun s =>
    let s := if (s.port n).frame.any fun f => f.ended then s else s.endFrame n .normal
    if (s.port n).state == .inFrame then s.toWait n else s) s

/-- The started frame in progress on port `n`, with its pipeline and number. -/
def State.started (s : State) (n : Nat) : Option (PortFrame × Nat × BitVec 32) :=
  match (s.port n).frame with
  | some f => if f.ended then none else f.job.map fun j => (f, j.1, j.2)
  | none => none

/-- VSYNC stays active beyond MAX_FRAME_TIME, or 1.5 nominal frame periods for 0 (R41, Table 02-11). -/
def State.overTime (s : State) (f : PortFrame) : Bool :=
  let d := s.now - f.start.toNat
  if f.cfg.maxFrameUs = 0 then decide (3 * s.nominalNum f.cfg < 2 * s.base.den * d)
  else decide (1000 * f.cfg.maxFrameUs < d)

def execCutTime (t : Time) (n : Fin 24) (s : State) : Result :=
  whenReady t (fun s => match s.started n with
    | some (f, _, _) => s.onlyIf (s.overTime f) fun s => s.endFrame n .cutTime
    | none => s.joinEnd n .cutTime fun e => s.overTime e.frame) s

/-- A sedge port detector's report (Table 02-3). -/
def portFault (n : Nat) (cls out : BitVec 8) (q : Option Nat) (f : Option (BitVec 32)) : FaultInfo :=
  { cls := cls, detector := Det.sedgePort, outcome := out, site := .chip Chip.sedge n, served := .port n
    suppressed := some (.sedge (Fin.ofNat 24 n)), location := 68 + n, pipeline := q, frame := f }

/-- No PCLK edge for 4 × LINE_TIME (R41, R43): watched in WAIT_FRAME and IN_FRAME only. -/
def execPclkStopped (t : Time) (n : Fin 24) (s : State) : Result :=
  whenReady t (fun s =>
    let p := s.port n
    s.onlyIf (p.state == .waitFrame || p.state == .inFrame) fun s =>
      let s := (s.updPort n fun p => { p with pclkStopped := true }).countPort n 7
      let s := match s.started n with
        | some (_, q, f) => (s.fault (portFault n Cls.ucc Outc.contained (some q) (some f))).endFrame n .pclkStopped
        | none => s.endFrame n .pclkStopped
      s.updPort n fun p => if p.state == .disabled then p else { p with state := .idle, frame := none }) s

/-- An IDLE port goes to WAIT_FRAME at its next PCLK edge (R43). -/
def execPclkResumed (t : Time) (n : Fin 24) (s : State) : Result :=
  whenReady t (fun s => s.onlyIf ((s.port n).state == .idle && s.frontOn n) fun s => s.toWait n) s

/-- A 2 µs window of PCLK edges (R42): PCLK_FREQ takes it, and more than 420 edges disable the port, with FSYNC still driven.
A fenced detector only records (R385). -/
def execPortClockFault (t : Time) (n : Fin 24) (edges : Nat) (s : State) : Result :=
  whenReady t (fun s => s.onlyIf (s.frontOn n) fun s =>
    let s := s.updPort n fun p => { p with pclkFreq := BitVec.ofNat 12 (min 4095 (5 * edges)) }
    let p := s.port n
    let f := (s.started n).map fun x => x.2.2
    let report := portFault n Cls.ucf Outc.fenced (s.pipeOf n) f
    if edges ≤ 420 ∨ p.clockFault = true then s
    else if p.state == .disabled || s.isSuppressed (.sedge n) then s.fault report
    else
      let s := (s.fault report).endFrame n .clockFault
      s.updPort n fun p => { p with clockFault := true, state := .disabled, frame := none, disableDue := false }) s

/-- PORT_RECOVER (R42). -/
def portRecoverBody : Body := fun _ p s =>
  let n := le p 0 1
  if 24 ≤ n then (s, .err Code.notPermitted)
  else
    let x := s.port n
    (if x.clockFault then
      s.portChange n { x with clockFault := false, state := if x.live.enable && s.frontOn n then .idle else .disabled }
     else s, .ok)

def execPortRecover (q : Req) (s : State) : Result := lysil (opRow 0x0211 4) q portRecoverBody s

/-! ## Lines (R33, R34, R39, R41) -/

/-- Exchange the two pixels of each transfer (LANE_SWAP, R31). -/
def swapPairs : List (BitVec 24) → List (BitVec 24)
  | a :: b :: t => b :: a :: swapPairs t
  | t => t

/-- The active pixels of a received line: raw words of the packing, from H_START or of the DE run, at most WIDTH. -/
def activeWords (g : PortSettings) (ws : List (BitVec 24)) : List (BitVec 24) :=
  let ws := if g.two12 && g.laneSwap then swapPairs ws else ws
  let ws := if g.raw12 then ws.map fun w => w &&& 0xFFF else ws
  (if g.lineSelDe then ws else ws.drop g.hStart).take g.width

/-- A parity error between a port's input register and the front end (R30, Table 14-1): the line is poisoned. The record names the
port (DEDUCED, log 83). -/
def lineParity (n q : Nat) (f : BitVec 32) : FaultInfo := { portFault n Cls.ucc Outc.contained (some q) (some f) with detector := Det.pathParity }

/-- A line that carries row `r` of exposure `e` of a started frame. -/
def State.takeRow (s : State) (n q : Nat) (num : BitVec 32) (f : PortFrame) (e r : Nat) (ws : List (BitVec 24)) (bad : Bool) : State :=
  let px := activeWords f.cfg ws
  let short := decide (px.length < f.cfg.width)
  let long := f.cfg.lineSelDe && decide (f.cfg.width < ws.length)
  let s := s.updPort n fun p => { p with frame := some { f with
    lineShort := f.lineShort || short, lineLong := f.lineLong || long } }
  let s := if short then s.countPort n 3 else s
  let s := if long then s.countPort n 4 else s
  let s := if bad then s.fault (lineParity n q num) else s
  s.updPipe q fun x => { x with fe := { x.fe with
    lines := x.fe.lines ++ [{ frame := num, exposure := e, row := r, words := px, padFrom := px.length, bad := bad }] } }

/-- A counted line of a started frame: it belongs to a row, is a placeholder, or is discarded (R39). -/
def State.countedLine (s : State) (n q : Nat) (num : BitVec 32) (f : PortFrame) (ws : List (BitVec 24)) (bad : Bool) :
    State :=
  let k := f.lines - f.cfg.vStart
  let e := if f.cfg.exposures = 1 then 0 else f.cfg.pattern (k % f.cfg.patLen)
  let rows := f.rowCounts
  let x := takeLine f.cfg e rows f.skips
  let f := { f with lines := f.lines + 1 }
  if x.2 ≠ f.skips then
    s.updPort n fun p => { p with frame := some { f with
      skipped := Vector.ofFn fun i : Fin 3 => f.skipped.toList.getD i 0 + (if i.val = e then 1 else 0) } }
  else if x.1 ≠ rows then
    s.takeRow n q num { f with rows := Vector.ofFn fun i : Fin 3 => x.1.getD i 0 } e (rows.getD e 0) ws bad
  else s.updPort n fun p => { p with frame := some f }

/-- One line, from its start to the next line start, the end of its DE run or the end of the frame. -/
def execLineReceived (t : Time) (n : Fin 24) (words : List (BitVec 24)) (parity : Bool) (s : State) : Result :=
  whenReady t (fun s => match s.started n with
    | some (f, q, num) =>
      if f.lines < f.cfg.vStart then s.updPort n fun p => { p with frame := some { f with lines := f.lines + 1 } }
      else if f.complete then s.endFrame n .cutLines
      else s.countedLine n q num f words parity
    | none => s.joinEnd n .cutLines fun e => e.cause != .normal && e.frame.complete) s

/-- A sync pulse shorter than 16 PCLK cycles is ignored and counted, in the frame in progress too (R35). -/
def execSyncGlitch (t : Time) (n : Fin 24) (s : State) : Result :=
  whenReady t (fun s => s.onlyIf ((s.port n).state == .waitFrame || (s.port n).state == .inFrame) fun s =>
    (s.countPort n 2).updPort n fun p => { p with
      frame := p.frame.map fun f => if f.ended then f else { f with glitches := sat16 f.glitches } }) s

/-! ## FSYNC (R45, R46) -/

/-- The settings under which a port drives FSYNC: while it carries its last frame to the end, those in force before (R471). -/
def Port.fsyncCfg (p : Port) : PortSettings := if p.disableDue then p.fsyncKept else p.live

/-- The port generates FSYNC. -/
def State.fsyncRuns (s : State) (n : Nat) : Bool :=
  s.frontOn n && (s.port n).fsyncCfg.enable && (s.port n).fsyncCfg.fsyncEn

/-- A pulse of port `n` is due now: PHASE_NS after a fen tick whose number is a multiple of DIV_M1 + 1. -/
def State.fsyncDue (s : State) (n : Nat) : Bool :=
  let c := (s.port n).fsyncCfg
  let k := s.base.tickNumber (s.now - c.fsyncPhase)
  decide (c.fsyncPhase ≤ s.now) && s.base.tickTime k + c.fsyncPhase == s.now && k % c.fsyncDiv == 0

/-- R46 omits it: new settings would place it less than half a nominal period after the previous pulse. -/
def State.fsyncOmitted (s : State) (n : Nat) : Bool :=
  let p := s.port n
  p.fsyncMoved && p.fsyncStart.any fun t => decide (2 * s.base.den * (s.now - t.toNat) < s.nominalNum p.fsyncCfg)

def execFsyncAssert (t : Time) (n : Fin 24) (s : State) : Result :=
  whenReady t (fun s => s.onlyIf (s.fsyncRuns n && s.fsyncDue n && !s.fsyncOmitted n) fun s =>
    let s := s.updPort n fun p => { p with
      fsync := true, fsyncStart := some s.time, fsyncEnd := s.time + BitVec.ofNat 64 (1000 * p.fsyncCfg.fsyncWidthUs)
      fsyncMoved := false }
    s.substitute n) s

def execFsyncDeassert (t : Time) (n : Fin 24) (s : State) : Result :=
  whenReady t (fun s => s.onlyIf ((s.port n).fsync && decide ((s.port n).fsyncEnd.toNat ≤ s.now)) fun s =>
    s.updPort n fun p => { p with fsync := false }) s

/-! ## I²C (R48 to R50) -/

/-- The completion of I2C_TRANSFER: STATUS is OK whatever the result code is (DESIGN CHOICE, log 100); read data is valid only for DONE, and open otherwise (log 2). Byte 1 is 0 where no byte was
NACKed (DESIGN CHOICE, log 84). -/
def State.endTransfer (s : State) (k : Ticket) (code index n : Nat) (read : List Byte) : State :=
  let head := leBytes 1 code ++ leBytes 1 index ++ zeros 2
  if code = 0 then s.complete k Code.ok (head ++ (read ++ zeros n).take n)
  else let (v, s) := s.free
       s.complete k Code.ok (head ++ leBytes n v.toNat)

/-- A transaction of port `n` ends. -/
def State.endTxn (s : State) (n : Nat) (x : I2cTxn) (code index : Nat) (read : List Byte) (stop : Bool) : State :=
  match x.host with
  | some k => s.endTransfer k code index x.readLen read
  | none => x.pipe.elim s fun q => s.exposureResult n q code stop

/-- I2C_TRANSFER (R48, R50, R412). Table 02-5 does not say how a request names its port (log 13). -/
def i2cTransferBody (n : Nat) : Body := fun k p s =>
  let w := le p 1 1
  let r := le p 2 1
  if w + r = 0 then (s, .err Code.badLength)
  else if 64 < w ∨ 64 < r ∨ s.requestedOff (68 + n) = true then (s, .err Code.notPermitted)
  else if 16 ≤ (s.port n).i2cQueue.length then (s, .err Code.queueFull)
  else (s.updPort n fun x => { x with i2cQueue := x.i2cQueue ++
      [{ host := some k, pipe := none, target := BitVec.ofNat 7 (le p 0 1), data := p.drop 4, readLen := r }] },
    { status := Code.accepted })

def execI2cTransfer (q : Req) (s : State) : Result :=
  lysil { code := 0x0210, long := true, lenOk := fun p => decide (4 ≤ p.length) && p.length == 4 + le p 1 1 } q
    (i2cTransferBody (Config.i2cPort q.queue q.tag q.params)) s

/-- The next transaction of a port: exposure writes go ahead of the queue (R49). -/
def Port.nextTxn (p : Port) : Option (I2cTxn × Port) :=
  match p.i2cDue with
  | x :: t => some (x, { p with i2cDue := t })
  | [] => match p.i2cQueue with
    | x :: t => some (x, { p with i2cQueue := t })
    | [] => none

/-- The controller starts its next transaction; SDA low before the START needs bus recovery, which may fail. -/
def execI2cTransactionStart (t : Time) (n : Fin 24) (sdaLow stuck : Bool) (s : State) : Result :=
  whenReady t (fun s => match (s.port n).nextTxn with
    | some (x, p) => s.onlyIf (p.i2cBus.isNone && s.frontOn n) fun s =>
        let s := if sdaLow then s.send (.i2cRecovery n) else s
        if sdaLow && stuck then (s.setPort n p).endTxn n x 4 0 [] false
        else (s.setPort n { p with i2cBus := some x }).send (.i2c n x.target x.data x.readLen)
    | none => s) s

/-- The transaction on the bus ends. -/
def State.busEnds (s : State) (n code index : Nat) (read : List Byte) (stop : Bool) : State :=
  match (s.port n).i2cBus with
  | some x => (s.updPort n fun p => { p with i2cBus := none }).endTxn n x code index read stop
  | none => s

def execI2cTransactionEnd (t : Time) (n : Fin 24) (e : I2cEnd) (s : State) : Result :=
  whenReady t (fun s => match e with
    | .done read => s.busEnds n 0 0 read true
    | .nack i => s.busEnds n (if i = 0 then 1 else 2) i.toNat [] true) s

/-- SCL is held low beyond TIMEOUT_US (R50). -/
def execI2cTimeout (t : Time) (n : Fin 24) (s : State) : Result := whenReady t (fun s => s.busEnds n 3 0 [] false) s

/-! ## SET_EXPOSURE (R76 to R80) -/

/-- The write transactions of a command: `n` entries of a length byte from 1 to 16 and that many data bytes, with nothing
left over. -/
def exposureTxns : Nat → List Byte → Option (List (List Byte))
  | 0, l => if l.isEmpty then some [] else none
  | _ + 1, [] => none
  | n + 1, b :: t =>
    if 1 ≤ b.toNat ∧ b.toNat ≤ 16 ∧ b.toNat ≤ t.length then
      (exposureTxns n (t.drop b.toNat)).map fun r => t.take b.toNat :: r
    else none

/-- F, the last frame whose end has been accepted, −1 before any (R76). -/
def Pipe.lastF (x : Pipe) : BitVec 32 := x.lastEnded.getD (BitVec.allOnes 32)

/-- Where a heron unit of latency `l` places a command: the frame, and LATE; none when the target is too far (R76). -/
def placeExposure (f : BitVec 32) (l : Nat) (target : Option (BitVec 32)) : Option (BitVec 32 × Bool) :=
  let a := f + BitVec.ofNat 32 (l + 1)
  match target with
  | none => some (a, false)
  | some t => if frameLater t (f + 256) then none else if frameLater a t then some (a, true) else some (t, false)

/-- SET_EXPOSURE. -/
def setExposureBody : Body := fun k p s =>
  let q := le p 0 1
  let n := le p 1 1
  let has := le p 3 1 % 2 == 1
  let txns := (exposureTxns n (p.drop 8)).getD []
  let cmd := fun (f : BitVec 32) (late : Bool) (u : Option Nat) =>
    ({ ticket := k, target := BitVec.ofNat 7 (le p 2 1), frame := f, late := late, uncertain := false, unit := u
       txns := txns, sent := 0, due := false, failed := none, lastStop := none } : ExposureCmd)
  let take := fun (e : ExposureCmd) =>
    (s.updPipe q fun x => { x with exposures := x.exposures ++ [e] },
     ({ status := Code.accepted, data := leBytes 4 e.frame.toNat ++ leBytes 1 (flagAt 0 e.late) ++ zeros 3 } : Ack))
  if s.streams q = false ∨ n = 0 ∨ 8 < n then (s, .err Code.notPermitted)
  else match s.heronOf q with
    | none => if has then (s, .err Code.notPermitted) else take (cmd (BitVec.allOnes 32) false none)
    | some u =>
      match placeExposure (s.pipe q).lastF (s.heron u).latency (if has then some (BitVec.ofNat 32 (le p 4 4)) else none) with
      | none => (s, .err Code.notPermitted)
      | some (f, late) =>
        if 8 ≤ ((s.pipe q).exposures.filter fun e => e.unit == some u).length then (s, .err Code.queueFull)
        else take (cmd f late (some u))

def execSetExposure (q : Req) (s : State) : Result :=
  lysil { code := 0x0320, long := true
          lenOk := fun p => decide (8 ≤ p.length) && (exposureTxns (le p 1 1) (p.drop 8)).isSome } q setExposureBody s

end Sys2Proof.Machine
end

