-- ==== Sys2Proof/Machine/Rings.lean ====
section
/-!
DEFINITION. The hardware rings (R157, R269 to R272): where a row of a ring's tensor lies, how the producer's end moves when
rows are written or retired (R108, R206), how the consumer's end is released (R108, R212), and the unit a thread runs.
-/

namespace Sys2Proof.Machine

open Sys2Proof

/-! ## Kinds (Table 06-10) -/

/-- The kinds of ring. -/
def Ring.isFused (r : Ring) : Bool := r.kind == 0
def Ring.isStripeIn (r : Ring) : Bool := r.kind == 1
def Ring.isSluiceIn (r : Ring) : Bool := r.kind == 2
def Ring.isSluiceOut (r : Ring) : Bool := r.kind == 3

/-! ## Places of rows -/

/-- The rows of a ring's tensor that a unit uses on the block at index `x` of a set of `b`, fold by fold, as fold × H + row:
those its producer computes, or those its consumer needs when the producer is no operator (log 26). -/
def ringUnitRows (l : List Byte) (r : ImgRing) (u : UnitSpan) (b x : Nat) : List Nat :=
  let rows := if r.kind = 0 ∨ r.kind = 3 then opRows l u b x r.producer else ringRows l r u b x
  ((ringTensor l r).map fun t => (List.range t.n).flatMap fun f =>
    (List.range rows.2).map fun k => f * t.h + rows.1 + k).getD []

/-- The fill: slots written and not released (R269). -/
def Ring.fill (r : Ring) : Nat := (r.head - r.tail).toNat

/-- A unit's entry in a ring. -/
def Ring.unitOf (r : Ring) (id : BitVec 32 × Nat) : Option RingUnit := r.units.find? fun u => u.unit == id

/-- Slots that a unit takes: its rows start in a new slot (R206). -/
def Ring.slotsOf (r : Ring) (u : RingUnit) : Nat := (u.rows.length + r.rowsPerSlot - 1) / max 1 r.rowsPerSlot

/-- The place of a row in its unit. -/
def RingUnit.place (u : RingUnit) (row : Nat) : Option Nat := u.rows.findIdx? fun y => y == row

/-- The slot, as HEAD and TAIL count, of the row at place `k`. -/
def Ring.slotAt (r : Ring) (u : RingUnit) (k : Nat) : BitVec 16 := u.base + BitVec.ofNat 16 (k / max 1 r.rowsPerSlot)

/-- A slot has been passed on by the producer and not released. -/
def Ring.published (r : Ring) (slot : BitVec 16) : Bool := decide ((slot - r.tail).toNat < r.fill)

/-- A slot is free to be written: fewer than SLOTS slots lie from TAIL to it. -/
def Ring.writable (r : Ring) (slot : BitVec 16) : Bool := decide ((slot - r.tail).toNat < r.slots)

/-- The scratchpad offset of a slot (R269). -/
def Ring.slotOffset (r : Ring) (slot : BitVec 16) : Nat := 64 * (r.baseLine + 64 * r.slot4k * (slot.toNat % max 1 r.slots))

/-- The scratchpad offset of channel block `cb` of the row at place `k` (R157). -/
def Ring.rowOffset (r : Ring) (t : ImgTensor) (u : RingUnit) (k cb : Nat) : Nat :=
  r.slotOffset (r.slotAt u k) + (k % max 1 r.rowsPerSlot * t.cb + cb) * t.rowBytes

/-- The scratchpad offset of that row's shift entry of group `g` (R157). -/
def Ring.entryOffset (r : Ring) (t : ImgTensor) (u : RingUnit) (k cb g : Nat) : Nat :=
  r.slotOffset (r.slotAt u k) + up64 (r.rowsPerSlot * t.cb * t.rowBytes)
    + (k % max 1 r.rowsPerSlot * t.cb + cb) * t.groups + g

/-! ## The producer's end -/

/-- The rows of slot `j` of a unit. -/
def Ring.slotRows (r : Ring) (u : RingUnit) (j : Nat) : List Nat := slice u.rows (j * r.rowsPerSlot) r.rowsPerSlot

/-- How many slots of a unit, from its first, hold only rows that meet a test. -/
def Ring.leadSlots (r : Ring) (u : RingUnit) (p : Nat → Bool) : Nat :=
  ((List.range (r.slotsOf u)).takeWhile fun j => (r.slotRows u j).all p).length

/-- How many slots of a unit, from its first, reach to the last that holds a row written or retired. -/
def Ring.usedSlots (r : Ring) (u : RingUnit) : Nat :=
  (List.range (r.slotsOf u)).foldl (fun m j => if (r.slotRows u j).any u.done.contains then j + 1 else m) 0

/-- A unit still holds slots of a ring: one that holds a row of it has not been released. -/
def Ring.holds (r : Ring) (u : RingUnit) : Bool :=
  (List.range (r.usedSlots u)).any fun j => r.writable (u.base + BitVec.ofNat 16 j)

/-- HEAD moves to a slot if that lies ahead of it and within SLOTS of TAIL. -/
def Ring.headTo (r : Ring) (slot : BitVec 16) (t : Time) : Ring :=
  if r.fill < (slot - r.tail).toNat ∧ (slot - r.tail).toNat ≤ r.slots then { r with head := slot, moved := t } else r

/-- TAIL moves to a slot if that lies ahead of it and not past HEAD. -/
def Ring.tailTo (r : Ring) (slot : BitVec 16) (t : Time) : Ring :=
  if slot ≠ r.tail ∧ (slot - r.tail).toNat ≤ r.fill then { r with tail := slot, moved := t } else r

/-- A row of a unit is written, or every group of it has retired: HEAD passes each slot whose rows all are (R108, R206). -/
def Ring.rowDone (r : Ring) (id : BitVec 32 × Nat) (row : Nat) (t : Time) : Ring :=
  match r.unitOf id with
  | some u =>
    let u := { u with done := insertAsc row u.done }
    { r.headTo (u.base + BitVec.ofNat 16 (r.leadSlots u u.done.contains)) t with
        units := r.units.map fun v => if v.unit == id then u else v }
  | none => r

/-- A unit enters a ring: its first slot is HEAD's, or, where a sluice channel fills the ring, unit after unit, the one after the slots
of the unit before (R206). -/
def Ring.open_ (r : Ring) (id : BitVec 32 × Nat) (rows : List Nat) : Ring :=
  if (r.unitOf id).isSome then r
  else if r.isSluiceIn then
    let u : RingUnit := { unit := id, base := r.next, rows := rows, done := [] }
    { r with units := r.units ++ [u], next := r.next + BitVec.ofNat 16 (r.slotsOf u), fed := some id }
  else { r with units := r.units ++ [{ unit := id, base := r.head, rows := rows, done := [] }] }

/-! ## The consumer's end -/

/-- The consumer releases the slots, from the unit's first, none of whose rows it still needs (R108). -/
def Ring.release (r : Ring) (id : BitVec 32 × Nat) (needed : Nat → Bool) (t : Time) : Ring :=
  match r.units with
  | u :: _ => if u.unit = id then r.tailTo (u.base + BitVec.ofNat 16 (r.leadSlots u fun y => !needed y)) t else r
  | [] => r

/-- Slots from TAIL on, filled or still to be filled, that belong to units which have left a SLUICE_IN ring. -/
def Ring.owes (r : Ring) : Nat :=
  let n := (((r.units.head?.map fun u => u.base).getD r.next) - r.tail).toNat
  if n < 2 ^ 15 then n else 0

/-- Those of them that are filled are released (R272; those to come follow as the channel fills them: DEDUCED, log 114). -/
def Ring.settleIn (r : Ring) (t : Time) : Ring :=
  if r.isSluiceIn then r.tailTo (r.tail + BitVec.ofNat 16 (min r.fill r.owes)) t else r

/-- A unit leaves a ring, finished or cancelled (R212, R272): its slots are released, by TAIL, or, where a sluice channel drains
the ring, by HEAD past the slots that hold retired rows of it. -/
def Ring.close_ (r : Ring) (id : BitVec 32 × Nat) (t : Time) : Ring :=
  match r.unitOf id with
  | none => r
  | some u =>
    let rest := r.units.filter fun v => v.unit != id
    let x := if r.isSluiceOut then
        r.headTo (u.base + BitVec.ofNat 16 (r.usedSlots u)) t
      else if r.isSluiceIn then Ring.settleIn { r with units := rest } t
      else if r.units.head?.any fun v => v.unit == id then
        r.tailTo ((rest.head?.map fun v => v.base).getD r.head) t
      else r
    { x with units := rest }

/-- A unit passes a SLUICE_IN ring without using it. -/
def Ring.pass (r : Ring) (id : BitVec 32 × Nat) (rows : List Nat) (t : Time) : Ring := (r.open_ id rows).close_ id t

/-! ## Threads and their units -/

/-- A block's thread of an owner. -/
def Block.threadOf (x : Block) (o : Owner) : Option Thread := x.threads.find? fun t => t.owner == o

/-- Change a block's thread of an owner. -/
def Block.updThread (x : Block) (o : Owner) (f : Thread → Thread) : Block :=
  { x with threads := x.threads.map fun t => if t.owner == o then f t else t }

/-- Change every ring of an owner on a block. -/
def Block.updRings (x : Block) (o : Owner) (f : Ring → Ring) : Block :=
  { x with rings := x.rings.map fun e => match e.2 with
      | some r => (e.1, some (if r.owner == o then f r else r))
      | none => e }

/-- The rings of an owner on a block. -/
def Block.ringsOf (x : Block) (o : Owner) : List Ring := (x.rings.filterMap Prod.snd).filter fun r => r.owner == o

/-- An owner's ring by its image-local ID. -/
def Block.ringNamed (x : Block) (o : Owner) (image : Nat) : Option Ring := (x.ringsOf o).find? fun r => r.image == image

/-- A standalone job by its ID. -/
def State.jobOf (s : State) (j : BitVec 32) : Option Job := s.jobs.find? fun x => x.id == j

/-- The blocks of a set, by region and position mask. -/
def setBlocks (region mask : Nat) : List Nat := (maskBlocks mask).map (16 * region + ·)

/-- Where a unit runs: the image, its rows, the set's size and this block's index in it. -/
structure UnitPlace where
  image : List Byte
  span : UnitSpan
  count : Nat
  index : Nat
  deriving DecidableEq, Repr

/-- The place of a unit (frame or job, stripe) of owner `o` on block `b`; none when it has none there. -/
def State.unitPlace (s : State) (b : Nat) (o : Owner) (id : BitVec 32 × Nat) : Option UnitPlace :=
  match o with
  | .pipeline p =>
    (((s.pipe p).job id.1).filter fun j => !j.idle && j.mask.toNat.testBit (b % 16)).map fun j =>
      { image := (s.mapping (s.pipe p).mappingId).image
        span := .stripe id.2 j.settings.stripeH j.port.height
        count := maskCount j.mask.toNat
        index := (maskBlocks j.mask.toNat).findIdx fun k => k == b % 16 }
  | .job k =>
    ((s.jobOf k).filter fun j => j.mask.toNat.testBit (b % 16)).map fun j =>
      { image := (s.mapping j.mapping).image, span := .whole, count := maskCount j.mask.toNat
        index := (maskBlocks j.mask.toNat).findIdx fun k => k == b % 16 }

/-- The rows an operator computes for a unit on a block. -/
def UnitPlace.rows (u : UnitPlace) (op : Nat) : Rows := opRows u.image u.span u.count u.index op

/-- Some sink of the unit has rows on the block (R210, R215). -/
def UnitPlace.hasRows (u : UnitPlace) : Bool :=
  (List.range (imgHeader u.image).opCount).any fun i => isSink u.image i && (u.rows i).2 != 0

/-- The operators of a segment. -/
def segmentOps (l : List Byte) (g : Nat) : List Nat := indices (imgHeader l).opCount fun i => (imgOp l i).segment == g

/-- The segments of an image, in order. -/
def segments (l : List Byte) : List Nat := ((imgOps l).map fun o => o.segment).uniq

/-- The blocks of an owner's set for a unit: those it was created with. -/
def State.unitBlocks (s : State) (o : Owner) (id : BitVec 32 × Nat) : List Nat :=
  match o with
  | .pipeline p => (((s.pipe p).job id.1).map fun j => setBlocks (s.pipe p).setRegion j.mask.toNat).getD []
  | .job k => ((s.jobOf k).map fun j => setBlocks j.region j.mask.toNat).getD []

/-- A unit is the one a thread runs. -/
def UnitRun.id (u : UnitRun) : BitVec 32 × Nat := (u.frame, u.stripe)

end Sys2Proof.Machine
end

