-- ==== Sys2Proof/Machine/Units.lean ====
section
/-!
DEFINITION. The units of a thread (R154, R203, R212): which unit it takes next, what cancels one, when a stripe is complete
and becomes final, with which code (R209 to R215), and what a frame job's record takes from it (R242).
-/

namespace Sys2Proof.Machine

open Sys2Proof

/-! ## Status recorded against a job -/

/-- A class-0x03 status is recorded: the first one stays, the count saturates (Table 09-11). -/
def FrameJob.record (j : FrameJob) (c : BitVec 16) : FrameJob :=
  { j with jobStatus := if j.jobStatus = 0 then c else j.jobStatus, statusEvents := sat16 j.statusEvents }

/-- The same for a standalone job. -/
def Job.record (j : Job) (c : BitVec 16) : Job :=
  { j with firstStatus := if j.firstStatus = 0 then c else j.firstStatus, statusEvents := sat16 j.statusEvents }

/-- Change a standalone job. -/
def State.updJob (s : State) (k : BitVec 32) (f : Job → Job) : State :=
  { s with jobs := s.jobs.map fun j => if j.id == k then f j else j }

/-- Record a status against the frame job or standalone job of a unit. -/
def State.recordStatus (s : State) (o : Owner) (f : BitVec 32) (c : BitVec 16) : State :=
  match o with
  | .pipeline p => s.updPipe p fun x => x.updFrame f fun j => j.record c
  | .job k => s.updJob k fun j => j.record c

/-- A stripe of a frame job. -/
def FrameJob.stripe (j : FrameJob) (i : Nat) : Option Stripe := j.stripes[i]?

/-- Change a stripe of a frame job. -/
def State.updStripe (s : State) (q : Nat) (f : BitVec 32) (i : Nat) (g : Stripe → Stripe) : State :=
  s.updPipe q fun x => x.updFrame f fun j => { j with stripes := j.stripes.modify i g }

/-- A unit consumes poison (R111, R210, Table 11-3): its stripe becomes FALLBACK_POISON at its deadline, POISON_CONSUMED being
recorded once a stripe; a standalone job ends with it. -/
def State.consumePoison (s : State) (o : Owner) (id : BitVec 32 × Nat) (c : BitVec 16) : State :=
  match o with
  | .pipeline p =>
    match ((s.pipe p).job id.1).bind fun j => j.stripe id.2 with
    | some st =>
      let s := if st.poisoned && c == Code.poisonConsumed then s else s.recordStatus o id.1 c
      s.updStripe p id.1 id.2 fun st => { st with poisoned := true }
    | none => s.recordStatus o id.1 c
  | .job k => (s.updJob k fun j => { j with endStatus := some (j.endStatus.getD c) }).recordStatus o id.1 c

/-! ## Which unit comes next -/

/-- Unit `a` is unit `b` or a later one of its pipeline (R8, R154). -/
def unitAtOrAfter (a b : BitVec 32 × Nat) : Bool := frameLater a.1 b.1 || (a.1 == b.1 && decide (b.2 ≤ a.2))

/-- A unit may still run: its stripe is neither final nor cancelled, or its job runs. -/
def State.unitLive (s : State) (o : Owner) (id : BitVec 32 × Nat) : Bool :=
  match o with
  | .pipeline p => (((s.pipe p).job id.1).bind fun j => j.stripe id.2).any fun st => st.final.isNone && !st.cancelled
  | .job k => (s.jobOf k).any fun j => j.state == .running && j.endStatus.isNone

/-- The units of an owner in order: stripes of its frame jobs, or the whole of its job. -/
def State.unitsOf (s : State) (o : Owner) : List (BitVec 32 × Nat) :=
  match o with
  | .pipeline p => ((s.pipe p).frames.filter fun j => !j.delivered && !j.idle).flatMap fun j =>
      (List.range j.stripes.length).map fun i => (j.frame, i)
  | .job k => [(k, 0)]

/-- The next unit of a thread: the first of its owner's, from where it stands, that may run and has rows on its block. -/
def State.nextUnit (s : State) (b : Nat) (t : Thread) : Option (BitVec 32 × Nat) :=
  (s.unitsOf t.owner).find? fun id =>
    unitAtOrAfter id t.next && s.unitLive t.owner id && (s.unitPlace b t.owner id).any UnitPlace.hasRows

/-- The units of an owner that are next to enter a ring, as far as they run no more or have no rows on the block. -/
def State.passing (s : State) (b : Nat) (t : Thread) (r : Ring) : List (BitVec 32 × Nat) :=
  let us := s.unitsOf t.owner
  let rest := match r.fed with
    | some u => if us.contains u then (us.dropWhile fun v => v != u).drop 1 else us
    | none => us.filter fun id => unitAtOrAfter id t.next
  rest.takeWhile fun id => !(s.unitLive t.owner id && (s.unitPlace b t.owner id).any UnitPlace.hasRows)

/-- Such units pass the SLUICE_IN rings of a thread: their slots, which a channel fills all the same, are released (R212, R272). -/
def State.passUnits (s : State) (b : Nat) (o : Owner) : State :=
  match (s.block b).threadOf o with
  | some t => s.updBlock b fun x => x.updRings o fun r =>
      if r.isSluiceIn then (s.passing b t r).foldl (fun r id =>
        match s.unitPlace b o id with
        | some u => match imgRingOf u.image r.image with
          | some x => r.pass id (ringUnitRows u.image x u.span u.count u.index) s.time
          | none => r
        | none => r) r
      else r
  | none => s

/-- No operator of segment `g` has rows on the block. -/
def UnitPlace.idleIn (u : UnitPlace) (g : Nat) : Bool := (segmentOps u.image g).all fun i => (u.rows i).2 == 0

/-- The rings of a segment that operators fill or a channel fills open for a unit. -/
def UnitPlace.openRings (u : UnitPlace) (g : Nat) (id : BitVec 32 × Nat) (r : Ring) : Ring :=
  match imgRingOf u.image r.image with
  | some x => if x.kind != 1 && (imgOp u.image x.anOp).segment == g then
      r.open_ id (ringUnitRows u.image x u.span u.count u.index) else r
  | none => r

/-- A thread starts segment `g` of a unit. -/
def State.enterSegment (s : State) (b : Nat) (o : Owner) (u : UnitPlace) (id : BitVec 32 × Nat) (g : Nat) : State :=
  (s.passUnits b o).updBlock b fun x => (x.updRings o (u.openRings g id)).updThread o fun t =>
    { t with unit := some { frame := id.1, stripe := id.2, segment := g, started := [], ended := [], groups := []
                            staged := [], checks := [], segmentDone := u.idleIn g, since := s.time } }

/-- A thread without a unit takes its next one (R154). -/
def State.takeUnit (s : State) (b : Nat) (o : Owner) : State :=
  match (s.block b).threadOf o with
  | some t =>
    if t.unit.isSome then s else
      match s.nextUnit b t with
      | some id => match s.unitPlace b o id with
        | some u => s.enterSegment b o u id ((segments u.image).headD 0)
        | none => s
      | none => s
  | none => s

/-! ## Leaving a unit -/

/-- The block owes a check replay for an owner's step: what that step read is held (R372). -/
def Block.holdsFor (x : Block) (o : Owner) : Bool := x.owed.any fun w => w.run.owner == o

/-- A thread leaves a unit: it goes on to the next, and its accumulator elements carry no meaning any more (R130). -/
def Block.leave (x : Block) (o : Owner) (id : BitVec 32 × Nat) : Block :=
  let mine := (x.threadOf o).any fun t => t.unit.any fun u => u.id == id
  if mine then
    { (x.updThread o fun t => { t with unit := none, next := (id.1, id.2 + 1), cuts := [] }) with
        acc := x.acc.filter fun e => e.1.1 != o, accPoison := x.accPoison.filter fun e => e.1 != o }
  else x

/-- A unit leaves the rings of its thread; while a replay is owed for the thread its slots stay (R372). -/
def Block.closeUnit (x : Block) (o : Owner) (id : BitVec 32 × Nat) (t : Time) : Block :=
  if x.holdsFor o then x else x.updRings o fun r => r.close_ id t

/-- Units of an owner that can run no more leave its rings, once no replay is owed for it. -/
def State.closeStale (s : State) (b : Nat) (o : Owner) : State :=
  match (s.block b).threadOf o with
  | some t =>
    let gone := fun (id : BitVec 32 × Nat) =>
      !(t.unit.any fun u => u.id == id) && (!s.unitLive o id || !unitAtOrAfter id t.next)
    if (s.block b).holdsFor o then s
    else s.updBlock b fun x => x.updRings o fun r =>
      (r.units.filter fun u => gone u.unit).foldl (fun r u => r.close_ u.unit s.time) r
  | none => s

/-- A unit is cancelled on every block of its set (R212). -/
def State.cancelUnit (s : State) (q : Fin 24) (f : BitVec 32) (i : Nat) : State :=
  let bs := s.unitBlocks (.pipeline q) (f, i)
  let s := s.updStripe q f i fun st => { st with cancelled := true }
  forEach bs (fun b s => (s.passUnits b (.pipeline q)).updBlock b fun x =>
    (x.leave (.pipeline q) (f, i)).closeUnit (.pipeline q) (f, i) s.time) s

/-! ## Finality (R209 to R215) -/

/-- The block at position `k` of a frame job's set has rows of a final sink in a stripe. -/
def State.finalRowsAt (s : State) (q : Fin 24) (id : BitVec 32 × Nat) (b : Nat) : Bool :=
  (s.unitPlace b (.pipeline q) id).any fun u =>
    (List.range (imgHeader u.image).opCount).any fun i => isFinal u.image i && (u.rows i).2 != 0

/-- A stripe is complete (R209): every block of the set that has rows of a final sink has finished the unit. -/
def State.stripeComplete (s : State) (q : Fin 24) (j : FrameJob) (i : Nat) : Bool :=
  !j.idle && ((j.stripe i).any fun st => (setBlocks (s.pipe q).setRegion j.mask.toNat).all fun b =>
    st.doneBlocks.getLsbD (b % 16) || !s.finalRowsAt q (j.frame, i) b)

/-- A fenced block of the set has rows of the unit (R210, R215). -/
def State.stripeFenced (s : State) (q : Fin 24) (j : FrameJob) (i : Nat) : Bool :=
  (j.idle && j.mask == 0) || ((j.stripe i).any fun st => st.fenced) || (setBlocks (s.pipe q).setRegion j.mask.toNat).any fun b =>
    (s.block b).fenced && (s.unitPlace b (.pipeline q) (j.frame, i)).any UnitPlace.hasRows

/-- The code a stripe has if it becomes final now (Table 08-1). -/
def State.codeNow (s : State) (q : Fin 24) (j : FrameJob) (i : Nat) : Provenance :=
  match j.stripe i with
  | some st => if s.stripeFenced q j i then .fenced else if st.poisoned then .poison
      else if !s.stripeComplete q j i || st.evicted || st.declined then .late else .neural
  | none => .late

/-- The code with which a stripe becomes final by substitution: one that has become complete after D(s) is late. -/
def State.substituteCode (s : State) (q : Fin 24) (j : FrameJob) (i : Nat) : Provenance :=
  if s.codeNow q j i = .neural then .late else s.codeNow q j i

/-- Codes of Table 08-1. -/
def provCode : Provenance → Nat
  | .neural => 0
  | .late => 1
  | .poison => 2
  | .fenced => 3

/-- The status of a FALLBACK code (R213). -/
def provStatus : Provenance → BitVec 16
  | .neural => Code.ok
  | .late => Code.deadlineMissed
  | .poison => Code.poisonConsumed
  | .fenced => Code.blockFenced

/-- Count in STRIPE_COUNTERS (Table 08-9). -/
def State.countStripe (s : State) (q w : Nat) : State :=
  s.updPipe q fun x => { x with stripeCounters := x.stripeCounters.bump w }

/-- The record of R213. -/
def stripeFault (q : Fin 24) (f : BitVec 32) (i : Nat) (c : Provenance) : FaultInfo :=
  { cls := Cls.ucc, detector := Det.stripeFallback, outcome := Outc.contained, site := .chip Chip.output q
    served := .pipe q, pipeline := some q.val, frame := some f, stripe := some i, status := provStatus c
    address := some (provCode c) }

/-- A stripe becomes final (R209, R213): its code and PADDED are counted, a FALLBACK code's status is recorded (poison was when
it was consumed), a safety-relevant pipeline's makes a record. A NEURAL stripe has no use for its fallback slot (log 27). -/
def State.makeFinal (s : State) (q : Fin 24) (f : BitVec 32) (i : Nat) (c : Provenance) : State :=
  match ((s.pipe q).job f).bind fun j => (j.stripe i).map fun st => (j, st) with
  | some (j, st) =>
    let s := s.updStripe q f i fun st => { st with final := some c, waiting := false
                                                   fbSlot := if c = .neural then none else st.fbSlot }
    let s := s.countStripe q (provCode c)
    let s := if st.padded then s.countStripe q 4 else s
    let s := if c = .neural ∨ c = .poison then s else s.recordStatus (.pipeline q) f (provStatus c)
    if c ≠ .neural ∧ j.settings.safety = true then s.fault (stripeFault q f i c) else s
  | none => s

/-- A stripe that is complete in time and qualifies for NEURAL becomes final at once (R209). -/
def State.finalIfComplete (s : State) (q : Fin 24) (f : BitVec 32) (i : Nat) : State :=
  match ((s.pipe q).job f).bind fun j => (j.stripe i).map fun st => (j, st) with
  | some (j, st) =>
    if st.final = none ∧ st.cancelled = false ∧ s.now ≤ st.deadline ∧ s.stripeComplete q j i = true
        ∧ s.codeNow q j i = .neural then s.makeFinal q f i .neural else s
  | none => s

/-- Every fallback row of a stripe is final (R211). -/
def FrameJob.fallbackReady (j : FrameJob) (i : Nat) : Bool :=
  decide (min ((i + 1) * j.settings.stripeH) j.port.height ≤ j.fbRow)

/-- STRIPE_DEADLINE (R209, R211, R212): a stripe that is not final at D(s) is cancelled and substituted, once its last fallback
row is final. -/
def State.stripeDue (s : State) (q : Fin 24) (f : BitVec 32) (i : Nat) : State :=
  match ((s.pipe q).job f).bind fun j => (j.stripe i).map fun st => (j, st) with
  | some (j, st) =>
    if st.final ≠ none ∨ st.waiting = true ∨ s.now < st.deadline then s
    else
      let c := s.substituteCode q j i
      let s := if st.cancelled then s else s.cancelUnit q f i
      if j.fallbackReady i then s.makeFinal q f i c
      else (s.updStripe q f i fun st => { st with waiting := true }).countStripe q 6
  | none => s

def execStripeDeadline (t : Time) (q : Fin 24) (f : BitVec 32) (i : Nat) (s : State) : Result :=
  whenReady t (fun s => s.stripeDue q f i) s

/-- The last fallback row of a stripe that waits for it is final (R211): its code is judged now (R210, R215). -/
def State.fallbackFinal (s : State) (q : Fin 24) (f : BitVec 32) (i : Nat) : State :=
  match ((s.pipe q).job f).bind fun j => (j.stripe i).map fun st => (j, st) with
  | some (j, st) => if st.waiting && j.fallbackReady i then s.makeFinal q f i (s.substituteCode q j i) else s
  | none => s

/-! ## The end of a unit on a block -/

/-- A thread has finished its unit on a block. -/
def State.finishUnit (s : State) (b : Nat) (o : Owner) (id : BitVec 32 × Nat) : State :=
  let s := s.updBlock b fun x => (x.leave o id).closeUnit o id s.time
  match o with
  | .pipeline q =>
    (s.updStripe q id.1 id.2 fun st => { st with doneBlocks := st.doneBlocks ||| BitVec.ofNat 16 (2 ^ (b % 16)) }).finalIfComplete
      q id.1 id.2
  | .job _ => s

/-- A thread's segment is finished on its block: so is the unit when no later segment has rows there. -/
def State.segmentDone (s : State) (b : Nat) (o : Owner) : State :=
  match ((s.block b).threadOf o).bind fun t => t.unit with
  | some u => match s.unitPlace b o u.id with
    | some p =>
      if (segments p.image).all fun g => decide (g ≤ u.segment) || p.idleIn g then s.finishUnit b o u.id
      else s.updBlock b fun x => x.updThread o fun t => { t with unit := t.unit.map fun u => { u with segmentDone := true } }
    | none => s
  | none => s

/-- A block has finished segment `g` of a unit, or has nothing to do in it (R154). -/
def State.segmentOver (s : State) (b : Nat) (o : Owner) (id : BitVec 32 × Nat) (g : Nat) : Bool :=
  match s.unitPlace b o id with
  | some p => p.idleIn g || match (s.block b).threadOf o with
    | some t => match t.unit with
      | some u => (u.id == id && (decide (g < u.segment) || (g == u.segment && u.segmentDone))) || !unitAtOrAfter id t.next
      | none => !unitAtOrAfter id t.next
    | none => false
  | none => true

/-- SEGMENT_START (R154): the thread goes on to the next segment once every block of its set has finished the current one; a
thread without a unit takes its next one. -/
def State.segmentStart (s : State) (b : Nat) (o : Owner) : State :=
  let s := s.takeUnit b o
  match ((s.block b).threadOf o).bind fun t => t.unit with
  | some u => match s.unitPlace b o u.id with
    | some p =>
      let allDone := (s.unitBlocks o u.id).all fun c => s.segmentOver c o u.id u.segment
      match (segments p.image).find? fun g => decide (u.segment < g) with
      | some g => if u.segmentDone && allDone then
          let s := s.enterSegment b o p u.id g
          if p.idleIn g then s.segmentDone b o else s
        else s
      | none => s
    | none => s
  | none => s

def execSegmentStart (t : Time) (b : Fin 64) (o : Owner) (s : State) : Result :=
  whenReady t (fun s => s.onlyIf (!(s.block b).fenced) fun s => s.segmentStart b o) s

end Sys2Proof.Machine
end

