-- ==== Sys2Proof/Machine/SluiceOps.lean ====
section
/-!
DEFINITION. The halt of a sluice channel (R254, R268), which commands of every chapter cause, and the ring context of its
program (R253).
-/

namespace Sys2Proof.Machine

open Sys2Proof

/-- The six CHANNEL_STATUS words (Table 10-15). -/
def Channel.statusBytes (c : Channel) : List Byte := leBytes 48 c.statusWords

/-- Count in SLUICE_COUNTERS of a channel's region (Table 10-17). -/
def State.countSluice (s : State) (c w n : Nat) : State :=
  s.updRegion (c / 256) fun x => { x with sluice := x.sluice.add w n }

/-- The class of an access at the region's arbiter, as a word of SLUICE_COUNTERS (R275): READ, WRITE or REMOTE. -/
def grantClass (addrs : List Nat) (toDevice : Bool) : Nat :=
  if addrs.any fun a => decide (2 ^ 35 ≤ a) then 2 else if toDevice then 1 else 0

/-- A block accepts lines: it is on, not fenced and not in reset (R138, R376, R408). -/
def State.takesLines (s : State) (b : Nat) : Bool := !(s.block b).fenced && !(s.block b).resetting && (s.domain b).isOn

/-- OWNER_KIND and OWNER as an owner (Table 10-2). -/
def ownerOf (kind : BitVec 8) (o : BitVec 32) : Option Owner :=
  if kind = 1 then some (.pipeline (Fin.ofNat 24 o.toNat)) else if kind = 2 then some (.job o) else none

/-- The channel's owner, and the owner of its ring context (R253): RING_KIND 0 takes the owner. -/
def Channel.owned (c : Channel) : Option Owner := ownerOf c.ownerKind c.owner
def Channel.context (c : Channel) : Option Owner :=
  if c.ringKind = 0 then c.owned else ownerOf c.ringKind c.ringOwner

/-- The statuses that count in HALTS wherever a halt takes them: class 0x02, and NOT_PERMITTED (R268). -/
def haltCounts (status : BitVec 16) : Bool := status.toNat / 256 == 2 || status == Code.notPermitted

/-- A channel goes to HALTED (R254): it issues no new granule; SLUICE_START's completion event carries the six CHANNEL_STATUS
words, with the command's MSI-X vector (Table 10-2). A halt under R268 counts in HALTS. -/
def State.haltChannel (s : State) (c : Nat) (status : BitVec 16) : State :=
  let x := s.channel c
  if x.state = .idle ∨ x.state = .halted then s else
    let done := x.moves.map fun m => { m with issued := true, ended := true }
    let y := { x with state := .halted, status := status, waitKind := 0xFF, waitArg := 0, ticket := none, resume := none
                      faultDue := false, moves := done }
    let s := ((s.setChannel c y).countSluice c 7 (if haltCounts status then 1 else 0)).completeOpt x.ticket status y.statusBytes
    if x.vector.toNat < 2048 then s.interrupt (x.vector.setWidth 11) else s

/-- A channel halts on an error (R268): HALTS counts it, and an owning job ends with the same status. -/
def State.haltError (s : State) (c : Nat) (status : BitVec 16) : State :=
  let x := s.channel c
  if x.state = .idle ∨ x.state = .halted then s else
    let s := (s.haltChannel c status).countSluice c 7 (if haltCounts status then 0 else 1)
    match x.owned with
    | some (.job k) => s.updJob k fun j => { j with endStatus := some (j.endStatus.getD status) }
    | _ => s

/-- Halt every channel that meets a test. -/
def State.haltWhere (s : State) (p : Nat → Channel → Bool) (status : BitVec 16) : State :=
  forEach (indices 1024 fun c => p c (s.channel c)) (fun c s => s.haltChannel c status) s

/-- The thread of a channel's ring context on a block. -/
def State.contextThread (s : State) (c b : Nat) : Option Thread := (s.channel c).context.bind (s.block b).threadOf

end Sys2Proof.Machine
end

