-- ==== Sys2Proof/Machine/Fence.lean ====
section
/-!
DEFINITION. Fencing and reset of a block (R122, R215, R375 to R378, R385), and what a fencing leaves to re-mapping.
-/

namespace Sys2Proof.Machine

open Sys2Proof

/-! ## Busy time (R378, R400) -/

/-- Start of the tick period in progress. -/
def State.tickStart (s : State) : Nat :=
  if s.now < s.base.phase then 0 else s.base.tickTime (s.base.tickNumber s.now)

/-- The busy key of an owner: its pipeline, or 24 for standalone jobs. -/
def busyKey : Owner → Nat
  | .pipeline p => p
  | .job _ => 24

/-- Add to a busy table. -/
def addBusy (t : Tab Nat) (k n : Nat) : Tab Nat := Tab.set (fun _ => 0) t k (Tab.get (fun _ => 0) t k + n)

/-- A step's time counts as busy, as far as it lies in the tick period in progress. -/
def State.noteBusy (s : State) (b : Nat) (w : Running) : State :=
  s.updBlock b fun x => { x with busy := addBusy x.busy (busyKey w.owner) (s.now - max w.start.toNat s.tickStart) }

/-- A block's busy times of the tick period in progress, the running step's up to now among them. -/
def State.busyNow (s : State) (b : Nat) : Tab Nat :=
  let x := s.block b
  match x.running with
  | some w => addBusy x.busy (busyKey w.owner) (s.now - max w.start.toNat s.tickStart)
  | none => x.busy

/-- A block's busy table over its last complete tick periods, or over the period in progress when there is none (R378). -/
def State.busyTable (s : State) (b : Nat) : Tab Nat :=
  let x := s.block b
  if x.busyPast.isEmpty then Tab.set (fun _ => 0) (s.busyNow b) 25 (s.now - s.tickStart)
  else x.busyPast.foldl (fun acc t => t.foldl (fun acc e => addBusy acc e.1 e.2) acc) []

/-! ## How far a step has come (R116, R401) -/

/-- A step has had its cycles: a cycle takes divider / 8 ns. -/
def Running.isOver (w : Running) (now : Nat) : Bool := decide (w.since + (w.cycles - w.done) * w.divider ≤ 8 * now)

/-- A multiplier step goes on under another divider with the same cycle count; a cycle in progress is not split, and ends as it began
(R401). -/
def Running.reclock (w : Running) (now : Nat) (d : Nat) : Running :=
  if w.kappa = 0 then w else
    let n := (8 * now - w.since + w.divider - 1) / max 1 w.divider
    { w with done := w.done + n, since := w.since + n * w.divider, divider := d }

/-- The running steps of a region go on under the divider now in force (R401). -/
def State.reclock (s : State) (r : Nat) : State :=
  forEach ((List.range 16).map (16 * r + ·)) (fun b s =>
    s.updBlock b fun x => { x with running := x.running.map fun w => w.reclock s.now (dividerOf (s.aclkCode r)) }) s

/-! ## What a fencing leaves to re-mapping -/

/-- The unfenced blocks of a pipeline's set, block `b` included. -/
def State.liveSet (s : State) (q b : Nat) : Nat :=
  (indices 16 fun i => (s.pipe q).blocks.getLsbD i
    && (16 * (s.pipe q).setRegion + i == b || !(s.block (16 * (s.pipe q).setRegion + i)).fenced)).length

/-- The streaming pipelines whose set holds a block. -/
def State.holders (s : State) (b : Nat) : List Nat :=
  indices 24 fun q => (s.pipe q).carrying && (s.pipe q).setRegion == b / 16 && (s.pipe q).blocks.getLsbD (b % 16)

/-- A block is to be removed from the sets that hold it (R377): what R378 measures is taken now. -/
def State.remapFor (s : State) (b : Nat) : State :=
  let d : RemapDue :=
    { block := b, time := s.time, limit := bits 7 0 s.faults.remapConfig
      busy := (List.range 16).map fun i => s.busyTable (16 * (b / 16) + i)
      sizes := (s.holders b).map fun q => (q, s.liveSet q b) }
  s.updRegion (b / 16) fun x => { x with remapDue := x.remapDue ++ [d] }

/-! ## Reset (R122, R376) -/

/-- A block reset begins: every thread goes with its rings, working range and accumulator allocation, every residency too; the
scratchpad is zero and free of poison; accumulators, carry store and event flags are clear. Its detectors are under
suppression until it ends (R385). -/
def State.resetBlock (s : State) (b : Nat) : State :=
  let s := { s with spad := s.spad.clear (spadAddr b 0) (spadAddr (b + 1) 0)
                    spadPoison := dropRange s.spadPoison (spadLines * b) (spadLines * (b + 1)) }
  let s := s.updBlock b fun x =>
    { x with threads := [], residents := [], rings := [], acc := [], accPoison := [], carry := [], events := 0
             resetting := true, running := none, lookahead := [], owed := none }
  s.suppress (.block (Fin.ofNat 64 b))

/-- BLOCK_RESET_COMPLETE (R376). -/
def execBlockResetComplete (t : Time) (b : Fin 64) (s : State) : Result :=
  whenReady t (fun s => s.onlyIf (s.block b).resetting fun s =>
    (s.updBlock b fun x => { x with resetting := false }).suppressTail (.block b)) s

/-! ## Fencing (R375) -/

/-- A standalone job has a thread on a block, or is held and names it. -/
def Job.onBlock (j : Job) (b : Nat) : Bool := j.region == b / 16 && j.mask.getLsbD (b % 16)

/-- The block is taken out of service: its channels halt, its running step is discarded, the standalone jobs that use it end,
and it is reset. -/
def State.fenceBlock (s : State) (b : Nat) : State :=
  if (s.block b).fenced then s else
    let s := s.updBlock b fun x => { x with fenced := true }
    let s := { s with faults := { s.faults with counters := s.faults.counters.bump 7 } }
    let s := s.haltWhere (fun c _ => c / 16 == b) Code.blockFenced
    let cut := fun (j : Job) =>
      if j.onBlock b then { j with endStatus := some (j.endStatus.getD Code.blockFenced) } else j
    let s := { s with jobs := s.jobs.map cut }
    s.resetBlock b

/-! ## Check replays of a region (R371) -/

/-- A block may run a referee's step. -/
def Block.mayReferee (x : Block) : Bool := !x.fenced && !x.resetting && !x.testing

/-- The referee of a block: the next of the region in ascending position, wrapping, that may run. -/
def State.refereeOf (s : State) (b : Nat) : Option Nat :=
  ((List.range 15).map fun i => 16 * (b / 16) + (b % 16 + 1 + i) % 16).find? fun r => (s.block r).mayReferee

/-- The lowest cell of a mask. -/
def lowestCell (m : BitVec 16) : Option Nat := (indices 16 m.getLsbD).head?

/-- The record of a check mismatch's outcome (R371, R382, R390, R391). -/
def checkFault (b : Nat) (w : OwedReplay) (cls out : BitVec 8) (referee : Option Nat) (cap : Option (BitVec 32)) : FaultInfo :=
  let r := unitReader w.run.owner w.run.unit
  { cls := cls, detector := Det.residueCheck, outcome := out
    site := (lowestCell w.cells).elim (.block b) fun c => .cell b c
    served := .block b, suppressed := some (.block (Fin.ofNat 64 b)), location := b, region := some (b / 16), block := some b
    blockBits := indices 16 w.cells.getLsbD ++ (if w.tree then [BlockBit.treeResidue] else [])
    cell := lowestCell w.cells, pipeline := r.pipeline, frame := r.frame, stripe := r.stripe, status := Code.checkMismatch
    address2 := referee, operandDigest := some w.run.digest, captureId := cap, found := some w.found }

/-- The capture of a mismatch's step while the store holds it (R391). -/
def State.captureOf (s : State) (w : OwedReplay) : Option (BitVec 32) :=
  if s.faults.captures.any fun c => c.id == w.capture then some w.capture else none

/-- A persistent outcome (R371, step 5): a UCF record, the block is fenced, and re-mapping is due. Under suppression it makes a FENCE
record and fences nothing (R385); the step's sums are discarded all the same (log 76). -/
def State.persist (s : State) (f : FaultInfo) (b : Nat) : State :=
  if s.classOf f = Cls.fence then (s.fault f).updBlock b fun x => { x with owed := none }
  else ((s.fault f).remapFor b).fenceBlock b

/-- Check replays of a region whose block has lost its last referee have the outcome NOT_REPLAYED (R371, step 3). The fuel
is the number of blocks. -/
def State.orphans (s : State) (r : Nat) : Nat → State
  | 0 => s
  | n + 1 =>
    let lost := (List.range 16).find? fun i =>
      (s.block (16 * r + i)).owed.any (fun w => w.referee) && (s.refereeOf (16 * r + i)).isNone
    match lost with
    | some i =>
      let b := 16 * r + i
      match (s.block b).owed with
      | some w => (s.persist (checkFault b w Cls.ucf Outc.notReplayed none (s.captureOf w)) b).orphans r n
      | none => s
    | none => s

/-- A block is fenced for a persistent fault, with its record. -/
def State.fenceFault (s : State) (f : FaultInfo) (b : Nat) : State :=
  if (s.block b).fenced then s.fault f else (s.persist f b).orphans (b / 16) 16

end Sys2Proof.Machine
end

