-- ==== Sys2Proof/Machine/Fetch.lean ====
section
/-!
DEFINITION. Where the operands of a step lie and what they are (R84, R85, R93, R144, R145, R152, R157, R175, R176, R470): homes,
staged buffers, the lines a step reads, and its exact integer sums for every operator kind (R94, R183 to R193).
-/

namespace Sys2Proof.Machine

open Sys2Proof

/-! ## A unit in progress -/

/-- Where a run of bytes lies: an offset in the block's scratchpad or its region's pool, or a device virtual address. -/
inductive Place where
  | spad (a : Nat)
  | pool (a : Nat)
  | va (a : Nat)
  deriving DecidableEq, Repr

/-- Further on in the same memory. -/
def Place.add : Place → Nat → Place
  | .spad a, n => .spad (a + n)
  | .pool a, n => .pool (a + n)
  | .va a, n => .va (a + n)

/-- A unit in progress: block, owner, its thread, how far it is, and where it runs. -/
structure Ctx where
  b : Nat
  o : Owner
  thread : Thread
  run : UnitRun
  place : UnitPlace
  deriving DecidableEq, Repr

/-- The unit that an owner's thread runs on a block. -/
def State.ctx (s : State) (b : Nat) (o : Owner) : Option Ctx :=
  match (s.block b).threadOf o with
  | some t => match t.unit with
    | some u => (s.unitPlace b o u.id).map fun p => { b := b, o := o, thread := t, run := u, place := p }
    | none => none
  | none => none

/-- The image, an operator, its walk, and its steps started and ended. -/
def Ctx.image (c : Ctx) : List Byte := c.place.image
def Ctx.op (c : Ctx) (i : Nat) : ImgOp := imgOp c.image i
def Ctx.walk (c : Ctx) (i : Nat) : List Step := opSteps c.image i c.thread.cuts (c.place.rows i)
def Ctx.startedOf (c : Ctx) (i : Nat) : Nat := Tab.get (fun _ => 0) c.run.started i
def Ctx.endedOf (c : Ctx) (i : Nat) : Nat := Tab.get (fun _ => 0) c.run.ended i

/-- The tensor of an operand or of the output. -/
def Ctx.tensor (c : Ctx) (i : Nat) : StageSide → ImgTensor
  | .a => opA c.image (c.op i)
  | .b => opB c.image (c.op i)
  | .out => opOut c.image (c.op i)

/-! ## Homes -/

/-- The fold of a tensor's own data that serves fold `f` of an operator (R149); with N_PITCH 0 its shift entries too (DESIGN CHOICE,
log 105). -/
def foldIn (t : ImgTensor) (f : Nat) : Nat :=
  if t.isRing then (if t.n ≤ 1 then 0 else f) else if t.nPitch = 0 then 0 else f

/-- Where BASE and SHIFT_BASE of a tensor count from (Table 06-2). -/
def Ctx.homeBase (c : Ctx) (t : ImgTensor) : Option Place :=
  if t.isDram then some (.va 0) else if t.isPool then some (.pool 0)
  else if t.isResid then (imgResidOf c.image t.ref).map fun r => .spad (64 * r.line)
  else some (.spad (64 * c.thread.workBase))

/-- A ring's entry for the unit that a tensor's data belongs to. -/
def State.ringUnit (s : State) (c : Ctx) (t : ImgTensor) : Option (Ring × RingUnit) :=
  ((s.block c.b).ringNamed c.o t.ref).bind fun r => (r.unitOf c.run.id).map fun u => (r, u)

/-- Where row `y` of channel block `cb` of fold `f` lies at its home (R157, R173). -/
def State.homeRow (s : State) (c : Ctx) (t : ImgTensor) (f cb y : Nat) : Option Place :=
  if t.isRing then
    (s.ringUnit c t).bind fun x => (x.2.place (foldIn t f * t.h + y)).map fun k => .spad (x.1.rowOffset t x.2 k cb)
  else (c.homeBase t).map fun p => p.add (t.base + t.rowOffset (foldIn t f) cb y)

/-- Where the shift entry of a group lies at its home (R145, R157). -/
def State.homeEntry (s : State) (c : Ctx) (t : ImgTensor) (f cb y g : Nat) : Option Place :=
  if t.isRing then
    (s.ringUnit c t).bind fun x => (x.2.place (foldIn t f * t.h + y)).map fun k => .spad (x.1.entryOffset t x.2 k cb g)
  else (c.homeBase t).map fun p => p.add (t.shiftBase + t.shiftIndex (foldIn t f) cb y g)

/-- Where k position `k` of weight block `wb` lies at its home (R144). -/
def State.homeWeight (s : State) (c : Ctx) (t : ImgTensor) (kind f wb k : Nat) : Option Place :=
  (if t.isRing then s.homeRow c t f 0 0 else (c.homeBase t).map fun p => p.add (t.base + foldIn t f * t.nPitch)).map fun p =>
    p.add (wb * t.cbPitch + k * ImgTensor.posBytes kind)

/-! ## Staged buffers (R470) -/

/-- The granules of a staged tile: runs of folds, rows and granules of a row, and the channel blocks. -/
structure GBox where
  f : Nat × Nat
  r : Nat × Nat
  cb : List Nat
  g : Nat × Nat
  deriving DecidableEq, Repr

/-- A number lies in a run. -/
def inRun (p : Nat × Nat) (v : Nat) : Bool := decide (p.1 ≤ v) && decide (v < p.1 + p.2)

/-- The place of a granule in its buffer, in (fold, channel block, row, granule) order. -/
def GBox.index (x : GBox) (f cb y g : Nat) : Option Nat :=
  if inRun x.f f && x.cb.contains cb && inRun x.r y && inRun x.g g then
    some ((((f - x.f.1) * x.cb.length + x.cb.idxOf cb) * x.r.2 + (y - x.r.1)) * x.g.2 + (g - x.g.1))
  else none

/-- Every granule of a tile, in buffer order. -/
def GBox.granules (x : GBox) : List (Nat × Nat × Nat × Nat) :=
  (runOf x.f).flatMap fun f => x.cb.flatMap fun cb => (runOf x.r).flatMap fun y => (runOf x.g).map fun g => (f, cb, y, g)

/-- The extents of the level-`v` tile that starts at `origin`. -/
def boxOf (walk : List Step) (v : Nat) (origin : List Nat) : List (Nat × Nat) :=
  let ss := walk.filter fun s => s.parents[v - 1]? == some origin
  (List.range 6).map fun d =>
    (origin.getD d 0, ss.foldl (fun m s => max m (s.origin.getD d 0 + s.ext.getD d 0)) (origin.getD d 0) - origin.getD d 0)

/-- The folds of a tile's data: one where every fold of the operator reads the same (R149). -/
def foldRun (t : ImgTensor) (p : Nat × Nat) : Nat × Nat := if t.nPitch = 0 && !t.isRing then (0, min 1 p.2) else p

/-- The A granules that a tile's buffer holds (R470). -/
def aBox (l : List Byte) (o : ImgOp) (box : List (Nat × Nat)) : GBox :=
  let t := opA l o
  let p := fun d => box.getD d (0, 0)
  let per := 128 / t.cw
  let f := foldRun t (p 0)
  if o.isMatmul then { f := f, r := p 3, cb := [0], g := cellsOf 128 (p 2) }
  else if o.isS2D || o.isD2S then
    { f := f, r := (rearranged o [p 3]).headD (0, 0), cb := sourceBlocks o t.cw (p 1) (p 3) (p 4)
      g := cellsOf per ((rearranged o [p 4]).headD (0, 0)) }
  else
    let k := tapSpan o (p 5)
    { f := f
      r := (reached [evenRun o (p 3)] o.strideY o.dilY o.padTop k.1.1 k.1.2 t.h).headD (0, 0)
      cb := runOf (cellsOf t.cw (if o.isPooling then p 1 else p 2))
      g := cellsOf per ((reached [evenRun o (p 4)] o.strideX o.dilX o.padLeft k.2.1 k.2.2 t.w).headD (0, 0)) }

/-- The granules of a B activation that a tile's buffer holds. -/
def bBox (t : ImgTensor) (box : List (Nat × Nat)) : GBox :=
  { f := foldRun t (box.getD 0 (0, 0)), r := box.getD 1 (0, 0), cb := [0], g := cellsOf 128 (box.getD 2 (0, 0)) }

/-- The output granules of a tile. -/
def oBox (l : List Byte) (o : ImgOp) (box : List (Nat × Nat)) : GBox :=
  let t := opOut l o
  let p := fun d => box.getD d (0, 0)
  if t.isToken then { f := p 0, r := p 3, cb := [0], g := cellsOf 128 (p 1) }
  else { f := p 0, r := p 3, cb := runOf (cellsOf t.cw (p 1)), g := cellsOf (128 / t.cw) (p 4) }

/-- Granules of an operand's or the output's tile. -/
def Ctx.gbox (c : Ctx) (i : Nat) (side : StageSide) (box : List (Nat × Nat)) : GBox :=
  match side with
  | .a => aBox c.image (c.op i) box
  | .b => bBox (opB c.image (c.op i)) box
  | .out => oBox c.image (c.op i) box

/-- The fold by which a buffer names the data that serves fold `f`. -/
def Ctx.foldOf (c : Ctx) (i : Nat) (side : StageSide) (f : Nat) : Nat := if side == .out then f else foldIn (c.tensor i side) f

/-- The staged tile of an operator at a level. -/
def Ctx.stagedTile (c : Ctx) (i v : Nat) (side : StageSide) (origin : List Nat) : Option Staged :=
  c.run.staged.find? fun e => e.op == i && e.level == v && e.side == side && e.origin == origin

/-- Where a line of a buffer of level `v` lies (Table 06-9). -/
def Ctx.bufPlace (c : Ctx) (i v line : Nat) : Place :=
  if (imgLevel c.image (c.op i) v).mem = 1 then .spad (64 * (c.thread.workBase + line)) else .pool (64 * line)

/-- The nearest level from `v` outward at which an operand is staged; none where its home is next. -/
def Ctx.srcLevel (c : Ctx) (i : Nat) (side : StageSide) (v : Nat) : Option Nat :=
  ((List.range (c.op i).levels).drop v).find? fun w => stagedAt c.image (c.op i) w side

/-- Where a granule lies for a reader at level `v` whose tiles are `parents` (level 1 first). -/
def State.viewGranule (s : State) (c : Ctx) (i : Nat) (side : StageSide) (v : Nat) (parents : List (List Nat)) (f cb y g : Nat) :
    Option Place :=
  match c.srcLevel i side v with
  | some w =>
    let org := parents.getD (w - 1) []
    (c.stagedTile i w side org).bind fun e =>
      ((c.gbox i side (boxOf (c.walk i) w org)).index (c.foldOf i side f) cb y g).map fun k => c.bufPlace i w (e.line + k)
  | none => (s.homeRow c (c.tensor i side) f cb y).map fun p => p.add (64 * g)

/-- Weight lines of one 16-channel block in the buffer of a tile. -/
def weightLines (o : ImgOp) (box : List (Nat × Nat)) : Nat :=
  ((box.getD 2 (0, 0)).2 * (box.getD 5 (0, 0)).2 * ImgTensor.posBytes o.bKind + 63) / 64

/-- The place of a weight position in the buffer of a tile, in bytes (R470; the packing is DESIGN CHOICE, log 107). -/
def weightOffset (o : ImgOp) (t : ImgTensor) (box : List (Nat × Nat)) (f wb tap cin : Nat) : Nat :=
  let p := fun d => box.getD d (0, 0)
  let nb := (cellsOf 16 (p 1)).2
  let ord := (foldIn t f - foldIn t (p 0).1) * nb + (wb - (p 1).1 / 16)
  64 * ord * weightLines o box + ((tap - (p 5).1) * (p 2).2 + (cin - (p 2).1)) * ImgTensor.posBytes o.bKind

/-- The k position of input channel `cin` at tap `tap` (R144). -/
def Ctx.kPos (c : Ctx) (i tap cin : Nat) : Nat := tap * (opA c.image (c.op i)).kExtent + cin

/-- Where a weight position lies for a reader at level `v`. -/
def State.viewWeight (s : State) (c : Ctx) (i v : Nat) (parents : List (List Nat)) (f wb tap cin : Nat) : Option Place :=
  let o := c.op i
  let t := opB c.image o
  match c.srcLevel i .b v with
  | some w =>
    let org := parents.getD (w - 1) []
    (c.stagedTile i w .b org).map fun e =>
      (c.bufPlace i w e.line).add (weightOffset o t (boxOf (c.walk i) w org) f wb tap cin)
  | none => s.homeWeight c t o.bKind f wb (c.kPos i tap cin)

/-- A staged shift entry and its poison. -/
def Ctx.stagedEntry (c : Ctx) (i w : Nat) (side : StageSide) (parents : List (List Nat)) (f cb y g : Nat) : Byte × Bool :=
  match c.stagedTile i w side (parents.getD (w - 1) []) with
  | some e => ((e.shifts.find? fun x => x.1 == [c.foldOf i side f, cb, y, g]).map Prod.snd).getD (0, false)
  | none => (0, false)

/-! ## What a step reads -/

/-- The input pixel that tap `tap` of output pixel (y, x) reads; none for a border tap (R175). -/
def ImgOp.pixel (o : ImgOp) (t : ImgTensor) (y x tap : Nat) : Option (Nat × Nat) :=
  match inSize ((y * o.strideY + tap / max 1 o.kw * o.dilY : Nat) - (o.padTop : Int)) t.h,
        inSize ((x * o.strideX + tap % max 1 o.kw * o.dilX : Nat) - (o.padLeft : Int)) t.w with
  | some a, some b => some (a, b)
  | _, _ => none

/-- Pixel `x` of an axis of some size, or the nearest to it. -/
def nearestTap (x : Int) (n : Nat) : Nat := min x.toNat (n - 1)

/-- The row that tap `tap` of output row `y` reads, and the pixel at or nearest to the tap's for output pixel `x`; none where the row is
outside (R175). -/
def ImgOp.tapRow (o : ImgOp) (t : ImgTensor) (y x tap : Nat) : Option (Nat × Nat) :=
  (inSize ((y * o.strideY + tap / max 1 o.kw * o.dilY : Nat) - (o.padTop : Int)) t.h).map fun a =>
    (a, nearestTap ((x * o.strideX + tap % max 1 o.kw * o.dilX : Nat) - (o.padLeft : Int)) t.w)

/-- The input pixel at (ξ, η) of patch (py, px). -/
def ImgOp.patchPixel (o : ImgOp) (t : ImgTensor) (py px xi eta : Nat) : Option (Nat × Nat) :=
  match inSize ((2 * py + xi : Nat) - (o.padTop : Int)) t.h, inSize ((2 * px + eta : Nat) - (o.padLeft : Int)) t.w with
  | some a, some b => some (a, b)
  | _, _ => none

/-- (tap, input channel) of each k position of a multiplier step, channels innermost (R153). -/
def Step.ks (st : Step) : List (Nat × Nat) :=
  (List.range st.kCount).map fun j =>
    (st.origin.getD 5 0 + (st.kStart + j) / max 1 (st.ext.getD 2 1), st.origin.getD 2 0 + (st.kStart + j) % max 1 (st.ext.getD 2 1))

/-- Rows of A's tile: output rows or pixels, or (CONV_WINOGRAD) patches along x. -/
def Step.lanes (st : Step) (o : ImgOp) : List Nat := List.range (tileM o st.ext)

/-- (py, px) of patch `m` of a tile (R182). -/
def Step.patch (st : Step) (m : Nat) : Nat × Nat := (st.origin.getD 3 0 / 2, st.origin.getD 4 0 / 2 + m)

/-- Transform position of a CONV_WINOGRAD step, and whether it takes the high digit (R184, R187). -/
def Step.winoPos (st : Step) (o : ImgOp) : Nat × Bool :=
  if o.winoExact then (st.kStart / 2, st.kStart % 2 == 0) else (st.kStart, false)

/-- What a window-unit step reads for each element of its tile: element, channel, row, pixel (R188 to R193). -/
def windowReads (o : ImgOp) (t : ImgTensor) (st : Step) : List (Elem × Nat × Nat × Nat) :=
  if o.isPooling then
    (stepElems st).flatMap fun e => (runOf (st.origin.getD 5 0, st.ext.getD 5 0)).filterMap fun tap =>
      (o.pixel t e.y e.x tap).map fun p => (e, e.c, p.1, p.2)
  else (stepElems st).filterMap fun e => (o.source t.cw e.c e.y e.x).map fun p => (e, p)

/-- The (channel, row, pixel) that a step reads of A, one channel for each channel block; a token's channel is its feature and
its pixel 0 (R176). -/
def stepReads (o : ImgOp) (t : ImgTensor) (st : Step) : List (Nat × Nat × Nat) :=
  let r := fun d => runOf (st.origin.getD d 0, st.ext.getD d 0)
  if o.isMatmul then (r 3).flatMap fun y => st.ks.map fun k => (k.2, y, 0)
  else if o.isConv then
    ((st.ks.map Prod.fst).uniq).flatMap fun tap => (r 4).filterMap fun x =>
      (o.pixel t (st.origin.getD 3 0) x tap).map fun p => (st.origin.getD 2 0, p.1, p.2)
  else if o.isWino then
    (st.lanes o).flatMap fun m => (List.range 16).filterMap fun k =>
      (o.patchPixel t (st.patch m).1 (st.patch m).2 (k / 4) (k % 4)).map fun p => (st.origin.getD 2 0, p.1, p.2)
  else (windowReads o t st).map fun x => x.2

/-- Channel block and granule of an element of a row. -/
def granuleOf (t : ImgTensor) (ch x : Nat) : Nat × Nat :=
  if t.isToken then (0, ch / 128) else (ch / t.cw, x * t.cw / 128)

/-- The index of an element in its granule. -/
def inGranule (t : ImgTensor) (ch x : Nat) : Nat := if t.isToken then ch % 128 else (x * t.cw + ch % t.cw) % 128

/-- Group of an element along its row (R89); padding may lie beyond the last. -/
def groupAlong (t : ImgTensor) (ch x : Nat) : Nat := if t.isToken then ch / 131072 else x / t.groupSpan

/-- The (channel, row, pixel) whose SHIFT a step's border taps carry: rows that are in bounds where the pixels are not (R175, R183). -/
def borderReads (o : ImgOp) (t : ImgTensor) (st : Step) : List (Nat × Nat × Nat) :=
  let ch := st.origin.getD 2 0
  if o.isConv then
    ((st.ks.map Prod.fst).uniq).flatMap fun tap => (runOf (st.origin.getD 4 0, st.ext.getD 4 0)).filterMap fun x =>
      (o.tapRow t (st.origin.getD 3 0) x tap).map fun p => (ch, p)
  else if o.isWino then
    (st.lanes o).flatMap fun m => (List.range 4).filterMap fun xi =>
      (inSize ((2 * (st.patch m).1 + xi : Nat) - (o.padTop : Int)) t.h).map fun y =>
        (ch, y, nearestTap ((2 * (st.patch m).2 : Nat) - (o.padLeft : Int)) t.w)
  else []

/-- The A granules (channel block, row, granule) and scale groups (channel block, row, group) of a step. -/
def aRefs (o : ImgOp) (t : ImgTensor) (st : Step) : List (Nat × Nat × Nat) × List (Nat × Nat × Nat) :=
  let ps := stepReads o t st
  ((ps.map fun p => ((granuleOf t p.1 p.2.2).1, p.2.1, (granuleOf t p.1 p.2.2).2)).uniq,
   (((ps ++ borderReads o t st).map fun p => ((granuleOf t p.1 p.2.2).1, p.2.1, groupAlong t p.1 p.2.2)).filter fun g =>
      decide (g.2.2 < t.groups)).uniq)

/-- The output channels of a tile. -/
def Step.couts (st : Step) : List Nat := runOf (st.origin.getD 1 0, st.ext.getD 1 0)

/-- The weight positions of a step: (tap, input channel). -/
def Step.wks (st : Step) (o : ImgOp) : List (Nat × Nat) :=
  if o.isWino then (runOf (st.origin.getD 2 0, st.ext.getD 2 0)).map fun ch => ((st.winoPos o).1, ch) else st.ks

/-- The steps under a tile of level `v`. -/
def Ctx.stepsUnder (c : Ctx) (i v : Nat) (org : List Nat) : List Step := (c.walk i).filter fun st => st.parents[v - 1]? == some org

/-- The granules of a tile that its steps read: no other is staged (R176). -/
def Ctx.granulesRead (c : Ctx) (i v : Nat) (side : StageSide) (org : List Nat) : List (Nat × Nat × Nat × Nat) :=
  let box := (c.gbox i side (boxOf (c.walk i) v org)).granules
  if side == .a then
    let read := ((c.stepsUnder i v org).flatMap fun st =>
      (aRefs (c.op i) (c.tensor i .a) st).1.map fun g => (c.foldOf i .a (st.origin.getD 0 0), g)).uniq
    box.filter read.contains
  else box

/-- Groups (fold, channel block, row, group) that some granules lie in; granules of padding alone lie in none (R89). -/
def granuleGroups (t : ImgTensor) (gs : List (Nat × Nat × Nat × Nat)) : List (Nat × Nat × Nat × Nat) :=
  ((gs.map fun g => (g.1, g.2.1, g.2.2.1,
    if t.isToken then 128 * g.2.2.2 / 131072 else 128 * g.2.2.2 / t.cw / t.groupSpan)).filter fun g => decide (g.2.2.2 < t.groups)).uniq

/-- The groups whose shift entries a staged tile keeps: those of its granules, and, for A, those of rows that its steps reach with
border taps alone (R175, R183). -/
def Ctx.groupsKept (c : Ctx) (i v : Nat) (side : StageSide) (org : List Nat) : List (Nat × Nat × Nat × Nat) :=
  let t := c.tensor i side
  (granuleGroups t (c.granulesRead i v side org) ++ if side == .a then
    (c.stepsUnder i v org).flatMap fun st => (aRefs (c.op i) t st).2.map fun g => (c.foldOf i .a (st.origin.getD 0 0), g)
   else []).uniq

/-- The lines of the scratchpad that hold some places of `n` bytes. -/
def placeLines (ps : List (Option Place)) (n : Nat) : List Nat :=
  (ps.flatMap fun p => match p with
    | some (.spad a) => (List.range ((a + n - 1) / 64 - a / 64 + 1)).map (a / 64 + ·)
    | _ => []).uniq

/-- The lines of A operands, of B operands, and of shift entries that a step reads in place, and whether a staged entry of it is
poisoned. -/
structure StepLines where
  a : List Nat
  b : List Nat
  entries : List Nat
  entryBad : Bool
  deriving DecidableEq, Repr

/-- Entries of a step: in place by line, staged by their poison. -/
def State.entryLines (s : State) (c : Ctx) (i : Nat) (side : StageSide) (st : Step) (gs : List (Nat × Nat × Nat)) :
    List Nat × Bool :=
  let f := st.origin.getD 0 0
  match c.srcLevel i side 1 with
  | some w => ([], gs.any fun g => (c.stagedEntry i w side st.parents f g.1 g.2.1 g.2.2).2)
  | none => (placeLines (gs.map fun g => s.homeEntry c (c.tensor i side) f g.1 g.2.1 g.2.2) 1, false)

/-- The granules and scale groups of a B activation that a step reads. -/
def bRefs (t : ImgTensor) (st : Step) : List (Nat × Nat × Nat) × List (Nat × Nat × Nat) :=
  (st.couts.flatMap fun n => ((st.ks.map fun k => k.2 / 128).uniq).map fun g => (0, n, g),
   st.couts.flatMap fun n => (((st.ks.map fun k => groupAlong t k.2 0).filter fun g => decide (g < t.groups)).uniq).map fun g => (0, n, g))

/-- What a step reads. -/
def State.stepLines (s : State) (c : Ctx) (st : Step) : StepLines :=
  let i := st.op
  let o := c.op i
  let f := st.origin.getD 0 0
  let ar := aRefs o (c.tensor i .a) st
  let al := placeLines (ar.1.map fun g => s.viewGranule c i .a 1 st.parents f g.1 g.2.1 g.2.2) 64
  let ae := s.entryLines c i .a st ar.2
  if !o.hasB then { a := al, b := [], entries := ae.1, entryBad := ae.2 }
  else if o.bAct then
    let br := bRefs (c.tensor i .b) st
    let be := s.entryLines c i .b st br.2
    { a := al, b := placeLines (br.1.map fun g => s.viewGranule c i .b 1 st.parents f g.1 g.2.1 g.2.2) 64
      entries := ae.1 ++ be.1, entryBad := ae.2 || be.2 }
  else
    let wbs := (st.couts.map (· / 16)).uniq
    { a := al
      b := placeLines (wbs.flatMap fun wb => (st.wks o).map fun k => s.viewWeight c i 1 st.parents f wb k.1 k.2)
        (ImgTensor.posBytes o.bKind)
      entries := ae.1, entryBad := ae.2 }

/-! ## Operand values -/

/-- The byte at a place of block `b`'s scratchpad. -/
def State.peek (s : State) (b : Nat) (p : Option Place) (i : Nat) : Nat :=
  match p with
  | some (.spad a) => (s.spad.read (spadAddr b 0 + a + i)).toNat
  | _ => 0

/-- The activation code of an element. -/
def State.codeAt (s : State) (c : Ctx) (i : Nat) (side : StageSide) (st : Step) (ch y x : Nat) : Nat :=
  let t := c.tensor i side
  let g := granuleOf t ch x
  let k := inGranule t ch x
  let v := s.peek c.b (s.viewGranule c i side 1 st.parents (st.origin.getD 0 0) g.1 y g.2) (k / 2)
  if k % 2 = 0 then v % 16 else v / 16

/-- The SHIFT of an element's group (R93); padding beyond the last group has an open one (log 99). -/
def State.shiftAt (s : State) (c : Ctx) (i : Nat) (side : StageSide) (st : Step) (ch y x : Nat) : Int :=
  let t := c.tensor i side
  let cb := (granuleOf t ch x).1
  let g := groupAlong t ch x
  let f := st.origin.getD 0 0
  entryShift (if t.groups ≤ g then Config.paddingEntry else match c.srcLevel i side 1 with
    | some w => (c.stagedEntry i w side st.parents f cb y g).1
    | none => BitVec.ofNat 8 (s.peek c.b (s.homeEntry c t f cb y g) 0))

/-- The significand of an A element. -/
def State.aSig (s : State) (c : Ctx) (i : Nat) (st : Step) (ch y x : Nat) : Int :=
  actSig (c.op i).aWidth (c.op i).aZp (s.codeAt c i .a st ch y x)

/-- A row or column of operands: its exponent and its significands along k (R95). -/
abbrev Operand := Int × List Int

/-- Row `m` of A for MATMUL and CONV: every lane of a row inside the input carries the row's SHIFT, every lane of one outside exponent
−32 (R175). -/
def State.aRow (s : State) (c : Ctx) (st : Step) (m : Nat) : Operand :=
  let i := st.op
  let o := c.op i
  let t := c.tensor i .a
  if o.isMatmul then
    let y := st.origin.getD 3 0 + m
    (s.shiftAt c i .a st ((st.ks.map Prod.snd).headD 0) y 0, st.ks.map fun k => s.aSig c i st k.2 y 0)
  else
    let at_ := fun (tap : Nat) => o.pixel t (st.origin.getD 3 0) (st.origin.getD 4 0 + m) tap
    let first := st.ks.head?.bind fun k =>
      (o.tapRow t (st.origin.getD 3 0) (st.origin.getD 4 0 + m) ((((st.ks.find? fun j => (at_ j.1).isSome)).getD k).1)).map fun p => (k.2, p)
    ((first.map fun x => s.shiftAt c i .a st x.1 x.2.1 x.2.2).getD (-32),
     st.ks.map fun k => ((at_ k.1).map fun p => s.aSig c i st k.2 p.1 p.2).getD 0)

/-- The code of a weight. -/
def State.wCode (s : State) (c : Ctx) (st : Step) (n tap cin : Nat) : Nat :=
  let o := c.op st.op
  let p := s.viewWeight c st.op 1 st.parents (st.origin.getD 0 0) (n / 16) tap cin
  weightCode o.bKind ((List.range (ImgTensor.posBytes o.bKind)).map fun i => BitVec.ofNat 8 (s.peek c.b p i)) (n % 16)

/-- The significand of a weight. -/
def State.wSig (s : State) (c : Ctx) (st : Step) (n tap cin : Nat) : Int :=
  let o := c.op st.op
  weightSig o.bKind (imgChan c.image o n).wZp (s.wCode c st n tap cin)

/-- Column `n` of B (R84, R86, R92). -/
def State.bCol (s : State) (c : Ctx) (st : Step) (n : Nat) : Operand :=
  let o := c.op st.op
  if o.bAct then
    (s.shiftAt c st.op .b st ((st.ks.map Prod.snd).headD 0) n 0,
     st.ks.map fun k => actSig o.bWidth o.bZp (s.codeAt c st.op .b st k.2 n 0))
  else ((imgChan c.image o n).wShift, (st.wks o).map fun k => s.wSig c st n k.1 k.2)

/-- An exact sum of products (R94). -/
def dot : List Int → List Int → Int
  | a :: s, b :: t => a * b + dot s t
  | _, _ => 0

/-! ## CONV_WINOGRAD (R183 to R187) -/

/-- The operator number of the transform-domain elements of position `t`. -/
def winoOp (op t : Nat) : Nat := op + 65536 * (t + 1)

/-- SHIFT of a patch's in-bounds rows in a channel block: (ξ, shift); of a row in bounds whose four pixels are border, that at the
pixel nearest to them (R183). -/
def State.patchShifts (s : State) (c : Ctx) (st : Step) (m ch : Nat) : List (Nat × Int) :=
  let o := c.op st.op
  let t := c.tensor st.op .a
  (List.range 4).filterMap fun xi =>
    (inSize ((2 * (st.patch m).1 + xi : Nat) - (o.padTop : Int)) t.h).map fun y =>
      (xi, s.shiftAt c st.op .a st ch y (nearestTap ((2 * (st.patch m).2 : Nat) - (o.padLeft : Int)) t.w))

/-- x_p of a patch (R183), from the shifts of its rows. -/
def patchExp (xs : List Int) : Int :=
  match xs with
  | [] => -32
  | x :: r => max (r.foldl min x) (r.foldl max x - 2)

/-- The rows' shifts differ by more than 2. -/
def patchRounds (xs : List Int) : Bool :=
  match xs with
  | [] => false
  | x :: r => decide (2 < r.foldl max x - r.foldl min x)

/-- The transformed patch of one channel, position t at place t. -/
def State.patchU (s : State) (c : Ctx) (st : Step) (m ch : Nat) (rows : List (Nat × Int)) (xp : Int) : List Int :=
  let o := c.op st.op
  let t := c.tensor st.op .a
  let d := (List.range 4).map fun xi => (List.range 4).map fun eta =>
    match o.patchPixel t (st.patch m).1 (st.patch m).2 xi eta, rows.find? fun r => r.1 == xi with
    | some p, some r => winoAlign (s.aSig c st.op st ch p.1 p.2) r.2 xp
    | _, _ => 0
  (winoInput d).flatten

/-- Row `m` of A of a CONV_WINOGRAD step: its exponent, its significands, j (R184, R185). -/
def State.winoRow (s : State) (c : Ctx) (st : Step) (m : Nat) : Operand × Nat :=
  let o := c.op st.op
  let cw := (c.tensor st.op .a).cw
  let chs := runOf (st.origin.getD 2 0, st.ext.getD 2 0)
  let rows := s.patchShifts c st m (chs.headD 0)
  let xp := patchExp (rows.map Prod.snd)
  let t := st.winoPos o
  let u := fun ch => (s.patchU c st m ch rows xp).getD t.1 0
  if o.winoExact then
    ((xp + (if t.2 then 4 else 0), chs.map fun ch => if t.2 then (winoDigits (u ch)).2 else (winoDigits (u ch)).1), 0)
  else
    let j := winoShift ((runOf (chs.headD 0 / cw * cw, cw)).map u)
    ((xp + j, chs.map fun ch => rneShift (u ch) j), j)

/-- WINDOW_COUNTERS words 0 to 2 of a CONV_WINOGRAD step. -/
def State.winoTally (s : State) (c : Ctx) (st : Step) : List (Nat × Nat) :=
  let o := c.op st.op
  if !o.isWino then [] else
    let ch := st.origin.getD 2 0
    let rounds := (st.lanes o).filter fun m => patchRounds ((s.patchShifts c st m ch).map Prod.snd)
    let shifted := if o.winoExact then [] else (st.lanes o).filter fun m => (s.winoRow c st m).2 != 0
    (if st.first then [(0, (st.lanes o).length), (1, rounds.length)] else []) ++ [(2, shifted.length)]

/-! ## The sums of a step -/

/-- The output element of row `m` and column `n`. -/
def Step.elemAt (st : Step) (o : ImgOp) (m n : Nat) : Elem :=
  if o.isMatmul then { op := st.op, n := st.origin.getD 0 0, c := n, y := st.origin.getD 3 0 + m, x := 0 }
  else if o.isWino then
    { op := winoOp st.op (st.winoPos o).1, n := st.origin.getD 0 0, c := n, y := (st.patch m).1, x := (st.patch m).2 }
  else { op := st.op, n := st.origin.getD 0 0, c := n, y := st.origin.getD 3 0, x := st.origin.getD 4 0 + m }

/-- The sums of a step with their exponents, element by element (R94, R95, R188); a step without positions has none. -/
def State.stepSums (s : State) (c : Ctx) (st : Step) : List (Elem × Int × Int) :=
  let o := c.op st.op
  if st.kCount = 0 then []
  else if o.isMultiplier then
    let cols := st.couts.map fun n => (n, s.bCol c st n)
    (st.lanes o).flatMap fun m =>
      let a := if o.isWino then (s.winoRow c st m).1 else s.aRow c st m
      cols.map fun x => (st.elemAt o m x.1, dot a.2 x.2.2, a.1 + x.2.1)
  else (windowReads o (c.tensor st.op .a) st).map fun x =>
    (x.1, s.aSig c st.op st x.2.1 x.2.2.1 x.2.2.2, s.shiftAt c st.op .a st x.2.1 x.2.2.1 x.2.2.2)

/-! ## What a capture holds (R391) -/

/-- The codes of row `m` of A; a border tap's is the zero point (R175). -/
def State.aCodes (s : State) (c : Ctx) (st : Step) (m : Nat) : List Int :=
  let o := c.op st.op
  if o.isWino then (s.winoRow c st m).1.2
  else st.ks.map fun k => ((if o.isMatmul then s.codeAt c st.op .a st k.2 (st.origin.getD 3 0 + m) 0
    else ((o.pixel (c.tensor st.op .a) (st.origin.getD 3 0) (st.origin.getD 4 0 + m) k.1).map fun p =>
      s.codeAt c st.op .a st k.2 p.1 p.2).getD o.aZp : Nat) : Int)

/-- The codes of column `n` of B. -/
def State.bCodes (s : State) (c : Ctx) (st : Step) (n : Nat) : List Nat :=
  let o := c.op st.op
  if o.bAct then st.ks.map fun k => s.codeAt c st.op .b st k.2 n 0 else (st.wks o).map fun k => s.wCode c st n k.1 k.2

/-- The operands of a multiplier step as a capture holds them. -/
def State.operandCodes (s : State) (c : Ctx) (st : Step) : OperandCodes :=
  let o := c.op st.op
  if o.isMultiplier then
    { format := o.operandFormat, zps := if o.bAct then [] else st.couts.map fun n => (imgChan c.image o n).wZp
      a := (st.lanes o).map fun m => (s.aCodes c st m).take 124, b := st.couts.map fun n => (s.bCodes c st n).take 124 }
  else ⟨o.operandFormat, [], [], []⟩

end Sys2Proof.Machine
end

