-- ==== Sys2Proof/Machine/Steps.lean ====
section
/-!
DEFINITION. The start of a step (R11 to R13, R116, R117, R127 to R129, R153, R296, R368 to R371): which steps are ready, which of
them a block selects, checked tiles, and the fetch of the operands.
-/

namespace Sys2Proof.Machine

open Sys2Proof

/-! ## Settings of an owner's unit -/

/-- The settings of a frame job. -/
def State.jobSettings (s : State) (p : Nat) (f : BitVec 32) : PipeSettings :=
  (((s.pipe p).job f).map fun j => j.settings).getD .reset

/-- 1 / f, the tiles from one check to the next; none for f = 0 (R370, Table 12-6). -/
def checkEvery (code : Nat) : Option Nat := if code = 0 then none else some (2 ^ (6 - code))

/-- The checked fraction of a unit (R214, R370): tiles from one check to the next. -/
def State.checkOf (s : State) (o : Owner) (id : BitVec 32 × Nat) : Option Nat :=
  match o with
  | .pipeline p => let c := s.jobSettings p id.1
                   if c.safety then some 1 else checkEvery (bits 2 0 c.check)
  | .job k => ((s.jobOf k).map fun j => checkEvery j.check).getD none

/-- A unit runs STRICT (R129). -/
def State.strict (s : State) (o : Owner) (id : BitVec 32 × Nat) : Bool :=
  match o with
  | .pipeline p => (s.jobSettings p id.1).safety || bits 1 0 (s.jobSettings p id.1).collision == 1
  | .job k => (s.jobOf k).any fun j => j.collision == 1

/-- Change the unit that an owner's thread runs. -/
def State.updRun (s : State) (b : Nat) (o : Owner) (f : UnitRun → UnitRun) : State :=
  s.updBlock b fun x => x.updThread o fun t => { t with unit := t.unit.map f }

/-! ## Readiness (R13, R152, R296) -/

/-- Every row of a ring that a step reads lies in a slot that its producer has passed on and that is not yet released. -/
def State.ringHolds (s : State) (c : Ctx) (t : ImgTensor) (f : Nat) (rows : List Nat) : Bool :=
  match s.ringUnit c t with
  | some (r, u) => rows.all fun y => (u.place (foldIn t f * t.h + y)).any fun k => r.published (r.slotAt u k)
  | none => false

/-- Every row of a ring that a step writes lies in a free slot. -/
def State.ringTakes (s : State) (c : Ctx) (t : ImgTensor) (f : Nat) (rows : List Nat) : Bool :=
  match s.ringUnit c t with
  | some (r, u) => rows.all fun y => (u.place (foldIn t f * t.h + y)).any fun k => r.writable (r.slotAt u k)
  | none => false

/-- An operand of a step is there: staged, or, in a ring, passed on; and no residency it lies in is being refilled. -/
def State.sideReady (s : State) (c : Ctx) (st : Step) (side : StageSide) (rows : List Nat) : Bool :=
  let t := c.tensor st.op side
  (match c.srcLevel st.op side 1 with
   | some w => (c.stagedTile st.op w side (st.parents.getD (w - 1) [])).isSome
   | none => !t.isRing || s.ringHolds c t (st.origin.getD 0 0) rows)
    && !(t.isResid && (s.block c.b).residents.any fun r => r.id.toNat == t.ref && r.refilling)

/-- The operands of a step are there. -/
def State.operandsReady (s : State) (c : Ctx) (st : Step) : Bool :=
  let o := c.op st.op
  s.sideReady c st .a (((stepReads o (c.tensor st.op .a) st).map fun p => p.2.1).uniq)
    && (!o.hasB || s.sideReady c st .b (if o.bAct then st.couts else [0]))

/-- Output elements that a step reaches and no later step of the walk does. -/
def completedBy (walk : List Step) (i : Nat) : List Elem :=
  match walk[i]? with
  | some st => (stepElems st).filter fun e => !(walk.drop (i + 1)).any fun x => x.reaches e
  | none => []

/-- An element is final: every step that reaches it has ended. -/
def Ctx.elemDone (c : Ctx) (e : Elem) : Bool := !((c.walk e.op).drop (c.endedOf e.op)).any fun x => x.reaches e

/-- The elements of a group that lie in the block's rows. -/
def Ctx.groupElems (c : Ctx) (k : GroupKey) : List Elem := Sys2Proof.Machine.groupElems (c.tensor k.op .out) k

/-- A group waits to emit codes: its codes are known and some are not sent (R102, R103, R106). -/
def Ctx.groupWaits (c : Ctx) (g : Group) : Bool :=
  !g.retired && !g.replaying && g.emitted.isNone &&
    (let es := c.groupElems g.key
     if (c.op g.key.op).carried then es.any fun e => c.elemDone e && !g.sent.contains e else es.all c.elemDone)

/-- An operator's output waits for room in its staged buffer: no step of it starts (log 29). -/
def Ctx.stalled (c : Ctx) (i : Nat) : Bool := c.run.groups.any fun g => g.key.op == i && c.groupWaits g

/-- The next step of an operator is ready. -/
def State.stepReady (s : State) (c : Ctx) (st : Step) : Bool :=
  let t := c.tensor st.op .out
  s.operandsReady c st && !c.stalled st.op
    && (!t.isRing || s.ringTakes c t (st.origin.getD 0 0) (runOf (st.origin.getD 3 0, st.ext.getD 3 0)))

/-- The next step of operator `i`, if it is ready: its index. -/
def State.nextStep (s : State) (c : Ctx) (i : Nat) : Option Step :=
  ((c.walk i)[c.startedOf i]?).filter fun st => s.stepReady c st

/-- The operators of the unit's segment with a ready step. -/
def State.readyOps (s : State) (c : Ctx) : List Nat :=
  (segmentOps c.image c.run.segment).filter fun i => (s.nextStep c i).isSome

/-- The steps of a group in the order of the walk, with their indices. -/
def Ctx.groupSteps (c : Ctx) (k : GroupKey) : List (Nat × Step) :=
  ((c.walk k.op).mapIdx fun i st => (i, st)).filter fun x => (stepGroups (c.tensor k.op .out) x.2).contains k

/-- The next step of the first scale replay owed for a unit, if its operands are there. -/
def State.replayStep (s : State) (c : Ctx) : Option (GroupKey × Nat × Step) :=
  (c.run.groups.find? fun g => g.replaying).bind fun g =>
    ((c.groupSteps g.key)[g.replayStep]?).bind fun x => if s.operandsReady c x.2 then some (g.key, x) else none

/-! ## Selection (R13, R21) -/

/-- The rank of a unit for step selection: safety-relevant frame jobs, other frame jobs, standalone jobs; then by deadline and
pipeline, or by R21. A smaller list comes first. -/
def State.stepRank (s : State) (o : Owner) (id : BitVec 32 × Nat) : List Nat :=
  match o with
  | .pipeline p =>
    [if (s.jobSettings p id.1).safety then 0 else 1,
     ((((s.pipe p).job id.1).bind fun j => j.stripe id.2).map fun st => st.deadline).getD 0, p]
  | .job k => match s.jobOf k with
    | some j => [2, 15 - j.priority, j.created.toNat, j.ticket.queue.toNat, k.toNat]
    | none => [3]

/-- One rank comes before another. -/
def rankBefore : List Nat → List Nat → Bool
  | [], [] => false
  | [], _ => true
  | _, [] => false
  | a :: s, b :: t => decide (a < b) || (a == b && rankBefore s t)

/-- The best of some ranked things. -/
def bestRanked {α : Type} (l : List (List Nat × α)) : Option α :=
  (l.foldl (fun best x => match best with
    | none => some x
    | some y => if rankBefore x.1 y.1 then some x else some y) none).map Prod.snd

/-- A thread may run steps: its unit is live and its mapping usable (R366). -/
def State.threadRuns (s : State) (c : Ctx) : Bool :=
  s.unitLive c.o c.run.id && !c.run.segmentDone && !(s.mapping c.thread.mapping).unusable

/-- The units in progress on a block that may run steps. -/
def State.runnable (s : State) (b : Nat) : List Ctx :=
  ((s.block b).threads.filterMap fun t => s.ctx b t.owner).filter s.threadRuns

/-- What a block selects. -/
inductive Choice where
  | checkReplay (w : OwedReplay)
  | referee (b : Nat) (w : OwedReplay)
  | scale (c : Ctx) (k : GroupKey) (i : Nat) (st : Step)
  | step (c : Ctx) (ops : List Nat)
  deriving DecidableEq, Repr

/-- A referee's step that has fallen to a block (R371, step 3). -/
def State.refereeWork (s : State) (b : Nat) : Option (Nat × OwedReplay) :=
  ((List.range 16).map fun i => 16 * (b / 16) + i).findSome? fun x =>
    if s.refereeOf x = some b && !((List.range 64).any fun y => (s.block y).running.any fun r => r.kind == .refereeFor x) then
      ((s.block x).owed.filter fun w => w.referee).map fun w => (x, w)
    else none

/-- A block's next step (R13): an owed check replay, a referee's step, a scale replay, else the ready step of the best rank. A
block whose check replay waits for a referee selects no step of its own. The order among owed replays is DESIGN CHOICE (log 113). -/
def State.choose (s : State) (b : Nat) : Option Choice :=
  match (s.block b).owed with
  | some w =>
    if w.referee then (s.refereeWork b).map fun x => .referee x.1 x.2 else some (.checkReplay w)
  | none => match s.refereeWork b with
    | some x => some (.referee x.1 x.2)
    | none =>
      let cs := (s.runnable b).map fun c => (s.stepRank c.o c.run.id, c)
      match bestRanked (cs.filterMap fun x => (s.replayStep x.2).map fun y => (x.1, x.2, y)) with
      | some (c, k, i, st) => some (.scale c k i st)
      | none => bestRanked (cs.filterMap fun x =>
          let ops := s.readyOps x.2
          if ops.isEmpty then none else some (x.1, .step x.2 ops))

/-! ## Checked tiles (R368 to R370) -/

/-- The m range of a step's tile has been opened in its level-1 tile. -/
def rangeOpen (c : Ctx) (st : Step) : Bool :=
  c.thread.cuts.any fun x => x.1 == st.op :: (st.parents.headD [] ++ [st.origin.getD (c.op st.op).mDim 0])

/-- The first step of a level-0 tile of a multiplier operator counts the tile; it opens its m range, and is checked when a check
is due and the range holds at most 15 rows. -/
def State.countTile (s : State) (c : Ctx) (st : Step) : State :=
  let o := c.op st.op
  let every := s.checkOf c.o c.run.id
  let n := c.thread.tiles + 1
  let due := c.thread.checkDue || every.any fun e => n % e == 0
  let t0 := ((imgLevel c.image o 0).ext.getD o.mDim 1)
  let at0 := st.origin.getD o.mDim 0
  let t1 := if (st.parents.headD []).getD o.mDim 0 = at0 then o.firstRange t0 at0 else t0
  let rows := (if due then min t1 15 else t1) * (if o.isWino then 2 else 1)
  let cut := (st.op :: (st.parents.headD [] ++ [st.origin.getD o.mDim 0]), rows)
  let cuts := if rangeOpen c st then c.thread.cuts else c.thread.cuts ++ [cut]
  let c' := { c with thread := { c.thread with cuts := cuts } }
  let fits := ((c'.walk st.op)[c.startedOf st.op]?).any fun x => decide (tileM o x.ext ≤ 15)
  let tile := st.op :: st.origin
  let checked := due && fits
  let s := s.updBlock c.b fun x => x.updThread c.o fun t =>
    { t with tiles := n, cuts := cuts, checkDue := due && !checked, checked := t.checked + (if checked then 1 else 0) }
  let s := if checked then { s with faults := { s.faults with counters := s.faults.counters.bump 5 } } else s
  s.updRun c.b c.o fun u =>
    { u with checks := (u.checks.filter fun x => x.1 != tile) ++ if checked then [(tile, c.thread.checked % 16)] else [] }

/-- The checksum row of a step's tile, if that is checked. -/
def Ctx.checkRow (c : Ctx) (st : Step) : Option Nat := (c.run.checks.find? fun x => x.1 == st.op :: st.origin).map Prod.snd

/-! ## The fetch -/

/-- Read lines of a block's scratchpad in order: whether one is poisoned, and which are. -/
def State.touchLines (s : State) (b : Nat) (ls : List Nat) (f : MemFindings) (r : Reader) : List Nat × State :=
  ls.foldl (fun (bad, s) l =>
    let (x, s) := s.readLine b l f r
    (if x.2 then bad ++ [l] else bad, s)) ([], s)

/-- A read on block `b` meets writes on `n` lines (R127, R128): BANK_COLLISION is recorded against the reading unit's job. Under STRICT
what was read is poison, which the unit consumes; under LENIENT its stripe carries a warning. -/
def State.bankCollision (s : State) (b : Nat) (o : Owner) (id : BitVec 32 × Nat) (n : Nat) : State :=
  let s := s.updBlock b fun x => { x with collisions := sat32 x.collisions n }
  if s.strict o id then s.consumePoison o id Code.bankCollision
  else
    let s := s.recordStatus o id.1 Code.bankCollision
    match o with
    | .pipeline p => s.updStripe p id.1 id.2 fun st => { st with warned := true }
    | .job _ => s

/-- A read and a write meet on lines that a step reads. -/
def State.stepCollision (s : State) (c : Ctx) (ls : List Nat) : State :=
  if ls.isEmpty then s else s.bankCollision c.b c.o c.run.id ls.length

/-- Residencies whose poisoned lines a step has consumed are to be refilled, unless the refill of those lines has failed (R296). -/
def refillFor (x : Block) (bad : List Nat) : Block :=
  { x with residents := x.residents.map fun r =>
      { r with refilling := r.refilling || bad.any fun l => inRun (r.line, r.lines) l && !r.failed.contains l } }

/-- The positions that the duration of a multiplier's step counts: those of the same step of a whole tile (R153). -/
def stepSpan (o : ImgOp) (ext : List Nat) (st : Step) : Nat :=
  if o.isWino then ext.getD 2 1 else min (kMaxOf o.lanes) (ext.getD 2 1 * ext.getD 5 1 - st.kStart)

/-- A step's duration: cycles and the divider of their clock (R116, R188, R193). A pooling step takes the cycles of a whole tile. -/
def State.stepTime (s : State) (c : Ctx) (st : Step) : Nat × Nat :=
  let o := c.op st.op
  let code := s.aclkCode (c.b / 16)
  let ext := (imgLevel c.image o 0).ext
  if o.isMultiplier then (stepCycles (stepSpan o ext st) o.kappa code, dividerOf code)
  else ((if o.isPooling then ext.getD 5 1 else 1), 8)

/-- Fetch the operands of a step: their values are those read now, and this is the read cycle of the collision rule (R117, R127).
Nothing takes effect yet. -/
def State.fetch (s : State) (c : Ctx) (st : Step) (i : Nat) (kind : StepKind) (g : Option GroupKey) (among : List Nat) (f : MemFindings) :
    Fetched :=
  let ls := s.stepLines c st
  let all := (ls.a ++ ls.b ++ ls.entries).uniq
  let bad := all.filter fun l => s.lineBad c.b l || f.lineUncorrectable.contains l
  let met := all.filter f.collisions.contains
  let o := c.op st.op
  let r := c.checkRow st
  { run :=
      { owner := c.o, step := st, kind := kind, index := i, start := s.time, cycles := 0, done := 0, since := 8 * s.now, divider := 8
        kappa := if o.isMultiplier then o.kappa else 0
        span := stepSpan o (imgLevel c.image o 0).ext st
        checked := o.isMultiplier && r.isSome, r := r.getD 0, sums := s.stepSums c st, tally := s.winoTally c st
        digest := crc64 ((ls.a ++ ls.b).flatMap fun l => s.spad.bytes (spadAddr c.b l) 64), group := g, codes := s.operandCodes c st
        poisoned := !bad.isEmpty || ls.entryBad || (!met.isEmpty && s.strict c.o c.run.id), unit := c.run.id }
    among := among, lines := all, bad := bad, entryBad := ls.entryBad, met := met, found := f }

/-- A fetched step starts: the records, counts and poison of its fetch take effect now (log 77). -/
def State.take (s : State) (c : Ctx) (x : Fetched) : State :=
  let s := (s.touchLines c.b x.lines x.found (unitReader c.o c.run.id)).2
  let s := if !x.bad.isEmpty || x.entryBad then s.consumePoison c.o c.run.id Code.poisonConsumed else s
  let s := s.stepCollision c x.met
  let time := s.stepTime c x.run.step
  let run := { x.run with start := s.time, since := 8 * s.now, cycles := time.1, divider := time.2 }
  s.updBlock c.b fun y => { refillFor y x.bad with running := some run, steps := y.steps + 1 }

/-! ## The lookahead queue (R117) -/

/-- The queue is discarded; a discarded fetch leaves no trace. -/
def State.dropAhead (s : State) (b : Nat) : State := s.updBlock b fun x => { x with lookahead := [] }

/-- The step at the head of the queue, if it is a certain step of a unit. -/
def Block.headIs (x : Block) (o : Owner) (id : BitVec 32 × Nat) (kind : StepKind) (g : Option GroupKey) (n : Nat) (st : Step)
    (r : Option Nat) : Option Fetched :=
  x.lookahead.head?.filter fun h => h.run.owner == o && h.run.unit == id && h.run.kind == kind && h.run.group == g && h.run.index == n && h.run.step == st
    && h.run.checked == r.isSome && h.run.r == r.getD 0

/-- Take a step: from the head of the queue, or, where another step is there, by a fetch after selection. -/
def State.takeOrFetch (s : State) (c : Ctx) (st : Step) (n : Nat) (kind : StepKind) (g : Option GroupKey) (f : MemFindings) : State :=
  let r := if (c.op st.op).isMultiplier then c.checkRow st else none
  match (s.block c.b).headIs c.o c.run.id kind g n st r with
  | some h => (s.updBlock c.b fun x => { x with lookahead := x.lookahead.tail }).take c h
  | none => (s.dropAhead c.b).take c (s.fetch c st n kind g [] f)

/-- Groups that a step reaches for the first time begin (R109). -/
def UnitRun.beginGroups (u : UnitRun) (ks : List GroupKey) (t : Time) : UnitRun :=
  { u with groups := u.groups ++ (ks.filter fun k => !u.groups.any fun g => g.key == k).map fun k =>
      { key := k, start := t, ended := t, carried := none, measured := none, flat := false, sent := [], emitted := none
        flagged := false, declined := false, replaying := false, replayStep := 0, replayed := false, poisoned := false
        clipped := 0, retired := false } }

/-- The next step of operator `i`, its tile counted if it is the tile's first: with the unit and the state that this leaves. -/
def State.openStep (s : State) (c : Ctx) (i : Nat) : Option (Step × Ctx × State) :=
  (c.walk i)[c.startedOf i]?.bind fun st =>
    let s := if st.first && (c.op i).isMultiplier then s.countTile c st else s
    (s.ctx c.b c.o).bind fun c => (c.walk i)[c.startedOf i]?.map fun st => (st, c, s)

/-- A normal step of operator `i` starts. -/
def State.startStep (s : State) (c : Ctx) (i : Nat) (f : MemFindings) : State :=
  match s.openStep c i with
  | some (st, c, s) =>
    let n := c.startedOf i
    let s := s.takeOrFetch c st n .normal none f
    s.updRun c.b c.o fun u => { u.beginGroups (stepGroups (c.tensor i .out) st) s.time with
      started := Tab.set (fun _ => 0) u.started i (n + 1) }
  | none => s

/-- One of several ready operators of a thread: the manual gives no order between them (log 2). -/
def State.pick (s : State) (ops : List Nat) : Nat × State :=
  match ops with
  | [i] => (i, s)
  | _ => let (v, s) := s.free
         (ops.getD (v.toNat % max 1 ops.length) 0, s)

/-- A replay runs with the operands its step fetched, under the divider now in force (R399); a referee takes checksum row
(r + 8) mod 16 (R371, step 3). -/
def State.startReplay (s : State) (b : Nat) (w : OwedReplay) (kind : StepKind) : State :=
  let code := s.aclkCode (b / 16)
  let run := { w.run with kind := kind, start := s.time, since := 8 * s.now, done := 0, divider := dividerOf code
                          cycles := stepCycles w.run.span w.run.kappa code
                          r := if kind = .checkReplay then w.run.r else (w.run.r + 8) % 16 }
  (s.dropAhead b).updBlock b fun x => { x with running := some run, steps := x.steps + 1 }

/-- An uncorrectable word of the mapping store (R366): the mapping is unusable, and a record names it. -/
def State.storeError (s : State) (m : Nat) : State :=
  (s.setMapping m { s.mapping m with unusable := true }).fault
    { cls := Cls.ucf, detector := Det.mappingStore, site := .chip Chip.controlSram 0, address := some m }

/-- A step that runs or is queued counts as taken: where its unit then stands. -/
def State.pass (s : State) (b : Nat) (w : Running) : State :=
  match w.group with
  | some k => s.updRun b w.owner fun u =>
      { u with groups := u.groups.map fun g => if g.key == k then { g with replayStep := g.replayStep + 1 } else g }
  | none => match (s.ctx b w.owner).bind fun c => s.openStep c w.step.op with
    | some (_, c, s) => s.updRun c.b c.o fun u => { u with started := Tab.set (fun _ => 0) u.started w.step.op (w.index + 1) }
    | none => s

/-- The state as R13 would find it once the running step and the queued ones are taken. -/
def State.ahead (s : State) (b : Nat) : State :=
  let s := ((s.block b).running.filter fun w => w.group.isSome).elim s (s.pass b)
  (s.block b).lookahead.foldl (fun s x => s.pass b x.run) s

/-- A fetch joins the queue. -/
def State.enqueue (s : State) (b : Nat) (x : Fetched) : State := s.updBlock b fun y => { y with lookahead := y.lookahead ++ [x] }

/-- While a step runs, the operands of one more step are fetched ahead: of the ready one that R13 would select if no other became ready
(R117). -/
def State.lookAhead (s : State) (b : Nat) (f : MemFindings) : State :=
  let x := s.block b
  if 4 ≤ x.lookahead.length || x.owed.isSome then s else
    let v := s.ahead b
    match v.choose b with
    | some (.scale c k i st) => s.enqueue b (v.fetch c st i .scaleReplay (some k) [] f)
    | some (.step c ops) =>
      if f.store then s.storeError c.thread.mapping else
      let (i, v) := v.pick ops
      match v.openStep c i with
      | some (st, c, v) => { s with fresh := v.fresh }.enqueue b (v.fetch c st (c.startedOf i) .normal none ops f)
      | none => s
    | _ => s

/-- The operator of a thread whose step is taken: that of the queue's head while no other has become ready, else as R13 leaves open
(log 2). -/
def State.pickStep (s : State) (c : Ctx) (ops : List Nat) : Nat × State :=
  match (s.block c.b).lookahead.head? with
  | some h => if h.run.owner == c.o && h.run.unit == c.run.id && h.run.group.isNone && h.among == ops
        && ops.contains h.run.step.op then (h.run.step.op, s) else s.pick ops
  | none => s.pick ops

/-- STEP_START: the block takes the step that R13 selects, or, while one runs, fetches ahead. -/
def State.stepStart (s : State) (b : Nat) (f : MemFindings) : State :=
  let x := s.block b
  if x.fenced || x.resetting || x.testing || !(s.domain b).isOn then s
  else if x.running.isSome then s.lookAhead b f
  else match s.choose b with
    | some (.checkReplay w) => s.startReplay b w .checkReplay
    | some (.referee y w) => s.startReplay b w (.refereeFor y)
    | some (.scale c k i st) => s.takeOrFetch c st i .scaleReplay (some k) f
    | some (.step c ops) =>
      if f.store then s.storeError c.thread.mapping else
      let (i, s) := s.pickStep c ops
      s.startStep c i f
    | none => s

def execStepStart (t : Time) (b : Fin 64) (f : MemFindings) (s : State) : Result :=
  whenReady t (fun s => s.stepStart b f) s

end Sys2Proof.Machine
end

