-- ==== Sys2Proof/Machine/Sluice.lean ====
section
/-!
DEFINITION. The sluice programs (chapter 10): starting and halting them (R252 to R254), fetching (R255), loops (R262), waits and
signals (R264, R265), page faults (R277 to R281) and deadlocks (R282).
-/

namespace Sys2Proof.Machine

open Sys2Proof

/-! ## SLUICE_START and SLUICE_HALT -/

/-- A context's kind and owner are of Table 10-2, and name a STREAMING pipeline or a running job (R252). -/
def State.mayName (s : State) (kind o : Nat) : Bool :=
  if kind = 0 then o == 0
  else if kind = 1 then decide (o < 24) && (s.pipe o).stream == .streaming
  else kind == 2 && (s.jobOf (BitVec.ofNat 32 o)).any fun j => j.state == .running && j.endStatus.isNone

/-- SLUICE_START (R252, Table 10-2, R412). -/
def sluiceStartBody : Body := fun k p s =>
  let b := le p 0 1
  let n := le p 1 1
  let c := 16 * b + n
  let x := s.channel c
  let y : Channel := { x with
    state := .running, status := 0, pc := 0, ownerKind := BitVec.ofNat 8 (le p 2 1), owner := BitVec.ofNat 32 (le p 4 4)
    ringKind := BitVec.ofNat 8 (le p 3 1), ringOwner := BitVec.ofNat 32 (le p 8 4), vector := BitVec.ofNat 16 (le p 12 2)
    program := BitVec.ofNat 64 (le p 16 8), shapes := BitVec.ofNat 64 (le p 24 8), ticket := some k, loops := [], bursts := []
    shapeCache := [], waitKind := 0xFF, waitArg := 0, resume := none, position := 0, faultDst := false, faultAddr := 0
    faultDue := false }
  let fits := decide (b < 64) && decide (n < 16)
    && (decide (le p 12 2 < 2048) || le p 12 2 == 0xFFFF)
    && (x.state == .idle || x.state == .halted) && le p 16 8 % 256 == 0 && le p 24 8 % 64 == 0
    && s.mayName (le p 2 1) (le p 4 4) && s.mayName (le p 3 1) (le p 8 4)
    && y.context.all (fun o => ((s.block b).threadOf o).isSome) && !s.requestedOff b && !s.requestedOff (64 + b / 16)
  if fits then (s.setChannel c y, .err Code.accepted) else (s, .err Code.notPermitted)

def execSluiceStart (q : Req) (s : State) : Result := lysil (opRow 0x0510 32 true) q sluiceStartBody s

/-- SLUICE_HALT (R254). -/
def sluiceHaltBody : Body := fun _ p s =>
  if 63 < le p 0 1 ∨ 15 < le p 1 1 then (s, .err Code.notPermitted)
  else (s.haltChannel (16 * le p 0 1 + le p 1 1) Code.ok, .ok)

def execSluiceHalt (q : Req) (s : State) : Result := lysil (opRow 0x0511 4) q sluiceHaltBody s

/-! ## The instruction at PC -/

/-- The 16 bytes of the instruction at PC, once its burst is in the buffer (R255). -/
def Channel.instr (x : Channel) : Option (List Byte) :=
  (x.bursts.find? fun b => b.1 == x.pc / 16).map fun b => slice b.2 (16 * (x.pc % 16)) 16

/-- A channel of a fenced block halts with BLOCK_FENCED; a running one that no fault holds goes on (R254, R277). -/
def State.running (s : State) (c : Nat) (f : Channel → State) : State :=
  let x := s.channel c
  if (s.block (c / 16)).fenced then s.haltChannel c Code.blockFenced
  else if x.state = .running ∧ x.faultDue = false then f x else s

/-- The channel executes the instruction at PC if it meets a test. -/
def State.atInstr (s : State) (c : Nat) (p : List Byte → Bool) (f : Channel → List Byte → State) : State :=
  s.running c fun x => match x.instr with
    | some i => if p i then f x i else s
    | none => s

/-- Opcode and KIND of an instruction (Table 10-3). -/
def opOf (i : List Byte) : Nat := le i 0 1 % 16
def kindOf (i : List Byte) : Nat := le i 1 1

/-- The channel goes on with the next instruction; a PC that reaches 65,536 halts it (R255). -/
def State.nextInstr (s : State) (c : Nat) : State :=
  let x := s.channel c
  if x.pc + 1 < 65536 then s.setChannel c { x with pc := x.pc + 1, state := .running, waitKind := 0xFF, waitArg := 0 }
  else s.haltError c Code.notPermitted

/-- Every earlier MOVE is complete (R266). -/
def Channel.moved (x : Channel) : Bool := x.moves.isEmpty

/-! ## END, LOOP, ENDLOOP (R256, R262) -/

/-- END halts with OK; a reserved opcode, or a reserved bit of END, halts with NOT_PERMITTED. -/
def execEndProgram (t : Time) (c : Fin 1024) (s : State) : Result :=
  whenReady t (fun s => s.atInstr c (fun i => opOf i == 0 || decide (5 < opOf i)) fun x i =>
    if le i 0 1 ≠ 0 then s.haltError c Code.notPermitted else if x.moved then s.haltChannel c Code.ok else s) s

/-- LOOP (Table 10-7). -/
def execLoop (t : Time) (c : Fin 1024) (s : State) : Result :=
  whenReady t (fun s => s.atInstr c (fun i => opOf i == 2) fun x i =>
    if le i 0 1 ≠ 2 ∨ le i 1 3 ≠ 0 ∨ 4 ≤ x.loops.length then s.haltError c Code.notPermitted
    else if le i 8 4 % 64 ≠ 0 ∨ le i 12 4 % 64 ≠ 0 then s.haltError c Code.sluiceMisaligned
    else
      let l : OpenLoop := { start := x.pc + 1, count := BitVec.ofNat 32 (le i 4 4), iter := 0
                            srcStride := toSigned 32 (le i 8 4), dstStride := toSigned 32 (le i 12 4) }
      (s.setChannel c { x with loops := x.loops ++ [l] }).nextInstr c) s

/-- ENDLOOP. -/
def execEndLoop (t : Time) (c : Fin 1024) (s : State) : Result :=
  whenReady t (fun s => s.atInstr c (fun i => opOf i == 3) fun x i =>
    match x.loops.getLast? with
    | some l =>
      if le i 0 1 ≠ 3 ∨ le i 1 15 ≠ 0 then s.haltError c Code.notPermitted
      else if l.count = 0 ∨ l.iter.toNat + 1 < l.count.toNat then
        s.setChannel c { x with loops := x.loops.dropLast ++ [{ l with iter := l.iter + 1 }], pc := l.start }
      else (s.setChannel c { x with loops := x.loops.dropLast }).nextInstr c
    | none => s.haltError c Code.notPermitted) s

/-! ## Rings of the context -/

/-- The ring of an image-local ID in the context's thread on a block (R253, R258). -/
def State.contextRing (s : State) (c b id : Nat) : Option (Nat × Ring) :=
  (s.channel c).context.bind fun o => ((s.block b).threadOf o).bind fun t =>
    (t.rings.find? fun m => m.1 == id).bind fun m => ((s.block b).ring m.2).map fun r => (m.2, r)

/-- At least `n` slots are free, or hold data. -/
def Ring.hasSpace (r : Ring) (n : Nat) : Bool := decide (r.fill + n ≤ r.slots)
def Ring.hasData (r : Ring) (n : Nat) : Bool := decide (n ≤ r.fill)

/-! ## WAIT (R264) -/

/-- The flag is set, and no lower-numbered channel of the block waits on it. -/
def State.eventFor (s : State) (c e : Nat) : Bool :=
  (s.block (c / 16)).events.getLsbD e && (List.range (c % 16)).all fun n =>
    let x := s.channel (c / 16 * 16 + n)
    !(x.state == .waiting && x.waitKind == 2 && x.waitArg.toNat == e)

/-- A wait's condition holds, by its kind. -/
def State.waitHolds (s : State) (c : Nat) (x : Channel) : Bool :=
  let ring := fun (p : Ring → Bool) => (s.contextRing c (c / 16) x.waitArg.toNat).any fun r => p r.2
  if x.waitKind = 0 then ring fun r => r.hasSpace x.waitN.toNat
  else if x.waitKind = 1 then ring fun r => r.hasData x.waitN.toNat
  else if x.waitKind = 2 then s.eventFor c x.waitArg.toNat
  else decide (x.waitUntil.toNat ≤ s.now)

/-- A WAIT ends: the event flag is cleared, and the channel goes on. -/
def State.endWait (s : State) (c : Nat) (x : Channel) : State :=
  let s := if x.waitKind = 2 then s.updBlock (c / 16) fun b => { b with events := b.events &&& ~~~ BitVec.ofNat 64 (2 ^ x.waitArg.toNat) }
    else s
  s.nextInstr c

/-- A WAIT starts: it ends at once if its condition holds. -/
def State.startWait (s : State) (c : Nat) (x : Channel) (kind arg n : Nat) (till : Nat) : State :=
  let y := { x with waitKind := BitVec.ofNat 8 kind, waitArg := BitVec.ofNat 32 arg, waitN := BitVec.ofNat 32 n
                    waitUntil := BitVec.ofNat 64 till, waitSince := s.time, state := .waiting
                    watchdog := bits 47 32 s.sluiceConfig }
  let s := s.setChannel c y
  if s.waitHolds c y then s.endWait c y else s

/-- A WAIT of a KIND at PC: it starts, with its checks (R267), once every earlier MOVE is complete (R266). -/
def State.wait (s : State) (c : Nat) (p : Nat → Bool) (legal : List Byte → Bool) (f : Channel → List Byte → State) : State :=
  s.atInstr c (fun i => opOf i == 4 && p (kindOf i)) fun x i =>
    if !x.moved then s else if le i 0 1 ≠ 4 ∨ !legal i then s.haltError c Code.notPermitted else f x i

/-- A ring wait is legal: a ring of the role, and 1 to SLOTS slots (R270). -/
def State.ringLegal (s : State) (c kind : Nat) (i : List Byte) : Bool :=
  le i 8 8 == 0 && (s.contextRing c (c / 16) (le i 2 2)).any fun r =>
    r.2.kind == kind && decide (1 ≤ le i 4 4) && decide (le i 4 4 ≤ r.2.slots)

/-- RING_SPACE; a reserved KIND halts here too. -/
def execRingSpace (t : Time) (c : Fin 1024) (s : State) : Result :=
  whenReady t (fun s => s.wait c (fun k => k == 0 || decide (4 < k)) (fun i => kindOf i == 0 && s.ringLegal c 2 i) fun x i =>
    s.startWait c x 0 (le i 2 2) (le i 4 4) 0) s

/-- RING_DATA. -/
def execRingData (t : Time) (c : Fin 1024) (s : State) : Result :=
  whenReady t (fun s => s.wait c (· == 1) (s.ringLegal c 3) fun x i => s.startWait c x 1 (le i 2 2) (le i 4 4) 0) s

/-- EVENT. -/
def execWaitEvent (t : Time) (c : Fin 1024) (s : State) : Result :=
  whenReady t (fun s => s.wait c (· == 2) (fun i => decide (le i 2 2 < 64) && le i 4 4 == 0 && le i 8 8 == 0) fun x i =>
    s.startWait c x 2 (le i 2 2) 0 0) s

/-- TIME_ABS. -/
def execTimeAbs (t : Time) (c : Fin 1024) (s : State) : Result :=
  whenReady t (fun s => s.wait c (· == 3) (fun i => le i 2 6 == 0) fun x i => s.startWait c x 3 0 0 (le i 8 8)) s

/-- TIME_REL: from the start of the WAIT. -/
def execTimeRel (t : Time) (c : Fin 1024) (s : State) : Result :=
  whenReady t (fun s => s.wait c (· == 4) (fun i => le i 2 6 == 0) fun x i =>
    s.startWait c x 4 0 0 (min (2 ^ 64 - 1) (s.now + le i 8 8))) s

/-- The blocks that a MOVE's ring names: its own, or those of MCAST_MASK that are not fenced (R138, R258). -/
def State.targetBlocks (s : State) (c mask : Nat) : List Nat :=
  if mask = 0 then [c / 16] else (setBlocks (c / 256) mask).filter fun b => !(s.block b).fenced

/-- The rings that a MOVE waits on are ready (R271): a free slot in each destination, data in the source. -/
def State.moveReady (s : State) (c : Nat) (i : List Byte) : Bool :=
  let spaces := le i 1 1
  let dst := (s.targetBlocks c (le i 13 2)).all fun b => (s.contextRing c b (le i 8 5 / 2 ^ 30)).all fun r => r.2.hasSpace 1
  let src := (s.contextRing c (c / 16) (le i 3 5 / 2 ^ 30)).all fun r => r.2.hasData 1
  (fld 5 4 spaces != 3 || dst) && (fld 7 6 spaces != 3 || src)

/-- WAIT_CONDITION_MET: the condition of a waiting ring or event WAIT holds, or that of a MOVE which waits on a ring. -/
def execWaitConditionMet (t : Time) (c : Fin 1024) (s : State) : Result :=
  whenReady t (fun s =>
    let x := s.channel c
    if x.state ≠ .waiting then s
    else if x.waitKind.toNat < 3 then (if s.waitHolds c x then s.endWait c x else s)
    else if x.waitKind = 5 then match x.instr with
      | some i => if s.moveReady c i then s.setChannel c { x with state := .running, waitKind := 0xFF, waitArg := 0 } else s
      | none => s
    else s) s

/-- WAIT_TIME_REACHED. -/
def execWaitTimeReached (t : Time) (c : Fin 1024) (s : State) : Result :=
  whenReady t (fun s =>
    let x := s.channel c
    if x.state = .waiting ∧ (x.waitKind = 3 ∨ x.waitKind = 4) ∧ s.waitHolds c x = true then s.endWait c x else s) s

/-! ## SIGNAL (R265, R270) -/

/-- A SIGNAL of a KIND at PC: it starts, with its checks (R267, R270), once every earlier MOVE is complete (R266). -/
def State.signal (s : State) (c : Nat) (p : Nat → Bool) (legal : List Byte → Bool) (f : List Byte → State) : State :=
  s.atInstr c (fun i => opOf i == 5 && p (kindOf i)) fun x i =>
    if !x.moved then s
    else if le i 0 1 ≠ 5 ∨ le i 10 6 ≠ 0 ∨ !legal i then s.haltError c Code.notPermitted
    else (f i).nextInstr c

/-- RING_ADVANCE by a channel moves HEAD of a SLUICE_IN ring, past slots that are released at once where their unit has left, or TAIL
of a SLUICE_OUT ring. -/
def Ring.advance (r : Ring) (c n : Nat) (t : Time) : Ring :=
  if r.isSluiceIn then Ring.settleIn { r with head := r.head + BitVec.ofNat 16 n, moved := t, channel := some c } t
  else { r with tail := r.tail + BitVec.ofNat 16 n, moved := t, channel := some c }

/-- The advance is of the channel's role, 1 to SLOTS, and keeps the fill within 0 to SLOTS. -/
def State.advanceLegal (s : State) (c : Nat) (i : List Byte) : Bool :=
  le i 8 2 == 0 && (s.contextRing c (c / 16) (le i 2 2)).any fun r =>
    decide (1 ≤ le i 4 4) && decide (le i 4 4 ≤ r.2.slots)
      && ((r.2.isSluiceIn && r.2.hasSpace (le i 4 4)) || (r.2.isSluiceOut && r.2.hasData (le i 4 4)))

/-- RING_ADVANCE; a reserved KIND halts here too. -/
def execRingAdvance (t : Time) (c : Fin 1024) (s : State) : Result :=
  whenReady t (fun s => s.signal c (fun k => k == 0 || decide (2 < k)) (fun i => kindOf i == 0 && s.advanceLegal c i) fun i =>
    match s.contextRing c (c / 16) (le i 2 2) with
    | some r => s.updBlock (c / 16) fun x => x.setRing r.1 (some (r.2.advance c (le i 4 4) s.time))
    | none => s) s

/-- EVENT sets a flag on the channel's block or another of its region. -/
def execSignalEvent (t : Time) (c : Fin 1024) (s : State) : Result :=
  whenReady t (fun s => s.signal c (· == 1) (fun i => decide (le i 2 1 < 64) && (decide (le i 3 1 < 16) || le i 3 1 == 0xFF)
      && le i 4 6 == 0) fun i =>
    let b := if le i 3 1 = 0xFF then c.val / 16 else c.val / 256 * 16 + le i 3 1
    s.updBlock b fun x => { x with events := x.events ||| BitVec.ofNat 64 (2 ^ le i 2 1) }) s

/-- COMPLETION sends an event on port A, and an MSI-X message unless VECTOR is 0xFFFF. -/
def execSignalCompletion (t : Time) (c : Fin 1024) (s : State) : Result :=
  whenReady t (fun s => s.signal c (· == 2) (fun i => le i 2 2 == 0 && (decide (le i 8 2 < 2048) || le i 8 2 == 0xFFFF)) fun i =>
    let s := s.event .a Config.signalCode (Config.signalData (c / 16) (c % 16) (BitVec.ofNat 32 (le i 4 4)) s.time)
    if le i 8 2 < 2048 then s.interrupt (BitVec.ofNat 11 (le i 8 2)) else s) s

/-! ## Page faults (R277 to R281) -/

/-- No granule of the channel is under way. -/
def Channel.quiet (x : Channel) : Bool := x.moves.all fun m => m.units.isEmpty && m.unacked == 0

/-- A channel whose granule has faulted goes to FAULTED once those before it are complete; the fault is reported (R278). -/
def State.settleFault (s : State) (c : Nat) : State :=
  let x := s.channel c
  if x.faultDue && x.quiet then
    let y := { x with faultDue := false, state := .faulted }
    let s := (s.setChannel c y).event .a 0x05F0
      (leBytes 1 (c / 16) ++ leBytes 1 (c % 16) ++ zeros 6 ++ leBytes 8 y.faultTime.toNat ++ y.statusBytes)
    (y.faultMsix.map fun v => s.interrupt v).getD s
  else s

/-- A granule faults (R277): no later one is issued, and the restart point is recorded. -/
def State.pageFault (s : State) (c addr : Nat) (dst : Bool) (position : Nat) : State :=
  let x := s.channel c
  let y := { x with faultDue := true, faultDst := dst, faultAddr := BitVec.ofNat 36 addr, position := BitVec.ofNat 64 position
                    faultTime := s.time, faultUntil := s.now + 1000 * bits 31 0 s.sluiceConfig
                    faultMsix := if s.sluiceConfig.getLsbD 63 then some (BitVec.ofNat 11 (bits 62 52 s.sluiceConfig)) else none }
  ((s.setChannel c y).countSluice c 4 1).settleFault c

/-- FAULTED channels translate their faulting address again (R279). -/
def State.retryFaults (s : State) : State :=
  forEach (indices 1024 fun c => (s.channel c).state == .faulted) (fun c s =>
    let x := s.channel c
    match s.translate x.faultAddr.toNat x.faultDst with
    | .fault => s
    | _ => s.setChannel c { x with state := .running }) s

/-- PAGE_FAULT_TIMEOUT (R280). -/
def execPageFaultTimeout (t : Time) (c : Fin 1024) (s : State) : Result :=
  whenReady t (fun s =>
    let x := s.channel c
    if x.state = .faulted ∧ x.faultUntil ≤ s.now then
      (s.haltError c Code.pageFaultTimeout).countSluice c 5 1
    else s) s

/-! ## INSTRUCTION_FETCH (R255) -/

/-- On whose behalf a channel reads (R291). -/
def Channel.reader (x : Channel) : Reader :=
  match x.owned with
  | some (.pipeline p) => { pipeline := some p }
  | some (.job k) => { frame := some k }
  | none => .nobody

/-- The same, with the block and region that the data goes to. -/
def State.channelReader (s : State) (c : Nat) : Reader :=
  { (s.channel c).reader with block := some (c / 16), region := some (c / 256) }

/-- What a burst read brings: its bytes and whether a granule is poisoned; a fault at an address; or a peer that refuses or cannot be
reached. -/
inductive Burst where
  | data (d : List Byte) (poisoned : Bool)
  | fault (va : Nat)
  | refused
  deriving DecidableEq, Repr

/-- Read a granule of device virtual space, as an entry translates it, for a channel: local DRAM through the region's cache. -/
def State.readCached (s : State) (c va : Nat) (via : Nat × BitVec 64) (f : MemFindings) : DeviceRead × State :=
  let who := { s.channelReader c with va := some va }
  match targetBy via.2 va false with
  | .local_ pa cacheable =>
    let x := s.regionRead (c / 256) (pa / 64) cacheable f who
    let h := x.2.transit f (va / 64) who
    (.data x.1.1 (x.1.2 || h.1), h.2)
  | _ => s.readVia via (va / 64) f who

/-- Read four granules of device virtual space for a channel: one access, which takes each of its pages by one value of its entry
(R303). -/
def State.readBurst (s : State) (c va : Nat) (f : MemFindings) : Burst × State :=
  let s := (List.range 4).foldl (fun s k => s.meetEntry (va + 64 * k) f.carr) s
  let via := fun k => s.viaFrom va (va + 64 * k)
  (List.range 4).foldl (fun (acc : Burst × State) k =>
    match acc.1 with
    | .data d bad => match acc.2.readCached c (va + 64 * k) (via k) f with
      | (.data x b, s) => (.data (d ++ x) (bad || b), s)
      | (.refused, s) => (.refused, s)
      | (.fault, s) => (.fault (va + 64 * k), s)
    | _ => acc) (.data [] false, s)

/-- A burst arrives, or is refused, faults (position 0) or comes poisoned (Table 11-3). -/
def State.burst (s : State) (c va : Nat) (f : MemFindings) (keep : Channel → List Byte → Channel) : State :=
  let r := (s.countSluice c (grantClass [va] false) 1).readBurst c va f
  match r.1 with
  | .data d bad => if bad then r.2.haltError c Code.poisonConsumed else r.2.updChannel c fun x => keep x d
  | .fault a => r.2.pageFault c a false 0
  | .refused => r.2.haltError c Code.windowClosed

/-- The other burst of a full buffer holds the start of an open loop whose body may end within 16 instructions: its ENDLOOP jumps back
into that burst. -/
def Channel.loopsBack (x : Channel) : Bool :=
  decide (2 ≤ x.bursts.length) && x.loops.any fun l =>
    l.start / 16 != x.pc / 16 && decide (x.pc ≤ l.start + 16) && x.bursts.any fun b => b.1 == l.start / 16

/-- The burst that a channel fetches next: that of PC, else the one after it, unless that would take the place of a burst to which an
open loop jumps back, so that a loop of up to 16 instructions runs from the buffer (R255; DEDUCED, log 74). -/
def Channel.wantBurst (x : Channel) : Option Nat :=
  let n := x.pc / 16
  if !(x.bursts.any fun b => b.1 == n) then some n
  else if n + 1 < 4096 ∧ !(x.bursts.any fun b => b.1 == n + 1) ∧ !x.loopsBack then some (n + 1) else none

/-- A burst enters the buffer of two: beside it stays the burst of PC, or, where that is the new one, the last fetched. -/
def Channel.keepBurst (x : Channel) (n : Nat) (d : List Byte) : Channel :=
  let old := x.bursts.filter fun b => b.1 != n
  { x with bursts := ((old.filter fun b => b.1 == x.pc / 16) ++ old.reverse).take 1 ++ [(n, d)] }

/-- The shape that the MOVE at PC names and the cache lacks. -/
def Channel.wantShape (x : Channel) : Option Nat :=
  x.instr.bind fun i =>
    let n := le i 2 1
    if opOf i = 1 ∧ n < 64 ∧ !(x.shapeCache.any fun e => e.1 == n) then some n else none

/-- An aligned burst of four descriptors enters the cache of eight. -/
def Channel.keepShapes (x : Channel) (va : Nat) (d : List Byte) : Channel :=
  let new := (List.range 4).filterMap fun k =>
    if x.shapes.toNat ≤ va + 64 * k then some ((va + 64 * k - x.shapes.toNat) / 64, slice d (64 * k) 64) else none
  let all := (x.shapeCache.filter fun e => !(new.any fun m => m.1 == e.1)) ++ new
  { x with shapeCache := all.drop (all.length - 8) }

/-- The block and the region of a channel are switched on (R408). -/
def State.blockOn (s : State) (b : Nat) : Bool := (s.domain b).isOn && (s.domain (64 + b / 16)).isOn

/-- A burst at an address is fetched, unless DRAM does not serve it: it waits (R288, R406). -/
def State.fetchAt (s : State) (c va : Nat) (f : MemFindings) (keep : Channel → List Byte → Channel) : State :=
  if s.deviceWaits va then s else s.burst c va f keep

def execInstructionFetch (t : Time) (c : Fin 1024) (shapes : Bool) (f : MemFindings) (s : State) : Result :=
  whenReady t (fun s => s.onlyIf (s.blockOn (c / 16)) fun s => s.running c fun x =>
    if shapes then match x.wantShape with
      | some n =>
        let va := (x.shapes.toNat + 64 * n) / 256 * 256
        s.fetchAt c va f fun x d => x.keepShapes va d
      | none => s
    else match x.wantBurst with
      | some n => s.fetchAt c (x.program.toNat + 256 * n) f fun x d => x.keepBurst n d
      | none => s) s

/-! ## STREAM_DEADLOCK (R282) -/

/-- The rings that a MOVE names, as (block, ring, whether it is a destination). -/
def State.movedRings (s : State) (c : Nat) (i : List Byte) : List (Nat × Ring × Bool) :=
  let own := if fld 7 6 (le i 1 1) = 3 then [(c / 16, le i 3 5 / 2 ^ 30, false)] else []
  let out := if fld 5 4 (le i 1 1) = 3 then (s.targetBlocks c (le i 13 2)).map fun b => (b, le i 8 5 / 2 ^ 30, true) else []
  (own ++ out).filterMap fun p => (s.contextRing c p.1 p.2.1).map fun r => (p.1, r.2, p.2.2)

/-- The rings that a waiting channel waits on, as (block, ring): those that are not ready. -/
def State.waitedRings (s : State) (c : Nat) : List (Nat × Ring) :=
  let x := s.channel c
  if x.state ≠ .waiting then []
  else if x.waitKind.toNat < 2 then
    if s.waitHolds c x then [] else ((s.contextRing c (c / 16) x.waitArg.toNat).map fun r => (c / 16, r.2)).toList
  else if x.waitKind = 5 then match x.instr with
    | some i => ((s.movedRings c i).filter fun p => !(if p.2.2 then p.2.1.hasSpace 1 else p.2.1.hasData 1)).map fun p => (p.1, p.2.1)
    | none => []
  else []

/-- A channel is at an instruction that uses a ring of a block. -/
def State.usesRing (s : State) (c b : Nat) (r : Ring) : Bool :=
  let x := s.channel c
  (x.state == .running || x.state == .waiting || x.state == .faulted) && x.context == some r.owner && x.instr.any fun i =>
    if opOf i = 1 then (s.movedRings c i).any fun p => p.1 == b && p.2.1.image == r.image
    else ((opOf i == 4 && decide (kindOf i < 2)) || (opOf i == 5 && kindOf i == 0)) && c / 16 == b && le i 2 2 == r.image

/-- The channel at the other end of a sluice ring of a block: the one that last advanced it; before any has, one that is at an instruction
which uses it (DEDUCED, log 115). -/
def State.ringEnd (s : State) (b : Nat) (r : Ring) (c : Nat) : Bool :=
  match r.channel with
  | some d => d == c
  | none => s.usesRing c b r

/-- A ring holds back the next step of an operator of a thread's unit. -/
def State.ringHoldsBack (s : State) (x : Ctx) (r : Ring) (i : Nat) : Bool :=
  match (x.walk i)[x.startedOf i]? with
  | some st =>
    let named := fun (t : ImgTensor) => t.isRing && t.ref == r.image
    let n := st.origin.getD 0 0
    let o := x.op i
    (named (x.tensor i .a) && !s.ringHolds x (x.tensor i .a) n (((stepReads o (x.tensor i .a) st).map fun p => p.2.1).uniq))
      || (o.hasB && named (x.tensor i .b) && !s.ringHolds x (x.tensor i .b) n (if o.bAct then st.couts else [0]))
      || (named (x.tensor i .out) && !s.ringTakes x (x.tensor i .out) n (runOf (st.origin.getD 3 0, st.ext.getD 3 0)))
  | none => false

/-- The sluice rings that hold back a thread with no ready step. -/
def State.heldRings (s : State) (b : Nat) (o : Owner) : List Ring :=
  match s.ctx b o with
  | some x =>
    if (s.readyOps x).isEmpty then ((s.block b).ringsOf o).filter fun r =>
      (r.isSluiceIn || r.isSluiceOut) && (segmentOps x.image x.run.segment).any (s.ringHoldsBack x r)
    else []
  | none => []

/-- WATCHDOG_US as it was at a time (Table 10-12: a write acts on waits that start later). -/
def State.watchdogAt (s : State) (t : Nat) : Nat :=
  ((s.watchdogWas.filter fun w => decide (t < w.1.toNat)).getLast?.map Prod.snd).getD (bits 47 32 s.sluiceConfig)

/-- A channel is held by Fovar flow control: a granule of it has been on its way to a peer for WATCHDOG_US. -/
def State.leavesDevice (s : State) (c : Nat) : Bool :=
  s.fovar.sent.any fun g => match g.use with
    | .move d _ _ _ => d == c && decide (g.sentAt.toNat + 1000 * s.watchdogAt g.sentAt.toNat ≤ s.now)
    | _ => false

/-- An edge of the wait graph, with the rings it runs through. -/
def State.waitEdge (s : State) (a b : WaitNode) : List Ring :=
  match a, b with
  | .channel c, .thread k o => ((s.waitedRings c).filter fun r => r.1 == k.val && r.2.owner == o).map Prod.snd
  | .thread k o, .channel c => (s.heldRings k o).filter fun r => s.ringEnd k r c
  | _, _ => []

/-- A node and the one it waits on, along a cycle, or along a chain whose last channel leaves the device. -/
def waitPairs (nodes : List WaitNode) (closed : Bool) : List (WaitNode × WaitNode) :=
  nodes.zip (nodes.drop 1 ++ if closed then nodes.take 1 else [])

/-- When a thread's wait began: with its segment or at the end of its last step, or, later, when a ring that holds it back last moved. -/
def State.heldSince (s : State) (b : Nat) (o : Owner) : Nat :=
  (s.heldRings b o).foldl (fun m r => max m r.moved.toNat)
    (((((s.block b).threadOf o).bind fun t => t.unit).map fun u => u.since.toNat).getD 0)

/-- WATCHDOG_US in ns: the longest that a wait of the list took as it began. -/
def State.watchdogNs (s : State) (nodes : List WaitNode) : Nat :=
  1000 * nodes.foldl (fun m n => match n with
    | .channel c => max m (if (s.channel c).state = .waiting then (s.channel c).watchdog else 0)
    | .thread b o => max m (s.watchdogAt (s.heldSince b o))) 0

/-- The cycle or chain exists, and none of its rings has moved for WATCHDOG_US. -/
def State.stalled (s : State) (nodes : List WaitNode) : Bool :=
  let still := fun (p : WaitNode × WaitNode) =>
    let rs := s.waitEdge p.1 p.2
    !rs.isEmpty && rs.all fun r => decide (r.moved.toNat + s.watchdogNs nodes ≤ s.now)
  let chain := match nodes.getLast? with
    | some (.channel c) => s.leavesDevice c && (waitPairs nodes false).all still
    | _ => false
  !nodes.isEmpty && (chain || (waitPairs nodes true).all still)

/-- A frame job by R21: safety, priority, frame before standalone, creation, pipeline. -/
def FrameJob.rank (j : FrameJob) (p : Nat) : List Nat :=
  [if j.settings.safety then 0 else 1, 15 - j.settings.priority, 0, j.createdAt.toNat, p, j.frame.toNat]

/-- A standalone job by R21. -/
def Job.rank (j : Job) : List Nat := [1, 15 - j.priority, 1, j.created.toNat, j.ticket.queue.toNat, j.id.toNat]

/-- The job that a node's owner is, with its rank: a frame (of a pipeline), or a standalone job. -/
def State.nodeJob (s : State) (n : WaitNode) : Option (List Nat × Owner × BitVec 32) :=
  let frame := fun (p : Fin 24) (j : FrameJob) => (j.rank p, Owner.pipeline p, j.frame)
  let job := fun (k : BitVec 32) => (s.jobOf k).map fun j => (j.rank, Owner.job k, k)
  match n with
  | .channel c => match (s.channel c).owned with
    | some (.pipeline p) => ((s.pipe p).frames.find? fun j => !j.delivered).map (frame p)
    | some (.job k) => job k
    | none => none
  | .thread b o => match o with
    | .pipeline p => (((s.block b).threadOf o).bind fun t => t.unit).bind fun u => ((s.pipe p).job u.frame).map (frame p)
    | .job k => job k

/-- The last by rank of some. -/
def lastRanked {α : Type} (l : List (List Nat × α)) : Option α :=
  (l.foldl (fun worst x => match worst with
    | none => some x
    | some y => if rankBefore y.1 x.1 then some x else some y) none).map Prod.snd

/-- A frame job ends with STREAM_DEADLOCK: it is recorded, and its units are cancelled. -/
def State.deadlockFrame (s : State) (p : Fin 24) (f : BitVec 32) : State :=
  let s := s.recordStatus (.pipeline p) f Code.streamDeadlock
  let open_ := ((s.pipe p).job f).elim [] fun j => (List.range j.stripes.length).filter fun i =>
    (j.stripe i).any fun st => st.final.isNone && !st.cancelled
  forEach open_ (fun i s => s.cancelUnit p f i) s

/-- Count in DEADLOCKS of a region. -/
def State.countDeadlock (s : State) (r : Nat) : State := s.updRegion r fun x => { x with sluice := x.sluice.add 6 1 }

/-- The job of lowest rank among the nodes' owners ends; without one, the lowest-numbered channel halts. -/
def State.breakDeadlock (s : State) (nodes : List WaitNode) : State :=
  match lastRanked (nodes.filterMap s.nodeJob) with
  | some (.pipeline p, f) => (s.deadlockFrame p f).countDeadlock (s.pipe p).setRegion
  | some (.job k, _) =>
    (s.updJob k fun j => { j with endStatus := some (j.endStatus.getD Code.streamDeadlock) }).countDeadlock
      (((s.jobOf k).map fun j => j.region).getD 0)
  | none =>
    let cs := nodes.filterMap fun n => match n with
      | .channel c => some c.val
      | .thread _ _ => none
    match cs.min? with
    | some c => (s.haltChannel c Code.streamDeadlock).countDeadlock (c / 256)
    | none => s

def execStreamDeadlock (t : Time) (nodes : List WaitNode) (s : State) : Result :=
  whenReady t (fun s => s.onlyIf (s.stalled nodes) fun s => s.breakDeadlock nodes) s

end Sys2Proof.Machine
end

