-- ==== Sys2Proof/Machine/Move.lean ====
section
/-!
DEFINITION. The MOVE instruction (R257 to R261, R266 to R268, R271): its checks, the granules it issues, how they land, and
what a peer or the host answers to them (R276, R281).
-/

namespace Sys2Proof.Machine

open Sys2Proof

/-! ## The instruction and its shape (Tables 10-4 to 10-6) -/

/-- One side of a MOVE: its space, its 40-bit field, its strides of dimensions 1 to 3. -/
structure MoveSide where
  space : Nat
  field : Nat
  strides : List Int
  deriving DecidableEq, Repr

/-- A MOVE with the shape it names. -/
structure MoveOp where
  src : MoveSide
  dst : MoveSide
  codec : Nat
  mask : Nat
  len0 : Nat
  cwCode : Nat
  counts : List Nat
  deriving DecidableEq, Repr

/-- Read a MOVE and its shape. -/
def moveOf (i sh : List Byte) : MoveOp :=
  let strides := fun (o : Nat) => (List.range 3).map fun k => toSigned 32 (le sh (o + 4 * k) 4)
  { src := { space := fld 7 6 (le i 1 1), field := le i 3 5, strides := strides 16 }
    dst := { space := fld 5 4 (le i 1 1), field := le i 8 5, strides := strides 28 }
    codec := fld 3 1 (le i 1 1), mask := le i 13 2, len0 := le sh 0 4, cwCode := le sh 4 1
    counts := (List.range 3).map fun k => le sh (8 + 2 * k) 2 }

/-- ENCODE_3 and ENCODE_2; DECODE_3 and DECODE_2 (R261). -/
def MoveOp.encodes (m : MoveOp) : Bool := m.codec == 1 || m.codec == 2
def MoveOp.decodes (m : MoveOp) : Bool := m.codec == 3 || m.codec == 4
/-- The PEAT code of its rate: 1 at 3.0 bits, 2 at 2.0. -/
def MoveOp.peat (m : MoveOp) : Nat := if m.codec = 1 ∨ m.codec = 3 then 1 else 2
/-- Elements of a container: 16 or 32. -/
def MoveOp.cw (m : MoveOp) : Nat := if m.cwCode = 0 then 16 else 32
/-- Bytes of a row on the compressed side. -/
def MoveOp.packed (m : MoveOp) : Nat := peatRow m.peat m.cw (2 * m.len0 / m.cw)
/-- Bytes of a row on the source and on the destination side. -/
def MoveOp.srcRow (m : MoveOp) : Nat := if m.decodes then m.packed else m.len0
def MoveOp.dstRow (m : MoveOp) : Nat := if m.encodes then m.packed else m.len0
/-- Rows of the shape. -/
def MoveOp.rows (m : MoveOp) : Nat := m.counts.foldl (· * ·) 1
/-- Units of a row: its granules, or, with a codec, the row itself. -/
def MoveOp.perRow (m : MoveOp) : Nat := if m.codec = 0 then m.len0 / 64 else 1

/-- A channel's open loops move a side by the sum of index × stride (R260). -/
def Channel.loopShift (x : Channel) (dst : Bool) : Int :=
  x.loops.foldl (fun n l => n + (l.iter.toNat : Int) * (if dst then l.dstStride else l.srcStride)) 0

/-- The address of a row of a side, in its space; in RING space, the offset within the slot (R259, R260). -/
def MoveSide.rowAt (d : MoveSide) (counts : List Nat) (shift : Int) (row : Nat) : Int :=
  let c := fun k => counts.getD k 1
  let i := [row % c 0, row / c 0 % c 1, row / c 0 / c 1]
  let base : Int := if d.space = 3 then (d.field % 2 ^ 22 : Nat) else d.field
  (i.zip d.strides).foldl (fun n p => n + (p.1 : Int) * p.2) (base + shift)

/-! ## Checks (R267) -/

/-- The reserved bits of an address field are 0. -/
def MoveSide.encoded (d : MoveSide) : Bool :=
  if d.space = 0 then decide (d.field < 2 ^ 36)
  else if d.space = 1 then decide (d.field < 2 ^ 24)
  else if d.space = 2 then decide (d.field < 2 ^ 22)
  else d.field / 2 ^ 22 % 256 == 0

/-- Check 1: encoding. -/
def moveEncoded (i sh : List Byte) : Bool :=
  let m := moveOf i sh
  le i 0 1 == 1 && le i 1 1 % 2 == 0 && decide (m.codec ≤ 4) && le i 15 1 == 0 && m.src.encoded && m.dst.encoded
    && le sh 5 3 == 0 && le sh 14 2 == 0 && le sh 40 24 == 0 && m.counts.all (fun c => c != 0)
    && decide (64 ≤ m.len0) && decide (m.len0 ≤ 2 ^ 22) && decide (m.cwCode ≤ 1)
    && (m.mask == 0 || decide (2 ≤ m.dst.space))
    && (!m.encodes || decide (m.dst.space ≤ 1)) && (!m.decodes || decide (m.src.space ≤ 1))

/-- Check 2: alignment. -/
def MoveOp.aligned (m : MoveOp) (x : Channel) : Bool :=
  m.src.field % 64 == 0 && m.dst.field % 64 == 0 && m.len0 % 64 == 0
    && (m.src.strides ++ m.dst.strides).all (fun v => v % 64 == 0)
    && x.loops.all fun l => l.srcStride % 64 == 0 && l.dstStride % 64 == 0

/-- The bytes that a side may use in its space on a block: an extent, or none for a ring or thread that is not there. -/
def State.sideLimit (s : State) (c b : Nat) (d : MoveSide) (role : Nat) : Option Nat :=
  if d.space = 0 then some (2 ^ 36)
  else if d.space = 1 then some (2 ^ 24)
  else if d.space = 2 then
    if (s.channel c).context.isNone then some 0x30_0000
    else (s.contextThread c b).map fun t => 64 * (imgHeader (s.mapping t.mapping).image).workLines
  else match s.contextRing c b (d.field / 2 ^ 30) with
    | some r => if r.2.kind = role then some (4096 * r.2.slot4k) else none
    | none => none

/-- Check 3 of one row: it lies within its space, in quarters in SCRATCHPAD mode. -/
def State.rowFits (s : State) (c : Nat) (d : MoveSide) (limit : Nat) (a : Int) (n : Nat) : Bool :=
  decide (0 ≤ a) && decide (a + n ≤ limit)
    && (d.space != 1 || (indices 4 fun q => decide (a < 0x40_0000 * (q + 1)) && decide (0x40_0000 * (q : Int) < a + n)).all fun q =>
      !(s.region (c / 256)).cacheMode q)

/-- Check 3 of one side on the blocks given: range and role. -/
def State.sideFits (s : State) (c : Nat) (m : MoveOp) (d : MoveSide) (bs : List Nat) (role n : Nat) (shift : Int) : Bool :=
  bs.all fun b => match s.sideLimit c b d role with
    | some limit => (List.range m.rows).all fun r => s.rowFits c d limit (d.rowAt m.counts shift r) n
    | none => false

/-- The first failing check of a MOVE. -/
def State.moveCheck (s : State) (c : Nat) (x : Channel) (i sh : List Byte) : Option (BitVec 16) :=
  let m := moveOf i sh
  if !moveEncoded i sh then some Code.notPermitted
  else if !m.aligned x then some Code.sluiceMisaligned
  else if !s.sideFits c m m.src [c / 16] 3 m.srcRow (x.loopShift false)
      || !s.sideFits c m m.dst (s.targetBlocks c m.mask) 2 m.dstRow (x.loopShift true) then some Code.notPermitted
  else none

/-! ## Issue (R259, R277) -/

/-- What the translation of granules gives: their places; a page that faults; or a peer that cannot be reached. -/
inductive Placed where
  | at_ (l : List Dest)
  | fault (va : Nat) (part : Nat)
  | refused (part : Nat)
  deriving DecidableEq, Repr

/-- A granule of a side in its space, on a block: SCRATCHPAD counts from the thread's working base (R253); a ring's slot is that of
R271, its BASE_LINE absolute (Table 10-16). -/
def State.granuleOn (s : State) (c b : Nat) (d : MoveSide) (a : Nat) (isDst : Bool) : Dest :=
  let base := 64 * ((s.contextThread c b).map fun t => t.workBase).getD 0
  if d.space = 1 then .pool a
  else if d.space = 2 then .spad b (base + a)
  else match s.contextRing c b (d.field / 2 ^ 30) with
    | some r => .spad b (r.2.slotOffset (if isDst then r.2.head else r.2.tail) + a)
    | none => .spad b (base + a)

/-- The entries that a run of DEVICE granules is translated by, and that read uncorrectable. -/
def State.readEntries (s : State) (d : MoveSide) (a n : Nat) (f : MemFindings) : State :=
  if d.space = 0 then (f.carr.filter fun i => decide (a / 2 ^ 18 ≤ i) && decide (i ≤ (a + 64 * n - 1) / 2 ^ 18)).foldl State.badEntry s
  else s

/-- Translate a DEVICE granule. -/
def State.placeDevice (s : State) (va part : Nat) (isDst : Bool) : Placed :=
  match s.translate va isDst with
  | .local_ pa k => .at_ [.dram pa k (s.via va)]
  | .host a => .at_ [.host a (s.via va)]
  | .peer dev w i ep => if s.reachable dev then .at_ [.peer dev w i ep (s.via va)] else .refused part
  | .fault => .fault va part

/-- The places of one granule of a side: one, or one a block. -/
def State.placeGranule (s : State) (c : Nat) (d : MoveSide) (bs : List Nat) (a part : Nat) (isDst : Bool) : Placed :=
  if d.space = 0 then s.placeDevice a part isDst else .at_ (bs.map fun b => s.granuleOn c b d a isDst)

/-- The places of `n` granules from an address on, in order; the first that fails ends it. -/
def State.placeRun (s : State) (c : Nat) (d : MoveSide) (bs : List Nat) (a n part : Nat) (isDst : Bool) :
    Except Placed (List (List Dest)) :=
  (List.range n).foldl (fun acc k => acc.bind fun l =>
    match s.placeGranule c d bs (a + 64 * k) (part + k) isDst with
    | .at_ p => .ok (l ++ [p])
    | e => .error e) (.ok [])

/-- The POSITION of a granule: of unit `k`, and, with a codec, granule `part` of its row (Table 10-15). -/
def positionOf (dims : List Nat) (k part : Nat) : Nat :=
  let d := fun i => max 1 (dims.getD i 1)
  let row := k / d 0
  (k % d 0 + part) % 2 ^ 16 + 2 ^ 16 * (row % d 1) + 2 ^ 32 * (row / d 1 % d 2) + 2 ^ 48 * (row / d 1 / d 2)

/-- The first stripe of a frame that is not final. -/
def FrameJob.oldest (j : FrameJob) : Nat := j.stripes.findIdx fun st => st.final.isNone && !st.cancelled

/-- What a read of a scratchpad line is charged to (R127, R128): the owner's job, and its stripe where the line lies in a ring slot,
the unit whose rows the slot holds; else the first stripe that is not final of the owner's oldest frame job in flight (DESIGN CHOICE,
log 73). -/
def State.readUnit (s : State) (c : Nat) (d : MoveSide) : Option (Owner × BitVec 32 × Nat) :=
  let x := s.channel c
  match x.owned with
  | some (.job k) => some (.job k, k, 0)
  | some (.pipeline p) =>
    let inSlot := (s.contextRing c (c / 16) (d.field / 2 ^ 30)).bind fun r =>
      (r.2.units.find? fun u => decide ((r.2.tail - u.base).toNat < r.2.slotsOf u)).map fun u => u.unit
    match (if d.space = 3 ∧ x.context = some (.pipeline p) then inSlot else none) with
    | some u => some (.pipeline p, u)
    | none => ((s.pipe p).frames.find? fun j => !j.delivered).map fun j => (.pipeline p, j.frame, j.oldest)
  | none => none

/-- A DMA read on block `b` meets a write of its line (R127, R128): whether the granule is marked poisoned. -/
def State.dmaCollision (s : State) (b c : Nat) (d : MoveSide) : Bool × State :=
  match s.readUnit c d with
  | some (o, id) => (s.strict o id, s.bankCollision b o id 1)
  | none => (false, s.updBlock b fun x => { x with collisions := sat32 x.collisions 1 })

/-! ## Reads (R259, R276) -/

/-- Read one source granule: its bytes and poison if they are here at once; else it is asked for from the host or a peer, with what
its path has done to it. A host that is not linked answers nothing, which is a failed completion. -/
def State.readSource (s : State) (c serial unit part : Nat) (d : MoveSide) (f : MemFindings) (hit : Bool) :
    Dest → Option (List Byte × Bool) × State
  | .dram pa k via =>
    let r := s.regionRead (c / 256) (pa / 64) k f { (s.channel c).reader with va := some (via.1 * 2 ^ 18 + pa % 2 ^ 18) }
    (some r.1, r.2)
  | .pool a =>
    let r := s.readPoolLine (c / 256) (a / 64) f
    (some r.1, r.2)
  | .spad b a =>
    let met := f.collisions.contains (a / 64)
    let r := s.readLine b (a / 64) f (s.channel c).reader
    let h := if met then r.2.dmaCollision b c d else (false, r.2)
    (some (r.1.1, r.1.2 || h.1), h.2)
  | .host a via =>
    if s.mem.pcieLink then
      let n := s.mem.nextTag
      let h : HostRead := { tag := n, channel := c, serial := serial, unit := unit, part := part, via := via, hit := hit }
      let s := { s with mem := { s.mem with hostReads := s.mem.hostReads ++ [h], nextTag := n + 1 } }
      (none, s.send (.hostRead (BitVec.ofNat 52 a) 64 n))
    else (some (zeros 64, true), s)
  | .peer dev w i ep via => (none, s.sendPeer via dev w i ep true false [] (.move c serial unit part) hit)

/-! ## Writes -/

/-- Change a MOVE of a channel. -/
def State.updMove (s : State) (c serial : Nat) (g : MoveRun → MoveRun) : State :=
  s.updChannel c fun x => { x with moves := x.moves.map fun m => if m.serial = serial then g m else m }

/-- A granule is refused by a peer that is closed or cannot be reached (R281): the channel halts at that granule. -/
def State.refuseGranule (s : State) (c serial unit part : Nat) (status : BitVec 16) : State :=
  match (s.channel c).moves.find? fun m => m.serial == serial with
  | some m =>
    if m.ended then s
    else (s.updChannel c fun x => { x with pc := m.pc, position := BitVec.ofNat 64 (positionOf m.dims unit part) }).haltError c status
  | none => s

/-- Write one granule of a MOVE at one of its places: a block that is fenced, in reset or switched off accepts no line (R138, R376,
R408). -/
def State.writeDest (s : State) (c serial unit part : Nat) (d : List Byte) (bad : Bool) : Dest → State
  | .dram pa k _ => s.regionWrite (c / 256) (pa / 64) k d bad
  | .pool a => s.writePool (c / 256) a d bad
  | .spad b a => if s.takesLines b then s.writeSpad b a d bad else s
  | .host a _ =>
    if s.mem.pcieLink then (if bad then s.countPcie 3 else s).send (.hostWrite (BitVec.ofNat 52 a) d bad) else s
  | .peer dev w i ep via =>
    if s.reachable dev then
      (s.sendPeer via dev w i ep false bad d (.move c serial unit part)).updMove c serial fun m => { m with unacked := m.unacked + 1 }
    else s.refuseGranule c serial unit part Code.windowClosed

/-- The granules that a unit writes, with their poison, and what the codec counts (R197, R198). -/
def MoveUnit.output (u : MoveUnit) : List (List Byte × Bool) × List (Nat × Nat) :=
  let got := fun k => ((u.got.find? fun g => g.1 == k).map fun g => g.2).getD (zeros 64, true)
  let row := (List.range u.need).flatMap fun k => (got k).1
  let badIn := (List.range u.need).filter fun k => (got k).2
  let wAlloc := 2 * u.len0 / max 1 u.cw
  let p := if u.codec = 1 ∨ u.codec = 3 then 1 else 2
  let share := peatGranulesOf p u.cw wAlloc
  let cut := fun (d : List Byte) (bad : Nat → Bool) => (List.range (d.length / 64)).map fun k => (slice d (64 * k) 64, bad k)
  if u.codec = 0 then ([got 0], [])
  else if u.codec ≤ 2 then
    let e := peatEncodeRow p u.cw wAlloc row
    (cut e.1 fun k => badIn.any fun g => (share g).contains k, [(3, e.2.1), (4, e.2.2)])
  else
    (cut (peatDecodeRow p u.cw wAlloc row) fun k => (share k).any badIn.contains, [(5, peatBlocks wAlloc * u.cw)])

/-- A unit lands: its granules are written in order. -/
def State.landUnit (s : State) (c serial : Nat) (u : MoveUnit) : State :=
  let o := u.output
  let s := o.2.foldl (fun s n => s.updBlock (c / 16) fun x => { x with window := x.window.add n.1 n.2 }) s
  let s := s.countSluice c 3 (o.1.filter fun g => g.2).length
  (o.1.zip u.dsts).zipIdx.foldl (fun s x => x.1.2.foldl (fun s d => s.writeDest c serial u.index x.2 x.1.1.1 x.1.1.2 d) s) s

/-- A unit's data is here, and DRAM serves the writes it makes. -/
def State.unitReady (s : State) (u : MoveUnit) : Bool :=
  u.got.length == u.need && (s.dramServes || !u.dsts.any fun l => l.any fun d => match d with
    | .dram _ _ _ => true
    | _ => false)

/-- The granules of a channel land in issue order (R266), each once those before it have; a fault that waits for them is then
reported. The fuel is the number of units under way. -/
def State.land (s : State) (c : Nat) : Nat → State
  | 0 => s.settleFault c
  | n + 1 =>
    match (s.channel c).moves.findSome? fun m => m.units.head?.map fun u => (m.serial, u) with
    | some (serial, u) =>
      if s.unitReady u then
        ((s.updMove c serial fun m => { m with units := m.units.drop 1 }).landUnit c serial u).land c n
      else s.settleFault c
    | none => s.settleFault c

/-- Units of a channel under way. -/
def Channel.underWay (x : Channel) : Nat := (x.moves.map fun m => m.units.length).sum

/-- A source granule of a MOVE arrives from the host or a peer. -/
def State.arrive (s : State) (c serial unit part : Nat) (d : List Byte) (bad : Bool) : State :=
  let s := s.updMove c serial fun m =>
    { m with units := m.units.map fun u => if u.index = unit then { u with got := u.got ++ [(part, d, bad)] } else u }
  s.land c (s.channel c).underWay

/-- A MOVE whose source granule a peer refuses gives that unit up (R355). -/
def State.dropUnit (s : State) (c serial unit : Nat) : State :=
  let s := s.updMove c serial fun m => { m with units := m.units.filter fun u => u.index != unit }
  s.land c (s.channel c).underWay

/-! ## MOVE -/

/-- The classes in which the granules of a unit are granted (R275): by source granule. -/
def State.grantUnit (s : State) (c : Nat) (m : MoveOp) (a b : Int) (n : Nat) : State :=
  let addrs := fun (k : Nat) => (if m.src.space = 0 then [(a + 64 * k).toNat] else []) ++ (if m.dst.space = 0 then [(b + 64 * k).toNat] else [])
  (List.range n).foldl (fun s k => s.countSluice c (grantClass (addrs k) (m.dst.space == 0)) 1) s

/-- Read the source granules of a unit, in order. -/
def State.readUnitData (s : State) (c serial : Nat) (m : MoveOp) (k need : Nat) (f : MemFindings) (src : List Dest) :
    List (Nat × List Byte × Bool) × State :=
  src.zipIdx.foldl (fun acc d =>
    let h := acc.2.transit f (k * need + d.2) (acc.2.channelReader c)
    let r := h.2.readSource c serial k d.2 m.src f h.1 d.1
    match r.1 with
    | some x => (acc.1 ++ [(d.2, x.1, x.2 || h.1)], r.2)
    | none => (acc.1, r.2)) ([], s)

/-- Issue unit `k` of a MOVE: false once a granule of it faults or is refused. -/
def State.issueUnit (s : State) (c serial : Nat) (m : MoveOp) (dims : List Nat) (k : Nat) (f : MemFindings) : Bool × State :=
  let x := s.channel c
  let row := k / m.perRow
  let off := if m.codec = 0 then 64 * (k % m.perRow) else 0
  let a := m.src.rowAt m.counts (x.loopShift false) row + off
  let b := m.dst.rowAt m.counts (x.loopShift true) row + off
  let need := if m.codec = 0 then 1 else m.srcRow / 64
  let outs := if m.codec = 0 then 1 else m.dstRow / 64
  let bad := fun (s : State) (dst : Bool) (e : Placed) => match e with
    | .fault va part => (false, (s.updChannel c fun x => { x with resume := some k }).pageFault c va dst (positionOf dims k part))
    | .refused part => (false, s.refuseGranule c serial k part Code.windowClosed)
    | .at_ _ => (false, s)
  let s := (s.readEntries m.src a.toNat need f).readEntries m.dst b.toNat outs f
  match s.placeRun c m.src [c / 16] a.toNat need 0 false with
  | .error e => bad s false e
  | .ok src =>
    match s.placeRun c m.dst (s.targetBlocks c m.mask) b.toNat outs 0 true with
    | .error e => bad s true e
    | .ok dsts =>
      let r := (s.grantUnit c m a b need).readUnitData c serial m k need f src.flatten
      let u : MoveUnit := { index := k, need := need, got := r.1, codec := m.codec, cw := m.cw, len0 := m.len0, dsts := dsts }
      let s := r.2.updMove c serial fun v => { v with units := v.units ++ [u] }
      let s := s.land c (s.channel c).underWay
      (decide ((s.channel c).state = .running), s)

/-- Issue the units of a MOVE from `k` on; after the last, the channel goes on with the next instruction. -/
def State.issueFrom (s : State) (c serial : Nat) (m : MoveOp) (dims : List Nat) (k : Nat) (f : MemFindings) : State :=
  let n := m.rows * m.perRow - k
  let r := (List.range n).foldl (fun acc i => if acc.1 then acc.2.issueUnit c serial m dims (k + i) f else acc) (true, s)
  if r.1 then
    ((r.2.updMove c serial fun v => { v with issued := true }).updChannel c fun x => { x with resume := none, position := 0 }).nextInstr c
  else r.2

/-- A MOVE that has passed its checks starts, or goes on after a page fault (R279). -/
def State.startMove (s : State) (c : Nat) (x : Channel) (i sh : List Byte) (f : MemFindings) : State :=
  let m := moveOf i sh
  let dims := m.perRow :: m.counts
  match x.resume, x.moves.getLast? with
  | some k, some v => s.issueFrom c v.serial m dims k f
  | _, _ =>
    let v : MoveRun := { serial := x.serial, pc := x.pc, units := [], unacked := 0, issued := false, dims := dims, ended := false }
    (s.setChannel c { x with moves := x.moves ++ [v], serial := x.serial + 1, position := 0 }).issueFrom c x.serial m dims 0 f

/-- A MOVE waits on its rings (R271). -/
def State.waitRing (s : State) (c : Nat) (x : Channel) (i : List Byte) : State :=
  let ring := if fld 5 4 (le i 1 1) = 3 ∧ !((s.targetBlocks c (le i 13 2)).all fun b =>
      (s.contextRing c b (le i 8 5 / 2 ^ 30)).all fun r => r.2.hasSpace 1) then le i 8 5 / 2 ^ 30 else le i 3 5 / 2 ^ 30
  s.setChannel c { x with state := .waiting, waitKind := 5, waitArg := BitVec.ofNat 32 ring, waitSince := s.time
                          watchdog := bits 47 32 s.sluiceConfig }

/-- A MOVE touches device space, which waits while DRAM does not serve (R288, R406). -/
def State.moveServed (s : State) (i : List Byte) : Bool :=
  s.dramServes || (fld 7 6 (le i 1 1) != 0 && fld 5 4 (le i 1 1) != 0)

def execMove (t : Time) (c : Fin 1024) (f : MemFindings) (s : State) : Result :=
  whenReady t (fun s => s.atInstr c (fun i => opOf i == 1) fun x i =>
    if 64 ≤ le i 2 1 then s.haltError c Code.notPermitted
    else match x.shapeCache.find? fun e => e.1 == le i 2 1 with
      | some e =>
        if x.resume.isSome then s.onlyIf (s.moveServed i) fun s => s.startMove c x i e.2 f
        else match s.moveCheck c x i e.2 with
          | some status => s.haltError c status
          | none =>
            if s.moveReady c i then s.onlyIf (s.moveServed i) fun s => s.startMove c x i e.2 f
            else s.waitRing c x i
      | none => s) s

/-- MOVE_COMPLETE (R266): the oldest MOVE all of whose granules are written is complete. -/
def execMoveComplete (t : Time) (c : Fin 1024) (s : State) : Result :=
  whenReady t (fun s =>
    let s := s.land c (s.channel c).underWay
    match (s.channel c).moves.find? fun m => m.issued && m.units.isEmpty && m.unacked == 0 with
    | some v => s.updChannel c fun x => { x with moves := x.moves.filter fun m => m.serial != v.serial }
    | none => s) s

/-! ## HOST_READ_COMPLETION (R276, R306) -/

/-- A completion of a host read: a poisoned or failed one delivers a poisoned granule. -/
def execHostReadCompletion (t : Time) (tag : Nat) (data : List Byte) (ep failed aer : Bool) (s : State) : Result :=
  whenReady t (fun s =>
    match s.mem.hostReads.find? fun h => h.tag == tag with
    | some h =>
      let s := { s with mem := { s.mem with hostReads := s.mem.hostReads.filter fun h => h.tag != tag } }
      ((if ep then s.countPcie 2 else s).noteAer aer).arrive h.channel h.serial h.unit h.part ((data ++ zeros 64).take 64)
        (ep || failed || h.hit)
    | none => s.noteAer aer) s

end Sys2Proof.Machine
end

