-- ==== Sys2Proof/Machine/Memory.lean ====
section
/-!
DEFINITION. Memory and PCIe (chapter 11): changes of the carr map (R302 to R304), the patrol scrubber (R292), the stacks'
temperature, the zeroing of DRAM (R288), and what the host does over PCIe (R305 to R308, R458).
-/

namespace Sys2Proof.Machine

open Sys2Proof

/-! ## MAP_PAGES (R302 to R304) -/

/-- The entries of a MAP_PAGES. -/
def mapEntries (p : List Byte) : List (BitVec 64) :=
  (List.range (le p 4 2)).map fun k => BitVec.ofNat 64 (le p (8 + 8 * k) 8)

/-- An entry may stand at an index (R302). -/
def State.entryLegal (s : State) (i : Nat) (e : BitVec 64) : Bool :=
  let kind := bits 2 1 e
  bits 17 6 e == 0 && kind != 3
    && (!e.getLsbD 0
      || (if kind = 0 then bits 63 35 e == 0 && decide (i < 131072)
          else decide (131072 ≤ i) && !e.getLsbD 5
            && (if kind = 1 then bits 63 52 e == 0 else bits 47 42 e == 0 && bits 41 39 e != s.straps.devId.toNat)))

/-- An entry without the bits of TARGET that its KIND reserves, which read 0 (R4, Table 11-6). -/
def carrKeep (e : BitVec 64) : BitVec 64 :=
  let k := bits 2 1 e
  e &&& (if k = 0 then 0x7_FFFF_FFFF#64 else if k = 1 then 0xF_FFFF_FFFF_FFFF#64 else 0xFFFF_03FF_FFFF_FFFF#64)

/-- MAP_PAGES. -/
def mapPagesBody : Body := fun k p s =>
  let first := le p 0 4
  let n := le p 4 2
  let es := mapEntries p
  if 1 ≤ n ∧ n ≤ 256 ∧ first + n ≤ 262144 ∧ es.zipIdx.all (fun e => s.entryLegal (first + e.2) e.1) then
    ({ s with mem := { s.mem with mapChanges := s.mem.mapChanges ++ [{ ticket := k, first := first, entries := es.map carrKeep }] } },
     .err Code.accepted)
  else (s, .err Code.notPermitted)

/-- Its row of Table 12-8: 8 + 8 × COUNT parameter bytes. -/
def mapPagesRow : OpRow :=
  { code := 0x0610, long := true, lenOk := fun p => decide (8 ≤ p.length) && p.length == 8 + 8 * le p 4 2 }

def execMapPages (q : Req) (s : State) : Result := lysil mapPagesRow q mapPagesBody s

/-- An access is translated by an old value of an entry that a change writes. -/
def MapChange.outdates (m : MapChange) (v : Nat × BitVec 64) : Bool :=
  decide (m.first ≤ v.1) && (m.entries[v.1 - m.first]?).any fun e => e != v.2

/-- The translation of a granule's place. -/
def Dest.via : Dest → Option (Nat × BitVec 64)
  | .dram _ _ v => some v
  | .host _ v => some v
  | .peer _ _ _ _ v => some v
  | .pool _ => none
  | .spad _ _ => none

/-- The entry that an access which waits has been translated by; one through BAR 0 is translated when it is served. -/
def DramWait.via : DramWait → Option (Nat × BitVec 64)
  | .peerWrite _ _ _ v => some v
  | .peerRead _ _ _ v => some v
  | .barWrite _ _ _ _ => none
  | .barRead _ _ _ => none
  | .coll _ _ _ => none

/-- Every access that an old value of a changed entry translated has completed (R303). -/
def State.mapSettled (s : State) (m : MapChange) : Bool :=
  s.mem.hostReads.all (fun h => !m.outdates h.via) && s.fovar.sent.all (fun g => !m.outdates g.via)
    && s.mem.waiting.all (fun w => !w.via.any m.outdates) && s.channels.all fun c => c.2.moves.all fun v => v.units.all fun u => u.dsts.all fun l => l.all fun d =>
      !d.via.any m.outdates

/-- Write back and invalidate a physical page's lines in every region cache (R304). -/
def State.flushPage (s : State) (page : Nat) : State :=
  forEach (indices 4 fun _ => true) (fun r s =>
    forEach ((s.region r).cache.filter fun l => l.addr / 4096 == page) (fun l s =>
      (s.writeBack r l).updRegion r fun x => x.dropLine l.addr) s) s

/-- The physical page that a cacheable entry holds. -/
def cacheablePage (e : BitVec 64) : Option Nat :=
  if e.getLsbD 0 ∧ bits 2 1 e = 0 ∧ e.getLsbD 5 then some (bits 34 18 e) else none

/-- One entry takes its new value. -/
def State.setCarr (s : State) (i : Nat) (e : BitVec 64) : State :=
  let s := match cacheablePage (s.carrEntry i) with
    | some p => if e.getLsbD 5 ∧ bits 2 1 e = 0 ∧ bits 34 18 e = p then s else s.flushPage p
    | none => s
  { s with mem := { s.mem with carr := Tab.set carrReset s.mem.carr i e, carrBad := s.mem.carrBad.erase i } }

/-- A change flushes a page with a dirty line while DRAM does not serve: it waits (R288, R406). -/
def State.mapWaits (s : State) (m : MapChange) : Bool :=
  !s.dramServes && (List.range m.entries.length).any fun i => (cacheablePage (s.carrEntry (m.first + i))).any fun p =>
    (List.range 4).any fun r => (s.region r).cache.any fun l => l.dirty && l.addr / 4096 == p

/-- MAP_PAGES_DONE: the oldest change is in force, and FAULTED channels try again (R279). -/
def execMapPagesDone (t : Time) (s : State) : Result :=
  whenReady t (fun s =>
    match s.mem.mapChanges with
    | m :: rest =>
      s.onlyIf (s.mapSettled m && !s.mapWaits m) fun s =>
        let s := { s with mem := { s.mem with mapChanges := rest } }
        let s := m.entries.zipIdx.foldl (fun s e => s.setCarr (m.first + e.2) e.1) s
        (s.complete m.ticket Code.ok []).retryFaults
    | [] => s) s

/-! ## The scrubber, the stacks, zeroing -/

/-- Granules of both stacks. -/
def dramGranules : Nat := 2 ^ 29

/-- SCRUB_READ (R290 to R292): the next granule in ascending physical address. A page's count returns to 0 at its last granule; a
pass ends at the last granule of all. -/
def execScrubRead (t : Time) (f : ScrubFinding) (s : State) : Result :=
  whenReady t (fun s => s.onlyIf s.dramServes fun s =>
    let g := s.mem.scrubNext
    let k := s.mem.stackOf (64 * g)
    let s := if s.mem.poison.contains g then s else match f with
      | .clean => s
      | .correctable => s.correctGranule g .nobody
      | .uncorrectable => s.poisonGranule g .nobody
      | .wrong reported d => if reported then (s.wrongGranule g d).correctGranule g .nobody else s.wrongGranule g d
    let s := s.setDramStack k { s.dramStack k with scrubPos := 4 * (g / 4096) }
    let s := if g % 4096 = 4095 then
        { s with mem := { s.mem with pageCe := Tab.set (fun _ => 0) s.mem.pageCe (g / 4096) 0 } }
      else s
    let s := if g + 1 = dramGranules then
        let s := { s with mem := { s.mem with passHours := BitVec.ofNat 8 (bits 15 8 s.mem.config) } }
        (s.countMem 0 5).countMem 1 5
      else s
    { s with mem := { s.mem with scrubNext := (g + 1) % dramGranules } }) s

/-- STACK_TEMPERATURE_READ (Table 11-1): refresh is doubled from 85 degrees on. -/
def execStackTemperatureRead (t : Time) (t0 t1 : BitVec 8) (s : State) : Result :=
  whenReady t (fun s =>
    let put := fun (k : Nat) (v : BitVec 8) (s : State) =>
      s.setDramStack k { s.dramStack k with temp := v, refresh2x := decide (85 ≤ v.toInt) }
    put 1 t1 (put 0 t0 s)) s

/-! ## BAR 0 (R307, R308) -/

/-- The entry of an address that an access at offset `o` touches: one choice for each page of the access (R303). -/
def State.barEntry (s : State) (o va : Nat) : BitVec 64 := (s.viaFrom o va).2

/-- Where a BAR 0 access lies in DRAM: its pieces by granule; none when it faults or leaves the local half. -/
def State.barPieces (s : State) (o : Nat) (data : List Byte) (isWrite : Bool) : Option (List (Nat × Nat × List Byte)) :=
  (pieces data.length o data).foldl (fun acc x => acc.bind fun l =>
    if 2 ^ 35 ≤ 64 * x.1 then none
    else match translateBy (s.barEntry o (64 * x.1)) (64 * x.1) isWrite with
      | .local_ pa _ => some (l ++ [(pa / 64, x.2)])
      | _ => none) (some [])

/-- The entries that an access of `n` bytes is translated by, one of which may read uncorrectable (R301). -/
def State.barEntries (s : State) (o n : Nat) (f : MemFindings) : State :=
  (pieces n o (zeros n)).foldl (fun s x => s.meetEntry (64 * x.1) f.carr) s

/-- One granule of a BAR 0 write: a part of it is a read-modify-write, whose read may find an error; with EP, the granule is poisoned
and counts in POISON_SET. -/
def State.barWritePiece (s : State) (ep : Bool) (f : MemFindings) (x : Nat × Nat × List Byte) (va : Nat) : State :=
  let s := s.writeLocal x.1 x.2.1 x.2.2 ep f { Reader.nobody with va := some va }
  if ep then s.countMem (s.mem.stackOf (64 * x.1)) 2 else s

/-- The granule-aligned device virtual address of piece `k` of an access. -/
def barVa (o k : Nat) : Nat := o / 64 * 64 + 64 * k

/-- A BAR 0 write is served. -/
def State.barWrite (s : State) (o : Nat) (data : List Byte) (ep : Bool) (f : MemFindings) : State :=
  let s := s.barEntries o data.length f
  match s.barPieces o data true with
  | some l => l.zipIdx.foldl (fun s x => s.barWritePiece ep f x.1 (barVa o x.2)) s
  | none => s.countPcie 0

/-- An access from outside waits, behind those that wait already. -/
def State.awaitDram (s : State) (w : DramWait) : State :=
  { s with mem := { s.mem with waiting := s.mem.waiting ++ [w] } }

/-- BAR0_WRITE: while DRAM does not serve, it waits (R288, R406). -/
def execBar0Write (t : Time) (offset : BitVec 36) (data : List Byte) (ep aer : Bool) (f : MemFindings) (s : State) : Result :=
  whenReady t (fun s => s.onlyIf s.mem.pcieLink fun s =>
    let s := (if ep then s.countPcie 2 else s).noteAer aer
    if s.dramServes then s.barWrite offset.toNat data ep f else s.awaitDram (.barWrite offset data ep f)) s

/-- One granule of a BAR 0 read: a poisoned one reads as all ones, with EP. -/
def State.barReadPiece (s : State) (f : MemFindings) (x : Nat × Nat × List Byte) (va : Nat) : (List Byte × Bool) × State :=
  let r := s.readGranule x.1 f { Reader.nobody with va := some va }
  ((if r.1.2 then x.2.2.map fun _ => BitVec.allOnes 8 else slice r.1.1 x.2.1 x.2.2.length, r.1.2), r.2)

/-- A BAR 0 read is served: it returns the DRAM copy (R133). -/
def State.barRead (s : State) (o len : Nat) (f : MemFindings) : State :=
  let s := s.barEntries o len f
  match s.barPieces o (zeros len) false with
  | some l =>
    let r := l.zipIdx.foldl (fun (acc : List Byte × Bool × State) x =>
      let r := acc.2.2.barReadPiece f x.1 (barVa o x.2)
      (acc.1 ++ r.1.1, acc.2.1 || r.1.2, r.2)) ([], false, s)
    r.2.2.send (.barCompletion (some r.1) r.2.1)
  | none => (s.countPcie 1).send (.barCompletion none false)

/-- BAR0_READ: while DRAM does not serve, it waits, behind every earlier write (R308). -/
def execBar0Read (t : Time) (offset : BitVec 36) (len : Nat) (f : MemFindings) (s : State) : Result :=
  whenReady t (fun s => s.onlyIf s.mem.pcieLink fun s =>
    let s := s.noteAer f.aer
    if s.dramServes then s.barRead offset.toNat len f else s.awaitDram (.barRead offset len f)) s

/-! ## BAR 2, configuration, link and reset of the endpoint -/

/-- The bytes of BAR 2 that the MSI-X table and the pending-bit array take (R307). -/
def msixAt (o : Nat) : Bool := decide (o < 0x8100)

/-- The pending vectors whose mask bit is clear send their messages (PRESUMED, log 67). -/
def State.sendPending (s : State) : State :=
  forEach ((List.range 2048).filter fun v => s.mem.isPending v && !s.mem.masked v) (fun v s =>
    { s with mem := s.mem.setPending v false }.interrupt (BitVec.ofNat 11 v)) s

/-- BAR2_ACCESS: bytes outside both structures read as free values and take no write (log 2); the pending bits take none either
(PRESUMED, log 67). -/
def execBar2Access (t : Time) (x : BarAccess) (s : State) : Result :=
  whenReady t (fun s => s.onlyIf s.mem.pcieLink fun s =>
    match x with
    | .read o n aer =>
      let v := (s.noteAer aer).free
      let d := (List.range n).map fun k =>
        if msixAt (o.toNat + k) then v.2.mem.msixByte (o.toNat + k) else v.1.extractLsb' (8 * (k % 64)) 8
      v.2.send (.barCompletion (some d) false)
    | .write o d aer =>
      let s := s.noteAer aer
      let m := d.zipIdx.foldl (fun (m : MemSys) b => if o.toNat + b.2 < 0x8000 then m.putMsix (o.toNat + b.2) b.1 else m) s.mem
      { s with mem := m }.sendPending) s

/-- CONFIGURATION_REQUEST: retry status until command-ready (Table 16-6, stage 5). -/
def execConfigurationRequest (t : Time) (s : State) : Result :=
  let s := s.begin t
  .next (if s.mem.pcieLink then s.send (.configAnswer (s.phase != .ready)) else s)

/-- An access through BAR 0 whose completion the endpoint owes. -/
def DramWait.isBarRead : DramWait → Bool
  | .barRead _ _ _ => true
  | _ => false

/-- PCIE_PERST_N (R458): low resets the endpoint and its configuration space only; the MSI-X table is lost, and so are the reads that
the endpoint has not yet answered. -/
def execPciePerstN (t : Time) (low : Bool) (s : State) : Result :=
  let s := s.begin t
  .next (if low then { s with mem := { s.mem with perstLow := true, pcieLink := false, msix := []
                                                  waiting := s.mem.waiting.filter fun w => !w.isBarRead } }
    else { s with mem := { s.mem with perstLow := false } })

/-- PCIE_LINK_UP (Table 16-6, stage 5): training ends, at the earliest 20 ms after the release of PORST_N and with PCIE_PERST_N
released, while the endpoint is powered and its PLL is locked. -/
def execPcieLinkUp (t : Time) (s : State) : Result :=
  let s := s.begin t
  .next (s.onlyIf (s.pastCheck && !s.mem.perstLow && (s.domain 94).isOn && s.health.lock.getLsbD 2
      && decide (20000000 ≤ s.sinceRelease)) fun s =>
    { s with mem := { s.mem with pcieLink := true } })

/-- PCIE_LINK_DOWN. -/
def execPcieLinkDown (t : Time) (s : State) : Result :=
  let s := s.begin t
  .next { s with mem := { s.mem with pcieLink := false } }

end Sys2Proof.Machine
end

