-- ==== Sys2Proof/Machine/Video.lean ====
section
/-!
DEFINITION. The arithmetic of pictures that the front end and the output channels share: the tone curves (R58, R59), the
conversion to Y'CbCr (R472), the mean of a quad, and the display scaler (R228, R229).
-/

namespace Sys2Proof.Machine

open Sys2Proof

/-- A pixel of three components. -/
abbrev Px := Nat × Nat × Nat

/-- Clamp to 0 to `hi`. -/
def clampTo (hi : Nat) (v : Int) : Nat := min hi v.toNat

/-! ## Curves -/

/-- Points of a linearisation curve: the straight line at reset (R58). -/
def PipeSettings.linearPoint (c : PipeSettings) (e j : Nat) : Nat :=
  match Tab.get (fun _ => []) c.curves e with
  | [] => if j = 256 then 0xFF_FFFF else j * 2 ^ 16
  | ps => ps.getD j 0

/-- Points of curves 3 and 4: 15 × j at reset (R59). -/
def PipeSettings.codePoint (c : PipeSettings) (k j : Nat) : Nat :=
  match Tab.get (fun _ => []) c.curves k with
  | [] => 15 * j
  | ps => ps.getD j 0

/-- Between two points of a curve, the difference rounded to nearest, ties to even (R57). -/
def interpolate (a b frac den hi : Nat) : Nat := clampTo hi (a + rneDiv ((b - a : Int) * frac) den)

/-- A raw word of `n` bits through curve `e` (R58). -/
def PipeSettings.linearise (c : PipeSettings) (e n v : Nat) : Nat :=
  let d := 2 ^ (n - 8)
  interpolate (c.linearPoint e (v / d)) (c.linearPoint e (v / d + 1)) (v % d) d 0xFF_FFFF

/-- A linear value through curve 3 or 4 (R59). -/
def PipeSettings.encode (c : PipeSettings) (k v : Nat) : Nat :=
  if v < 256 then interpolate (c.codePoint k (v / 16)) (c.codePoint k (v / 16 + 1)) (v % 16) 16 0xFFF
  else
    let o := Nat.log2 v
    let d := 2 ^ (o - 4)
    let s := 16 + 16 * (o - 8) + v / d % 16
    interpolate (c.codePoint k s) (c.codePoint k (s + 1)) (v % d) d 0xFFF

/-! ## Y'CbCr (R472) -/

/-- Kr and Kb in 1/10,000: BT.709, BT.601, BT.2020. -/
def lumaWeights (m : Nat) : Nat × Nat := if m = 0 then (2126, 722) else if m = 1 then (2990, 1140) else (2627, 593)

/-- One 12-bit RGB pixel as 10-bit Y', Cb, Cr: computed exactly, rounded once, clamped to 0 to 1,023. -/
def toYuv (m : Nat) (full : Bool) (p : Px) : Px :=
  let w := lumaWeights m
  let r : Int := p.1
  let b : Int := p.2.2
  let y : Int := w.1 * r + (10000 - w.1 - w.2) * (p.2.1 : Int) + w.2 * b
  let dy : Nat := 10000 * 4095
  let chroma := fun (k : Nat) (v : Int) =>
    let d := 4095 * 2 * (10000 - k)
    clampTo 1023 (rneDiv ((if full then 1023 else 896) * (10000 * v - y) + 512 * (d : Int)) d)
  (clampTo 1023 (rneDiv (if full then 1023 * y else 876 * y + 64 * (dy : Int)) dy), chroma w.2 b, chroma w.1 r)

/-- The conversion under a pipeline's FE_CONTROL. -/
def PipeSettings.yuv (c : PipeSettings) (p : Px) : Px := toYuv c.yuvMatrix c.yuvFull p

/-- The mean of a quad, rounded to nearest, ties to even. -/
def quadMean (a b c d : Nat) : Nat := (rneDiv ((a + b + c + d : Nat) : Int) 4).toNat

/-- The 4:2:0 chroma of two rows of pixels: (Cb, Cr) of each quad. -/
def chromaRow : List Px → List Px → List (Nat × Nat)
  | a :: b :: s, c :: d :: t =>
    (quadMean a.2.1 b.2.1 c.2.1 d.2.1, quadMean a.2.2 b.2.2 c.2.2 d.2.2) :: chromaRow s t
  | _, _ => []

/-- A 10-bit sample as a 16-bit P010 word: its upper bits. -/
def p010Bytes (v : Nat) : List Byte := leBytes 2 (64 * v)

/-- Luma and chroma rows in P010 words. -/
def lumaP010 (r : List Px) : List Byte := r.flatMap fun p => p010Bytes p.1
def chromaP010 (r : List (Nat × Nat)) : List Byte := r.flatMap fun p => p010Bytes p.1 ++ p010Bytes p.2

/-! ## The display scaler (R228, R229) -/

/-- Source position and phase of output position `u` (source size `n`, display size `d`). -/
def scalePos (n d u : Nat) : Int × Nat :=
  let q : Int := ((2 * u + 1) * n * 2 ^ 15 / d : Nat) - 2 ^ 15
  let i := q.ediv (2 ^ 16)
  let f := (rneShift (q.emod (2 ^ 16)) 10).toNat
  if f = 64 then (i + 1, 0) else (i, f)

/-- The pairs of display rows that belong to stripe `s` (R228). -/
def displayPairs (c : PipeSettings) (g : PortSettings) (s : Nat) : List Nat :=
  indices (c.displayH / 2) fun i =>
    let y := (2 * i + 1) * g.height / c.displayH
    decide (s * c.stripeH ≤ y) && decide (y < (s + 1) * c.stripeH)

/-- The nearest of `n` positions from `lo`. -/
def nearest (lo n : Nat) (i : Int) : Nat := (max (lo : Int) (min ((lo + n : Nat) - 1 : Int) i)).toNat - lo

/-- One sample of a display row: the taps stay within the stripe's rows, which start at row `row0`, and within the line. -/
def scaleSample (c : PipeSettings) (g : PortSettings) (rows : List (List Px)) (row0 u v : Nat) : Px :=
  let y := scalePos g.height c.displayH v
  let x := scalePos g.width c.displayW u
  let sum := fun (f : Px → Nat) =>
    ((List.range 4).map fun (j : Nat) =>
      ((List.range 4).map fun (k : Nat) =>
        let p := (rows.getD (nearest row0 rows.length (y.1 - 1 + (j : Int))) []).getD (nearest 0 g.width (x.1 - 1 + (k : Int))) (0, 0, 0)
        c.tap y.2 j * c.tap x.2 k * (f p : Int)).sum).sum
  let out := fun f => clampTo 1023 (rneDiv (sum f) 65536)
  (out fun p => p.1, out fun p => p.2.1, out fun p => p.2.2)

/-- One display row, 4:4:4. -/
def scaleRow (c : PipeSettings) (g : PortSettings) (rows : List (List Px)) (row0 v : Nat) : List Px :=
  (List.range c.displayW).map fun u => scaleSample c g rows row0 u v

/-- The display rows of a stripe as pairs: the pair's index, its two rows. -/
def displayStripe (c : PipeSettings) (g : PortSettings) (s : Nat) (rows : List (List Px)) :
    List (Nat × List Px × List Px) :=
  (displayPairs c g s).map fun i =>
    (i, scaleRow c g rows (s * c.stripeH) (2 * i), scaleRow c g rows (s * c.stripeH) (2 * i + 1))

end Sys2Proof.Machine
end

