-- ==== Sys2Proof/Machine/Front.lean ====
section
/-!
DEFINITION. The front ends (chapter 03): the rows they merge, correct, reconstruct and encode (R58 to R67), the statistics
they gather (R72 to R74), the write channel into the STRIPE_IN rings (R204 to R207) and the fallback path (R69 to R71, R472,
R473), with the errors found in them (R374).
-/

namespace Sys2Proof.Machine

open Sys2Proof

/-! ## Merged rows (R58, R61, R62) -/

/-- A Bayer pixel after the merge: its value, whether an exposure of it is pad, whether its shortest exposure clipped, and
the motion decisions taken. -/
structure BayerPx where
  v : Nat
  pad : Bool
  clip : Bool
  motion : Nat
  deriving DecidableEq, Repr

/-- Bayer channel of a site: R 0, Gr 1, Gb 2, B 3, by CFA_ORDER. -/
def PipeSettings.channelAt (c : PipeSettings) (x y : Nat) : Nat := (2 * (y % 2) + x % 2) ^^^ c.cfaOrder

/-- PAD_VALUE as a raw word (Table 02-10). -/
def PortSettings.padWord (g : PortSettings) : Nat := bits (if g.raw12 then 11 else 23) 0 g.pad

/-- The raw word of a pixel, and whether it is pad (R41). -/
def rawAt (g : PortSettings) (l : Option RawLine) (x : Nat) : Nat × Bool :=
  match l with
  | some l => if x < l.padFrom then ((l.words.getD x 0).toNat, false) else (g.padWord, true)
  | none => (g.padWord, true)

/-- One turn of the merge loop of R62. -/
def mergeStep (c : PipeSettings) (vs ss : List Nat) (acc : Nat × Nat) (e : Nat) : Nat × Nat :=
  let v := vs.getD e 0
  let x := ss.getD e 0
  let m := acc.1
  if c.knee e ≤ v then acc
  else if 0 < c.motionThr ∧ c.motionThr * max x m < 256 * ((x : Int) - m).natAbs then (m, acc.2 + 1)
  else
    let w : Int := if v + c.ramp e ≤ c.knee e then 256 else rneDiv (256 * (c.knee e - v : Nat)) (c.ramp e)
    ((rneDiv (w * x + (256 - w) * m) 256).toNat, acc.2)

/-- Stages 1 to 3 of a pixel, from its raw words by exposure. -/
def mergePx (c : PipeSettings) (g : PortSettings) (ch : Nat) (raw : List (Nat × Bool)) : BayerPx :=
  let n := if g.raw12 then 12 else 24
  let vs := raw.mapIdx fun e w => c.linearise e n w.1 - c.blackLevel ch
  let ss := vs.mapIdx fun e v => min (rneDiv ((v * c.gain e : Nat) : Int) 256).toNat 0xFF_FFFF
  let k := g.exposures - 1
  let r := (List.range k).reverse.foldl (mergeStep c vs ss) (ss.getD k 0, 0)
  { v := r.1, pad := raw.any Prod.snd, clip := decide (c.knee k ≤ vs.getD k 0), motion := r.2 }

/-- A merged row. -/
def FrontEnd.mergedRow (x : FrontEnd) (c : PipeSettings) (g : PortSettings) (f : BitVec 32) (y : Nat) : List BayerPx :=
  let ls := (List.range g.exposures).map fun e => x.lines.find? fun l => l.frame == f && l.exposure == e && l.row == y
  (List.range g.width).map fun i => mergePx c g (c.channelAt i y) (ls.map fun l => rawAt g l i)

/-! ## Defect correction (R63, R65) -/

/-- Consecutive rows, from a first one. -/
abbrev Band := Nat × List (List BayerPx)

/-- The value at a pixel of a band, or none outside the frame or the band. -/
def Band.value (b : Band) (x y : Int) : Option Nat :=
  if x < 0 ∨ y < b.1 then none
  else (b.2[y.toNat - b.1]?).bind fun r => (r[x.toNat]?).map BayerPx.v

/-- A pixel is in the static defect table. -/
def PipeSettings.listed (c : PipeSettings) (x y : Int) : Bool :=
  c.defects.any fun e => decide (x = (fld 11 0 e.toNat : Nat)) && decide (y = (fld 23 12 e.toNat : Nat))

/-- The median of up to four values as R63 takes it; none of no value. -/
def medianOf (l : List Nat) : Option Nat :=
  match l.sortBy (fun a b => decide (a ≤ b)) with
  | [a] => some a
  | [a, b] => some (rneDiv ((a + b : Nat) : Int) 2).toNat
  | [_, b, _] => some b
  | [_, b, d, _] => some (rneDiv ((b + d : Nat) : Int) 2).toNat
  | _ => none

/-- The value that replaces a defective pixel: the median of its usable same-channel neighbours. -/
def repaired (c : PipeSettings) (b : Band) (x y : Int) (v : Nat) : Nat :=
  let near := [(x - 2, y), (x + 2, y), (x, y - 2), (x, y + 2)].filter fun p => !c.listed p.1 p.2
  (medianOf (near.filterMap fun p => b.value p.1 p.2)).getD v

/-- A pixel is dynamically defective (R65): beyond every one of its same-channel neighbours by more than DYN_THR. Those outside the frame
are left out (DESIGN CHOICE, log 89). -/
def dynamicDefect (c : PipeSettings) (b : Band) (x y : Int) (v : Nat) : Bool :=
  let near := [(x - 2, y - 2), (x, y - 2), (x + 2, y - 2), (x - 2, y), (x + 2, y), (x - 2, y + 2), (x, y + 2), (x + 2, y + 2)]
  let vs := near.filterMap fun p => b.value p.1 p.2
  c.dynDefectEn && !c.listed x y && !vs.isEmpty
    && (decide (vs.foldl max 0 + c.dynThr < v) || decide (v + c.dynThr < vs.foldl min 0xFFFF_FFFF))

/-- Stage 4 of a row: the pixels, and which were corrected dynamically. -/
def correctRow (c : PipeSettings) (b : Band) (y : Nat) (row : List BayerPx) : List (BayerPx × Bool) :=
  row.mapIdx fun x p =>
    if c.staticDefectEn && c.listed x y then ({ p with v := repaired c b x y p.v }, false)
    else if dynamicDefect c b x y p.v then ({ p with v := repaired c b x y p.v }, true)
    else (p, false)

/-- The merged and corrected rows `lo` to `hi` of a frame. A correction reads its neighbours as they were before any (DESIGN CHOICE, log 89). -/
def FrontEnd.corrected (x : FrontEnd) (c : PipeSettings) (g : PortSettings) (f : BitVec 32) (lo hi : Nat) :
    List (List (BayerPx × Bool)) :=
  let b : Band := (lo - 2, (List.range (min (hi + 2) (g.height - 1) + 1 - (lo - 2))).map fun i =>
    x.mergedRow c g f (lo - 2 + i))
  (List.range (hi + 1 - lo)).map fun i => correctRow c b (lo + i) (b.2.getD (lo + i - b.1) [])

/-! ## Colour reconstruction (R66) -/

/-- Reflect a position about the edge pixel of 0 to n − 1. -/
def reflect (n : Nat) (i : Int) : Nat := if i < 0 then i.natAbs else if n ≤ i.toNat then 2 * (n - 1) - i.toNat else i.toNat

/-- A corrected value in the reflected frame. -/
def Band.at_ (b : Band) (g : PortSettings) (x y : Int) : Int :=
  ((b.value (reflect g.width x) (reflect g.height y)).getD 0 : Nat)

/-- G at a site, in the reflected frame: its own value, or the integer g of R66. -/
def greenAt (c : PipeSettings) (g : PortSettings) (b : Band) (x y : Int) : Int :=
  let x : Int := reflect g.width x
  let y : Int := reflect g.height y
  let v := fun (dx dy : Int) => b.at_ g (x + dx) (y + dy)
  let ch := c.channelAt x.toNat y.toNat
  if ch = 1 ∨ ch = 2 then v 0 0
  else
    let dh := (v (-1) 0 - v 1 0).natAbs + (2 * v 0 0 - v (-2) 0 - v 2 0).natAbs
    let dv := (v 0 (-1) - v 0 1).natAbs + (2 * v 0 0 - v 0 (-2) - v 0 2).natAbs
    let gh := 2 * (v (-1) 0 + v 1 0) + (2 * v 0 0 - v (-2) 0 - v 2 0)
    let gv := 2 * (v 0 (-1) + v 0 1) + (2 * v 0 0 - v 0 (-2) - v 0 2)
    clampTo 0xFF_FFFF (rneDiv (if dh < dv then 2 * gh else if dv < dh then 2 * gv else gh + gv) 8)

/-- Another colour at a site: G there plus the mean of (colour − G) over some neighbours. -/
def otherAt (c : PipeSettings) (g : PortSettings) (b : Band) (x y : Int) (near : List (Int × Int)) : Nat :=
  let n := near.length
  let sum := (near.map fun d => b.at_ g (x + d.1) (y + d.2) - greenAt c g b (x + d.1) (y + d.2)).sum
  clampTo 0xFF_FFFF (rneDiv (n * greenAt c g b x y + sum) n)

/-- Linear R, G, B at a pixel. -/
def rgbAt (c : PipeSettings) (g : PortSettings) (b : Band) (x y : Nat) : Px :=
  let own := (b.at_ g x y).toNat
  let gr := (greenAt c g b x y).toNat
  let row := otherAt c g b x y [(-1, 0), (1, 0)]
  let col := otherAt c g b x y [(0, -1), (0, 1)]
  let dia := otherAt c g b x y [(-1, -1), (1, -1), (-1, 1), (1, 1)]
  let ch := c.channelAt x y
  if ch = 0 then (own, gr, dia) else if ch = 3 then (dia, gr, own) else if ch = 1 then (row, gr, col) else (col, gr, row)

/-! ## Statistics (R72) -/

/-- The histogram bin of a value. -/
def histBin (v : Nat) : Nat :=
  if v < 512 then v / 32 else let o := Nat.log2 v; 16 + 16 * (o - 9) + v / 2 ^ (o - 4) % 16

/-- The zone of a position along an axis of `n` pixels and `k` zones: zone i starts at 2⌊i × n / 2k⌋. -/
def zoneOf (n k x : Nat) : Nat := (indices k fun i => decide (2 * (i * n / (2 * k)) ≤ x)).length - 1

/-- Add to an entry of a sparse count. -/
def bumpNat (t : Tab Nat) (k n : Nat) : Tab Nat := Tab.set (fun _ => 0) t k (Tab.get (fun _ => 0) t k + n)

/-- Count in a histogram. -/
def Stats.count (x : Stats) (h v : Nat) : Stats :=
  { x with hist := Tab.set (fun _ => 0) x.hist (256 * h + histBin v) (Tab.get (fun _ => 0) x.hist (256 * h + histBin v) + 1) }

/-- A non-pad pixel enters the statistics. -/
def Stats.pixel (st : Stats) (c : PipeSettings) (g : PortSettings) (x y : Nat) (p : BayerPx × Bool) : Stats :=
  let ch := c.channelAt x y
  let z := 4 * (32 * zoneOf g.height 24 y + zoneOf g.width 32 x) + ch
  let st := st.count ch p.1.v
  { st with zoneSum := bumpNat st.zoneSum z p.1.v, zoneCount := bumpNat st.zoneCount z 1
            clipped := if p.1.clip then bumpNat st.clipped ch 1 else st.clipped
            pixels := st.pixels + 1, dynDefects := st.dynDefects + (if p.2 then 1 else 0)
            motion := st.motion + p.1.motion }

/-- The luma of a Bayer quad whose upper left pixel is (x, y); each division rounds (R57). -/
def quadLuma (c : PipeSettings) (x y : Nat) (q : List Nat) : Nat :=
  let ofCh := fun k => q.getD ((List.range 4).findIdx fun i => c.channelAt (x + i % 2) (y + i / 2) == k) 0
  clampTo 0xFF_FFFF (rneDiv (c.wr * ofCh 0 + rneDiv (c.wg * (ofCh 1 + ofCh 2) : Nat) 2 + c.wb * ofCh 3) 1024)

/-- The quads of two rows, the upper an even one. A quad that holds a pad pixel is left out (DESIGN CHOICE, log 90). -/
def Stats.quads (st : Stats) (c : PipeSettings) (y : Nat) : Nat → List (BayerPx × Bool) → List (BayerPx × Bool) → Stats
  | x, a :: b :: s, d :: e :: t =>
    let st := if a.1.pad || b.1.pad || d.1.pad || e.1.pad then st
      else st.count 4 (quadLuma c x y [a.1.v, b.1.v, d.1.v, e.1.v])
    st.quads c y (x + 2) s t
  | _, _, _ => st

/-- Row `y` enters the statistics, with the quads it completes. -/
def Stats.row (st : Stats) (c : PipeSettings) (g : PortSettings) (y : Nat) (above row : List (BayerPx × Bool)) : Stats :=
  let st := { st with padded := st.padded || row.any fun p => p.1.pad }
  if !c.statsEn then st else
    let st := (row.mapIdx fun x p => (x, p)).foldl (fun st e => if e.2.1.pad then st else st.pixel c g e.1 y e.2) st
    if y % 2 = 1 then st.quads c (y - 1) 0 above row else st

/-! ## Errors of a front end (R374) -/

/-- A front-end detector's report. -/
def frontFault (q : Nat) (f : BitVec 32) (cls : BitVec 8) : FaultInfo :=
  { cls := cls, detector := Det.frontEndCheck, outcome := Outc.contained, site := .chip Chip.frontEnd q, served := .pipe q
    location := 68 + q, pipeline := some q, frame := some f }

/-- An error of a unit of pipeline `q` in frame `f`, whose last was in frame `last`: contained, and persistent in the second of two
consecutive frames. -/
def State.unitError (s : State) (q : Nat) (f : BitVec 32) (last : Option (BitVec 32)) : State :=
  let s := s.fault (frontFault q f Cls.ucc)
  if last = some (f - 1) then s.fault (frontFault q f Cls.ucf) else s

/-- An error found in the front end of pipeline `q`, its fallback path counted with it (DEDUCED, log 82). -/
def State.frontError (s : State) (q : Nat) (f : BitVec 32) : State :=
  (s.unitError q f (s.pipe q).feErrorFrame).updPipe q fun x => { x with feErrorFrame := some f }

/-- An error found in its statistics. -/
def State.statsError (s : State) (q : Nat) (f : BitVec 32) : State :=
  (s.unitError q f (s.pipe q).statsErrorFrame).updPipe q fun x => { x with statsErrorFrame := some f }

/-! ## ENCODED_ROW_FINAL (R66, R67) -/

/-- How far a row's input reaches: four rows, five with a defect correction (Table 03-17, R63; log 28). -/
def PipeSettings.reach (c : PipeSettings) : Nat := if c.staticDefectEn || c.dynDefectEn then 5 else 4

/-- The last input row that row `r` needs. -/
def PipeSettings.lastNeeded (c : PipeSettings) (g : PortSettings) (r : Nat) : Nat := min (r + c.reach) (g.height - 1)

/-- A line that row `r` reads is poisoned (R30). -/
def FrontEnd.badInput (x : FrontEnd) (c : PipeSettings) (f : BitVec 32) (r : Nat) : Bool :=
  x.lines.any fun l => l.bad && l.frame == f && decide (r ≤ l.row + c.reach) && decide (l.row ≤ r + c.reach)

/-- Every exposure of rows 0 to `r` has been delivered. -/
def FrontEnd.hasRows (x : FrontEnd) (g : PortSettings) (f : BitVec 32) (lo r : Nat) : Bool :=
  (List.range g.exposures).all fun e => (List.range (r + 1 - lo)).all fun i =>
    x.lines.any fun l => l.frame == f && l.exposure == e && l.row == lo + i

/-- The stripes of a job whose input on some block holds row `r`, over the whole set. -/
def FrameJob.stripesWith (j : FrameJob) (l : List Byte) (r : Nat) : List Nat :=
  (List.range j.stripes.length).filter fun i =>
    let sp := stripeSpan l i j.settings.stripeH j.port.height (maskCount j.mask.toNat)
    decide (sp.1 ≤ r) && decide (r < sp.1 + sp.2)

/-- Rows of the encoded store that a stripe still to be written, or the fallback path, needs (R206). -/
def FrameJob.keeps (j : FrameJob) (l : List Byte) (r : Nat) : Bool :=
  !j.delivered && (decide (j.fbRow ≤ r) || !j.idle && (j.stripesWith l r).any fun i => decide (j.write.1 < i) || (i == j.write.1 && decide (j.write.2 ≤ r)))

/-- Drop the encoded rows that nothing needs any more. -/
def State.trimEncoded (s : State) (q : Nat) : State :=
  let l := (s.mapping (s.pipe q).mappingId).image
  s.updPipe q fun x => { x with fe := { x.fe with
    encoded := x.fe.encoded.filter fun e => x.frames.any fun j => j.frame == e.frame && j.keeps l e.row } }

/-- Change the oldest frame job that meets a test, delivered or not. -/
def Pipe.updFirst (x : Pipe) (sel : FrameJob → Bool) (g : FrameJob → FrameJob) : Pipe :=
  { x with frames := match x.frames.findIdx? sel with
      | some i => x.frames.modify i g
      | none => x.frames }

/-- Stripes of a job whose input is in error become FALLBACK_POISON, those that are not yet final (R374). -/
def State.poisonStripes (s : State) (q : Fin 24) (j : FrameJob) (is : List Nat) : State :=
  forEach (is.filter fun i => (j.stripe i).any fun st => st.final.isNone) (fun i s =>
    s.consumePoison (.pipeline q) (j.frame, i) Code.poisonConsumed) s

/-- The next row of a frame becomes final in the line buffer. A stripe that is already final is counted as PADDED as soon as it is
(Table 08-9). -/
def State.encodeRow (s : State) (q : Fin 24) (j : FrameJob) (err : Bool) : State :=
  let c := j.settings
  let g := j.port
  let r := j.feRow
  let fe := (s.pipe q).fe
  let lo := r - 3
  let rows := fe.corrected c g j.frame lo (min (r + 3) (g.height - 1))
  let b : Band := (lo, rows.map fun x => x.map Prod.fst)
  let row := rows.getD (r - lo) []
  let rgb := (List.range g.width).map fun x => rgbAt c g b x r
  let new : EncodedRow := { frame := j.frame, row := r, rgb := rgb
                            codes := rgb.map fun p => (c.encode 3 p.1, c.encode 3 p.2.1, c.encode 3 p.2.2)
                            pad := row.any fun p => p.1.pad, poisoned := err || fe.badInput c j.frame r }
  let s := s.updPipe q fun x => { x with fe := { x.fe with
    encoded := x.fe.encoded ++ [new]
    lines := x.fe.lines.filter fun l => l.frame != j.frame || decide (r < l.row + 5) } }
  let l := (s.mapping (s.pipe q).mappingId).image
  let hit := j.stripesWith l r
  let s := s.updPipe q fun x => x.updFirst (fun y => decide (y.feRow < y.port.height)) fun y =>
    { y with feRow := r + 1, stats := y.stats.row c g r (rows.getD (r - 1 - lo) []) row
             stripes := y.stripes.mapIdx fun i st => if new.pad && hit.contains i then { st with padded := true } else st }
  let late := if new.pad then hit.filter fun i => (j.stripe i).any fun st => st.final.isSome && !st.padded else []
  let s := forEach late (fun _ s => s.countStripe q 4) s
  if err then (s.frontError q j.frame).poisonStripes q j hit else s

def execEncodedRowFinal (t : Time) (q : Fin 24) (err : Bool) (s : State) : Result :=
  whenReady t (fun s =>
    match (s.pipe q).frames.find? fun j => decide (j.feRow < j.port.height) with
    | some j =>
      if (s.pipe q).fe.hasRows j.port j.frame (j.feRow - 5) (j.settings.lastNeeded j.port j.feRow) then s.encodeRow q j err else s
    | none => s) s

/-! ## STRIPE_ROW_WRITE (R204 to R207) -/

/-- Where the write channel stands in a job: the next stripe and row to be written, if any stripe still takes rows. -/
def FrameJob.nextWrite (j : FrameJob) (l : List Byte) : Option (Nat × Nat) :=
  let cand := (List.range j.stripes.length).filter fun i => decide (j.write.1 ≤ i) &&
    (j.stripe i).any fun st => st.final.isNone && !st.cancelled
  cand.findSome? fun i =>
    let sp := stripeSpan l i j.settings.stripeH j.port.height (maskCount j.mask.toNat)
    let r := if i = j.write.1 then max sp.1 j.write.2 else sp.1
    if r < sp.1 + sp.2 then some (i, r) else none

/-- A unit is evicted from the ring of a block (R207): it is cancelled on every block of its set. -/
def State.evict (s : State) (b : Nat) (q : Fin 24) (id : BitVec 32 × Nat) : State :=
  let s := (s.countStripe q 5).updStripe q id.1 id.2 fun st => { st with evicted := true }
  (s.cancelUnit q id.1 id.2).updBlock b fun x => x.closeUnit (.pipeline q) id s.time

/-- A unit's stripe has been evicted. -/
def State.isEvicted (s : State) (q : Fin 24) (id : BitVec 32 × Nat) : Bool :=
  (((s.pipe q).job id.1).bind fun j => j.stripe id.2).any fun st => st.evicted

/-- Evict the oldest unit that still holds slots of a ring, until a slot can be written (R207). The row's own unit may be the one; a slot
that an owed replay holds is not reused (R372), so that eviction goes on to the next. The fuel is the number of units in the ring. -/
def State.makeRoom (s : State) (b : Nat) (q : Fin 24) (h : Nat) (id : BitVec 32 × Nat) (k : Nat) : Nat → State
  | 0 => s
  | n + 1 =>
    match (s.block b).ring h with
    | some r => match r.unitOf id, r.units.find? fun v => r.holds v && !s.isEvicted q v.unit with
      | some u, some old => if r.writable (r.slotAt u k) then s else (s.evict b q old.unit).makeRoom b q h id k n
      | _, _ => s
    | none => s

/-- A parity error on the way of a row's multicast (R276, Tables 14-1 and 14-4). Its checkers are fenced where every block that it goes to
is under suppression (R385). -/
def State.multicastFault (s : State) (r q : Nat) (f : BitVec 32) (i : Nat) (bs : List Nat) (p : DataPath) : FaultInfo :=
  let quiet := bs.filter fun b => s.isSuppressed (.block (Fin.ofNat 64 b))
  { pathFault p { region := some r, pipeline := some q, frame := some f, stripe := some i } with
    suppressed := if quiet.length = bs.length then quiet.head?.map fun b => .block (Fin.ofNat 64 b) else none }

/-- A line buffer's report (Table 14-1): a word of granule `g` of the row is corrected, or is not. -/
def lineFault (q : Nat) (f : BitVec 32) (i g : Nat) (cls out : BitVec 8) : FaultInfo :=
  { cls := cls, detector := Det.memoryEcc, outcome := out, site := .chip Chip.frontEnd q, served := .pipe q
    location := 68 + q, pipeline := some q, frame := some f, stripe := some i, address := some g }

/-- What the read of an encoded row finds in the line buffer and on the multicast network, recorded. -/
def State.rowErrors (s : State) (q r : Nat) (frame : BitVec 32) (i : Nat) (bs : List Nat) (f : MemFindings) : State :=
  let s := (f.parity.map Prod.snd).uniq.foldl (fun s p => s.fault (s.multicastFault r q frame i bs p)) s
  let s := f.lineCorrected.foldl (fun s g => s.fault (lineFault q frame i g Cls.ce Outc.corrected)) s
  f.lineUncorrectable.foldl (fun s g => s.fault (lineFault q frame i g Cls.ucc Outc.contained)) s

/-- A digit plane of an encoded row in C16 containers: 0 is the high plane (R67, R204). -/
def planeRow (codes : List Px) (wAlloc p : Nat) : List Byte :=
  let d := fun v => v / 16 ^ (2 - p) % 16
  packNibbles ((codes ++ List.replicate (wAlloc - codes.length) ((0, 0, 0) : Px)).flatMap fun (px : Px) =>
    [d px.1, d px.2.1, d px.2.2] ++ List.replicate 13 0)

/-- The shift entry of a digit plane (R91): +8, +4, 0. -/
def planeShift (p : Nat) : Byte := BitVec.ofNat 8 (8 - 4 * p)

/-- Write the bytes of one encoded row at its place in a ring; granules with a parity or line-buffer error, and a poisoned row,
are written poisoned. -/
def State.putStripeRow (s : State) (b : Nat) (r : Ring) (t : ImgTensor) (u : RingUnit) (k : Nat) (e : EncodedRow)
    (f : MemFindings) : State :=
  (List.range 3).foldl (fun s p =>
    let d := planeRow e.codes t.wAlloc p
    let at0 := r.rowOffset t u k p
    let s := (pieces d.length at0 d).foldl (fun s x =>
      s.writeSpad b (64 * x.1 + x.2.1) x.2.2
        (e.poisoned || (f.parity.map Prod.fst ++ f.lineUncorrectable).contains (p * (t.rowBytes / 64) + (64 * x.1 + x.2.1 - at0) / 64))) s
    (List.range t.groups).foldl (fun s g => s.writeSpad b (r.entryOffset t u k p g) [planeShift p] false) s) s

/-- Write one encoded row into the STRIPE_IN ring of a block, unless its unit has been evicted meanwhile. -/
def State.stripeRowTo (s : State) (q : Fin 24) (j : FrameJob) (i row b : Nat) (e : EncodedRow) (f : MemFindings) : State :=
  let o := Owner.pipeline q
  match (s.unitPlace b o (j.frame, i)).filter fun _ => s.unitLive o (j.frame, i) with
  | some p =>
    match (s.block b).threadOf o, stripeRings p.image with
    | some t, x :: _ =>
      let h := (t.rings.find? fun m => m.1 == x.ring).elim 0 Prod.snd
      let s := s.updBlock b fun y => y.updRings o fun r =>
        if r.isStripeIn then r.open_ (j.frame, i) (ringUnitRows p.image x p.span p.count p.index) else r
      match ((s.block b).ring h).bind fun r => (r.unitOf (j.frame, i)).map fun u => (r, u) with
      | some (r, u) => match u.place row, ringTensor p.image x with
        | some k, some tn =>
          let s := s.makeRoom b q h (j.frame, i) k r.units.length
          match ((s.block b).ring h).bind fun r => (r.unitOf (j.frame, i)).map fun u => (r, u) with
          | some (r, u) =>
            if r.writable (r.slotAt u k) then
              (s.putStripeRow b r tn u k e f).updBlock b fun y => y.updRings o fun r =>
                if r.isStripeIn then r.rowDone (j.frame, i) row s.time else r
            else s
          | none => s
        | _, _ => s
      | none => s
    | _, _ => s
  | none => s

/-- The write channel copies the next encoded row into the rings of the blocks whose input holds it. -/
def State.stripeRow (s : State) (q : Fin 24) (j : FrameJob) (i row : Nat) (e : EncodedRow) (f : MemFindings) : State :=
  let l := (s.mapping (s.pipe q).mappingId).image
  let n := maskCount j.mask.toNat
  let region := (s.pipe q).setRegion
  let needs := fun (x : Nat) =>
    let sp := stripeInput l i j.settings.stripeH j.port.height n x
    decide (sp.1 ≤ row) && decide (row < sp.1 + sp.2)
  let bs := ((maskBlocks j.mask.toNat).mapIdx fun x k => (x, 16 * region + k)).filter fun p =>
    needs p.1 && s.takesLines p.2
  let s := s.rowErrors q region j.frame i (bs.map Prod.snd) f
  let s := bs.foldl (fun s p => s.stripeRowTo q j i row p.2 e f) s
  (s.updPipe q fun x => x.updFrame j.frame fun y => { y with write := (i, row + 1) }).trimEncoded q

def execStripeRowWrite (t : Time) (q : Fin 24) (f : MemFindings) (s : State) : Result :=
  whenReady t (fun s =>
    let l := (s.mapping (s.pipe q).mappingId).image
    match ((s.pipe q).frames.filter fun j => !j.idle && !j.delivered).findSome? fun j => (j.nextWrite l).map fun w => (j, w) with
    | some (j, w) =>
      match (s.pipe q).fe.encoded.find? fun e => e.frame == j.frame && e.row == w.2 with
      | some e => s.stripeRow q j w.1 w.2 e f
      | none => s
    | none => s) s

/-! ## FALLBACK_ROW_WRITE (R69 to R71, R473) -/

/-- Stages 1 to 3 of R69 on a linear pixel. -/
def PipeSettings.fallbackPx (c : PipeSettings) (p : Px) : Px :=
  let v := [c.encode 4 p.1, c.encode 4 p.2.1, c.encode 4 p.2.2]
  let out := fun i => clampTo 4095 (rneDiv ((List.range 3).map fun j => c.coef i j * (v.getD j 0 : Int)).sum 4096)
  c.yuv (out 0, out 1, out 2)

/-- The free fallback slot a stripe takes: the first after the one taken last (R473). A stripe holds one until it is final (R70). -/
def Pipe.freeSlot (x : Pipe) (n : Nat) : Option Nat :=
  let used := x.frames.flatMap fun j => j.stripes.filterMap fun st => st.fbSlot.filter fun _ => st.final.isNone
  let start := (x.fbLast.map fun k => k + 1).getD 0
  ((List.range n).map fun i => (start + i) % max 1 n).find? fun k => !used.contains k

/-- The address of fallback slot `k` (R473). -/
def slotBase (c : PipeSettings) (g : PortSettings) (k : Nat) : Nat := c.fbBase + k * fbSlotSize c g

/-- Write fallback data of a stripe of pipeline `q`, by device virtual address. -/
def State.putFallback (s : State) (q : Nat) (w : BitVec 32 × Nat) (a : Nat) (d : List Byte) (bad : Bool) (f : MemFindings) : State :=
  (s.writeVa a d bad (.front q w.1 (some w.2)) f).2

/-- The full-resolution rows of a fallback row: its luma, and the chroma of the pair it completes. -/
def State.fallbackRows (s : State) (q : Nat) (w : BitVec 32 × Nat) (c : PipeSettings) (g : PortSettings) (base i : Nat) (above : Option YuvRow)
    (y : YuvRow) (f : MemFindings) : State :=
  let s := s.putFallback q w (base + 2 * g.width * i) (lumaP010 y.px) y.bad f
  match above with
  | some a => if i % 2 = 1 then
      s.putFallback q w (base + 2 * g.width * c.stripeH + 2 * g.width * (i / 2)) (chromaP010 (chromaRow a.px y.px)) (a.bad || y.bad) f
      else s
  | none => s

/-- A display row that reads a poisoned full-resolution row is poisoned. -/
def displayBad (c : PipeSettings) (g : PortSettings) (rows : List YuvRow) (row0 v : Nat) : Bool :=
  (List.range 4).any fun (k : Nat) =>
    (rows[nearest row0 rows.length ((scalePos g.height c.displayH v).1 - 1 + (k : Int))]?).any fun r => r.bad

/-- The display copy of a stripe (R69 stage 5), once its rows are there. -/
def State.fallbackDisplay (s : State) (q : Nat) (w : BitVec 32 × Nat) (c : PipeSettings) (g : PortSettings) (base i : Nat) (rows : List YuvRow)
    (f : MemFindings) : State :=
  let h := displayLines c g
  let at0 := base + 3 * g.width * c.stripeH
  ((displayStripe c g i (rows.map fun r => r.px)).mapIdx fun k p => (k, p)).foldl (fun s e =>
    let bad := fun v => displayBad c g rows (i * c.stripeH) v
    let s := s.putFallback q w (at0 + 2 * c.displayW * (2 * e.1)) (lumaP010 e.2.2.1) (bad (2 * e.2.1)) f
    let s := s.putFallback q w (at0 + 2 * c.displayW * (2 * e.1 + 1)) (lumaP010 e.2.2.2) (bad (2 * e.2.1 + 1)) f
    s.putFallback q w (at0 + 2 * c.displayW * h + 2 * c.displayW * e.1) (chromaP010 (chromaRow e.2.2.1 e.2.2.2))
      (bad (2 * e.2.1) || bad (2 * e.2.1 + 1)) f) s

/-- A stripe's first fallback row is due: it takes a slot, or is dropped (R473). A stripe that is already NEURAL needs none. -/
def State.takeSlot (s : State) (q : Nat) (j : FrameJob) (i : Nat) : State :=
  if (j.stripe i).any fun st => st.final == some .neural then s
  else match (s.pipe q).freeSlot (fbSlots j.settings) with
    | some k => (s.updStripe q j.frame i fun st => { st with fbSlot := some k }).updPipe q fun x => { x with fbLast := some k }
    | none => (s.updStripe q j.frame i fun st => { st with fbDropped := true }).countStripe q 7

/-- An error of the fallback path at a row: its encoded granules are poisoned too, and the stripes whose input holds it (R374). -/
def State.fallbackError (s : State) (q : Fin 24) (j : FrameJob) (r : Nat) : State :=
  let s := s.updPipe q fun x => { x with fe := { x.fe with
    encoded := x.fe.encoded.map fun e => if e.frame == j.frame && e.row == r then { e with poisoned := true } else e } }
  (s.frontError q j.frame).poisonStripes q j (j.stripesWith (s.mapping (s.pipe q).mappingId).image r)

/-- The next fallback row of a frame. -/
def State.fallbackRow (s : State) (q : Fin 24) (j : FrameJob) (e : EncodedRow) (err : Bool) (f : MemFindings) : State :=
  let c := j.settings
  let g := j.port
  let i := e.row / c.stripeH
  let k := e.row % c.stripeH
  let y : YuvRow := { row := e.row, px := e.rgb.map c.fallbackPx, bad := e.poisoned || err }
  let s := if err then s.fallbackError q j e.row else s
  let s := if k = 0 then (s.takeSlot q j i).updPipe q fun x => { x with fe := { x.fe with yuv := [] } } else s
  let rows := (s.pipe q).fe.yuv ++ [y]
  let slot := (((s.pipe q).job j.frame).bind fun j => j.stripe i).bind fun st => st.fbSlot
  let last := k + 1 = c.stripeH ∨ e.row + 1 = g.height
  let s := match slot with
    | some n =>
      let s := s.fallbackRows q (j.frame, i) c g (slotBase c g n) k (rows[k - 1]?) y f
      if last then s.fallbackDisplay q (j.frame, i) c g (slotBase c g n) i rows f else s
    | none => s
  let s := s.updPipe q fun x => ({ x with fe := { x.fe with yuv := rows } }).updFrame j.frame fun y =>
    { y with fbRow := e.row + 1, stripes := y.stripes.modify i fun st => { st with fbRows := k + 1 } }
  (s.fallbackFinal q j.frame i).trimEncoded q

def execFallbackRowWrite (t : Time) (q : Fin 24) (err : Bool) (f : MemFindings) (s : State) : Result :=
  whenReady t (fun s =>
    match (s.pipe q).frames.find? fun j => !j.delivered && decide (j.fbRow < j.port.height) with
    | some j =>
      match (s.pipe q).fe.encoded.find? fun e => e.frame == j.frame && e.row == j.fbRow with
      | some e => s.onlyIf (!s.deviceWaits j.settings.fbBase) fun s => s.fallbackRow q j e err f
      | none => s
    | none => s) s

/-! ## STATS_PACKET_WRITE (R73, R74) -/

/-- A zone's mean with 8 fraction bits; all ones when it holds no pixel (R72). -/
def Stats.zoneMean (x : Stats) (z : Nat) : Nat :=
  let n := Tab.get (fun _ => 0) x.zoneCount z
  if n = 0 then 0xFFFF_FFFF else (rneDiv ((256 * Tab.get (fun _ => 0) x.zoneSum z : Nat) : Int) n).toNat

/-- The packet of a frame (R73). -/
def State.statsPacket (s : State) (q : Nat) (j : FrameJob) : List Byte :=
  let x := s.pipe q
  let st := j.stats
  let u := s.heronOf q
  let hits := (u.map fun u => (s.heron u).applied.filter fun a => a.1 == j.frame).getD []
  let tagged := u.isSome
  let ones := fun n => leBytes n (2 ^ (8 * n) - 1)
  leBytes 2 1 ++ leBytes 1 q ++ leBytes 1 (flagAt 0 tagged + flagAt 1 st.padded + flagAt 2 (hits.any fun a => a.2.2)
      + flagAt 3 st.checkError)
    ++ (if tagged then leBytes 4 j.frame.toNat ++ leBytes 8 j.startTime.toNat ++ leBytes 8 (j.endTime.getD 0).toNat
        else ones 4 ++ ones 8 ++ ones 8)
    ++ leBytes 4 x.statsSeq.toNat ++ leBytes 4 (if tagged then (hits.getLast?.map fun a => a.2.1.toNat).getD 0 else 0)
    ++ ((List.range 4).flatMap fun c => leBytes 4 (Tab.get (fun _ => 0) st.clipped c))
    ++ leBytes 4 st.pixels ++ leBytes 4 st.dynDefects ++ leBytes 4 st.motion ++ zeros 4
    ++ ((List.range 1280).flatMap fun k => leBytes 4 (Tab.get (fun _ => 0) st.hist k).toNat)
    ++ ((List.range 3072).flatMap fun z => leBytes 4 (st.zoneMean z))

/-- The statistics ring is full (R74). -/
def Pipe.statsFull (x : Pipe) : Bool :=
  (x.statsProducer.toNat + 1) % (x.live.statsSlotsM1 + 1) == x.statsConsumed.toNat

/-- Deliver a packet into the ring, or drop it; SLOTS_M1 = 0 disables delivery. -/
def State.deliverStats (s : State) (q : Nat) (frame : BitVec 32) (d : List Byte) (f : MemFindings) : State :=
  let x := s.pipe q
  let c := x.live
  if c.statsSlotsM1 = 0 then s
  else if x.statsFull then s.updPipe q fun x => { x with statsDropped := sat32 x.statsDropped }
  else
    let s := (s.writeVa (c.statsBase + 17472 * x.statsProducer.toNat) d false (.front q frame none) f).2
    let s := s.updPipe q fun x => { x with
      statsProducer := BitVec.ofNat 8 ((x.statsProducer.toNat + 1) % (c.statsSlotsM1 + 1)) }
    if c.statsMsix then s.interrupt c.statsVector else s

/-- A frame's packet is written, without statistics when STATS_EN is 0 (DESIGN CHOICE, log 90); a job whose result is delivered is then
gone. -/
def State.statsWrite (s : State) (q : Fin 24) (j : FrameJob) (err : Bool) (f : MemFindings) : State :=
  let s := if err then s.statsError q j.frame else s
  let j := if err then { j with stats := { j.stats with checkError := true } } else j
  let s := s.deliverStats q j.frame (s.statsPacket q j) f
  let s := match s.heronOf q with
    | some u => s.setHeron u { s.heron u with applied := (s.heron u).applied.filter fun a => a.1 != j.frame }
    | none => s
  s.updPipe q fun x =>
    let x := x.updFirst (fun y => !y.statsDone) fun y => { y with statsDone := true }
    { x with statsSeq := x.statsSeq + 1, frames := x.frames.filter fun y => !(y.delivered && y.statsDone) }

def execStatsPacketWrite (t : Time) (q : Fin 24) (err : Bool) (f : MemFindings) (s : State) : Result :=
  whenReady t (fun s =>
    match (s.pipe q).frames.find? fun j => !j.statsDone with
    | some j => s.onlyIf (j.endTime.isSome && decide (j.port.height ≤ j.feRow) && !s.deviceWaits (s.pipe q).live.statsBase) fun s =>
        s.statsWrite q j err f
    | none => s) s

end Sys2Proof.Machine
end

