-- ==== Sys2Proof/Machine/Protocol.lean ====
section
/-!
DEFINITION. NOP, EVENT_READ, SESSION_OPEN, and what the Ethernet ports do beside Lysil (R312 to R314, R326 to R330): link,
gPTP, the session's lease, reassembly, ARP, ICMP and MKA.
-/

namespace Sys2Proof.Machine

open Sys2Proof

/-! ## Requests -/

/-- Control SRAM's record: a corrected word makes a CE record; an uncorrectable word of a microcode bank is reloaded from
the bank's flash slot, and makes a UCF record (R366, Table 14-1). The bank then holds what it held. -/
def State.bankRead (s : State) : BankFinding → State
  | .clean => s
  | .corrected =>
    s.fault { cls := Cls.ce, detector := Det.memoryEcc, outcome := Outc.corrected, site := .chip Chip.controlSram 0 }
  | .uncorrectable =>
    s.fault { cls := Cls.ucf, detector := Det.mappingStore, outcome := Outc.corrected, site := .chip Chip.controlSram 0 }

/-- NOP (Table 12-8), and every datagram whose OPCODE is in no row: check 11 answers it with BAD_OPCODE. -/
def execNop (q : Req) (opcode : BitVec 16) (bank : BankFinding) (s : State) : Result :=
  if opcode = Opc.nop then lysil (opRow 0x0001 0 false true) q (fun _ _ s => (s.bankRead bank, .ok)) s
  else if knownOpcodes.contains opcode then .refused .otherRow
  else lysil { code := opcode, lenOk := fun _ => true } q (fun _ _ s => (s, .err Code.badOpcode)) s

/-- OLDEST, the oldest EVENT_SEQ that a port's event ring holds. -/
def Eth.oldest (e : Eth) : BitVec 32 := e.nextEvent - BitVec.ofNat 32 e.ring.length

/-- The ring entries from a number onward, one older than OLDEST from OLDEST (R326, R389). -/
def fromOnward {α : Type} (ring : List α) (oldest start : BitVec 32) (n : Nat) : List α :=
  slice ring (if (start - oldest).toNat < 2 ^ 31 then (start - oldest).toNat else 0) n

/-- A stored packet in its 128-byte field. -/
def packetField (p : Packet) : List Byte := p.bytes ++ zeros (128 - p.bytes.length)

/-- EVENT_READ (R326) reads the event ring of the port it arrives on (R330). -/
def eventReadBody : Body := fun k p s =>
  let e := s.ethOf k.port
  let n := le p 4 1
  if 1 ≤ n ∧ n ≤ 8 then
    (s, .ok (leBytes 4 e.oldest.toNat ++ leBytes 4 e.nextEvent.toNat
      ++ (fromOnward e.ring e.oldest (BitVec.ofNat 32 (le p 0 4)) n).flatMap packetField))
  else (s, .err Code.notPermitted)

def execEventRead (q : Req) (s : State) : Result := lysil (opRow 0x0006 8 false true) q eventReadBody s

/-- Every queue's expected sequence goes to 0 and its stored ACK is cleared; outstanding commands stay (R328). -/
def Eth.resetQueues (e : Eth) : Eth :=
  { e with queues := (List.range 16).foldl (fun t i =>
      Tab.set (fun _ => Queue.reset) t i { Tab.get (fun _ => Queue.reset) t i with expected := 0, stored := none }) e.queues }

/-- SESSION_OPEN (R328). -/
def sessionOpenBody : Body := fun k _ s =>
  let s := { s with session := some { addr := k.srcAddr, port := k.srcPort, since := s.time, lastValid := s.time
                                      lapsed := false } }
  let s := s.setEth .a (s.ethOf .a).resetQueues
  let e := s.ethOf .a
  (s, .ok (leBytes 8 s.deviceId ++ leBytes 4 e.oldest.toNat ++ leBytes 4 e.nextEvent.toNat))

def execSessionOpen (q : Req) (s : State) : Result := lysil (opRow 0x0007 0) q sessionOpenBody s

/-- The lease of R328 has run out: the peer has sent no valid request for LEASE_MS. -/
def State.leaseOver (s : State) : Bool :=
  s.session.any fun x => decide (x.lastValid.toNat + (s.ethOf .a).leaseMs * 1000000 ≤ s.now)

def execLeaseExpired (t : Time) (s : State) : Result :=
  let s := s.begin t
  .next (s.onlyIf s.leaseOver fun s => { s with session := s.session.map fun x => { x with lapsed := true } })

/-! ## Links and frames -/

/-- A port takes frames. -/
def Eth.hears (e : Eth) : Bool := e.up && e.link

/-- Loss of link stops nothing else; what a port has to send waits in its ring (R313, R326). -/
def execLinkDown (t : Time) (e : EthPort) (s : State) : Result :=
  let s := s.begin t
  .next (s.setEth e { s.ethOf e with link := false })

def execLinkUp (t : Time) (e : EthPort) (s : State) : Result :=
  let s := s.begin t
  .next (s.onlyIf ((s.ethOf e).up && (e == .a || (s.domain 99).isOn)) fun s => s.setEth e { s.ethOf e with link := true })

/-- A datagram is not reassembled within 2 ms (Table 12-1). -/
def execReassemblyAbandoned (t : Time) (e : EthPort) (d : DatagramKey) (s : State) : Result :=
  let s := s.begin t
  let x := s.ethOf e
  .next (s.setEth e { x with reassembly := x.reassembly.filter fun y => y.1 != d || s.now < y.2.toNat + 2000000 })

/-- A frame beside a datagram's reaches the port: it passes the filters of Table 12-1, or is dropped, counted where
MACsec drops it (Table 12-15). -/
def State.takeEthFrame (s : State) (e : EthPort) (h : FrameHead) (secured : Bool) (f : State → State) : State :=
  let x := s.ethOf e
  s.onlyIf x.hears fun s =>
    if !h.fcsOk then s.linkError e false
    else s.onlyIf (x.vlanFits h.vid && h.len ≤ x.maxFrame) fun s => if x.macsecDrops secured then s.countEth e 7 else f s

/-- ARP (RFC 826): a known sender's entry is updated; a frame for this port's address adds one, and a request is answered. -/
def execArp (t : Time) (e : EthPort) (h : FrameHead) (secured isRequest : Bool) (senderMac : BitVec 48) (senderAddr target : BitVec 32) (s : State) :
    Result :=
  let s := s.begin t
  let x := s.ethOf e
  let mine := target.toNat == x.ipv4
  let known := x.arp.any fun a => a.1 == senderAddr
  let table := (x.arp.filter fun a => a.1 != senderAddr) ++ (if known || mine then [(senderAddr, senderMac)] else [])
  .next (s.takeEthFrame e h secured fun s =>
    (s.setEth e { x with arp := table }).onlyIf (mine && isRequest) fun s =>
      s.send (.arp e x.tag true senderAddr senderMac))

/-- An echo comes in one frame, or its data has at most 8,192 bytes, as a Lysil datagram's (Table 12-1). -/
def echoFits (h : FrameHead) (data : List Byte) : Bool := data.length ≤ max 8192 (h.len - 46)

/-- ICMP echo (RFC 792): a request to this port's address is answered with its data. -/
def execIcmpEcho (t : Time) (e : EthPort) (h : FrameHead) (secured : Bool) (srcAddr dstAddr : BitVec 32) (data : List Byte) (s : State) : Result :=
  let s := s.begin t
  .next (s.takeEthFrame e h secured fun s => s.onlyIf (dstAddr.toNat == (s.ethOf e).ipv4 && echoFits h data) fun s =>
    s.send (.icmpReply e (s.ethOf e).tag srcAddr data))

/-- An MKA frame (Table 12-1): the secure channel stands, or not, after it. -/
def execEapol (t : Time) (e : EthPort) (established : Bool) (s : State) : Result :=
  let s := s.begin t
  let x := s.ethOf e
  .next (s.onlyIf (x.hears && x.macsecEn) fun s => s.setEth e { x with macsecUp := established })

/-! ## gPTP (R314) -/

/-- MAX_PPM, STEP_THR_US and DOMAIN of TIME_CONFIG (Table 12-16). -/
def TimeBase.maxPpm (b : TimeBase) : Nat := bits 31 16 b.config
def TimeBase.stepNs (b : TimeBase) : Int := 1000 * (bits 15 0 b.config : Nat)
def TimeBase.domain (b : TimeBase) : Nat := bits 47 40 b.config

/-- The time state changes; a change sends TIME_STATE on port A (R314, Table 12-4). -/
def State.setTimeState (s : State) (x : TimeState) : State :=
  let old := s.base.state
  let s := { s with base := { s.base with state := x } }
  if x = old then s
  else s.event .a 0x01F0 (leBytes 8 s.now ++ leBytes 1 (timeStateCode x) ++ leBytes 1 (timeStateCode old) ++ zeros 6
    ++ leBytes 8 (s.base.offset.emod (2 ^ 64)).toNat)

/-- No pipeline streams and no standalone job runs: device time may step (R314). -/
def State.mayStep (s : State) : Bool :=
  (List.range 24).all (fun p => (s.pipe p).stream == .stopped) && s.jobs.all fun j => j.state != .running

/-- The rate correction against an offset: at most MAX_PPM towards it, of an amount that R314 leaves open (log 2); none
once the offset is 100 ns or less. -/
def State.slew (s : State) (off : Int) : State :=
  let (v, s) := s.free
  let r : Int := (v.toNat % (s.base.maxPpm + 1) : Nat)
  { s with base := { s.base with ratePpm := if off.natAbs ≤ 100 then 0 else if 0 < off then -r else r } }

/-- A Sync is received (R314). -/
def State.syncAt (s : State) (gptp : Time) (interval : BitVec 32) : State :=
  let off : Int := (s.time.toNat : Int) - gptp.toNat
  let s := { s with base := { s.base with offset := off, syncInterval := interval } }
  if off < -s.base.stepNs ∧ s.mayStep = true then
    { s with time := gptp, base := { s.base with lastSync := gptp, ratePpm := 0, stepped := s.base.stepped + (gptp.toNat - s.now) } }.setTimeState .synced
  else
    let s := { s with base := { s.base with lastSync := s.time } }.slew off
    s.setTimeState (if s.base.stepNs < off.natAbs then .slewing else .synced)

/-- gPTP runs on the port whose GPTP bit is set, from stage 4 of start-up (R312, R436). -/
def State.gptpRuns (s : State) (e : EthPort) : Bool :=
  s.pastCheck && (s.ethOf e).link && (s.ethOf e).gptp

/-- A gPTP Sync counts on the port whose GPTP bit is set, in the configured domain (Tables 12-1 and 12-16). -/
def execSync (t : Time) (e : EthPort) (gptp : BitVec 64) (domain : BitVec 8) (intervalNs : BitVec 32) (s : State) :
    Result :=
  let s := s.begin t
  .next (s.onlyIf (s.gptpRuns e && domain.toNat == s.base.domain) fun s =>
    s.syncAt gptp intervalNs)

/-- With no Sync for 3 sync intervals the state is HOLDOVER; the last rate is kept (R314). -/
def execHoldover (t : Time) (s : State) : Result :=
  let s := s.begin t
  .next (s.onlyIf (s.base.state != .freeRun && decide (s.base.lastSync.toNat + 3 * s.base.syncInterval.toNat ≤ s.now))
    fun s => s.setTimeState .holdover)

end Sys2Proof.Machine
end

