-- ==== Sys2Proof/Machine/Engine.lean ====
section
/-!
DEFINITION. The end of a step (R13, R98, R99, R187 to R193, R368, R371, R373, R391): its sums enter the accumulators, finished
elements become codes under R102 to R107 and reach their output granules (R163), groups are judged (R107, R109) and replayed
(R110), and a check mismatch is resolved.
-/

namespace Sys2Proof.Machine

open Sys2Proof

/-! ## Accumulator elements (R98, R130) -/

/-- An element of an owner. -/
def Block.accOf (x : Block) (o : Owner) (e : Elem) : Option Isauri40 := (x.acc.find? fun a => a.1 == (o, e)).map Prod.snd

/-- Give an element a value. -/
def Block.setAcc (x : Block) (o : Owner) (e : Elem) (v : Isauri40) : Block :=
  { x with acc := (x.acc.filter fun a => a.1 != (o, e)) ++ [((o, e), v)] }

/-- Elements of an owner that meet a test carry no meaning any more. -/
def Block.dropAcc (x : Block) (o : Owner) (p : Elem → Bool) : Block :=
  { x with acc := x.acc.filter fun a => !(a.1.1 == o && p a.1.2), accPoison := x.accPoison.filter fun a => !(a.1 == o && p a.2) }

/-- An element is poisoned. -/
def Block.bad (x : Block) (o : Owner) (e : Elem) : Bool := x.accPoison.contains (o, e)

/-- Poison elements. -/
def Block.poisonElems (x : Block) (o : Owner) (es : List Elem) : Block :=
  { x with accPoison := x.accPoison ++ (es.filter fun e => !x.bad o e).map fun e => (o, e) }

/-- Count in ARITH_COUNTERS and WINDOW_COUNTERS. -/
def Block.countArith (x : Block) (w n : Nat) : Block := { x with arith := x.arith.add w n }
def Block.countWindow (x : Block) (w n : Nat) : Block := { x with window := x.window.add w n }

/-- An addition's result, its saturation counted (Table 04-11). -/
def Block.putSum (x : Block) (o : Owner) (e : Elem) (r : Isauri40 × Bool) : Block :=
  (x.setAcc o e r.1).countArith 6 (if r.2 then 1 else 0)

/-- The operator of an element, transform-domain elements included. -/
def Elem.opOf (e : Elem) : Nat := e.op % 65536

/-- An element lies in the transform domain of CONV_WINOGRAD. -/
def Elem.isWino (e : Elem) : Bool := decide (65536 ≤ e.op)

/-- The bias of an output channel (R97). -/
def Ctx.bias (c : Ctx) (i ch : Nat) : Isauri40 :=
  let x := imgChan c.image (c.op i) ch
  ⟨x.biasSig, x.biasExp⟩

/-- The value that an element starts from: its bias for MATMUL and CONV, else 0. -/
def Ctx.startValue (c : Ctx) (e : Elem) : Isauri40 :=
  let o := c.op e.opOf
  if (o.isMatmul || o.isConv) && !e.isWino then c.bias e.opOf e.c else ⟨0, 0⟩

/-- One sum of a step enters its element (R99, R189, R190, R193). -/
def Ctx.addSum (c : Ctx) (x : Block) (a : Elem × Int × Int) : Block :=
  let e := a.1
  let v : Isauri40 := ⟨a.2.1, a.2.2⟩
  let o := c.op e.opOf
  if o.isPoolMax then if (x.accOf c.o e).all fun w => ltI40 w v then x.setAcc c.o e v else x
  else if o.isS2D || o.isD2S then x.setAcc c.o e v
  else x.putSum c.o e (addI40 ((x.accOf c.o e).getD (c.startValue e)) a.2.1 a.2.2)

/-- The in-bounds taps of an output of a pooling operator (R175). -/
def Ctx.tapsOf (c : Ctx) (e : Elem) : Nat :=
  let o := c.op e.op
  ((List.range (o.kh * o.kw)).filter fun t => (o.pixel (c.tensor e.op .a) e.y e.x t).isSome).length

/-- The transform-domain element of position `t` for an output of CONV_WINOGRAD. -/
def Elem.wino (e : Elem) (t : Nat) : Elem := { e with op := winoOp e.op t, y := e.y / 2, x := e.x / 2 }

/-- The value of an element once its last step has ended: POOL_AVG divides (R190), CONV_WINOGRAD transforms and adds its bias
(R187); and whether that saturates. -/
def Ctx.finalValue (c : Ctx) (x : Block) (e : Elem) : Isauri40 × Bool :=
  let o := c.op e.op
  let v := (x.accOf c.o e).getD (c.startValue e)
  if o.isPoolAvg then
    let n := if o.avgInBounds then c.tapsOf e else o.kh * o.kw
    if n = 0 then (⟨0, 0⟩, false) else shrinkI40 64 (rneDiv (v.sig * 2 ^ 16) n) (v.exp - 16)
  else if o.isWino then
    let b := c.bias e.op e.c
    let terms := (List.range 16).map fun t =>
      let m := (x.accOf c.o (e.wino t)).getD ⟨0, 0⟩
      (winoCoef (e.y % 2) (t / 4) * winoCoef (e.x % 2) (t % 4) * m.sig, m.exp)
    (terms ++ [(b.sig, b.exp)]).foldl (fun acc a =>
      let r := addI40 acc.1 a.1 a.2
      (r.1, acc.2 || r.2)) (⟨0, 0⟩, false)
  else (v, false)

/-- Elements whose last step has ended take their final values; the transform-domain elements of their patches go. -/
def Ctx.finishElems (c : Ctx) (x : Block) (es : List Elem) : Block :=
  let x' := es.foldl (fun y e => y.putSum c.o e (c.finalValue x e)) x
  if es.any fun e => (c.op e.op).isWino then
    x'.dropAcc c.o fun a => a.isWino && es.any fun e =>
      e.op == a.opOf && e.n == a.n && e.c == a.c && e.y / 2 == a.y && e.x / 2 == a.x
  else x'

/-! ## Output places (R152, R163, R470) -/

/-- The level at which an operator's output is staged first, if it is. -/
def Ctx.outLevel (c : Ctx) (i : Nat) : Option Nat := c.srcLevel i .out 1

/-- The staged output tile of an element at a level: the tile of the first step that reaches it. -/
def Ctx.outOrigin (c : Ctx) (i v : Nat) (e : Elem) : Option (List Nat) :=
  ((c.walk i).find? fun st => st.reaches e).bind fun st => st.parents[v - 1]?

/-- Where the granule that holds an output element lies; none while its tile has no buffer. -/
def State.outPlace (s : State) (c : Ctx) (e : Elem) : Option Place :=
  let i := e.op
  let t := c.tensor i .out
  let g := granuleOf t e.c e.x
  match c.outLevel i with
  | some v => (c.outOrigin i v e).bind fun org => (c.stagedTile i v .out org).bind fun st =>
      ((c.gbox i .out (boxOf (c.walk i) v org)).index e.n g.1 e.y g.2).map fun k => c.bufPlace i v (st.line + k)
  | none => (s.homeRow c t e.n g.1 e.y).map fun p => p.add (64 * g.2)

/-- The granule of an output element: fold, channel block, row, granule. -/
def outGranule (t : ImgTensor) (e : Elem) : Nat × Nat × Nat × Nat :=
  (e.n, (granuleOf t e.c e.x).1, e.y, (granuleOf t e.c e.x).2)

/-- Element `k` of granule `g` of channel block `cb` holds no valid element (R163). -/
def isPadding (t : ImgTensor) (cb g k : Nat) : Bool :=
  if t.isToken then decide (t.c ≤ 128 * g + k)
  else decide (t.w ≤ (128 * g + k) / t.cw) || decide (t.c ≤ cb * t.cw + k % t.cw)

/-- Write the codes that lie in one granule: other elements keep what they hold, and what is no element carries OUT_ZP. The
granule is poisoned if one of its elements is. -/
def State.writeGranuleCodes (s : State) (c : Ctx) (i : Nat) (codes : List (Elem × Nat)) (g : Nat × Nat × Nat × Nat) : State :=
  let t := c.tensor i .out
  let mine := codes.filter fun x => outGranule t x.1 == g
  match (mine.head?.bind fun x => s.outPlace c x.1) with
  | some (.spad a) =>
    let old := s.spad.bytes (spadAddr c.b 0 + a) 64
    let nib := fun k => match mine.find? fun x => inGranule t x.1.c x.1.x == k with
      | some x => x.2
      | none => if isPadding t g.2.1 g.2.2.2 k then (c.op i).outZp else nibble old k
    let bad := (s.block c.b).accPoison.any fun p => p.1 == c.o && p.2.op == i && outGranule t p.2 == g
    s.writeSpad c.b a (packNibbles ((List.range 128).map nib)) bad
  | _ => s

/-- Write codes of an operator. -/
def State.writeCodes (s : State) (c : Ctx) (i : Nat) (codes : List (Elem × Nat)) : State :=
  forEach ((codes.map fun x => outGranule (c.tensor i .out) x.1).uniq) (fun g s => s.writeGranuleCodes c i codes g) s

/-- Write a group's shift entry at its home, where that is in the scratchpad (R145, R157). -/
def State.writeEntry (s : State) (c : Ctx) (k : GroupKey) (e : Byte) : State :=
  match s.homeEntry c (c.tensor k.op .out) k.fold k.cb k.row k.grp with
  | some (.spad a) => s.writeSpad c.b a [e] false
  | _ => s

/-! ## Groups -/

/-- Change a group of a unit. -/
def UnitRun.updGroup (u : UnitRun) (k : GroupKey) (f : Group → Group) : UnitRun :=
  { u with groups := u.groups.map fun g => if g.key == k then f g else g }
def State.updGroup (s : State) (b : Nat) (o : Owner) (k : GroupKey) (f : Group → Group) : State :=
  s.updRun b o fun u => u.updGroup k f

/-- A group of a unit. -/
def Ctx.group (c : Ctx) (k : GroupKey) : Option Group := c.run.groups.find? fun g => g.key == k

/-- The shift and FLAT that an entry of a group carries (R93, R103, R107, R110). -/
def Group.entry (g : Group) : Byte :=
  let x := if g.flat || g.replayed || g.carried.isNone then g.measured else g.carried
  shiftEntry (x.getD (-32)) g.flat g.replayed

/-- Values of elements that are not poisoned. -/
def Block.goodValues (x : Block) (o : Owner) (es : List Elem) : List Isauri40 :=
  (es.filter fun e => !x.bad o e).filterMap (x.accOf o)

/-- The measured shift and FLAT of a group (R103 to R105). -/
def State.measure (s : State) (c : Ctx) (k : GroupKey) : Int × Bool :=
  let es := c.groupElems k
  let x := s.block c.b
  onlineShift (c.op k.op).outBits (c.op k.op).outZp (x.goodValues c.o es) (es.any (x.bad c.o))

/-- The code of an element under a shift and whether it clips; a poisoned one's is z (R102, R104). -/
def State.codeOf (s : State) (c : Ctx) (x : Int) (e : Elem) : Nat × Bool :=
  let o := c.op e.op
  let b := s.block c.b
  if b.bad c.o e then (o.outZp, false) else requant o.outBits o.outZp ((b.accOf c.o e).getD ⟨0, 0⟩) x

/-- The key of a carry-store entry: PREV_ROW keeps one entry for all rows (R106, R166). -/
def Ctx.carryKey (c : Ctx) (k : GroupKey) : GroupKey := if (c.op k.op).prevFrame then k else { k with row := 0 }

/-- The carried shift of a group: that of this frame job or of the one before it, else CARRY_INIT (R106). -/
def State.carriedShift (s : State) (c : Ctx) (k : GroupKey) : Int :=
  (((s.block c.b).carry.find? fun e => e.owner == c.o && e.key == c.carryKey k
    && (e.frame == c.run.frame || e.frame + 1 == c.run.frame)).map fun e => e.shift).getD (c.op k.op).carryInit

/-- The measured shift replaces the group's entry in the carry store (R107). -/
def State.carryOn (s : State) (c : Ctx) (k : GroupKey) (x : Int) : State :=
  s.updBlock c.b fun y => { y with carry := (y.carry.filter fun e => !(e.owner == c.o && e.key == c.carryKey k)) ++
    [{ owner := c.o, key := c.carryKey k, frame := c.run.frame, shift := x }] }

/-- A flagged group may be replayed: a job's always; a stripe's if its replay can end MARGIN_US before the deadline (R109). -/
def State.replayFits (s : State) (c : Ctx) (g : Group) : Bool :=
  match c.o with
  | .job _ => true
  | .pipeline p =>
    let set := s.jobSettings p c.run.frame
    let d := ((((s.pipe p).job c.run.frame).bind fun j => j.stripe c.run.stripe).map fun st => st.deadline).getD 0
    set.scaleReplay.getLsbD 0
      && decide (s.now + (g.ended.toNat - g.start.toNat) + 1000 * bits 31 16 set.scaleReplay ≤ d)

/-- A group whose output holds poison has been emitted: its stripe is substituted as FALLBACK_POISON (R111, R210, Table 08-1). -/
def State.poisonOut (s : State) (c : Ctx) : State :=
  match c.o with
  | .pipeline _ => s.consumePoison c.o c.run.id Code.poisonConsumed
  | .job _ => s

/-- A replay is declined: the group keeps its carried codes, and the stripe is marked for substitution (R109). -/
def State.declineReplay (s : State) (c : Ctx) : State :=
  let s := s.updBlock c.b fun x => x.countArith 4 1
  match c.o with
  | .pipeline p => s.updStripe p c.run.frame c.run.stripe fun st => { st with declined := true }
  | .job _ => s

/-- The last code of a CARRIED group has been emitted: it is judged (R107, R109, R111). -/
def State.judge (s : State) (c : Ctx) (g : Group) : State :=
  let es := c.groupElems g.key
  let o := c.op g.key.op
  let m := s.measure c g.key
  let bad := es.any ((s.block c.b).bad c.o)
  let xc := g.carried.getD 0
  let flag := !bad && flagged o.clipThr es.length o.outZp g.clipped (es.map fun e => (s.codeOf c xc e).1) m.1 xc m.2
  let fits := s.replayFits c g
  let s := s.carryOn c g.key m.1
  let s := s.updGroup c.b c.o g.key fun g =>
    { g with emitted := some s.time, measured := some m.1, flat := m.2, flagged := flag, declined := flag && !fits
             replaying := flag && fits, poisoned := bad }
  let s := if bad then s.poisonOut c else s
  if flag && !fits then s.declineReplay c else s

/-! ## Emission (R102, R103, R106, R152) -/

/-- Buffers that an operator's output has at a level: one, or two under DOUBLE. -/
def Ctx.slots (c : Ctx) (i v : Nat) : Nat := if (imgLevel c.image (c.op i) v).double then 2 else 1

/-- The line of buffer `n` of an operand at a level. -/
def Ctx.slotLine (c : Ctx) (i v : Nat) (side : StageSide) (n : Nat) : Nat :=
  let l := c.image
  bufLine l (c.op i) v side + n * (bufLines l (c.op i) v side / c.slots i v)

/-- A free buffer of an operand at a level. -/
def Ctx.freeSlot (c : Ctx) (i v : Nat) (side : StageSide) : Option Nat :=
  (List.range (c.slots i v)).find? fun n =>
    !c.run.staged.any fun e => e.op == i && e.level == v && e.side == side && e.line == c.slotLine i v side n

/-- A tile takes a buffer. -/
def State.addStaged (s : State) (c : Ctx) (i v : Nat) (side : StageSide) (org : List Nat) (n : Nat)
    (shifts : List (List Nat × Byte × Bool)) : State :=
  s.updRun c.b c.o fun u => { u with staged := u.staged ++
    [{ op := i, level := v, side := side, origin := org, line := c.slotLine i v side n, shifts := shifts }] }

/-- The output tile of an element takes a buffer, if it has none and one is free. -/
def State.reserveTile (s : State) (b : Nat) (o : Owner) (e : Elem) : State :=
  match s.ctx b o with
  | some c => match c.outLevel e.op with
    | some v => match c.outOrigin e.op v e with
      | some org =>
        if (c.stagedTile e.op v .out org).isSome then s
        else match c.freeSlot e.op v .out with
          | some n => s.addStaged c e.op v .out org n []
          | none => s
      | none => s
    | none => s
  | none => s

/-- Elements of a group whose codes are known and not emitted. -/
def Ctx.toSend (c : Ctx) (g : Group) : List Elem :=
  let es := c.groupElems g.key
  let known := if (c.op g.key.op).carried then es.filter c.elemDone else if es.all c.elemDone then es else []
  known.filter fun e => !g.sent.contains e

/-- The shift that a group's codes are emitted under, fixed at its first code (R106; DESIGN CHOICE, log 102). -/
def State.emitShift (s : State) (c : Ctx) (g : Group) : Group :=
  if (c.op g.key.op).carried then { g with carried := some (g.carried.getD (s.carriedShift c g.key)) }
  else if g.measured.isSome then g
  else { g with measured := some (s.measure c g.key).1, flat := (s.measure c g.key).2
                poisoned := (c.groupElems g.key).any ((s.block c.b).bad c.o) }

/-- A group emits the codes that it can; with the last of them it is judged, or, in ONLINE mode, ready to retire. -/
def State.emitGroup (s : State) (b : Nat) (o : Owner) (k : GroupKey) : State :=
  match s.ctx b o with
  | some c => match c.group k with
    | some g =>
      if g.retired || g.replaying || g.emitted.isSome then s else
        let s := forEach (c.toSend g) (fun e s => s.reserveTile b o e) s
        match s.ctx b o with
        | some c =>
          let ready := (c.toSend g).filter fun e => (s.outPlace c e).isSome
          if ready.isEmpty then s else
            let g := s.emitShift c g
            let x := if (c.op k.op).carried then g.carried.getD 0 else g.measured.getD 0
            let codes := ready.map fun e => (e, s.codeOf c x e)
            let s := s.writeCodes c k.op (codes.map fun y => (y.1, y.2.1))
            let g := { g with sent := g.sent ++ ready, clipped := g.clipped + (codes.filter fun y => y.2.2).length }
            let all := (c.groupElems k).all g.sent.contains
            let s := s.updGroup b o k fun _ => g
            if !all then s
            else if (c.op k.op).carried then (s.updBlock b fun x => x.countArith 1 1).judge c g
            else
              let s := s.updBlock b fun x => x.countArith 0 1
              let s := if g.poisoned then s.poisonOut c else s
              (s.updGroup b o k fun g => { g with emitted := some s.time }).writeEntry c k g.entry
        | none => s
    | none => s
  | none => s

/-- Every group of an operator emits what it can, in the order in which they began. -/
def State.emitOp (s : State) (b : Nat) (o : Owner) (i : Nat) : State :=
  match s.ctx b o with
  | some c => forEach ((c.run.groups.map fun g => g.key).filter fun k => k.op == i) (fun k s => s.emitGroup b o k) s
  | none => s

/-! ## Finishing a step -/

/-- The sums of a step that a group's replay takes: those of its elements, and of the patches that hold them. -/
def Ctx.inGroup (c : Ctx) (k : GroupKey) (e : Elem) : Bool :=
  let t := c.tensor k.op .out
  if e.isWino then
    e.opOf == k.op && ([(0, 0), (0, 1), (1, 0), (1, 1)].any fun d =>
      elemGroup t { e with op := k.op, y := 2 * e.y + d.1, x := 2 * e.x + d.2 } == k)
  else e.op == k.op && elemGroup t e == k

/-- The sums of a step enter the accumulators: of every element, or, in a scale replay, of its group's. -/
def State.enterSums (s : State) (c : Ctx) (w : Running) (poison : Bool) : State :=
  let mine := fun e => match w.group with
    | some k => c.inGroup k e
    | none => true
  let ends := (completedBy (c.walk w.step.op) w.index).filter mine
  s.updBlock c.b fun x =>
    let x := (w.sums.filter fun a => mine a.1).foldl c.addSum x
    let x := c.finishElems x ends
    let x := if w.poisoned || poison then x.poisonElems c.o ((stepElems w.step).filter mine) else x
    w.tally.foldl (fun x a => x.countWindow a.1 a.2) x

/-- A step of the walk has ended: its groups may emit codes. A group's T_row ends after the check replay of its last step (DESIGN
CHOICE, log 103). -/
def State.finishNormal (s : State) (c : Ctx) (w : Running) (poison : Bool) : State :=
  let i := w.step.op
  let ks := stepGroups (c.tensor i .out) w.step
  let s := s.enterSums c w poison
  let s := s.updRun c.b c.o fun u =>
    { u with ended := Tab.set (fun _ => 0) u.ended i (w.index + 1), since := s.time
             groups := u.groups.map fun g => if ks.contains g.key then { g with ended := s.time } else g }
  s.emitOp c.b c.o i

/-- A scale replay is complete: the codes are emitted again under the measured shift, and the group is marked (R110). -/
def State.replayDone (s : State) (c : Ctx) (g : Group) : State :=
  let x := g.measured.getD 0
  let es := c.groupElems g.key
  let codes := es.map fun e => (e, s.codeOf c x e)
  let s := s.writeCodes c g.key.op (codes.map fun y => (y.1, y.2.1))
  let s := s.updGroup c.b c.o g.key fun g =>
    { g with replaying := false, replayed := true, clipped := (codes.filter fun y => y.2.2).length }
  let s := (s.updBlock c.b fun y => y.countArith 3 1).recordStatus c.o c.run.frame Code.scaleReplayed
  let s := if es.any ((s.block c.b).bad c.o) then s.poisonOut c else s
  match c.o with
  | .pipeline p => s.updStripe p c.run.frame c.run.stripe fun st => { st with scaleReplayed := true }
  | .job _ => s

/-- A step of a scale replay has ended (R110): the first one starts the group's elements afresh. -/
def State.finishReplay (s : State) (c : Ctx) (w : Running) (k : GroupKey) (poison : Bool) : State :=
  match c.group k with
  | some g =>
    let s := if g.replayStep = 0 then s.updBlock c.b fun x => x.dropAcc c.o fun e => c.inGroup k e else s
    let s := s.enterSums c w poison
    let s := s.updGroup c.b c.o k fun g => { g with replayStep := g.replayStep + 1 }
    if (c.groupSteps k).length ≤ g.replayStep + 1 then s.replayDone c g else s
  | none => s

/-- The sums of a step are used: nothing is left of one whose unit is no longer there. -/
def State.finishStep (s : State) (b : Nat) (w : Running) (poison : Bool) : State :=
  match s.ctx b w.owner with
  | some c =>
    if c.run.id != w.unit then s else match w.group with
      | some k => s.finishReplay c w k poison
      | none => s.finishNormal c w poison
  | none => s

/-! ## Release of input slots (R108) -/

/-- Every group of row `y` of fold `f` of an operator's output has retired. -/
def Ctx.rowRetired (c : Ctx) (i f y : Nat) : Bool :=
  let t := c.tensor i .out
  (List.range t.cb).all fun cb => (List.range t.groups).all fun g =>
    (c.group { op := i, fold := f, cb := cb, row := y, grp := g }).any fun x => x.retired

/-- The output rows (fold, row) of an operator on its block that have not retired. -/
def Ctx.rowsLeft (c : Ctx) (i : Nat) : List (Nat × Nat) :=
  ((List.range (c.tensor i .out).n).flatMap fun f => (runOf (c.place.rows i)).map fun y => (f, y)).filter fun r =>
    !c.rowRetired i r.1 r.2

/-- A row of a ring's tensor, as fold × H + row, is still needed by an output row of operator `i` (R156). -/
def Ctx.needsRow (c : Ctx) (i : Nat) (side : StageSide) (left : List (Nat × Nat)) (row : Nat) : Bool :=
  let o := c.op i
  let t := c.tensor i side
  left.any fun r => foldIn t r.1 == row / max 1 t.h
    && (t.isWeight || inRun (neededRows o t.h (opOut c.image o).c (side == .b && o.bAct) (r.2, 1)) (row % max 1 t.h))

/-- Release the input ring slots that no row still to retire reads, unless a replay holds them (R108, R372). -/
def State.releaseInputs (s : State) (b : Nat) (o : Owner) : State :=
  match s.ctx b o with
  | some c =>
    if (s.block b).holdsFor o then s else
      let needs := (segmentOps c.image c.run.segment).map fun i => (i, c.rowsLeft i)
      s.updBlock b fun x => x.updRings o fun r =>
        let readers := needs.flatMap fun p => ([StageSide.a, StageSide.b].filter fun side =>
          (side == .a || (c.op p.1).hasB) && (c.tensor p.1 side).isRing && (c.tensor p.1 side).ref == r.image).map fun side =>
            (p.1, side, p.2)
        if readers.isEmpty then r
        else r.release c.run.id (fun row => readers.any fun q => c.needsRow q.1 q.2.1 q.2.2 row) s.time
  | none => s

/-! ## Check mismatches (R371, R391) -/

/-- A field test of the block that a capture names is pending, from its acceptance to its end, and replays captures (R391, R392). -/
def State.captureHeld (s : State) (c : Capture) : Bool :=
  (s.block c.block).testDue.any fun t => t.2.getLsbD 1

/-- A record loses its capture. -/
def Record.loseCapture (r : Record) (id : BitVec 32) : Record :=
  if r.captureId == some id then { r with capture := false, captureId := none } else r

/-- Put a step's capture into the 64-entry store (R391): its ID, and the store; a full store gives up the oldest capture that
no pending field test holds. -/
def State.takeCapture (s : State) (b : Nat) (w : Running) : BitVec 32 × State :=
  let f := s.faults
  let id := f.nextCapture
  let new : Capture := { id := id, block := b, r := w.r, codes := w.codes }
  if f.captures.length < 64 then
    (id, { s with faults := { f with captures := f.captures ++ [new], nextCapture := id + 1 } })
  else match f.captures.find? fun c => !s.captureHeld c with
    | some old =>
      let drop := fun (r : Record) => r.loseCapture old.id
      let kept := f.captures.filter fun c => c.id != old.id
      (id, { s with faults := { f with
          captures := kept ++ [new], nextCapture := id + 1, held := f.held.map drop, ring := f.ring.map drop } })
    | none => (id, { s with faults := { f with nextCapture := id + 1 } })

/-- The sum of what some lane errors do to a column's comparison: an error in the checksum row counts the other way (R368). -/
def laneDiff (r : Nat) (es : List LaneError) : Int := (es.map fun e => if e.row.val = r then -e.off else e.off).sum

/-- The comparison of a checked step under some errors (R368), in every cell and on the step sums, modulo 31 in every column: none when it
passes; else the cells whose own comparison fails, and whether only the block's does. -/
def Running.compare (w : Running) (es : List LaneError) : Option (BitVec 16 × Bool) :=
  let off := fun (p : LaneError → Bool) => (List.finRange 16).any fun n =>
    (laneDiff w.r (es.filter fun e => e.col == n && p e)).emod 31 != 0
  let cells := (List.finRange 16).filter fun c => off fun e => e.cell == some c
  let block := off fun _ => true
  if cells.isEmpty && !block then none
  else some (cells.foldl (fun m c => m ||| BitVec.ofNat 16 (2 ^ c.val)) 0, cells.isEmpty)

/-- The sums of a step under some errors: the tile's rows take the lane rows in order, the checksum row left out (R368). -/
def Running.sumsUnder (w : Running) (es : List LaneError) : List (Elem × Int × Int) :=
  let n := max 1 (w.step.ext.getD 1 1)
  w.sums.mapIdx fun k a =>
    let m := k / n
    let lane := if w.checked && decide (w.r ≤ m) then m + 1 else m
    (a.1, a.2.1 + ((es.filter fun e => e.row.val == lane && e.col.val == k % n).map fun e => e.off).sum, a.2.2)

/-- A step's comparison has failed: its replay is owed (R371, step 1). -/
def State.oweReplay (s : State) (b : Nat) (w : Running) (sums : List (Elem × Int × Int)) (cells : BitVec 16) (tree : Bool) : State :=
  let (id, s) := s.takeCapture b w
  let ow : OwedReplay :=
    { run := w, referee := false, sums := sums, cells := cells, tree := tree, found := s.time, capture := id }
  s.updBlock b fun x => { x with owed := some ow }

/-- The same-block replay has failed: the referee comes next, or, with none left, the outcome is NOT_REPLAYED. -/
def State.askReferee (s : State) (b : Nat) (ow : OwedReplay) : State :=
  let s := s.updBlock b fun x => { x with owed := some { ow with referee := true } }
  if (s.refereeOf b).isSome then s
  else s.fenceFault (checkFault b ow Cls.ucf Outc.notReplayed none (s.captureOf ow)) b

/-- The input rings and units that waited for a replay's outcome are released (R372). -/
def State.afterReplay (s : State) (b : Nat) (o : Owner) : State := (s.closeStale b o).releaseInputs b o

/-- A check replay has run for a unit (R216). -/
def State.markReplay (s : State) (w : Running) : State :=
  match w.owner with
  | .pipeline p => s.updStripe p w.unit.1 w.unit.2 fun st => { st with checkReplayed := true }
  | .job _ => s

/-- The replay has passed: TRANSIENT; its sums are used (R371, step 2). -/
def State.transient (s : State) (b : Nat) (ow : OwedReplay) (poison : Bool) : State :=
  let w := ow.run
  let s := s.fault (checkFault b ow Cls.ce Outc.transient none (s.captureOf ow))
  let s := { s with faults := { s.faults with counters := s.faults.counters.bump 6 } }
  let s := s.updBlock b fun x => { x with owed := none }
  let s := if s.unitLive w.owner w.unit then s.recordStatus w.owner w.unit.1 Code.checkMismatch else s
  (s.finishStep b { w with sums := ow.sums } poison).afterReplay b w.owner

/-- A referee has run the step of block `y` under some errors of its own (R371, step 4); what it is compared with are the rows of the
original block's replay (log 78). -/
def State.verdict (s : State) (b y : Nat) (w : Running) (es : List LaneError) : State :=
  match ((s.block y).owed).filter fun o => o.referee with
  | some ow =>
    let out := if (w.compare es).isSome then Outc.inconclusive
      else if w.sumsUnder es = ow.sums then Outc.checkerFault else Outc.datapathFault
    s.fenceFault (checkFault y ow Cls.ucf out (some b) (s.captureOf ow)) y
  | none => s

/-! ## Errors found beside the comparison (Table 14-1, R373) -/

/-- A detector of a block's state or adders reports. -/
def adderFault (b : Nat) (w : Running) (cls det out : BitVec 8) (bit : Nat) : FaultInfo :=
  let r := unitReader w.owner w.unit
  { cls := cls, detector := det, outcome := out, site := .block b, served := .block b, blockBits := [bit]
    suppressed := some (.block (Fin.ofNat 64 b)), location := b, region := some (b / 16), block := some b
    pipeline := r.pipeline, frame := r.frame, stripe := r.stripe }

/-- A residue error poisons the step's output tiles; a second one within the next 16 steps of the block is persistent (R373). -/
def State.adderError (s : State) (b : Nat) (w : Running) (bit : Nat) : State :=
  let x := s.block b
  let again := x.adderError.any fun n => decide (x.steps ≤ n + 16)
  if again then s.fenceFault (adderFault b w Cls.ucf Det.residueAdder Outc.fenced bit) b
  else (s.updBlock b fun y => { y with adderError := some y.steps }).fault
    (adderFault b w Cls.ucc Det.residueAdder Outc.contained bit)

/-- A parity error in a carry-store entry: the entry is treated as absent (Table 14-1). -/
def State.carryError (s : State) (b : Nat) (w : Running) (i : Nat) : State :=
  (s.updBlock b fun x => { x with carry := x.carry.eraseIdx i }).fault
    (adderFault b w Cls.ce Det.stateParity Outc.corrected BlockBit.stateParity)

/-- An error in accumulator memory: corrected, or the output tiles are poisoned (Table 14-1). -/
def State.accMemory (s : State) (b : Nat) (w : Running) (corrected : Bool) : State :=
  s.fault (if corrected then adderFault b w Cls.ce Det.memoryEcc Outc.corrected BlockBit.memoryCe
    else adderFault b w Cls.ucc Det.memoryEcc Outc.contained BlockBit.memoryUe)

/-- The residue error that a finding reports, by its status bit. -/
def adderBit : StepFinding → Option Nat
  | .accResidue => some BlockBit.accResidue
  | .windowResidue => some BlockBit.windowResidue
  | _ => none

/-- The lane errors of a finding. -/
def laneErrors : StepFinding → List LaneError
  | .lanes es => es
  | _ => []

/-- The state of a block is in error (Table 14-1): it is fenced. -/
def State.stateError (s : State) (b : Nat) (w : Running) : State :=
  s.fenceFault (adderFault b w Cls.ucf Det.stateParity Outc.fenced BlockBit.stateParity) b

/-- A step ends whose sums are used unless its comparison fails. -/
def State.endOwn (s : State) (b : Nat) (w : Running) (f : StepFinding) : State :=
  match f with
  | .lanes es =>
    let sums := w.sumsUnder es
    match (w.compare es).filter fun _ => w.checked with
    | some (cells, tree) => s.oweReplay b w sums cells tree
    | none => s.finishStep b { w with sums := sums } false
  | .stateParity => s.stateError b w
  | .carryParity i => (s.carryError b w i).finishStep b w false
  | .accCorrected => (s.accMemory b w true).finishStep b w false
  | .accUncorrectable => (s.accMemory b w false).finishStep b w true
  | f => match adderBit f with
    | some bit =>
      let s := s.adderError b w bit
      if (s.block b).fenced then s else s.finishStep b w true
    | none => s.finishStep b w false

/-- A check replay ends (R371, steps 2 and 3). -/
def State.endReplay (s : State) (b : Nat) (ow : OwedReplay) (f : StepFinding) : State :=
  let s := s.markReplay ow.run
  let ow := { ow with sums := ow.run.sumsUnder (laneErrors f) }
  match f with
  | .lanes es => if (ow.run.compare es).isSome then s.askReferee b ow else s.transient b ow false
  | .stateParity => s.stateError b ow.run
  | .carryParity i => (s.carryError b ow.run i).transient b ow false
  | .accCorrected => (s.accMemory b ow.run true).transient b ow false
  | .accUncorrectable => (s.accMemory b ow.run false).transient b ow true
  | f => match adderBit f with
    | some bit =>
      let s := s.adderError b ow.run bit
      if (s.block b).fenced then s else s.transient b ow true
    | none => s.transient b ow false

/-- A referee's step ends: what is wrong with the referee itself is its own fault, and one that this fences gives way to the next
(R371, R373). -/
def State.refereed (s : State) (b y : Nat) (w : Running) (f : StepFinding) : State :=
  match f with
  | .stateParity => s.stateError b w
  | .carryParity i => (s.carryError b w i).verdict b y w []
  | .accCorrected => (s.accMemory b w true).verdict b y w []
  | .accUncorrectable => (s.accMemory b w false).verdict b y w []
  | f => match adderBit f with
    | some bit =>
      let s := s.adderError b w bit
      if (s.block b).fenced then s else s.verdict b y w []
    | none => s.verdict b y w (laneErrors f)

/-- STEP_END: the running step of a block has had its cycles (R116, R401). -/
def State.stepEnd (s : State) (b : Nat) (f : StepFinding) : State :=
  match (s.block b).running with
  | some w =>
    if !w.isOver s.now then s else
      let s := (s.noteBusy b w).updBlock b fun x => { x with running := none }
      match w.kind with
      | .checkReplay => match (s.block b).owed with
        | some ow => s.endReplay b ow f
        | none => s
      | .refereeFor y => s.refereed b y w f
      | _ => s.endOwn b w f
  | none => s

def execStepEnd (t : Time) (b : Fin 64) (f : StepFinding) (s : State) : Result :=
  whenReady t (fun s => s.stepEnd b f) s

end Sys2Proof.Machine
end

