-- ==== Sys2Proof/Machine/Staging.lean ====
section
/-!
DEFINITION. What the walker moves and what a unit leaves behind: staging into and out of the buffers of a loop level (R152, R194
to R197, R469, R470), the retirement of a scale group (R107, R108), the release of input ring slots, the end of a segment, and
the refill of a residency (R296).
-/

namespace Sys2Proof.Machine

open Sys2Proof

/-! ## Reading lines -/

/-- What the walker has read: aligned places with their 64 bytes and poison, and the first address that faulted. -/
structure Gathered where
  lines : List (Place × List Byte × Bool)
  fault : Option Nat
  deriving DecidableEq, Repr

/-- On whose behalf the walker reads, and where to. -/
def Ctx.reader (c : Ctx) : Reader := { unitReader c.o c.run.id with block := some c.b, region := some (c.b / 16) }

/-- Whether the walker's copy of an operand from or to its home reaches local DRAM, which does not serve: it waits (R288, R406). -/
def State.homeWaits (s : State) (t : ImgTensor) : Bool := t.isDram && s.deviceWaits t.base

/-- The aligned line that holds a place, and the offset in it. -/
def Place.line : Place → Place × Nat
  | .spad a => (.spad (a / 64 * 64), a % 64)
  | .pool a => (.pool (a / 64 * 64), a % 64)
  | .va a => (.va (a / 64 * 64), a % 64)

/-- Read one line of the scratchpad or the pool for the walker: its bytes and poison, with what the read, the way and a write that meets
it (R127) do. -/
def State.readBuffer (s : State) (c : Ctx) (p : Place) (f : MemFindings) : (List Byte × Bool) × State :=
  match p with
  | .spad a =>
    let x := s.readSpad c.b a 64 f c.reader
    let h := x.2.transit f (a / 64) c.reader
    if f.collisions.contains (a / 64) then
      ((x.1.1, x.1.2 || h.1 || h.2.strict c.o c.run.id), h.2.bankCollision c.b c.o c.run.id 1)
    else ((x.1.1, x.1.2 || h.1), h.2)
  | .pool a =>
    let x := s.readPool (c.b / 16) a 64 f
    let h := x.2.transit f (a / 64) c.reader
    ((x.1.1, x.1.2 || h.1), h.2)
  | .va _ => ((zeros 64, true), s)

/-- The aligned lines that a run of bytes at a place takes. -/
def Place.lines (p : Place) (n : Nat) : List Place :=
  if n = 0 then [] else (List.range ((p.line.2 + n + 63) / 64)).map fun k => p.line.1.add (64 * k)

/-- The walker's line takes a grant at the region's arbiter (R273, R275). -/
def State.grantLine (s : State) (c : Ctx) (p : Place) (isWrite : Bool) : State :=
  match p with
  | .va a => s.countSluice (16 * c.b) (grantClass [a] isWrite) 1
  | _ => s.countSluice (16 * c.b) 0 1

/-- The lines of some runs that the walker writes take a grant each (R273). -/
def State.grantRuns (s : State) (c : Ctx) (rs : List (Place × Nat)) : State :=
  forEach (rs.flatMap fun r => r.1.lines r.2).uniq (fun p s => s.grantLine c p true) s

/-- Read one aligned line. A page that faults, and a peer that is unreachable or refuses, deliver poison and are a staging fault (R469); a
failed host read delivers poison (R276). -/
def State.gatherLine (s : State) (c : Ctx) (g : Gathered) (p : Place) (f : MemFindings) : Gathered × State :=
  let put := fun (x : List Byte × Bool) => { g with lines := g.lines ++ [(p, x)] }
  let s := s.grantLine c p false
  match p with
  | .va a => match s.readDevice (a / 64) f c.reader with
    | (.data d bad, s) => (put (d, bad), s)
    | (_, s) => ({ put (zeros 64, true) with fault := some (g.fault.getD a) }, s)
  | p => let x := s.readBuffer c p f
         (put x.1, x.2)

/-- Read the lines that hold some places, each once. -/
def State.gather (s : State) (c : Ctx) (ps : List Place) (f : MemFindings) : Gathered × State :=
  ((ps.map fun p => p.line.1).uniq).foldl (fun (g, s) p => s.gatherLine c g p f) (⟨[], none⟩, s)

/-- `n` bytes at a place, within one line, and the line's poison. -/
def Gathered.at_ (g : Gathered) (p : Place) (n : Nat) : List Byte × Bool :=
  match g.lines.find? fun l => l.1 == p.line.1 with
  | some l => (slice l.2.1 p.line.2 n, l.2.2)
  | none => (zeros n, true)

/-- The record of a staging fault, one for each copy (R469). -/
def State.stagingFault (s : State) (c : Ctx) (va : Nat) : State :=
  let r := unitReader c.o c.run.id
  s.fault
    { cls := Cls.ucc, detector := Det.stagingFault, outcome := Outc.contained, site := .block c.b
      suppressed := some (.block (Fin.ofNat 64 c.b)), location := c.b, region := some (c.b / 16), block := some c.b
      pipeline := r.pipeline, frame := r.frame, stripe := r.stripe, address2 := some va }

/-- A line is written to a buffer or a pool. -/
def State.putLine (s : State) (c : Ctx) (p : Place) (d : List Byte) (bad : Bool) : State :=
  match p with
  | .spad a => s.writeSpad c.b a d bad
  | .pool a => s.writePool (c.b / 16) a d bad
  | .va _ => s

/-! ## Which tile is staged next (R470) -/

/-- The tiles that an operand's buffers at level `v` are to hold: that of a replay's next step, and those of the steps to come. -/
def Ctx.wanted (c : Ctx) (i v : Nat) : List (List Nat) :=
  let org := fun (st : Step) => st.parents[v - 1]?
  let replay := (c.run.groups.find? fun g => g.key.op == i && g.replaying).bind fun g =>
    ((c.groupSteps g.key)[g.replayStep]?).bind fun x => org x.2
  ((replay.toList ++ ((c.walk i).drop (c.startedOf i)).filterMap org).uniq).take (c.slots i v)

/-- The buffer for a tile to be staged: a free one, or one whose tile is no longer wanted. -/
def Ctx.inSlot (c : Ctx) (i v : Nat) (side : StageSide) : Option Nat :=
  (List.range (c.slots i v)).find? fun n =>
    c.run.staged.all fun e => !(e.op == i && e.level == v && e.side == side && e.line == c.slotLine i v side n)
      || !(c.wanted i v).contains e.origin

/-- A tile takes a buffer from the tile that it held. -/
def State.replaceStaged (s : State) (c : Ctx) (i v : Nat) (side : StageSide) (org : List Nat) (n : Nat)
    (shifts : List (List Nat × Byte × Bool)) : State :=
  let line := c.slotLine i v side n
  let s := s.updRun c.b c.o fun u =>
    { u with staged := u.staged.filter fun e => !(e.op == i && e.level == v && e.side == side && e.line == line) }
  s.addStaged c i v side org n shifts

/-! ## Copies inward -/

/-- The origins of the tiles that hold a tile, from the first step under it. -/
def Ctx.parentsOf (c : Ctx) (i v : Nat) (org : List Nat) : List (List Nat) :=
  (((c.walk i).find? fun st => st.parents[v - 1]? == some org).map fun st => st.parents).getD []

/-- The source of a staged operand is there: the tile that holds it in the next buffer outward, or its home. -/
def Ctx.sourceReady (c : Ctx) (i v : Nat) (side : StageSide) (org : List Nat) : Bool :=
  match c.srcLevel i side (v + 1) with
  | some w => (c.stagedTile i w side ((c.parentsOf i v org).getD (w - 1) [])).isSome
  | none => true

/-- The stored granules of a row that an uncompressed granule takes: itself, or, under PEAT, those of its blocks (R197). -/
def storedGranules (t : ImgTensor) (g : Nat) : List Nat := if t.peat = 0 then [g] else peatGranulesOf t.peat t.cw t.wAlloc g

/-- Stage a tile of activations from its home: the granules that its steps read, with PEAT decoded, and their shift entries (R176). -/
def State.stageHome (s : State) (c : Ctx) (i v : Nat) (side : StageSide) (org : List Nat) (n : Nat) (f : MemFindings) : State :=
  let t := c.tensor i side
  let box := c.gbox i side (boxOf (c.walk i) v org)
  let gs := c.granulesRead i v side org
  let groups := c.groupsKept i v side org
  let stored := fun (g : Nat × Nat × Nat × Nat) => (storedGranules t g.2.2.2).filterMap fun k =>
    (s.homeRow c t g.1 g.2.1 g.2.2.1).map fun p => (k, p.add (64 * k))
  let entryAt := fun (g : Nat × Nat × Nat × Nat) => s.homeEntry c t g.1 g.2.1 g.2.2.1 g.2.2.2
  let (got, s) := s.gather c ((gs.flatMap fun g => (stored g).map Prod.snd) ++ groups.filterMap entryAt) f
  let data := fun (g : Nat × Nat × Nat × Nat) =>
    let ls := (stored g).map fun x => (x.1, got.at_ x.2 64)
    let bad := ls.any fun x => x.2.2
    if t.peat = 0 then ((ls.headD (0, (zeros 64, true))).2.1, bad)
    else
      let row := (List.range ((t.storedRow + 63) / 64)).flatMap fun k =>
        ((ls.find? fun x => x.1 == k).map fun x => x.2.1).getD (zeros 64)
      (slice (peatDecodeRow t.peat t.cw t.wAlloc row) (64 * g.2.2.2) 64, bad)
  let s := forEach gs (fun g s =>
    match box.index g.1 g.2.1 g.2.2.1 g.2.2.2 with
    | some k => s.putLine c (c.bufPlace i v (c.slotLine i v side n + k)) (data g).1 (data g).2
    | none => s) s
  let blocks := (gs.map fun g => (g.1, g.2.1, g.2.2.1, g.2.2.2 * (128 / t.cw) / 64)).uniq
  let s := if t.peat = 0 then s else s.updBlock c.b fun x => x.countWindow 5 (blocks.length * t.cw)
  let shifts := groups.map fun g =>
    let e := ((entryAt g).map fun p => got.at_ p 1).getD ([0], true)
    ([g.1, g.2.1, g.2.2.1, g.2.2.2], e.1.headD 0, e.2)
  let s := s.replaceStaged c i v side org n shifts
  match got.fault with
  | some a => s.stagingFault c a
  | none => s

/-- Stage a tile of activations from the next buffer outward. -/
def State.stageFrom (s : State) (c : Ctx) (i v w : Nat) (side : StageSide) (org : List Nat) (n : Nat) (f : MemFindings) : State :=
  let up := c.parentsOf i v org
  let box := c.gbox i side (boxOf (c.walk i) v org)
  let gs := c.granulesRead i v side org
  let s := forEach gs (fun g s =>
    match box.index g.1 g.2.1 g.2.2.1 g.2.2.2, s.viewGranule c i side (v + 1) up g.1 g.2.1 g.2.2.1 g.2.2.2 with
    | some k, some p =>
      let (got, s) := s.gather c [p] f
      let x := got.at_ p 64
      s.putLine c (c.bufPlace i v (c.slotLine i v side n + k)) x.1 x.2
    | _, _ => s) s
  let shifts := (c.groupsKept i v side org).map fun g =>
    let e := c.stagedEntry i w side up g.1 g.2.1 g.2.2.1 g.2.2.2
    ([g.1, g.2.1, g.2.2.1, g.2.2.2], e.1, e.2)
  s.replaceStaged c i v side org n shifts

/-- Stage a tile of weights, from its home or from the next buffer outward (R470). -/
def State.stageWeights (s : State) (c : Ctx) (i v : Nat) (org : List Nat) (n : Nat) (f : MemFindings) : State :=
  let o := c.op i
  let t := c.tensor i .b
  let up := c.parentsOf i v org
  let box := boxOf (c.walk i) v org
  let run := fun d => runOf (box.getD d (0, 0))
  let folds := ((run 0).map fun n => (foldIn t n, n)).foldl (fun acc x => if acc.any fun y => y.1 == x.1 then acc else acc ++ [x]) []
  let blocks := folds.flatMap fun n => (runOf (cellsOf 16 (box.getD 1 (0, 0)))).map fun wb => (n.2, wb)
  let ks := (run 5).flatMap fun tap => (run 2).map fun ch => (tap, ch)
  let place := fun (x : Nat × Nat) (k : Nat × Nat) => s.viewWeight c i (v + 1) up x.1 x.2 k.1 k.2
  let (got, s) := s.gather c (blocks.flatMap fun x => ks.filterMap (place x)) f
  let pos := ImgTensor.posBytes o.bKind
  let lines := weightLines o box
  let s := forEach (blocks.mapIdx fun j x => (j, x)) (fun (j, x) s =>
    let ps := ks.map fun k => ((place x k).map fun p => got.at_ p pos).getD (zeros pos, true)
    forEach (List.range lines) (fun l s =>
      let here := slice ps (64 / pos * l) (64 / pos)
      let d := here.flatMap Prod.fst
      s.putLine c (c.bufPlace i v (c.slotLine i v .b n + j * lines + l)) (d ++ zeros (64 - d.length)) (here.any Prod.snd)) s) s
  let s := s.replaceStaged c i v .b org n []
  match got.fault with
  | some a => s.stagingFault c a
  | none => s

/-- A staged input buffer is filled. -/
def State.stageIn (s : State) (c : Ctx) (i v : Nat) (side : StageSide) (org : List Nat) (f : MemFindings) : State :=
  let may := stagedAt c.image (c.op i) v side && (c.stagedTile i v side org).isNone && (c.wanted i v).contains org
    && c.sourceReady i v side org && !(s.block c.b).holdsFor c.o
  match c.inSlot i v side with
  | some n =>
    if !may || ((c.srcLevel i side (v + 1)).isNone && s.homeWaits (c.tensor i side)) then s
    else if side == .b && !(c.op i).bAct then s.stageWeights c i v org n f
    else match c.srcLevel i side (v + 1) with
      | some w => s.stageFrom c i v w side org n f
      | none => s.stageHome c i v side org n f
  | none => s

/-! ## Copies outward -/

/-- Adjacent runs of bytes become one. -/
def coalesce (rs : List (Nat × List Byte)) : List (Nat × List Byte) :=
  rs.foldl (fun acc r => match acc.getLast? with
    | some l => if l.1 + l.2.length = r.1 then acc.dropLast ++ [(l.1, l.2 ++ r.2)] else acc ++ [r]
    | none => [r]) []

/-- The byte at a place as it stands, for a code that shares it (R163). -/
def State.peekByte (s : State) (c : Ctx) (p : Place) : Byte :=
  match p with
  | .spad a => s.spad.read (spadAddr c.b 0 + a)
  | .pool a => s.pool.read (poolAddr (c.b / 16) a)
  | .va a => match s.translate a true with
    | .local_ pa _ => s.mem.dram.read pa
    | _ => 0

/-- Write a run of bytes at a place, its poison by granule of the run's address; whether each page took it. -/
def State.writePlace (s : State) (c : Ctx) (p : Place) (d : List Byte) (bad : Nat → Bool) (f : MemFindings) : Bool × State :=
  match p with
  | .spad a => (true, forEach (pieces d.length a d) (fun (g, o, x) s => s.writeSpad c.b (64 * g + o) x (bad g)) s)
  | .pool a => (true, forEach (pieces d.length a d) (fun (g, o, x) s => s.writePool (c.b / 16) (64 * g + o) x (bad g)) s)
  | .va a => (pieces d.length a d).foldl (fun (ok, s) (g, o, x) =>
      let (k, s) := s.writeVaPiece g o x (bad g) (.walker c.b c.o c.run.id (64 * g + o)) f
      (ok && k, s)) (true, s)

/-- The granule number of a place. -/
def Place.granule : Place → Nat
  | .spad a => a / 64
  | .pool a => a / 64
  | .va a => a / 64

/-- The valid elements of a tile. -/
def Ctx.tileElems (c : Ctx) (i v : Nat) (org : List Nat) : List Elem :=
  let box := boxOf (c.walk i) v org
  let r := fun d => runOf (box.getD d (0, 0))
  (r 0).flatMap fun n => (r 3).flatMap fun y => (r 4).flatMap fun x => (r 1).map fun ch => { op := i, n := n, c := ch, y := y, x := x }

/-- The runs of bytes of a granule that a tile's elements and padding take, at their offsets; a code that another tile holds
beside one of them is kept. -/
def State.granuleRuns (s : State) (c : Ctx) (src dst : Place) (mine : Nat → Bool) : List (Nat × List Byte) :=
  coalesce ((List.range 64).filterMap fun k =>
    let lo := mine (2 * k)
    let hi := mine (2 * k + 1)
    let x := (s.peekByte c (src.add k)).toNat
    let y := (s.peekByte c (dst.add k)).toNat
    if lo && hi then some (k, [BitVec.ofNat 8 x])
    else if lo then some (k, [BitVec.ofNat 8 (x % 16 + y / 16 * 16)])
    else if hi then some (k, [BitVec.ofNat 8 (y % 16 + x / 16 * 16)])
    else none)

/-- Where a granule of a tile's output goes from level `v`: the next buffer outward, or its home. -/
def State.outDest (s : State) (c : Ctx) (i v : Nat) (org : List Nat) (g : Nat × Nat × Nat × Nat) : Option Place :=
  s.viewGranule c i .out (v + 1) (c.parentsOf i v org) g.1 g.2.1 g.2.2.1 g.2.2.2

/-- Copy the granules of a tile outward, uncompressed; whether every write went through, and the first address that did not. -/
def State.copyPlain (s : State) (c : Ctx) (i v : Nat) (e : Staged) (es : List Elem) (f : MemFindings) :
    Option Nat × State :=
  let t := c.tensor i .out
  let box := c.gbox i .out (boxOf (c.walk i) v e.origin)
  ((es.map (outGranule t)).uniq).foldl (fun (bad, s) g =>
    match box.index g.1 g.2.1 g.2.2.1 g.2.2.2, s.outDest c i v e.origin g with
    | some k, some dst =>
      let src := c.bufPlace i v (e.line + k)
      let (x, s) := s.readBuffer c src f
      let mine := fun j => isPadding t g.2.1 g.2.2.2 j || es.any fun x => outGranule t x == g && inGranule t x.c x.x == j
      let runs := s.granuleRuns c src dst mine
      runs.foldl (fun (bad, s) r =>
        let (ok, s) := s.writePlace c (dst.add r.1) r.2 (fun _ => x.2) f
        (if ok then bad else some (bad.getD (64 * dst.granule)), s)) (bad, s.grantRuns c (runs.map fun r => (dst.add r.1, r.2.length)))
    | _, _ => (bad, s)) (none, s)

/-- The codes of block `j`, channel `ch` of one row in a buffer, x from 64·j (R195, R196). -/
def State.bufferCodes (s : State) (c : Ctx) (i v : Nat) (e : Staged) (f cb y ch j : Nat) : List Nat :=
  let t := c.tensor i .out
  let box := c.gbox i .out (boxOf (c.walk i) v e.origin)
  (List.range 64).map fun k =>
    let at_ := min (64 * j + k) (t.wAlloc - 1) * t.cw + ch
    if isPadding t cb (at_ / 128) (at_ % 128) then (c.op i).outZp
    else match box.index f cb y (at_ / 128) with
      | some n =>
        let b := (s.peekByte c ((c.bufPlace i v (e.line + n)).add (at_ % 128 / 2))).toNat
        if at_ % 2 = 0 then b % 16 else b / 16
      | none => (c.op i).outZp

/-- Copy a row of a tile to a PEAT home: the blocks of its pixels and channels (R194 to R197). -/
def State.copyPeatRow (s : State) (c : Ctx) (i v : Nat) (e : Staged) (es : List Elem) (r : Nat × Nat × Nat)
    (f : MemFindings) : Option Nat × State :=
  let t := c.tensor i .out
  let box := c.gbox i .out (boxOf (c.walk i) v e.origin)
  let mine := es.filter fun x => x.n == r.1 && x.c / t.cw == r.2.1 && x.y == r.2.2
  let js := (mine.map fun x => x.x / 64).uniq
  let chs := (List.range t.cw).filter fun ch => decide (t.c ≤ r.2.1 * t.cw + ch) || mine.any fun x => x.c % t.cw == ch
  let b := peatBits t.peat
  let pay := peatPayload t.peat
  let headAt := up64 (peatBlocks t.wAlloc * t.cw * pay)
  let blocks := js.flatMap fun j => chs.map fun ch => (j, ch, peatEncode b (s.bufferCodes c i v e r.1 r.2.1 r.2.2 ch j))
  let lossy := (blocks.filter fun x => x.2.2.1.toNat / 32 % 4 != 0).length
  let last := js.any fun j => j + 1 == peatBlocks t.wAlloc
  let whole := chs.length == t.cw && last
  let used := peatBlocks t.wAlloc * t.cw
  let runs := coalesce (blocks.map fun x => ((x.1 * t.cw + x.2.1) * pay, peatPack b x.2.2.2)) ++
    coalesce (blocks.map (fun x => (headAt + x.1 * t.cw + x.2.1, [x.2.2.1]))
      ++ if whole then [(headAt + used, zeros (up64 used - used))] else [])
  let (badSrc, s) := (runOf box.g).foldl (fun (l, s) g => match box.index r.1 r.2.1 r.2.2 g with
    | some n => let x := s.readBuffer c (c.bufPlace i v (e.line + n)) f
                (if x.1.2 then l ++ [g] else l, x.2)
    | none => (l, s)) (([] : List Nat), s)
  let badSet := badSrc.flatMap fun g => peatGranulesOf t.peat t.cw t.wAlloc g
  let s := s.updBlock c.b fun x => (x.countWindow 3 blocks.length).countWindow 4 lossy
  match s.homeRow c t r.1 r.2.1 r.2.2 with
  | some row => runs.foldl (fun (bad, s) x =>
      let (ok, s) := s.writePlace c (row.add x.1) x.2 (fun g => badSet.contains (g - row.granule)) f
      (if ok then bad else some (bad.getD (64 * (row.add x.1).granule)), s))
      (none, s.grantRuns c (runs.map fun x => (row.add x.1, x.2.length)))
  | none => (none, s)

/-- Copy a tile to a PEAT home, row by row. -/
def State.copyPeat (s : State) (c : Ctx) (i v : Nat) (e : Staged) (es : List Elem) (f : MemFindings) : Option Nat × State :=
  let t := c.tensor i .out
  ((es.map fun x => (x.n, x.c / t.cw, x.y)).uniq).foldl (fun (bad, s) r =>
    let (b, s) := s.copyPeatRow c i v e es r f
    (bad.or b, s)) (none, s)

/-- The shift entries of a tile's groups go to their homes. -/
def State.copyEntries (s : State) (c : Ctx) (i : Nat) (es : List Elem) (f : MemFindings) : Option Nat × State :=
  let t := c.tensor i .out
  let ks := (es.map (elemGroup t)).uniq
  let places := ks.filterMap fun k => (c.group k).bind fun _ => s.homeEntry c t k.fold k.cb k.row k.grp
  ks.foldl (fun (bad, s) k =>
    match c.group k, s.homeEntry c t k.fold k.cb k.row k.grp with
    | some g, some p =>
      let (ok, s) := s.writePlace c p [g.entry] (fun _ => false) f
      (if ok then bad else some (bad.getD (64 * p.granule)), s)
    | _, _ => (bad, s)) (none, s.grantRuns c (places.map fun p => (p, 1)))

/-- Every code of a tile has retired: it is emitted, and in CARRIED mode its group has (R108, R152). -/
def Ctx.tileRetired (c : Ctx) (i : Nat) (es : List Elem) : Bool :=
  let t := c.tensor i .out
  es.all fun e => (c.group (elemGroup t e)).any fun g => g.sent.contains e && (!(c.op i).carried || g.retired)

/-- No buffer further in holds a part of a tile that is still to be copied into it. -/
def Ctx.innerDone (c : Ctx) (i v : Nat) (org : List Nat) : Bool :=
  c.run.staged.all fun e => !(e.op == i && e.side == .out && decide (e.level < v))
    || (c.parentsOf i e.level e.origin)[v - 1]? != some org

/-- The next buffer outward has room for a tile, or its home is next. -/
def State.destReady (s : State) (c : Ctx) (i v : Nat) (org : List Nat) : Option State :=
  match c.srcLevel i .out (v + 1) with
  | some w =>
    let up := (c.parentsOf i v org).getD (w - 1) []
    if (c.stagedTile i w .out up).isSome then some s
    else (c.freeSlot i w .out).map fun n => s.addStaged c i w .out up n []
  | none => some s

/-! ## The end of a segment (R154) -/

/-- Every step of a unit's segment has ended, every group has retired, and every output tile has reached its home. -/
def Ctx.segmentEnded (c : Ctx) : Bool :=
  (segmentOps c.image c.run.segment).all (fun i => c.endedOf i == (c.walk i).length)
    && c.run.groups.all (fun g => g.retired) && c.run.staged.all fun e => e.side != .out

/-- A thread's segment ends on its block once nothing of it is left to do. -/
def State.checkSegment (s : State) (b : Nat) (o : Owner) : State :=
  match s.ctx b o with
  | some c => if !c.run.segmentDone && c.segmentEnded then s.segmentDone b o else s
  | none => s

/-- A staged output tile is copied outward; writes that meet a faulting page are dropped, and what they would have written counts
as poisoned output (R469). -/
def State.stageOut (s : State) (c : Ctx) (i v : Nat) (org : List Nat) (f : MemFindings) : State :=
  let es := c.tileElems i v org
  match c.stagedTile i v .out org with
  | some e =>
    if !(c.tileRetired i es && c.innerDone i v org)
        || ((c.srcLevel i .out (v + 1)).isNone && s.homeWaits (c.tensor i .out)) then s else
      match s.destReady c i v org with
      | some s =>
        match s.ctx c.b c.o with
        | some c =>
          let home := (c.srcLevel i .out (v + 1)).isNone
          let (bad, s) := if home && (c.tensor i .out).peat != 0 then s.copyPeat c i v e es f else s.copyPlain c i v e es f
          let (bad2, s) := if home then s.copyEntries c i es f else (none, s)
          let s := s.updRun c.b c.o fun u =>
            { u with staged := u.staged.filter fun x => !(x.op == i && x.level == v && x.side == .out && x.origin == org) }
          let s := match bad.or bad2 with
            | some a => (s.stagingFault c a).consumePoison c.o c.run.id Code.poisonConsumed
            | none => s
          (s.emitOp c.b c.o i).checkSegment c.b c.o
        | none => s
      | none => s
  | none => s

/-- STAGING_COMPLETE: a staged buffer is filled or copied outward. -/
def State.staging (s : State) (b : Nat) (o : Owner) (i v : Nat) (side : StageSide) (org : List Nat) (f : MemFindings) : State :=
  let x := s.block b
  if x.fenced || x.resetting || x.testing then s else
    match s.ctx b o with
    | some c =>
      if !s.threadRuns c || !(segmentOps c.image c.run.segment).contains i then s
      else match side with
        | .out => s.stageOut c i v org f
        | side => s.stageIn c i v side org f
    | none => s

def execStagingComplete (t : Time) (b : Fin 64) (o : Owner) (op level : Nat) (side : StageSide) (tile : List Nat)
    (f : MemFindings) (s : State) : Result :=
  whenReady t (fun s => s.staging b o op level side tile f) s

/-! ## Retirement of a group (R107, R108) -/

/-- A row of an output ring is done once every group of it has retired: HEAD may pass its slot. -/
def State.outRowDone (s : State) (c : Ctx) (k : GroupKey) : State :=
  let t := c.tensor k.op .out
  if t.isRing && c.rowRetired k.op k.fold k.row then
    s.updBlock c.b fun x => x.updRings c.o fun r =>
      if r.image == t.ref then r.rowDone c.run.id (foldIn t k.fold * t.h + k.row) s.time else r
  else s

/-- GROUP_RETIRE: a group whose codes have been emitted, and that owes no replay, retires. -/
def State.retire (s : State) (b : Nat) (o : Owner) (k : GroupKey) : State :=
  match s.ctx b o with
  | some c => match c.group k with
    | some g =>
      if g.retired || g.emitted.isNone || g.replaying then s else
        let op := c.op k.op
        let s := if op.carried then s.writeEntry c k g.entry else s
        let s := s.updBlock b fun x =>
          ((x.dropAcc o fun e => !e.isWino && c.inGroup k e).countArith 2 (if g.flat then 1 else 0)).countArith 5 g.clipped
        let s := s.updGroup b o k fun g => { g with retired := true }
        let s := match s.ctx b o with
          | some c => s.outRowDone c k
          | none => s
        (s.releaseInputs b o).checkSegment b o
    | none => s
  | none => s

def execGroupRetire (t : Time) (b : Fin 64) (o : Owner) (g : GroupKey) (s : State) : Result :=
  whenReady t (fun s => s.onlyIf (!(s.block b).fenced) fun s => s.retire b o g) s

/-! ## Refill of a residency (R296) -/

/-- The record of a line whose refill has failed: block and residency. -/
def refillFault (b : Nat) (id : BitVec 32) : FaultInfo :=
  { cls := Cls.ucf, detector := Det.residencyRefill, outcome := Outc.contained, site := .block b, served := .block b
    suppressed := some (.block (Fin.ofNat 64 b)), location := b, region := some (b / 16), block := some b
    address := some id.toNat }

/-- Read one line of a residency's source for a block: none where it is unmapped, refused or poisoned. -/
def State.sourceLine (s : State) (b va : Nat) (f : MemFindings) : Option (List Byte) × State :=
  match s.readDevice (va / 64) f { block := some b, region := some (b / 16) } with
  | (.data d false, s) => (some d, s)
  | (_, s) => (none, s)

/-- The refill of a residency's poisoned lines on a block completes. -/
def State.refill (s : State) (b : Nat) (x : Resident) (f : MemFindings) : State :=
  let bad := (runOf (x.line, x.lines)).filter fun l => s.lineBad b l && !x.failed.contains l
  let (failed, s) := bad.foldl (fun (fails, s) l =>
    match s.sourceLine b (x.source.toNat + 64 * (l - x.line)) f with
    | (some d, s) => (fails, s.writeSpad b (64 * l) d false)
    | (none, s) => (fails ++ [l], s)) (([] : List Nat), s)
  let s := s.updBlock b fun y => { y with residents := y.residents.map fun r =>
    if r.id == x.id then { r with refilling := false, failed := r.failed ++ failed } else r }
  if failed.isEmpty then s else s.fault (refillFault b x.id)

def execResidencyRefill (t : Time) (b : Fin 64) (id : BitVec 32) (f : MemFindings) (s : State) : Result :=
  whenReady t (fun s =>
    match (s.block b).residents.find? fun r => r.id == id && r.refilling with
    | some r => s.onlyIf (!s.deviceWaits r.source.toNat) fun s => s.refill b r f
    | none => s) s

end Sys2Proof.Machine
end

