-- ==== Sys2Proof/Machine/Mapping.lean ====
section
/-!
DEFINITION. Loading and unloading a mapping (R167 to R170), releasing a residency (R124), and flushing the region caches (R134).
-/

namespace Sys2Proof.Machine

open Sys2Proof

/-! ## Mappings -/

/-- A load's image is copied into the mapping store: none where a page is unmapped or a granule poisoned (check 0x01). The copy is made
as the command is accepted, after which the host's own is not read again (R143); while DRAM does not serve, it waits for that. -/
def State.copyImage (s : State) (l : MapLoad) (f : MemFindings) : MapLoad × State :=
  if l.copied || s.deviceWaits l.addr.toNat then (l, s)
  else
    let x := s.readVa l.addr.toNat l.len f .nobody
    ({ l with copied := true, image := (x.1.filter fun y => !y.2 && y.1.length == l.len).map Prod.fst }, x.2)

/-- LOAD_MAPPING (R167, Table 06-12); the order of its refusals at once is DESIGN CHOICE (log 109). -/
def loadMappingBody (f : MemFindings) : Body := fun k p s =>
  let id := le p 0 2
  let addr := le p 4 8
  if (s.mapping id).state ≠ .empty then (s, .err Code.notPermitted)
  else if addr % 64 ≠ 0 then (s, .err Code.sluiceMisaligned)
  else if 1023 < id ∨ 15 < le p 2 1 ∨ le p 3 1 ≠ 0 then (s, .err Code.notPermitted)
  else
    let s := s.setMapping id { Mapping.reset with state := .loading }
    let l : MapLoad := { ticket := k, id := id, regionMask := BitVec.ofNat 4 (le p 2 1), addr := BitVec.ofNat 64 addr
                         len := le p 12 4, copied := false, image := none }
    let x := s.copyImage l f
    ({ x.2 with loads := x.2.loads ++ [x.1] }, .err Code.accepted)

def execLoadMapping (q : Req) (f : MemFindings) (s : State) : Result := lysil (opRow 0x0450 16 true) q (loadMappingBody f) s

/-- The report of check 0x01. -/
def imageReport : CheckReport := { status := Code.notPermitted, check := 0x01 }

/-- The loader's outcome on a load. -/
def State.loadReport (s : State) (l : MapLoad) : Option CheckReport :=
  match l.image with
  | some x => s.loadChecks x l.len l.regionMask.toNat
  | none => some imageReport

/-- The oldest load ends: the loader runs its checks, and the mapping is loaded or its ID free again (R167, R168). -/
def State.loadDone (s : State) (l : MapLoad) : State :=
  let report := s.loadReport l
  let x := l.image.getD []
  let s := { s with loads := s.loads.drop 1 }
  let s := match report with
    | some _ => s.setMapping l.id Mapping.reset
    | none => s.setMapping l.id
        { state := .loaded, regionMask := l.regionMask, image := x, accElems := imgAcc x, carryEntries := imgCarry x
          unusable := false }
  s.complete l.ticket (reportStatus report) (reportBytes report)

def execLoadMappingDone (t : Time) (f : MemFindings) (s : State) : Result :=
  whenReady t (fun s => match s.loads with
    | l :: _ =>
      let x := s.copyImage l f
      if x.1.copied then x.2.loadDone x.1 else s
    | [] => s) s

/-- A thread of a mapping is resident, or a held job names it (R170). -/
def State.mappingUsed (s : State) (id : Nat) : Bool :=
  (List.range 64).any (fun b => (s.block b).threads.any fun t => t.mapping == id)
    || s.jobs.any fun j => j.state == .held && j.mapping == id

/-- UNLOAD_MAPPING (R170). -/
def unloadMappingBody : Body := fun _ p s =>
  let id := le p 0 2
  if 1023 < id ∨ (s.mapping id).state ≠ .loaded ∨ s.mappingUsed id = true then (s, .err Code.notPermitted)
  else (s.setMapping id Mapping.reset, .ok)

def execUnloadMapping (q : Req) (s : State) : Result := lysil (opRow 0x0451 4) q unloadMappingBody s

/-! ## Residencies -/

/-- A thread binds a residency. -/
def State.binds (s : State) (t : Thread) (id : Nat) : Bool :=
  (imgResids (s.mapping t.mapping).image).any fun r => r.id == id

/-- RELEASE_RESIDENT (R124). -/
def releaseResidentBody : Body := fun _ p s =>
  let id := le p 0 4
  let bs := indices 64 fun b => (le p 4 8).testBit b
  if bs.any fun b => (s.block b).threads.any fun t => s.binds t id then (s, .err Code.notPermitted)
  else
    (forEach bs (fun b s => s.updBlock b fun x => { x with residents := x.residents.filter fun r => r.id.toNat != id }) s, .ok)

def execReleaseResident (q : Req) (s : State) : Result := lysil (opRow 0x0430 12) q releaseResidentBody s

/-! ## Flushing (R134) -/

/-- The dirty lines of some regions. -/
def State.dirtyLines (s : State) (rs : List Nat) : List (Nat × Nat) :=
  rs.flatMap fun r => ((s.region r).cache.filter fun l => l.dirty).map fun l => (r, l.addr)

/-- POOL_FLUSH: one region, or all of them. -/
def poolFlushBody : Body := fun k p s =>
  let r := le p 0 1
  if 3 < r ∧ r ≠ 0xFF then (s, .err Code.notPermitted)
  else
    let rs := if r = 0xFF then [0, 1, 2, 3] else [r]
    let f : Flush := { ticket := k, regions := BitVec.ofNat 4 (if r = 0xFF then 15 else 2 ^ r), lines := s.dirtyLines rs }
    ({ s with flushes := s.flushes ++ [f] }, .err Code.accepted)

def execPoolFlush (q : Req) (s : State) : Result := lysil (opRow 0x0431 4 true) q poolFlushBody s

/-- The lines that were dirty when the oldest flush was accepted have been written back; while DRAM does not serve, they wait. -/
def execPoolFlushDone (t : Time) (s : State) : Result :=
  whenReady t (fun s => match s.flushes with
    | f :: rest => s.onlyIf (s.dramServes || f.lines.isEmpty) fun s => ({ s with flushes := rest }.writeBackLines f.lines).complete f.ticket Code.ok []
    | [] => s) s

end Sys2Proof.Machine
end

