-- ==== Sys2Proof/Machine/Place.lean ====
section
/-!
DEFINITION. Placement (R19, R20, R123, R159, R161, R168, R269, R379), starting and stopping a pipeline (R218, R219), and standalone
jobs from launch to end (R20, R323, R335, R336).
-/

namespace Sys2Proof.Machine

open Sys2Proof

/-! ## Releasing threads -/

/-- A block loses an owner's thread with its rings, accumulators and carry entries (R19, R20, R130, R269). -/
def Block.release (x : Block) (o : Owner) : Block :=
  { x with threads := x.threads.filter fun t => t.owner != o
           rings := x.rings.filter fun e => !(e.2.any fun r => r.owner == o)
           acc := x.acc.filter fun e => e.1.1 != o, accPoison := x.accPoison.filter fun e => e.1 != o
           carry := x.carry.filter fun e => e.owner != o }

/-- An owner's threads go everywhere. -/
def State.releaseThreads (s : State) (o : Owner) : State :=
  let bs := indices 64 fun b => (s.block b).threads.any fun t => t.owner == o
  { forEach bs (fun b s => s.updBlock b fun x => x.release o) s with
      placings := s.placings.filter fun p => p.owner != o }

/-! ## The end of a standalone job -/

/-- The 40 bytes of LAUNCH_JOB's COMPLETION; both times are 0 for a job that was never placed (R335). -/
def jobBytes (j : Job) (r : Option CheckReport) (now : Time) : List Byte :=
  let placed := j.state == .running
  reportBytes r ++ leBytes 4 j.id.toNat ++ leBytes 2 j.statusEvents.toNat ++ zeros 2
    ++ leBytes 8 (if placed then j.start.toNat else 0) ++ leBytes 8 (if placed then now.toNat else 0)

/-- The status that a job's LAUNCH_JOB completes with (R323). -/
def Job.status (j : Job) : BitVec 16 := j.endStatus.getD j.firstStatus

/-- A job ends: its channels halt with its status (R254), the region's cache is written back (R134), its threads are released, and
LAUNCH_JOB completes. -/
def State.endJob (s : State) (j : Job) : State :=
  let st := j.status
  let s := s.haltWhere (fun _ c => c.owned == some (.job j.id)) st
  let s := if j.state = .running then s.writeBackAll j.region else s
  let s := s.releaseThreads (.job j.id)
  let s := { s with jobs := s.jobs.filter fun x => x.id != j.id }
  s.complete j.ticket st (jobBytes j none s.time)

/-- A thread of a job has run its unit. -/
def State.threadDone (s : State) (j : Job) (b : Nat) : Bool :=
  ((s.block b).threadOf (.job j.id)).any fun t =>
    (t.unit.isNone && t.next == (j.id, 1)) || (t.unit.isNone && !((s.unitPlace b (.job j.id) (j.id, 0)).any UnitPlace.hasRows))

/-- A job has come to its end: every thread has finished, its mapping has become unusable (R366), or a status ends it. -/
def State.jobOver (s : State) (j : Job) : Bool :=
  j.endStatus.isSome || (j.state == .running
    && ((s.mapping j.mapping).unusable || (setBlocks j.region j.mask.toNat).all (s.threadDone j)))

/-- JOB_END: a job that is over ends, once DRAM takes its write-back; one whose mapping store has failed ends with POISON_CONSUMED (R366). -/
def State.jobEnd (s : State) (k : BitVec 32) : State :=
  match s.jobOf k with
  | some j =>
    if s.jobOver j && !(j.state == .running && s.writeBackWaits j.region) then
      s.endJob (if j.endStatus.isNone && (s.mapping j.mapping).unusable then { j with endStatus := some Code.poisonConsumed } else j)
    else s
  | none => s

def execJobEnd (t : Time) (j : BitVec 32) (s : State) : Result := whenReady t (fun s => s.jobEnd j) s

/-! ## The end of a pipeline's run -/

/-- The shedding of a pipeline ends (R378). -/
def State.endShed (s : State) (q : Nat) : State :=
  { s with faults := { s.faults with remapStatus := s.faults.remapStatus &&& ~~~ BitVec.ofNat 32 (2 ^ q) } }

/-- A pipeline is STOPPED: its threads go, its channels halt with OK (R254), and STOP_STREAM completes (R219). -/
def State.stopped (s : State) (q : Fin 24) : State :=
  let x := s.pipe q
  let s := s.haltWhere (fun _ c => c.owned == some (.pipeline q)) Code.ok
  let s := (s.releaseThreads (.pipeline q)).endShed q
  let s := forEach (List.range 64) (fun b s => s.updBlock b fun y => { y with placeDue := y.placeDue.filter fun p => p != q.val }) s
  let s := s.setPipe q { s.pipe q with stream := .stopped, ticket := none, blocks := 0, unshedDue := false }
  s.completeOpt x.ticket Code.ok []

/-- Pipelines that are STOPPING and have delivered their last result are STOPPED. -/
def State.settleStops (s : State) : State :=
  forEach (List.finRange 24) (fun q s =>
    if (s.pipe q).stream = .stopping && (s.pipe q).frames.all fun j => j.delivered then s.stopped q else s) s

/-! ## What a placement needs -/

/-- The mapping and region of an owner. -/
def State.ownerMapping (s : State) (w : Owner) : Nat :=
  match w with
  | .pipeline p => (s.pipe p).mappingId
  | .job k => ((s.jobOf k).map fun j => j.mapping).getD 1024
def State.ownerRegion (s : State) (w : Owner) : Nat :=
  match w with
  | .pipeline p => (s.pipe p).setRegion
  | .job k => ((s.jobOf k).map fun j => j.region).getD 0

/-- The blocks that an owner's threads are to be placed on (R379): a pipeline's unfenced ones, when it starts, and those that were
unfenced since, while it streams; a job's. -/
def State.targets (s : State) (w : Owner) : List Nat :=
  match w with
  | .pipeline p =>
    (setBlocks (s.pipe p).setRegion (s.pipe p).setMask).filter fun b =>
      let x := s.block b
      !x.fenced && ((s.pipe p).stream == .starting || (x.placeDue.contains p.val && !x.resetting))
  | .job k => ((s.jobOf k).map fun j => setBlocks j.region j.mask.toNat).getD []

/-- The domains that a placement needs are on (R411). -/
def State.domainsOn (s : State) (w : Owner) : Bool :=
  (s.domain (64 + s.ownerRegion w)).isOn && (s.targets w).all (fun b => (s.domain b).isOn) && match w with
    | .pipeline p => (s.domain (68 + p)).isOn
    | .job _ => true

/-- A placement is asked for and has not begun. -/
def State.wantsPlace (s : State) (w : Owner) : Bool :=
  !(s.placings.any fun p => p.owner == w) && match w with
    | .pipeline p => (s.pipe p).stream == .starting || ((s.pipe p).stream == .streaming && !(s.targets w).isEmpty)
    | .job k => (s.jobOf k).any fun j => j.state == .placing && j.endStatus.isNone

/-- A block that a job needs has no free thread slot (R20). -/
def State.slotsShort (s : State) (k : BitVec 32) : Bool :=
  (s.targets (.job k)).any fun b => !(s.block b).fenced && !(s.block b).slotFree

/-- Held job `b` outranks job `a` and names a block that `a` needs (R20). -/
def State.blocksHeld (s : State) (a b : Job) : Bool :=
  b.state == .held && b.id != a.id && b.region == a.region && (b.mask &&& a.mask) != 0
    && rankBefore (s.stepRank (.job b.id) (b.id, 0)) (s.stepRank (.job a.id) (a.id, 0))

/-- A held job that would start but for its domains (R20, R411). -/
def State.heldMay (s : State) (w : Owner) : Bool :=
  match w with
  | .pipeline _ => false
  | .job k => (s.jobOf k).any fun j => j.state == .held && j.endStatus.isNone && !s.slotsShort k
      && !s.jobs.any fun b => s.blocksHeld j b

/-- An owner asks for the domains of its placement (R411). -/
def State.asksPlace (s : State) (w : Owner) : Bool := s.wantsPlace w || s.heldMay w

/-- Another placement in the region is still copying residencies. -/
def State.placeBusy (s : State) (w : Owner) : Bool :=
  s.placings.any fun p => p.owner != w && s.ownerRegion p.owner == s.ownerRegion w

/-! ## The checks -/

/-- The report of a set without an unfenced block, and of a launch that names a fenced one (R379). -/
def fencedReport : CheckReport := { status := Code.blockFenced, check := 0 }

/-- The stripe and output checks of a pipeline's start on some blocks (R218, R247). -/
def State.startChecks (s : State) (p : Nat) (bs : List Nat) : Option CheckReport :=
  let x := s.pipe p
  let l := (s.mapping x.mappingId).image
  match x.sourcePort with
  | none => some { status := Code.notPermitted, check := 0 }
  | some n =>
    let g := (s.port n).live
    let c := x.live
    let h := halos l c g bs.length
    firstFail [checkStripeInput l g, checkSinks l g, checkStripeRing l c g bs,
      checkLineBuffer g (h.1 + h.2), checkFallback c g, outputChecks x l c g]

/-- Why a placement is rejected, if it is. -/
def State.placeReport (s : State) (w : Owner) : Option CheckReport :=
  let bs := s.targets w
  match w with
  | .pipeline p =>
    if bs.isEmpty then some fencedReport
    else firstFail [if (s.pipe p).stream = .starting then s.startChecks p bs else none,
      s.placeChecks (s.ownerMapping w) (s.ownerRegion w) bs]
  | .job _ =>
    if bs.any fun b => (s.block b).fenced then some fencedReport else s.placeChecks (s.ownerMapping w) (s.ownerRegion w) bs

/-! ## Outcomes -/

/-- A placement is rejected: nothing is placed (R168). -/
def State.placeFail (s : State) (w : Owner) (r : CheckReport) : State :=
  let bs := s.targets w
  let s := { s with placings := s.placings.filter fun p => p.owner != w }
  match w with
  | .pipeline p =>
    if (s.pipe p).stream = .starting then
      let k := (s.pipe p).ticket
      (s.updPipe p fun x => { x with stream := .stopped, ticket := none }).completeOpt k r.status (reportBytes (some r))
    else
      let s := forEach bs (fun b s => s.updBlock b fun x => { x with placeDue := x.placeDue.filter fun q => q != p.val }) s
      s.fault { cls := Cls.info, detector := Det.remap, site := .region (s.ownerRegion w), location := 64 + s.ownerRegion w
                region := some (s.ownerRegion w), block := bs.head?, pipeline := some p.val, address2 := some r.status.toNat }
  | .job k => match s.jobOf k with
    | some j =>
      let s := { s with jobs := s.jobs.filter fun x => x.id != k }
      s.complete j.ticket r.status (jobBytes j (some r) s.time)
    | none => s

/-- The hardware rings that no thread of a block holds, ascending. -/
def Block.freeRings (x : Block) : List Nat := indices 1024 fun i => (x.ring i).isNone

/-- The ring of a binding on its first placement (R269). -/
def newRing (w : Owner) (base : Nat) (r : ImgRing) (t : Time) : Ring :=
  { owner := w, image := r.ring, kind := r.kind, slots := r.slots, slot4k := r.slot4k, baseLine := base + r.baseLine, rate := r.rate
    rowsPerSlot := r.rowsPerSlot, head := 0, tail := 0, units := [], moved := t, next := 0, fed := none
    channel := none }

/-- The residency of an entry. -/
def newResident (r : ImgResid) : Resident :=
  { id := BitVec.ofNat 32 r.id, line := r.line, lines := r.lines, source := BitVec.ofNat 64 r.source
    digest := BitVec.ofNat 64 r.digest, refilling := false, failed := [] }

/-- The first entry of each residency ID. -/
def firstOfEach : List ImgResid → List ImgResid
  | [] => []
  | r :: t => r :: (firstOfEach t).filter fun x => x.id != r.id

/-- The residencies of an image that a block does not hold. -/
def Block.lacks (x : Block) (l : List Byte) : List ImgResid :=
  firstOfEach ((imgResids l).filter fun r => !x.residents.any fun y => y.id.toNat == r.id)

/-- Place an owner's thread on a block: its residencies, working range and rings. -/
def State.placeOn (s : State) (w : Owner) (next : BitVec 32 × Nat) (b : Nat) : State :=
  let m := s.mapping (s.ownerMapping w)
  let base := (s.workBase (s.block b) m.image).getD 0
  s.updBlock b fun x =>
    let pairs := ((imgRings m.image).zip x.freeRings)
    let t : Thread :=
      { owner := w, mapping := s.ownerMapping w, workBase := base, rings := pairs.map fun p => (p.1.ring, p.2)
        accAlloc := m.accElems, carryEntries := m.carryEntries, tiles := 0, checkDue := false, checked := 0, cuts := []
        unit := none, next := next }
    let x := pairs.foldl (fun x p => x.setRing p.2 (some (newRing w base p.1 s.time))) x
    { x with threads := x.threads ++ [t], residents := x.residents ++ (x.lacks m.image).map newResident }

/-- The positions of some blocks in their region, as a mask. -/
def positions (bs : List Nat) : BitVec 16 := BitVec.ofNat 16 ((bs.map fun b => 2 ^ (b % 16)).sum)

/-- Placement gives a pipeline its halos (R205). -/
def State.setHalos (s : State) (p : Nat) : State :=
  let x := s.pipe p
  match x.sourcePort with
  | some n =>
    let h := halos (s.mapping x.mappingId).image x.live (s.port n).live (maskCount x.blocks.toNat)
    s.updPipe p fun x => { x with haloTop := h.1, haloBottom := h.2 }
  | none => s

/-- An error in the last frame of a run is one in the frame before frame 0 of the next (R374). -/
def Pipe.lastError (x : Pipe) (f : Option (BitVec 32)) : Option (BitVec 32) :=
  if f = some (x.nextFrame - 1) then some (0 - 1) else none

/-- START_STREAM succeeds: STREAMING, with the counts of the run at 0 (R8, R218, R244). -/
def State.streamOn (s : State) (p : Nat) (bs : List Nat) : State :=
  let k := (s.pipe p).ticket
  let s := s.updPipe p fun x =>
    { x with stream := .streaming, ticket := none, blocks := positions bs, nextFrame := 0, liveFrom := 0, lastEnded := none
             streamingSince := s.time, consumed := 0, outProducer := 0, statsSeq := 0, fbLast := none, fe := .reset
             unshedDue := false, feErrorFrame := x.lastError x.feErrorFrame, statsErrorFrame := x.lastError x.statsErrorFrame
             outErrorFrame := x.lastError x.outErrorFrame }
  let s := match s.heronOf p with
    | some u => s.setHeron u { s.heron u with applied := [] }
    | none => s
  (s.setHalos p).completeOpt k Code.ok (reportBytes none)

/-- Unfenced blocks of a streaming pipeline's set are used from its next frame boundary, and its shedding ends (R379). -/
def State.joinBlocks (s : State) (p : Nat) (bs : List Nat) : State :=
  let shed := s.faults.remapStatus.getLsbD p
  let s := forEach bs (fun b s => s.updBlock b fun x => { x with placeDue := x.placeDue.filter fun q => q != p }) s
  let s := s.updPipe p fun x => { x with blocks := x.blocks ||| positions bs, unshedDue := x.unshedDue || shed }
  (s.endShed p).setHalos p

/-- Every block passes and every residency is copied: the threads are created (R19, R168). -/
def State.placeCommit (s : State) (w : Owner) : State :=
  let bs := s.targets w
  let s := { s with placings := s.placings.filter fun p => p.owner != w }
  match w with
  | .pipeline p =>
    if (s.pipe p).stream = .starting then (forEach bs (fun b s => s.placeOn w (0, 0) b) s).streamOn p bs
    else (forEach bs (fun b s => s.placeOn w ((s.pipe p).nextFrame, 0) b) s).joinBlocks p bs
  | .job k =>
    (forEach bs (fun b s => s.placeOn w (k, 0) b) s).updJob k fun j => { j with state := .running, start := s.time }

/-- The residencies that must be copied before an owner's threads can be placed (R123, R159). -/
def State.toCopy (s : State) (w : Owner) : List Nat :=
  (((s.targets w).flatMap fun b => (s.block b).lacks (s.mapping (s.ownerMapping w)).image).map fun r => r.id).uniq

/-- Run the checks; on success the threads are placed, or their residencies copied first. -/
def State.placeNow (s : State) (w : Owner) : State :=
  match s.placeReport w with
  | some r => s.placeFail w r
  | none =>
    let ids := s.toCopy w
    if ids.isEmpty then s.placeCommit w
    else { s with placings := s.placings ++ [{ owner := w, copies := ids.map (BitVec.ofNat 32) }] }

/-- PLACEMENT: a job that finds too few thread slots is held (R20, R168). A run begins once the statistics packets of the last are written
(DESIGN CHOICE, log 81). -/
def State.placement (s : State) (w : Owner) : State :=
  if !s.wantsPlace w || !s.domainsOn w || s.placeBusy w then s
  else match w with
    | .job k => if s.slotsShort k && (s.targets w).all (fun b => !(s.block b).fenced) then
        s.updJob k fun j => { j with state := .held } else s.placeNow w
    | .pipeline p => if (s.pipe p).stream = .starting && !(s.pipe p).frames.isEmpty then s else s.placeNow w

def execPlacement (t : Time) (w : Owner) (s : State) : Result := whenReady t (fun s => s.placement w) s

/-! ## Copies of residencies (R159) -/

/-- Copy a residency's lines to the blocks of the set that lack it; one that a fence or a reset has made unreachable meanwhile takes none
(R138, R376). -/
def State.copyLines (s : State) (bs : List Nat) (r : ImgResid) (d : List Byte) : State :=
  forEach (bs.filter fun b => s.takesLines b && !(s.block b).residents.any fun y => y.id.toNat == r.id) (fun b s =>
    s.writeSpad b (64 * r.line) d false) s

/-- The reader that a copy for an owner is recorded for: a pipeline, or a standalone job by its number. -/
def ownerReader (w : Owner) (r : Nat) : Reader :=
  match w with
  | .pipeline p => { region := some r, pipeline := some p }
  | .job k => { region := some r, frame := some k }

/-- A residency's copy is complete: its digest is compared; the last one places the threads, if the block set still passes. -/
def State.residencyCopied (s : State) (w : Owner) (id : BitVec 32) (f : MemFindings) : State :=
  let l := (s.mapping (s.ownerMapping w)).image
  let rs := imgResids l
  match rs.find? fun r => r.id == id.toNat with
  | none => s
  | some r => s.onlyIf (!s.deviceWaits r.source) fun s =>
    let i := rs.findIdx fun r => r.id == id.toNat
    let (x, s) := s.readVa r.source (64 * r.lines) f (ownerReader w (s.ownerRegion w))
    match x with
    | some (y, bad) =>
      if bad || y.length != 64 * r.lines || (crc64 y).toNat != r.digest then s.placeFail w (sourceReport i)
      else
        let s := s.copyLines (s.targets w) r y
        let left := fun (p : Placing) => if p.owner == w then { p with copies := p.copies.filter fun c => c != id } else p
        let s := { s with placings := s.placings.map left }
        if (s.placings.any fun p => p.owner == w && p.copies.isEmpty) then
          match s.placeReport w with
          | some r => s.placeFail w r
          | none => s.placeCommit w
        else s
    | none => s.placeFail w (sourceReport i)

def execResidencyCopy (t : Time) (w : Owner) (id : BitVec 32) (f : MemFindings) (s : State) : Result :=
  whenReady t (fun s =>
    s.onlyIf (s.placings.any fun p => p.owner == w && p.copies.contains id) fun s => s.residencyCopied w id f) s

/-! ## Starting and stopping a pipeline -/

/-- The first byte of a pipeline command, or none when it is out of range; bytes 1 to 3 are ignored (R4). -/
def pipeOperand (p : List Byte) : Option (Fin 24) :=
  if h : le p 0 1 < 24 then some ⟨le p 0 1, h⟩ else none

/-- START_STREAM (R218, R412). -/
def startStreamBody : Body := fun k p s =>
  match pipeOperand p with
  | none => (s, .err Code.notPermitted)
  | some q =>
    let x := s.pipe q
    let off := (setBlocks x.setRegion x.setMask).any s.requestedOff || s.requestedOff (64 + x.setRegion)
      || s.requestedOff (68 + q)
    if x.stream ≠ .stopped ∨ x.sourcePort = none ∨ x.mapped = false ∨ (s.mapping x.mappingId).state ≠ .loaded ∨ off = true then
      (s, .err Code.notPermitted)
    else (s.updPipe q fun x => { x with stream := .starting, ticket := some k }, .err Code.accepted)

def execStartStream (q : Req) (s : State) : Result := lysil (opRow 0x0490 4 true) q startStreamBody s

/-- STOP_STREAM (R219): pending heron commands end, and what has started is carried to its result. -/
def stopStreamBody : Body := fun k p s =>
  match pipeOperand p with
  | none => (s, .err Code.notPermitted)
  | some q =>
    if (s.pipe q).stream ≠ .streaming then (s, .err Code.notPermitted)
    else
      let s := s.updPipe q fun x => { x with stream := .stopping, ticket := some k }
      (s.cancelExposures q fun e => e.unit.isSome, .err Code.accepted)

/-- A pipeline with no result to come is STOPPED at once. -/
def execStopStream (q : Req) (s : State) : Result :=
  lysilThen (opRow 0x0491 4 true) q stopStreamBody (fun s => s.settleStops) s

/-! ## Standalone jobs -/

/-- The next job number: 1 to 0xFFFF_FFFF (R335). -/
def jobAfter (k : BitVec 32) : BitVec 32 := if k = 0xFFFF_FFFF then 1 else k + 1

/-- LAUNCH_JOB (R335, R412). -/
def launchJobBody : Body := fun k p s =>
  let id := le p 0 2
  let r := le p 2 1
  let mask := le p 4 2
  let off := (setBlocks r mask).any s.requestedOff || s.requestedOff (64 + r)
  if 1023 < id ∨ (s.mapping id).state ≠ .loaded ∨ 3 < r ∨ mask = 0 ∨ 6 < le p 6 1 ∨ off = true then
    (s, .err Code.notPermitted)
  else
    let j : Job :=
      { id := s.nextJob, ticket := k, mapping := id, region := r, priority := le p 3 1 % 16, mask := BitVec.ofNat 16 mask
        check := le p 6 1, collision := s.jobCollision.setWidth 2, created := s.time, state := .placing, start := 0
        endStatus := none, firstStatus := 0, statusEvents := 0 }
    ({ s with jobs := s.jobs ++ [j], nextJob := jobAfter s.nextJob }, { status := Code.accepted, data := leBytes 4 j.id.toNat })

def execLaunchJob (q : Req) (s : State) : Result := lysil (opRow 0x04A0 8 true) q launchJobBody s

/-- HELD_JOB_START (R20): every block has a free slot, and no held job of higher rank waits for one of them. -/
def State.heldStart (s : State) (k : BitVec 32) : State :=
  match s.jobOf k with
  | some j =>
    if j.state ≠ .held ∨ j.endStatus ≠ none ∨ s.slotsShort k = true ∨ s.domainsOn (.job k) = false ∨ s.placeBusy (.job k) = true
        ∨ (s.jobs.any fun b => s.blocksHeld j b) = true then s
    else (s.updJob k fun j => { j with state := .placing }).placeNow (.job k)
  | none => s

def execHeldJobStart (t : Time) (j : BitVec 32) (s : State) : Result := whenReady t (fun s => s.heldStart j) s

/-- CANCEL_JOB (R336): a held job or a running one ends with JOB_CANCELLED. -/
def cancelJobBody : Body := fun _ p s =>
  match s.jobOf (BitVec.ofNat 32 (le p 0 4)) with
  | some j =>
    if j.endStatus.isSome || j.state == .placing then (s, .err Code.notPermitted)
    else (s.updJob j.id fun j => { j with endStatus := some Code.jobCancelled }, .ok)
  | none => (s, .err Code.notPermitted)

/-- A held job that a status ends is removed at once: it has nothing to end. -/
def State.settleHeld (s : State) : State :=
  forEach (s.jobs.filter fun j => j.state == .held && j.endStatus.isSome) (fun j s => s.endJob j) s

def execCancelJob (q : Req) (s : State) : Result :=
  lysilThen (opRow 0x04A1 4) q cancelJobBody (fun s => s.settleHeld) s

end Sys2Proof.Machine
end

