-- ==== Sys2Proof/Machine/Output.lean ====
section
/-!
DEFINITION. The outputs of a pipeline (chapter 09): the pictures and tensors of a final stripe (R71, R223 to R233), the
detections (R234 to R240), and the provenance map and completion record of a result (R216, R217, R241 to R246), with the errors
found in them (R245, R374).
-/

namespace Sys2Proof.Machine

open Sys2Proof

/-! ## What an output channel reads -/

/-- Read `n` bytes of device virtual space for an output: the bytes, and the granules that come poisoned or fault, whose bytes are a
free value (log 2). -/
def State.readOut (s : State) (va n : Nat) (f : MemFindings) (who : Reader) : (List Byte × List Nat) × State :=
  (pieces n va (zeros n)).foldl (fun (acc, s) (g, o, d) =>
    match s.readDevice g f who with
    | (.data y false, s) => ((acc.1 ++ slice y o d.length, acc.2), s)
    | (_, s) =>
      let v := s.free
      ((acc.1 ++ slice (leBytes 64 v.1.toNat) o d.length, acc.2 ++ [g]), v.2)) (([], []), s)

/-- The frame job on whose behalf an output channel reads. -/
def outReader (q : Nat) (f : BitVec 32) (i : Nat) : Reader := { pipeline := some q, frame := some f, stripe := some i }

/-- Row `y` of channel block `b` of a tensor in DRAM: `n` bytes of its codes, the entries of its groups, and the granules of the
codes and the entries that are bad. -/
structure TensorRow where
  codes : List Byte
  entries : List Byte
  badCodes : List Nat
  badEntries : List Nat
  deriving DecidableEq, Repr

/-- Read a row of a DRAM tensor. -/
def State.tensorRow (s : State) (t : ImgTensor) (b y n : Nat) (f : MemFindings) (who : Reader) : TensorRow × State :=
  let x := s.readOut (t.base + t.rowOffset 0 b y) n f who
  let e := x.2.readOut (t.shiftBase + t.shiftIndex 0 b y 0) t.groups f who
  ({ codes := x.1.1, entries := e.1.1, badCodes := x.1.2, badEntries := e.1.2 }, e.2)

/-- Some granule of the row is bad. -/
def TensorRow.bad (r : TensorRow) : Bool := !(r.badCodes.isEmpty && r.badEntries.isEmpty)

/-- Read rows `y` of channel blocks 0 to `n` − 1. -/
def State.tensorRows (s : State) (t : ImgTensor) (n y bytes : Nat) (f : MemFindings) (who : Reader) : List TensorRow × State :=
  (List.range n).foldl (fun (acc, s) b =>
    let r := s.tensorRow t b y bytes f who
    (acc ++ [r.1], r.2)) ([], s)

/-! ## The picture (R223 to R229) -/

/-- One of R′, G′ and B′ of a pixel: the exact sum of the three digit planes, rounded once and clamped (R224). -/
def planeValue (t : ImgTensor) (z : Nat) (rows : List TensorRow) (k x : Nat) : Nat :=
  let term := fun (r : TensorRow) =>
    ((rowCode 16 r.codes k x : Nat) - (z : Int)) * 2 ^ (entryShift (r.entries.getD (x / t.groupSpan) 0) + 32).toNat
  clampTo 4095 (rneDiv (rows.map term).sum (2 ^ 32))

/-- Row `y` of a NEURAL stripe's picture in Y′CbCr (R224, R225). -/
def State.pictureRow (s : State) (q : Nat) (j : FrameJob) (i y : Nat) (f : MemFindings) : YuvRow × State :=
  let l := (s.mapping (s.pipe q).mappingId).image
  let t := imgTensor l (s.pipe q).picture
  let z := (sinkOf l (s.pipe q).picture).outZp
  let rows := s.tensorRows t 3 y (8 * j.port.width) f (outReader q j.frame i)
  let v := planeValue t z rows.1
  ({ row := y, px := (List.range j.port.width).map fun x => j.settings.yuv (v 0 x, v 1 x, v 2 x)
     bad := rows.1.any TensorRow.bad }, rows.2)

/-- The picture rows of a stripe: first, count. -/
def FrameJob.stripeLines (j : FrameJob) (i : Nat) : Rows := stripeRows i j.settings.stripeH j.port.height

/-- A stripe's NEURAL picture rows. -/
def State.neuralRows (s : State) (q : Nat) (j : FrameJob) (i : Nat) (f : MemFindings) : List YuvRow × State :=
  (runOf (j.stripeLines i)).foldl (fun (acc, s) y =>
    let r := s.pictureRow q j i y f
    (acc ++ [r.1], r.2)) ([], s)

/-- Samples of one stored row, and whether the row is poisoned. -/
abbrev Samples := List Nat × Bool

/-- 4:2:0 rows of a picture: luma rows from row `first`, chroma rows with Cb and Cr alternating. -/
structure Picture where
  first : Nat
  luma : List Samples
  chroma : List Samples
  deriving DecidableEq, Repr

/-- Cb and Cr of a chroma row, alternating. -/
def chromaSamples (r : List (Nat × Nat)) : List Nat := r.flatMap fun p => [p.1, p.2]

/-- Consecutive rows in pairs. -/
def rowPairs : List YuvRow → List (YuvRow × YuvRow)
  | a :: b :: t => (a, b) :: rowPairs t
  | _ => []

/-- The full-resolution picture of rows. -/
def fullPicture (first : Nat) (rows : List YuvRow) : Picture :=
  { first := first, luma := rows.map fun r => (r.px.map Prod.fst, r.bad)
    chroma := (rowPairs rows).map fun p => (chromaSamples (chromaRow p.1.px p.2.px), p.1.bad || p.2.bad) }

/-- The display picture of a NEURAL stripe's rows (R228, R229). -/
def scaledPicture (c : PipeSettings) (g : PortSettings) (i : Nat) (rows : List YuvRow) : Picture :=
  let ps := displayStripe c g i (rows.map fun r => r.px)
  let bad := displayBad c g rows (i * c.stripeH)
  { first := 2 * ((ps.head?.map Prod.fst).getD 0)
    luma := ps.flatMap fun p => [(p.2.1.map Prod.fst, bad (2 * p.1)), (p.2.2.map Prod.fst, bad (2 * p.1 + 1))]
    chroma := ps.map fun p => (chromaSamples (chromaRow p.2.1 p.2.2), bad (2 * p.1) || bad (2 * p.1 + 1)) }

/-! ## The fallback picture (R71, R473) -/

/-- The mid code of Y, Cb and Cr. -/
def midGrey : Nat := 512

/-- Read `n` samples of a fallback slot: a bad granule's are mid-grey; whether one is (R71). -/
def State.slotSamples (s : State) (va n : Nat) (f : MemFindings) (who : Reader) : (List Nat × Bool) × State :=
  let x := s.readOut va (2 * n) f who
  (((List.range n).map fun k =>
      if x.1.2.contains ((va + 2 * k) / 64) then midGrey else le x.1.1 (2 * k) 2 / 64, !x.1.2.isEmpty), x.2)

/-- Rows of `n` samples of a fallback slot, one after the other. -/
def State.slotRows (s : State) (va n count : Nat) (f : MemFindings) (who : Reader) : (List Samples × Bool) × State :=
  (List.range count).foldl (fun (acc, s) k =>
    let r := s.slotSamples (va + 2 * n * k) n f who
    ((acc.1 ++ [(r.1.1, false)], acc.2 || r.1.2), r.2)) (([], false), s)

/-- A picture of mid-grey. -/
def greyRows (n count : Nat) : List Samples := List.replicate count (List.replicate n midGrey, false)

/-- A substituted stripe's picture of `count` rows of `n` samples: luma at one address, chroma at another; without a slot, or
with rows missing in it, all mid-grey. -/
def State.slotPicture (s : State) (slot : Option (Nat × Nat)) (first n count : Nat) (f : MemFindings) (who : Reader) :
    (Picture × Bool) × State :=
  match slot with
  | some (y, c) =>
    let a := s.slotRows y n count f who
    let b := a.2.slotRows c n (count / 2) f who
    (({ first := first, luma := a.1.1, chroma := b.1.1 }, a.1.2 || b.1.2), b.2)
  | none => (({ first := first, luma := greyRows n count, chroma := greyRows n (count / 2) }, true), s)

/-- The address of a stripe's fallback slot, if it holds all the stripe's rows. -/
def FrameJob.slotOf (j : FrameJob) (i : Nat) : Option Nat :=
  (j.stripe i).bind fun st => if (j.stripeLines i).2 ≤ st.fbRows then st.fbSlot.map (slotBase j.settings j.port) else none

/-- The coding and display pictures of a substituted stripe, those that are enabled; whether anything was mid-grey. -/
def State.fallbackPictures (s : State) (q : Nat) (j : FrameJob) (i : Nat) (f : MemFindings) : (Option Picture × Option Picture × Bool) × State :=
  let c := j.settings
  let g := j.port
  let who := outReader q j.frame i
  let slot := j.slotOf i
  let n := (j.stripeLines i).2
  let pairs := displayPairs c g i
  let x := if c.codingEn then
      let r := s.slotPicture (slot.map fun a => (a, a + 2 * g.width * c.stripeH)) (j.stripeLines i).1 g.width n f who
      ((some r.1.1, r.1.2), r.2)
    else (((none : Option Picture), false), s)
  let y := if c.displayEn then
      let a0 := fun a => a + 3 * g.width * c.stripeH
      let r := x.2.slotPicture (slot.map fun a => (a0 a, a0 a + 2 * c.displayW * displayLines c g)) (2 * pairs.headD 0)
        c.displayW (2 * pairs.length) f who
      ((some r.1.1, r.1.2), r.2)
    else (((none : Option Picture), false), x.2)
  ((x.1.1, y.1.1, x.1.2 || y.1.2), y.2)

/-! ## What an output channel writes -/

/-- A run of bytes to be written: address, bytes, poison. -/
abbrev OutRun := Nat × List Byte × Bool

/-- Samples as NV12 bytes or P010 words (R226). -/
def packSamples (p010 : Bool) (v : List Nat) : List Byte :=
  if p010 then v.flatMap p010Bytes else v.map fun (x : Nat) => BitVec.ofNat 8 (clampTo 255 (rneShift (x : Int) 2))

/-- The rows of a picture in an output area of slot base `base` (R226, R231). -/
def Pipe.pictureRuns (x : Pipe) (f base : Nat) (p010 : Bool) (p : Picture) : List OutRun :=
  (p.luma.mapIdx fun k r => (base + (p.first + k) * x.rowPitch f, packSamples p010 r.1, r.2))
    ++ (p.chroma.mapIdx fun k r => (base + x.offA f + (p.first / 2 + k) * x.rowPitch f, packSamples p010 r.1, r.2))

/-- Result slot of a frame, and the base of its part of an output area (R241). -/
def FrameJob.slot (j : FrameJob) : Nat := j.frame.toNat % 2 ^ j.settings.slotsLog2
def Pipe.slotAt (x : Pipe) (j : FrameJob) (f : Nat) : Nat := x.areaBase f + j.slot * x.slotPitch f

/-- Runs of 64 bytes. -/
def chunks64 : Nat → Nat → List Byte → List (Nat × List Byte)
  | 0, _, _ => []
  | n + 1, a, d => if d.isEmpty then [] else (a, d.take 64) :: chunks64 n (a + 64) (d.drop 64)

/-- A row of the machine-vision tensor as it is delivered: encoded when MV_PEAT asks for it, else byte for byte, granule by
granule with its poison (R232, R276). -/
def mvRuns (t : ImgTensor) (c : PipeSettings) (dst src : Nat) (r : TensorRow) : List OutRun :=
  if t.peat = 0 ∧ c.mvPeat ≠ 0 then [(dst, (peatEncodeRow c.mvPeat t.cw t.wAlloc r.codes).1, !r.badCodes.isEmpty)]
  else (chunks64 r.codes.length 0 r.codes).map fun x => (dst + x.1, x.2, r.badCodes.contains ((src + x.1) / 64))

/-- A row of zeros of the machine-vision tensor, every element at OUT_ZP (R233). -/
def mvZeroRow (t : ImgTensor) (c : PipeSettings) (z : Nat) : List Byte :=
  let row := List.replicate (t.rowBytes) (BitVec.ofNat 8 (17 * z))
  if c.mvPeat = 0 then row else (peatEncodeRow c.mvPeat t.cw t.wAlloc row).1

/-- The machine-vision rows and entries of a stripe (R232, R233). -/
def State.mvStripe (s : State) (q : Nat) (j : FrameJob) (i : Nat) (neural : Bool) (f : MemFindings) : List OutRun × State :=
  let x := s.pipe q
  let l := (s.mapping x.mappingId).image
  let t := imgTensor l x.mv
  let z := (sinkOf l x.mv).outZp
  let base := x.slotAt j 2
  let rows := runOf (finalRows (.stripe i j.settings.stripeH j.port.height) t.h)
  (((List.range t.cb).flatMap fun b => rows.map fun y => (b, y))).foldl (fun (acc, s) (p : Nat × Nat) =>
    let dst := base + p.1 * x.cbPitch 2 + p.2 * x.rowPitch 2
    let side := base + x.offA 2 + (p.1 * t.h + p.2) * t.groups
    if neural then
      let r := s.tensorRow t p.1 p.2 t.storedRow f (outReader q j.frame i)
      (acc ++ mvRuns t j.settings dst (t.base + t.rowOffset 0 p.1 p.2) r.1 ++ [(side, r.1.entries, !r.1.badEntries.isEmpty)], r.2)
    else (acc ++ [(dst, mvZeroRow t j.settings z, false), (side, List.replicate t.groups 0xA0, false)], s)) ([], s)

/-! ## Writing (R243, R245, R374) -/

/-- Count in OUTPUT_COUNTERS (Table 09-15). -/
def State.countOutput (s : State) (q w n : Nat) : State :=
  s.updPipe q fun x => { x with outCounters := x.outCounters.add w n }

/-- An output detector's report. -/
def outputFault (q : Nat) (f : BitVec 32) (cls det : BitVec 8) : FaultInfo :=
  { cls := cls, detector := det, outcome := Outc.contained, site := .chip Chip.output q, served := .pipe q
    pipeline := some q, frame := some f }

/-- An output granule is dropped (R245): it is counted, and the result's first makes a record and sets WRITE_FAULT. A granule of the
completion record that is lost leaves the record out of host memory (R246). -/
def State.dropOutput (s : State) (q : Nat) (f : BitVec 32) : State :=
  let first := ((s.pipe q).job f).any fun j => !j.writeFault
  let s := (s.countOutput q 4 1).updPipe q fun x => x.updFrame f fun j => { j with writeFault := true, recordLost := j.recordLost || j.recordSent }
  if first then s.fault (outputFault q f Cls.ucc Det.outputWrite) else s

/-- A granule to be written: its number, offset, bytes and poison. -/
abbrev OutPiece := Nat × Nat × List Byte × Bool

/-- The granules of some runs. -/
def outPieces (rs : List OutRun) : List OutPiece :=
  rs.flatMap fun r => (pieces r.2.1.length r.1 r.2.1).map fun p => (p.1, p.2.1, p.2.2, r.2.2)

/-- Write granules of a result, in order; those that go nowhere are dropped. -/
def State.outWrite (s : State) (q : Nat) (f : BitVec 32) (ps : List OutPiece) (m : MemFindings) (i : Option Nat := none)
    (coding : Bool := false) : State :=
  ps.foldl (fun s p =>
    let x := s.writeVaPiece p.1 p.2.1 p.2.2.1 p.2.2.2 (.output q f i coding) m
    if x.1 then x.2 else x.2.dropOutput q f) s

/-- The first write of a result (R243): it overruns when its slot holds a result that software still needs. -/
def State.beginResult (s : State) (q : Nat) (f : BitVec 32) : State :=
  match (s.pipe q).job f with
  | some j =>
    if j.begun then s
    else
      let lost := decide (2 ^ j.settings.slotsLog2 ≤ (f - (s.pipe q).consumed).toNat)
      let s := s.updPipe q fun x => x.updFrame f fun j => { j with begun := true, overrun := lost }
      if lost then s.countOutput q 1 1 else s
  | none => s

/-- The coding marker with DONE (R227). -/
def State.writeMarker (s : State) (q : Nat) (j : FrameJob) (done : Nat) (f : MemFindings) : State :=
  let x := s.pipe q
  s.outWrite q j.frame (outPieces [(x.slotAt j 0 + x.offB 0, leBytes 4 j.frame.toNat ++ leBytes 2 done ++ zeros 2, false)]) f

/-- An error in the output formatter or the display scaler (R374): CHECK_ERROR, a record, and a second one when the frame before
had one too. -/
def State.outputError (s : State) (q : Nat) (f : BitVec 32) : State :=
  let last := (s.pipe q).outErrorFrame
  let s := (s.updPipe q fun x => { x.updFrame f fun j => { j with checkError := true } with outErrorFrame := some f }).fault
    (outputFault q f Cls.ucc Det.outputCheck)
  if last = some (f - 1) then s.fault (outputFault q f Cls.ucf Det.outputCheck) else s

/-- The granule in progress is written poisoned: which one it is, the finding does not say (log 2). -/
def State.poisonOne (s : State) (ps : List OutPiece) : List OutPiece × State :=
  let v := s.free
  (ps.modify (v.1.toNat % max 1 ps.length) fun p => (p.1, p.2.1, p.2.2.1, true), v.2)

/-! ## OUTPUT_STRIPE_WRITE (R26, R226 to R233) -/

/-- The runs of a stripe, those of its coding rows apart; a substituted stripe with mid-grey in it is marked and recorded (R71). -/
def State.stripeRuns (s : State) (q : Nat) (j : FrameJob) (i : Nat) (neural : Bool) (f : MemFindings) :
    (List OutRun × List OutRun) × State :=
  let x := s.pipe q
  let c := j.settings
  let p := if !(c.codingEn || c.displayEn) then (((none : Option Picture), (none : Option Picture)), s)
    else if neural then
      let rows := s.neuralRows q j i f
      ((if c.codingEn then some (fullPicture (j.stripeLines i).1 rows.1) else none,
        if c.displayEn then some (scaledPicture c j.port i rows.1) else none), rows.2)
    else
      let r := s.fallbackPictures q j i f
      let s := if r.1.2.2 then
          (r.2.updStripe q j.frame i fun st => { st with fbPoisoned := true }).fault
            { outputFault q j.frame Cls.ucc Det.fallbackPoison with stripe := some i }
        else r.2
      ((r.1.1, r.1.2.1), s)
  let m := if c.mvEn then p.2.mvStripe q j i neural f else ([], p.2)
  ((p.1.1.elim [] (x.pictureRuns 0 (x.slotAt j 0) c.codingP010),
    (p.1.2.elim [] (x.pictureRuns 1 (x.slotAt j 1) c.displayP010)) ++ m.1), m.2)

/-- A stripe's coding rows are in memory, or dropped: they are written, and no peer still owes an answer to one. -/
def State.codingLanded (s : State) (q : Nat) (j : FrameJob) (i : Nat) : Bool :=
  (j.stripe i).any (fun st => st.written) && s.fovar.sent.all fun g => !g.use.isCoding q j.frame i

/-- DONE: stripes whose coding rows are all there, from stripe 0 without a gap (R227). -/
def State.doneNow (s : State) (q : Nat) (j : FrameJob) : Nat :=
  ((List.range j.stripes.length).takeWhile (s.codingLanded q j)).length

/-- DONE has risen: the marker is written again. -/
def State.raiseDone (s : State) (q : Nat) (f : BitVec 32) (m : MemFindings) : State :=
  match (s.pipe q).job f with
  | some j =>
    let n := s.doneNow q j
    if j.settings.codingEn && decide (j.done < n) then
      (s.updPipe q fun x => x.updFrame f fun j => { j with done := n }).writeMarker q j n m
    else s
  | none => s

/-- A final stripe's forms are written. The result's first write, the marker's or that of a form, is looked at first (R243); a stripe
without a form writes nothing. -/
def State.stripeOut (s : State) (q : Nat) (j : FrameJob) (i : Nat) (neural err : Bool) (f : MemFindings) : State :=
  let c := j.settings
  let s := if c.codingEn || c.displayEn || c.mvEn then s.beginResult q j.frame else s
  let s := if c.codingEn && !(j.stripes.any fun st => st.written) then s.writeMarker q j 0 f else s
  let r := s.stripeRuns q j i neural f
  let n := (outPieces r.1.1).length
  let ps := outPieces r.1.1 ++ outPieces r.1.2
  let w := if err && !ps.isEmpty then (r.2.outputError q j.frame).poisonOne ps else (ps, r.2)
  let s := (w.2.outWrite q j.frame (w.1.take n) f (some i) true).outWrite q j.frame (w.1.drop n) f (some i)
  (s.updStripe q j.frame i fun st => { st with written := true, fbSlot := none }).raiseDone q j.frame f

/-- The addresses a stripe's forms are read from and written to. -/
def State.stripeVas (s : State) (q : Nat) (j : FrameJob) (i : Nat) (neural : Bool) : List Nat :=
  let x := s.pipe q
  let c := j.settings
  let l := (s.mapping x.mappingId).image
  let form := fun (on : Bool) (area src : Nat) => if on then x.slotAt j area :: (if neural then [(imgTensor l src).base] else []) else []
  form c.codingEn 0 x.picture ++ form c.displayEn 1 x.picture ++ form c.mvEn 2 x.mv
    ++ if neural || !(c.codingEn || c.displayEn) then [] else (j.slotOf i).toList

def execOutputStripeWrite (t : Time) (p : Fin 24) (frame : BitVec 32) (stripe : Nat) (err : Bool) (f : MemFindings) (s : State) : Result :=
  whenReady t (fun s =>
    match (s.pipe p).job frame with
    | some j => match j.stripe stripe with
      | some st =>
        if st.written then s else match st.final with
          | some c => s.onlyIf (!(s.stripeVas p j stripe (c == .neural)).any s.deviceWaits) fun s =>
            s.stripeOut p j stripe (c == .neural) err f
          | none => s
      | none => s
    | none => s) s

/-! ## HEAD_ROWS_READ (R234 to R236) -/

/-- A channel's value at a cell of a head row: significand and exponent (R234). -/
def headValue (t : ImgTensor) (o : ImgOp) (rows : List TensorRow) (ch x : Nat) : Int × Int :=
  let r := rows.getD (ch / t.cw) ⟨[], [], [], []⟩
  (((rowCode t.cw r.codes (ch % t.cw) x % 2 ^ o.outBits : Nat) : Int) - o.outZp, entryShift (r.entries.getD (x / t.groupSpan) 0))

/-- A value in units of 2^−40. -/
def scaled40 (v : Int × Int) : Int := v.1 * 2 ^ (v.2 + 40).toNat

/-- The largest 17-bit `v` with v − 1/2 at most 2^(16 + f/256): 2^(f/256) rounded to 16 fraction bits (R236). -/
def powTable (f : Nat) : Nat :=
  (List.range 17).reverse.foldl (fun v k =>
    let u := v + 2 ^ k
    if (2 * u - 1) ^ 256 ≤ 2 ^ (4352 + f) then u else v) 0

/-- 2^t in units of 2^−32, for t in units of 2^−40 (R236). -/
def powTwo (t : Int) : Nat :=
  let n := max (-4096) (min 4096 (rneDiv t (2 ^ 32)))
  powTable (n.emod 256).toNat * 2 ^ (n.ediv 256 + 16).toNat

/-- Width or height of a box in units of 2^−40 pixel (R236). -/
def boxSide (c : PipeSettings) (g a : Nat) (t : Int) : Int :=
  if c.anchorEnc then a * powTwo t * 16 else t * g

/-- The two edges of a box along an axis, in 1/16 pixel, rounded once and clamped (R236). -/
def boxEdges (c : PipeSettings) (g cell size a : Nat) (t d : Int) : Nat × Nat :=
  let mid := 2 * ((cell * 2 ^ 40 + 2 ^ 39 : Nat) + t) * g
  let side := boxSide c g a d
  (clampTo (16 * size) (rneDiv (mid - side) (2 ^ 37)), clampTo (16 * size) (rneDiv (mid + side) (2 ^ 37)))

/-- Candidates of one cell and anchor (R235, R236). -/
def cellCandidates (c : PipeSettings) (g : PortSettings) (k hd gy gx i : Nat) (value : Nat → Int × Int) (a : Nat) : List Candidate :=
  let at_ := fun n => value (a * (4 + c.numClasses) + n)
  let cls := (List.range c.numClasses).filter fun n => decide ((c.scoreThr : Int) * 2 ^ 32 < scaled40 (at_ (4 + n)))
  if cls.isEmpty then [] else
    let x := boxEdges c (2 ^ k) gx g.width (fld 15 0 (c.anchor a)) (scaled40 (at_ 0)) (scaled40 (at_ 2))
    let y := boxEdges c (2 ^ k) gy g.height (fld 31 16 (c.anchor a)) (scaled40 (at_ 1)) (scaled40 (at_ 3))
    if x.2 ≤ x.1 ∨ y.2 ≤ y.1 then []
    else cls.map fun n => { head := hd, gy := gy, gx := gx, anchor := a, cls := n, sig := (at_ (4 + n)).1, exp := (at_ (4 + n)).2
                            x0 := x.1, y0 := y.1, x1 := x.2, y1 := y.2, stripe := i }

/-- The candidates of a head in a stripe. -/
def State.headStripe (s : State) (q : Nat) (j : FrameJob) (i hd : Nat) (f : MemFindings) : List Candidate × State :=
  let x := s.pipe q
  let l := (s.mapping x.mappingId).image
  let t := imgTensor l (x.head hd)
  let c := j.settings
  let k := (sinkScale j.port.height t.h).getD 0
  (runOf (finalRows (.stripe i c.stripeH j.port.height) t.h)).foldl (fun (acc, s) y =>
    let r := s.tensorRows t t.cb y t.rowBytes f (outReader q j.frame i)
    let v := headValue t (sinkOf l (x.head hd)) r.1
    (acc ++ (List.range t.w).flatMap fun gx =>
      (List.range (if c.anchorEnc then c.anchors_ else 1)).flatMap fun a =>
        cellCandidates c j.port k hd y gx i (fun ch => v ch gx) a, r.2)) ([], s)

/-- The post-processor reads the head rows of a NEURAL stripe. -/
def State.readHeads (s : State) (q : Nat) (j : FrameJob) (i : Nat) (f : MemFindings) : State :=
  let r := (s.pipe q).heads.foldl (fun (acc, s) h =>
    let x := s.headStripe q j i h f
    (acc ++ x.1, x.2)) (([] : List Candidate), s)
  (r.2.updStripe q j.frame i fun st => { st with headsRead := true }).updPipe q fun x => x.updFrame j.frame fun j =>
    { j with candidates := j.candidates ++ r.1, candCount := j.candCount + r.1.length }

/-- The head tensors' addresses. -/
def State.headVas (s : State) (q : Nat) : List Nat :=
  let x := s.pipe q
  x.heads.map fun h => (imgTensor (s.mapping x.mappingId).image (x.head h)).base

def execHeadRowsRead (t : Time) (p : Fin 24) (frame : BitVec 32) (stripe : Nat) (f : MemFindings) (s : State) : Result :=
  whenReady t (fun s =>
    match (s.pipe p).job frame with
    | some j => match j.stripe stripe with
      | some st => s.onlyIf (j.settings.detEn && !st.headsRead && st.final == some .neural && !(s.headVas p).any s.deviceWaits)
          fun s => s.readHeads p j stripe f
      | none => s
    | none => s) s

/-! ## DETECTION_POSTPROCESS (R237 to R240) -/

/-- A candidate's score in units of 2^−40. -/
def Candidate.score (c : Candidate) : Int := scaled40 (c.sig, c.exp)

/-- Candidate indices in ascending order (R235). -/
def Candidate.index (c : Candidate) : List Nat := [c.head, c.gy, c.gx, c.anchor, c.cls]

/-- Order by descending score, at equal score the lower index first. -/
def Candidate.before (a b : Candidate) : Bool :=
  decide (b.score < a.score) || (a.score == b.score && !rankBefore b.index a.index)

/-- Intersection and union areas of two boxes. -/
def boxAreas (a b : Candidate) : Nat × Nat :=
  let i := (min a.x1 b.x1 - max a.x0 b.x0) * (min a.y1 b.y1 - max a.y0 b.y0)
  (i, (a.x1 - a.x0) * (a.y1 - a.y0) + (b.x1 - b.x0) * (b.y1 - b.y0) - i)

/-- Suppression within each class, over candidates in order (R238). -/
def suppressed (thr : Nat) (cs : List Candidate) : List Candidate :=
  cs.foldl (fun kept c =>
    if kept.any fun k => k.cls == c.cls && decide (thr * (boxAreas k c).2 < (boxAreas k c).1 * 256) then kept else kept ++ [c]) []

/-- SCORE (Table 09-1). -/
def Candidate.score8 (c : Candidate) : Nat := clampTo 0xFFFF (rneDiv c.score (2 ^ 32))

/-- A detection record (Table 09-1). -/
def detRecord (f : BitVec 32) (c : Candidate) : List Byte :=
  leBytes 2 c.x0 ++ leBytes 2 c.y0 ++ leBytes 2 c.x1 ++ leBytes 2 c.y1 ++ leBytes 2 c.score8 ++ leBytes 1 c.cls
    ++ leBytes 1 (16 * c.head + c.anchor) ++ leBytes 2 c.gx ++ leBytes 2 c.gy ++ leBytes 2 c.stripe ++ zeros 2
    ++ leBytes 4 f.toNat ++ leBytes 5 (c.sig.emod (2 ^ 40)).toNat ++ leBytes 1 (c.exp.emod 256).toNat ++ zeros 2

/-- A detection post-processor's report (Table 14-4). -/
def detectionFault (r q : Nat) (f : BitVec 32) (cls : BitVec 8) : FaultInfo :=
  { cls := cls, detector := Det.detectionCheck, outcome := Outc.contained, site := .region r
    regionBits := [RegionBit.detection], served := .region r, location := 64 + r, region := some r, pipeline := some q
    frame := some f }

/-- An error in the post-processor (R374): no list, and a second record when the frame it processed before had one too. -/
def State.detectionError (s : State) (r q : Nat) (f : BitVec 32) : State :=
  let again := (s.region r).detErrorFrame.isSome
  let s := s.fault (detectionFault r q f Cls.ucc)
  let s := if again then s.fault (detectionFault r q f Cls.ucf) else s
  (s.updRegion r fun x => { x with detErrorFrame := some (q, f) }).updPipe q fun x => x.updFrame f fun j =>
    { j with checkError := true, detDone := true, candidates := [] }

/-- The list of a frame is made and written. -/
def State.detectionList (s : State) (r q : Nat) (j : FrameJob) (f : MemFindings) : State :=
  let c := j.settings
  let kept := (j.candidates.sortBy Candidate.before).take 4096
  let dropped := j.candidates.length - kept.length
  let boxes := suppressed c.iouThr kept
  let list := boxes.take c.maxDet
  let s := s.updRegion r fun x => { x with detErrorFrame := none }
  let s := if dropped = 0 then s else s.countOutput q 2 dropped
  let s := if list.isEmpty then s else
    (s.beginResult q j.frame).outWrite q j.frame
      (outPieces [((s.pipe q).slotAt j 3, list.flatMap (detRecord j.frame), false)]) f
  s.updPipe q fun x => x.updFrame j.frame fun j =>
    { j with candidates := [], candTruncated := dropped != 0, detDone := true, detCount := list.length
             detTruncated := decide (list.length < boxes.length), detValid := true }

/-- Every stripe is final, and the head rows of its NEURAL stripes are read. -/
def FrameJob.headsDone (j : FrameJob) : Bool :=
  j.stripes.all fun st => st.final.isSome && (st.headsRead || st.final != some .neural)

/-- The frames whose lists a region's post-processor still makes, with what orders them: the deadline of their last stripe, then
the pipeline (R239). -/
def State.detectionQueue (s : State) (r : Nat) : List (List Nat × Nat × FrameJob) :=
  (List.range 24).flatMap fun q =>
    if (s.pipe q).setRegion = r then
      ((s.pipe q).frames.filter fun j => j.settings.detEn && !j.detDone).map fun j =>
        ([(j.stripes.getLast?.map fun st => st.deadline).getD 0, q], q, j)
    else []

def execDetectionPostprocess (t : Time) (r : Fin 4) (x : ListFindings) (s : State) : Result :=
  whenReady t (fun s =>
    match bestRanked (s.detectionQueue r) with
    | some (q, j) =>
      if !j.headsDone || s.deviceWaits ((s.pipe q).slotAt j 3) then s
      else if x.err then s.detectionError r q j.frame
      else s.detectionList r q j x.mem
    | none => s) s

/-! ## COMPLETION_RECORD_WRITE (R216, R217, R241 to R246) -/

/-- A provenance entry (Table 08-3). -/
def Stripe.entry (st : Stripe) : Nat :=
  (st.final.map provCode).getD 0 + flagAt 2 st.padded + flagAt 3 st.scaleReplayed + flagAt 4 st.checkReplayed + flagAt 5 st.warned
    + flagAt 6 st.fbPoisoned

/-- Stripes with a code, and with a FALLBACK code. -/
def FrameJob.count (j : FrameJob) (c : Provenance) : Nat := (j.stripes.filter fun st => st.final == some c).length
def FrameJob.fallbacks (j : FrameJob) : Nat := j.count .late + j.count .poison + j.count .fenced

/-- The provenance map (Table 08-2). -/
def FrameJob.map (j : FrameJob) : List Byte :=
  let m := leBytes 4 j.frame.toNat ++ leBytes 2 j.stripes.length ++ leBytes 1 j.settings.stripeH ++ zeros 1
    ++ leBytes 2 (j.count .neural) ++ leBytes 2 j.fallbacks ++ zeros 4 ++ j.stripes.flatMap fun st => leBytes 1 st.entry
  m ++ zeros (up64 m.length - m.length)

/-- The summary word (R217). -/
def FrameJob.summary (j : FrameJob) : Nat :=
  j.count .neural + 2 ^ 9 * j.fallbacks + flagAt 18 (j.count .late != 0) + flagAt 19 (j.count .poison != 0)
    + flagAt 20 (j.count .fenced != 0) + flagAt 21 (j.stripes.any fun st => st.padded)

/-- FLAGS (Table 09-3). -/
def FrameJob.recordFlags (j : FrameJob) : Nat :=
  flagAt 0 j.overrun + flagAt 1 j.candTruncated + flagAt 2 j.detTruncated + flagAt 3 j.detValid + flagAt 4 j.writeFault
    + flagAt 5 j.checkError

/-- The completion record (Table 09-3), written at `now`. -/
def FrameJob.completion (j : FrameJob) (q prov : Nat) (now : Time) : List Byte :=
  let b := leBytes 4 j.frame.toNat ++ leBytes 1 q ++ leBytes 1 j.slot ++ leBytes 1 j.recordFlags ++ leBytes 1 1
    ++ leBytes 8 j.startTime.toNat ++ leBytes 8 (j.endTime.getD 0).toNat ++ leBytes 8 now.toNat
    ++ leBytes 4 (j.flags.getD 0).toNat ++ leBytes 4 j.summary ++ leBytes 2 j.detCount ++ leBytes 2 (min 0xFFFF j.candCount)
    ++ leBytes 2 j.jobStatus.toNat ++ leBytes 2 j.statusEvents.toNat ++ leBytes 8 prov ++ zeros 4
  b ++ leBytes 4 (crc32c b).toNat

/-- No peer still owes an answer to a write of the result (R26, R355). -/
def State.outputsLanded (s : State) (q : Nat) (f : BitVec 32) : Bool := s.fovar.sent.all fun g => !g.use.isOutput q f

/-- Every output form and the detection list of a result are there (R26). -/
def State.resultReady (s : State) (q : Nat) (j : FrameJob) : Bool :=
  j.endTime.isSome && j.flags.isSome && (j.stripes.all fun st => st.final.isSome && st.written)
    && (j.detDone || !j.settings.detEn) && s.outputsLanded q j.frame

/-- The first half of a delivery: the region's cache is written back (R134), and the provenance map goes out (R216). -/
def State.sendMap (s : State) (q : Nat) (j : FrameJob) (f : MemFindings) : State :=
  let s := if j.idle then s else s.writeBackAll (s.pipe q).setRegion
  let s := (s.beginResult q j.frame).updPipe q fun x => x.updFrame j.frame fun y => { y with mapSent := true }
  s.outWrite q j.frame (outPieces [((s.pipe q).provBase + 320 * j.slot, j.map, false)]) f

/-- The completion record goes out, once the map is there or dropped (R242, R245). -/
def State.sendRecord (s : State) (q : Nat) (j : FrameJob) (f : MemFindings) : State :=
  let x := s.pipe q
  let s := s.updPipe q fun x => x.updFrame j.frame fun y => { y with recordSent := true }
  s.outWrite q j.frame (outPieces [(x.compBase + 64 * j.slot, j.completion q (x.provBase + 320 * j.slot) s.time, false)]) f

/-- The record is in host memory, or is lost: the result is delivered, and the message follows a record that is there (R246). -/
def State.deliver (s : State) (q : Nat) (j : FrameJob) : State :=
  let s := s.countOutput q 0 1
  let s := if j.detTruncated then s.countOutput q 3 1 else s
  let s := if j.settings.outMsix && !j.recordLost then s.interrupt j.settings.outVector else s
  s.updPipe q fun x => { x with
    outProducer := j.frame + 1
    frames := (x.frames.map fun y => if y.frame == j.frame then { y with delivered := true } else y).filter fun y =>
      !(y.delivered && y.statsDone) }

/-- The addresses of the maps and of the records. -/
def Pipe.recordVas (x : Pipe) : List Nat := [x.provBase, x.compBase]

/-- The oldest result of a pipeline that is not yet delivered. -/
def Pipe.nextResult (x : Pipe) : Option FrameJob := x.frames.find? fun j => !j.delivered

/-- A delivery goes on, a step at a time, as far as no peer still owes it an answer (R26, R245, R246). -/
def State.pushRecord (s : State) (q : Nat) (f : MemFindings) : State :=
  match (s.pipe q).nextResult with
  | some j => if j.mapSent && !j.recordSent && s.outputsLanded q j.frame then s.sendRecord q j f else s
  | none => s
def State.pushDelivery (s : State) (q : Nat) : State :=
  match (s.pipe q).nextResult with
  | some j => if j.recordSent && s.outputsLanded q j.frame then (s.deliver q j).settleStops else s
  | none => s
def State.settleOutput (s : State) (q : Nat) (f : MemFindings) : State := (s.pushRecord q f).pushDelivery q

def execCompletionRecordWrite (t : Time) (p : Fin 24) (f : MemFindings) (s : State) : Result :=
  whenReady t (fun s =>
    match (s.pipe p).nextResult with
    | some j => s.onlyIf (s.resultReady p j && !j.mapSent && !(s.pipe p).recordVas.any s.deviceWaits
        && (j.idle || !s.writeBackWaits (s.pipe p).setRegion)) fun s =>
      (s.sendMap p j f).settleOutput p f
    | none => s) s

end Sys2Proof.Machine
end

