-- ==== Sys2Proof/Machine/Fovar.lean ====
section
/-!
DEFINITION. The Fovar link (R345 to R355): windows, what a refusal does at the sender, and the ports' ups and downs.
-/

namespace Sys2Proof.Machine

open Sys2Proof

/-! ## WINDOW_OPEN and WINDOW_CLOSE (R352, R353) -/

/-- WINDOW_OPEN. -/
def windowOpenBody : Body := fun _ p s =>
  let w := le p 0 1
  let base := le p 8 8
  let n := le p 16 4
  let x := s.window w
  if w < 64 ∧ le p 1 1 % 4 ≠ 0 ∧ x.isOpen = false
      ∧ le p 4 2 ≠ 0 ∧ le p 4 2 ≠ x.epoch.toNat ∧ base % 2 ^ 18 = 0 ∧ 1 ≤ n ∧ n ≤ 32768 ∧ base + n * 2 ^ 18 ≤ 2 ^ 35 then
    (s.setWindow w { epoch := BitVec.ofNat 16 (le p 4 2), allow := BitVec.ofNat 8 (le p 2 1), perm := BitVec.ofNat 2 (le p 1 1)
                     isOpen := true, pagesM1 := BitVec.ofNat 16 (n - 1), base := BitVec.ofNat 36 base }, .ok)
  else (s, .err Code.notPermitted)

def execWindowOpen (q : Req) (s : State) : Result := lysil (opRow 0x0710 24) q windowOpenBody s

/-- A peer's access to a window that waits for DRAM. -/
def DramWait.ofWindow (w : Nat) : DramWait → Bool
  | .peerWrite _ x _ _ => x.window.toNat == w
  | .peerRead _ x _ _ => x.window.toNat == w
  | _ => false

/-- WINDOW_CLOSE. An access that was checked before it is served, and the ACK waits for it (R353). -/
def windowCloseBody : Body := fun _ p s =>
  let w := le p 0 1
  if w < 64 ∧ (s.window w).isOpen then
    (s.setWindow w { s.window w with isOpen := false }, { status := Code.ok, held := s.mem.waiting.any (DramWait.ofWindow w) })
  else (s, .err Code.notPermitted)

def execWindowClose (q : Req) (s : State) : Result := lysil (opRow 0x0711 4) q windowCloseBody s

/-! ## Answers and refusals at the sender (R355) -/

/-- Count in FOVAR_COUNTERS (Table 13-12). -/
def State.countFovar (s : State) (w n : Nat) : State :=
  { s with fovar := { s.fovar with counters := s.fovar.counters.add w n } }

/-- A write of a MOVE is acknowledged, or never will be. -/
def State.answered (s : State) (c serial : Nat) : State := s.updMove c serial fun m => { m with unacked := m.unacked - 1 }

/-- A granule is refused: a MOVE's channel halts at it, an output or fallback write is dropped (R245), and a staging copy takes
R469's fault. -/
def State.refused (s : State) (g : PeerGranule) (status : BitVec 16) (m : MemFindings := .none) : State :=
  match g.use with
  | .move c serial unit part =>
    let s := s.refuseGranule c serial unit part status
    if g.isRead then s.dropUnit c serial unit else (s.answered c serial).settleFault c
  | .output p f _ _ => ((s.dropOutput p f).raiseDone p f m).settleOutput p m
  | .walker b o u va =>
    let r := unitReader o u
    (s.fault { cls := Cls.ucc, detector := Det.stagingFault, outcome := Outc.contained, site := .block b
               suppressed := some (.block (Fin.ofNat 64 b)), location := b, region := some (b / 16), block := some b
               pipeline := r.pipeline, frame := r.frame, stripe := r.stripe, address2 := some va }).consumePoison o u Code.poisonConsumed
  | .front _ _ _ => s
  | .spine => s
  | .early => s

/-! ## PORT_UP and PORT_DOWN (R346, R349, R351) -/

/-- PORT_STATE (Table 13-8). -/
def State.portStateEvent (s : State) (n new old : Nat) (neighbour : Nat) : State :=
  s.event .a 0x07F0 (leBytes 1 n ++ leBytes 1 new ++ leBytes 1 old ++ leBytes 1 neighbour ++ zeros 4 ++ leBytes 8 s.now)

/-- What a port sends in training (R346). -/
def State.train (s : State) (n : Nat) : State := s.send (.fovarTraining n s.straps.devId s.fw.bootCount)

/-- Send again, in order, the frames held by ports that are not UP, and by one that has just come UP, as far as there is a route
(R351). A frame in transit that never had one goes for the first time here, and counts too (DESIGN CHOICE, log 93). -/
def State.resendHeld (s : State) (up : Option Nat := none) : State :=
  forEach (indices 4 fun n => (s.fovarPort n).state != .up || some n == up) (fun n s =>
    let p := s.fovarPort n
    let go := p.replay.filter fun x => s.reachable x.dst.toNat
    let s := s.setFovarPort n { p with replay := p.replay.filter fun x => !s.reachable x.dst.toNat }
    go.foldl (fun s x => (s.transmit (s.routePort x.dst.toNat 0) x).countFovar 0 1) s) s

/-- The frame of an arrival. -/
def FovarFrame.frame : FovarFrame → LinkFrame
  | .write f _ => f
  | .readReq f _ => f
  | .readData f => f
  | .ack f => f
  | .refuse f => f
  | .coll f _ _ => f

/-- Frames held for a device, and those of it that wait for one before them, are discarded, and what it owes is refused with WINDOW_CLOSED; its sequences start again. -/
def State.forgetDevice (s : State) (d : BitVec 3) : State :=
  let s := forEach (indices 4 fun _ => true) (fun n s =>
    s.setFovarPort n { s.fovarPort n with replay := (s.fovarPort n).replay.filter fun x => x.dst != d }) s
  let lost := s.fovar.sent.filter fun g => g.device == d
  let s := { s with fovar := { s.fovar with sent := s.fovar.sent.filter fun g => g.device != d
                                            ahead := s.fovar.ahead.filter fun x => x.frame.src != d
                                            e2eTx := Tab.set (fun _ => 0) s.fovar.e2eTx d.toNat 0
                                            e2eRx := Tab.set (fun _ => 0) s.fovar.e2eRx d.toNat 0 } }
  lost.foldl (fun s g => s.refused g Code.windowClosed) s

/-- A port's record (Table 14-1). -/
def fovarFault (n : Nat) : FaultInfo :=
  { cls := Cls.ucc, detector := Det.fovarPort, outcome := Outc.contained, site := .chip Chip.fovar n
    suppressed := some (.fovar (Fin.ofNat 4 n)), location := 95 + n, address := some n }

/-- A port trains to the end: UP with the neighbour of Table 13-1, else MISWIRED. -/
def State.trained (s : State) (n : Nat) (d : BitVec 3) (dp : BitVec 2) (boot : BitVec 32) : State :=
  let p := s.fovarPort n
  let p' : FovarPort :=
    { p with neighbour := d, neighbourPort := dp, at16 := s.fovar.rate16, boot := some boot, rxSeq := 0, txSeq := 0, resends := 0 }
  if s.fovar.wiring s.straps.devId.toNat n = (d.toNat, dp.toNat) then
    let new := (List.range 4).any fun m => (s.fovarPort m).neighbour == d && (s.fovarPort m).boot.any fun b => b != boot
    let s := (s.setFovarPort n { p' with state := .up }).suppressTail (.fovar (Fin.ofNat 4 n))
    let s := if new then
        forEach (indices 4 fun m => (s.fovarPort m).neighbour == d && (s.fovarPort m).boot.isSome) (fun m s =>
          s.setFovarPort m { s.fovarPort m with boot := some boot }) (s.forgetDevice d)
      else s
    s.portStateEvent n 2 (fovarStateCode p.state) d.toNat
  else (s.setFovarPort n { p' with state := .miswired }).suppressTail (.fovar (Fin.ofNat 4 n))

/-- A port goes DOWN: the event, the record, the count; it trains again by itself (R349). -/
def State.fovarDown (s : State) (n : Nat) : State :=
  let p := s.fovarPort n
  let s := ((s.setFovarPort n { p with state := .down, resends := 0 }).countFovar 1 1).train n
  let s := (s.portStateEvent n 3 (fovarStateCode p.state) p.neighbour.toNat).fault (fovarFault n)
  (s.suppress (.fovar (Fin.ofNat 4 n))).resendHeld

end Sys2Proof.Machine
end

