-- ==== Sys2Proof/Machine/Collect.lean ====
section
/-!
DEFINITION. The verified collectives of the Fovar link (R356 to R361).
-/

namespace Sys2Proof.Machine

open Sys2Proof

/-! ## Members, chunks and digests (R358, R360) -/

/-- The members in ascending device ID, and the number of one. -/
def Collective.list (c : Collective) : List Nat := indices 8 c.members.getLsbD
def Collective.size (c : Collective) : Nat := c.list.length
def Collective.number (c : Collective) (d : Nat) : Nat := (c.list.findIdx? (· == d)).getD 0
/-- The member after a device. -/
def Collective.after (c : Collective) (d : Nat) : Nat := c.list.getD ((c.number d + 1) % max 1 c.size) 0

/-- Words of a chunk: the first, and how many. -/
def Collective.chunk (c : Collective) (k : Nat) : Nat × Nat :=
  let q := (c.len.toNat + c.size - 1) / max 1 c.size
  (k * q, min ((k + 1) * q) c.len.toNat - k * q)

/-- p = 2^61 − 1. -/
def digestPrime : Nat := 2 ^ 61 - 1

/-- s^n mod p. -/
def powMod (b : Nat) : Nat → Nat
  | 0 => 1
  | n + 1 => powMod b n * b % digestPrime

/-- The digest of words at global positions `at0` on (R360). -/
def digestOf (seed : BitVec 64) (at0 : Nat) (ws : List Nat) : BitVec 64 :=
  let b := seed.toNat % digestPrime
  BitVec.ofNat 64 (ws.foldr (fun w acc => (w + b * acc) % digestPrime) 0 * powMod b (at0 + 1) % digestPrime)

/-- The digests of a contribution: one a chunk for SUM, else one. -/
def Collective.digestsOf (c : Collective) (ws : List (BitVec 32)) : List (BitVec 64) :=
  let ns := ws.map BitVec.toNat
  if c.op = 0 then (List.range c.size).map fun k => digestOf c.seed (c.chunk k).1 (slice ns (c.chunk k).1 (c.chunk k).2)
  else [digestOf c.seed 0 ns]

/-- The sum mod p of the digests of a chunk over the members of a mask; none while one is missing. -/
def Collective.expected (c : Collective) (k : Nat) (mask : BitVec 8) : Option Nat :=
  (c.list.filter mask.getLsbD).foldl (fun acc d => acc.bind fun n =>
    ((c.digests.find? fun e => e.1 == c.number d).bind fun e => e.2[k]?).map fun x => (n + x.toNat) % digestPrime) (some 0)

/-! ## Sending -/

/-- One frame of a collective to a device, spread by chunk (R350): its OFFSET in the transfer, and its payload. -/
def State.collFrameOut (s : State) (k : Nat) (c : Collective) (d key i : Nat) (bytes : List Byte) (x : CollContent) : State :=
  if s.reachable d then
    s.sendFrame (s.routePort d key) 5 (BitVec.ofNat 3 d) (c.id.setWidth 16) (BitVec.ofNat 6 k) (BitVec.ofNat 27 i) false bytes (some x)
  else s

/-- Send a join, digests or an abort to a device: one frame, whose payload is a free value (log 92). -/
def State.sendColl (s : State) (k : Nat) (c : Collective) (d : Nat) (x : CollContent) : State :=
  let v := s.free
  v.2.collFrameOut k c d 0 0 (leBytes 64 v.1.toNat) x

/-- The kind of a transfer, its spreading key, and its bytes: words from the lowest, little-endian (DESIGN CHOICE, log 92). -/
def CollData.content : CollData → CollContent
  | .partialSum k mask _ => .partialSum k mask
  | .wholeSum k _ => .wholeSum k
  | .contribution m _ _ => .contribution m
def CollData.key : CollData → Nat
  | .partialSum k _ _ => k
  | .wholeSum k _ => k
  | .contribution m _ _ => m
def CollData.bytes : CollData → List Byte
  | .partialSum _ _ sums => sums.flatMap fun v => leBytes 8 v.toNat
  | .wholeSum _ sums => sums.flatMap fun v => leBytes 8 v.toNat
  | .contribution _ ws _ => wordBytes ws

/-- The granules of a transfer, the last one filled with zeros; a chunk without words takes one too (DESIGN CHOICE, log 92). -/
def collGranules (d : List Byte) : List (List Byte) :=
  (List.range (max 1 ((d.length + 63) / 64))).map fun i => (slice d (64 * i) 64 ++ zeros 64).take 64

/-- Send data to a device: frame after frame, each with its granule index (R348). -/
def State.sendData (s : State) (k : Nat) (c : Collective) (d : Nat) (x : CollData) : State :=
  (collGranules x.bytes).zipIdx.foldl (fun s g => s.collFrameOut k c d x.key g.2 g.1 x.content) s

/-- Send to every other member. -/
def State.sendMembers (s : State) (k : Nat) (c : Collective) (x : CollContent) : State :=
  (c.list.filter (· != s.straps.devId.toNat)).foldl (fun s d => s.sendColl k c d x) s

/-- The fields of R356 that a join compares. -/
def Collective.joinFields (c : Collective) : CollContent := .join c.id c.op c.members c.root c.len c.seed

/-! ## Ends (R359, Table 13-6) -/

/-- Bytes of the result (Table 13-5). -/
def Collective.resultBytes (c : Collective) : Nat :=
  let n := c.len.toNat
  if c.op = 0 then 8 * n else if c.op = 1 then up64 (4 * n) + n else if c.op = 2 then 4 * c.size * n else 4 * n

/-- DST holds undefined data: free values, granule by granule, which no access of the device's own puts there (log 2). -/
def State.scramble (s : State) (a n : Nat) : State :=
  (pieces n a (zeros n)).foldl (fun s x =>
    let v := s.free
    (v.2.writeVa (64 * x.1 + x.2.1) (slice (leBytes 64 v.1.toNat) 0 x.2.2.length) false .spine).2) s

/-- The detecting member's record. -/
def collFault (status : BitVec 16) : FaultInfo :=
  { cls := Cls.ucc, detector := Det.collective, outcome := Outc.contained, site := .chip Chip.fovar 0, status := status }

/-- A collective ends on this device: its COMPLETION with the data of Table 13-6. -/
def State.endColl (s : State) (k : Nat) (status : BitVec 16) (detector contrib sender : BitVec 8) (chunk : BitVec 32) : State :=
  match s.collSlot k with
  | some c =>
    let s := s.setCollSlot k none
    let s := if status = Code.ok then s.countFovar 5 1 else s.scramble c.dst c.resultBytes
    let s := if status = Code.digestMismatch then s.countFovar 6 1 else s
    s.complete c.ticket status (leBytes 4 c.id.toNat ++ [detector, contrib, sender, 0] ++ leBytes 4 chunk.toNat ++ zeros 4
      ++ leBytes 8 s.now)
  | none => s

/-- This device finds a cause: it tells every reachable member, and the collective ends. -/
def State.abortColl (s : State) (k : Nat) (status : BitVec 16) (contrib sender : Nat) (chunk : Nat) : State :=
  match s.collSlot k with
  | some c =>
    let me := BitVec.ofNat 8 s.straps.devId.toNat
    let x := CollContent.abort status me (BitVec.ofNat 8 contrib) (BitVec.ofNat 8 sender) (BitVec.ofNat 32 chunk)
    let s := s.sendMembers k c x
    let s := if status = Code.digestMismatch ∨ status = Code.poisonConsumed then s.fault (collFault status) else s
    s.endColl k status me (BitVec.ofNat 8 contrib) (BitVec.ofNat 8 sender) (BitVec.ofNat 32 chunk)
  | none => s

/-- No device and no chunk. -/
def noDevice : Nat := 0xFF
def noChunk : Nat := 0xFFFF_FFFF

/-- Collectives with a member that has become unreachable end with WINDOW_CLOSED. -/
def State.collLost (s : State) : State :=
  forEach (indices 4 fun k => (s.collSlot k).any fun c =>
      c.list.any fun d => d != s.straps.devId.toNat && !s.reachable d) (fun k s =>
    s.abortColl k Code.windowClosed noDevice noDevice noChunk) s

/-! ## COLLECTIVE (R356, R357) -/

/-- The fields of a COLLECTIVE lie in their ranges. -/
def collFits (p : List Byte) : Bool :=
  let op := le p 4 1
  let mem : BitVec 8 := BitVec.ofNat 8 (le p 5 1)
  let seed := le p 16 8 % digestPrime
  decide (op ≤ 3) && decide (2 ≤ (indices 8 mem.getLsbD).length)
    && (if op = 3 then decide (le p 6 1 < 8) && mem.getLsbD (le p 6 1) else le p 6 1 == 0)
    && decide (1 ≤ le p 8 4) && decide (le p 8 4 ≤ if op = 1 then 16384 else 1048576)
    && decide (100 ≤ le p 12 4) && decide (le p 12 4 ≤ 1000000) && decide (2 ≤ seed) && decide (seed ≤ digestPrime - 2)
    && decide (le p 24 8 < 2 ^ 35) && decide (le p 32 8 < 2 ^ 35)

/-- The collective that a command asks for. -/
def collOf (k : Ticket) (p : List Byte) (me : BitVec 8) (t : Time) : Collective :=
  { ticket := k, id := BitVec.ofNat 32 (le p 0 4), op := BitVec.ofNat 8 (le p 4 1), members := BitVec.ofNat 8 (le p 5 1)
    root := BitVec.ofNat 8 (le p 6 1), len := BitVec.ofNat 32 (le p 8 4), timeoutUs := le p 12 4, seed := BitVec.ofNat 64 (le p 16 8)
    src := le p 24 8, dst := le p 32 8, joined := me, started := false, lastMove := t, digests := [], parts := [], held := [], whole := []
    contribs := [] }

/-- COLLECTIVE: one of four slots is taken, and the other members hear of it. -/
def collectiveBody : Body := fun k p s =>
  let d := s.straps.devId.toNat
  let c := collOf k p (BitVec.ofNat 8 (2 ^ d)) s.time
  let inSize := c.list.all fun m => decide (m < s.fovar.size)
  let known := (List.range 4).any fun i => (s.collSlot i).any fun x => x.id == c.id
  if le p 24 8 % 64 ≠ 0 ∨ le p 32 8 % 64 ≠ 0 then (s, .err Code.sluiceMisaligned)
  else match (List.range 4).find? fun i => (s.collSlot i).isNone with
    | none => (s, .err Code.queueFull)
    | some i =>
      if collFits p && c.members.getLsbD d && inSize && !known then
        ((s.setCollSlot i (some c)).sendMembers i c c.joinFields, .err Code.accepted)
      else (s, .err Code.notPermitted)

/-- A device's join is compared with the device's own fields (R357). One from a device that is no member here disagrees too, and
hears of the end. -/
def State.joined (s : State) (k : Nat) (c : Collective) (d : BitVec 3) (x : CollContent) : State :=
  let isMember := c.members.getLsbD d.toNat
  if x = c.joinFields ∧ isMember then
    s.setCollSlot k (some { c with joined := c.joined ||| BitVec.ofNat 8 (2 ^ d.toNat) })
  else
    let s := if isMember then s else
      s.sendColl k c d.toNat (.abort Code.notPermitted (BitVec.ofNat 8 s.straps.devId.toNat) 0xFF 0xFF 0xFFFF_FFFF)
    s.abortColl k Code.notPermitted noDevice noDevice noChunk

/-- Joins that arrived early are compared. -/
def State.settleJoins (s : State) : State :=
  forEach [0, 1, 2, 3] (fun k s =>
    match s.collSlot k with
    | some c =>
      let mine := fun (j : EarlyJoin) => j.id == c.id.setWidth 16
      let js := s.fovar.joins.filter mine
      let s := { s with fovar := { s.fovar with joins := s.fovar.joins.filter fun j => !mine j } }
      js.foldl (fun s j => match s.collSlot k with
        | some c => s.joined k c j.device j.fields
        | none => s) s
    | none => s) s

def execCollective (q : Req) (s : State) : Result :=
  lysilThen (opRow 0x0712 40 true) q collectiveBody (fun s => s.settleJoins) s

/-! ## Data (R358, R361) -/

/-- The 32-bit words of a run of bytes. -/
def bytesWords (n : Nat) (d : List Byte) : List (BitVec 32) := (List.range n).map fun k => BitVec.ofNat 32 (le d (4 * k) 4)

/-- Read the contribution at SRC: its words, and the first of them that lies in a granule that is poisoned or cannot be read. -/
def State.readContribution (s : State) (c : Collective) (f : MemFindings) : List (BitVec 32) × Option Nat × State :=
  let r := (pieces (4 * c.len.toNat) c.src (zeros (4 * c.len.toNat))).foldl (fun (acc : List Byte × Option Nat × State) x =>
    let r := acc.2.2.readVa (64 * x.1 + x.2.1) x.2.2.length f .nobody
    match r.1 with
    | some v => (acc.1 ++ v.1, if v.2 then acc.2.1.orElse fun _ => some (acc.1.length / 4) else acc.2.1, r.2)
    | none => (acc.1 ++ x.2.2, acc.2.1.orElse fun _ => some (acc.1.length / 4), r.2)) ([], none, s)
  (bytesWords c.len.toNat r.1, r.2.1, r.2.2)

/-- Element-wise maxima, and the lowest member that holds each. -/
def Collective.maxima (c : Collective) : List (BitVec 32 × Nat) :=
  (List.range c.len.toNat).map fun i =>
    c.list.foldl (fun (best : BitVec 32 × Nat) d =>
      let w := (((c.contribs.find? fun e => e.1 == c.number d).map fun e => e.2).getD []).getD i 0
      if best.2 = noDevice ∨ best.1.toNat < w.toNat then (w, d) else best) (0, noDevice)

/-- The result of a collective that has all it needs: runs at DST (Table 13-5). -/
def Collective.result (c : Collective) : Option (List (Nat × List Byte)) :=
  let n := c.len.toNat
  let words := fun (m : Nat) => ((c.contribs.find? fun e => e.1 == m).map fun e => e.2).getD []
  if c.op = 0 then
    if c.whole.length < c.size then none
    else some ((List.range c.size).map fun k =>
      (8 * (c.chunk k).1, (((c.whole.find? fun e => e.1 == k).map fun e => e.2).getD []).flatMap fun v => leBytes 8 v.toNat))
  else if c.op = 3 then
    let m := c.number c.root.toNat
    if c.contribs.any fun e => e.1 == m then some [(0, wordBytes (words m))] else none
  else if c.contribs.length < c.size then none
  else if c.op = 1 then
    some [(0, wordBytes (c.maxima.map Prod.fst)), (up64 (c.dst + 4 * n) - c.dst, c.maxima.map fun x => BitVec.ofNat 8 x.2)]
  else some ((List.range c.size).map fun m => (4 * n * m, wordBytes (words m)))

/-- A collective that has all it needs writes its result and completes with OK. -/
def State.finishColl (s : State) (k : Nat) (f : MemFindings) : State :=
  match s.collSlot k with
  | some c => match c.result with
    | some rs =>
      let s := rs.foldl (fun s r => (s.writeVa (c.dst + r.1) r.2 false .spine f).2) s
      s.endColl k Code.ok 0xFF 0xFF 0xFF 0xFFFF_FFFF
    | none => s
  | none => s

/-- What is done with an item that has arrived. -/
inductive Taken where
  /-- A digest it is checked against is still missing. -/
  | wait
  /-- It fails: status, CONTRIB, FROM, CHUNK. -/
  | bad (status : BitVec 16) (contrib sender chunk : Nat)
  /-- It is taken; what goes to the next member. -/
  | good (c : Collective) (send : Option CollData)
  deriving DecidableEq, Repr

/-- The digest over the 64-bit sums of a chunk. -/
def Collective.sumDigest (c : Collective) (k : Nat) (sums : List (BitVec 64)) : Nat :=
  (digestOf c.seed (c.chunk k).1 (sums.map BitVec.toNat)).toNat

/-- What the engine's adder makes of sums, with the faults it has (R361). -/
def slipped (adder : List AdderSlip) (sums : List (BitVec 64)) : List (BitVec 64) :=
  sums.mapIdx fun i v => ((adder.find? fun x => x.1 == i).map Prod.snd).getD v

/-- A partial of a SUM (R358, R361): checked on receipt, where the sender is named, the device's own words added, checked again, where
the device itself is. -/
def Collective.takePartial (c : Collective) (me src k : Nat) (mask : BitVec 8) (sums : List (BitVec 64)) (adder : List AdderSlip) : Taken :=
  let own := slice (((c.contribs.find? fun e => e.1 == c.number me).map fun e => e.2).getD []) (c.chunk k).1 (c.chunk k).2
  let sums' := slipped adder ((sums.zip own).map fun x => x.1 + x.2.setWidth 64)
  let mask' := mask ||| BitVec.ofNat 8 (2 ^ me)
  match c.expected k mask, c.expected k mask' with
  | some e, some e' =>
    if c.sumDigest k sums ≠ e then .bad Code.digestMismatch src src k
    else if c.sumDigest k sums' ≠ e' then .bad Code.digestMismatch me me k
    else if mask' = c.members then .good { c with whole := c.whole ++ [(k, sums')] } (some (.wholeSum k sums'))
    else .good c (some (.partialSum k mask' sums'))
  | _, _ => .wait

/-- A complete chunk of a SUM: it goes round to the member before the one that completed it. -/
def Collective.takeWhole (c : Collective) (me src k : Nat) (sums : List (BitVec 64)) : Taken :=
  match c.expected k c.members with
  | some e =>
    if c.sumDigest k sums ≠ e then .bad Code.digestMismatch src src k
    else .good { c with whole := c.whole ++ [(k, sums)] }
      (if c.number (c.after me) = (k + c.size - 1) % max 1 c.size then none else some (.wholeSum k sums))
  | none => .wait

/-- A member's contribution. -/
def Collective.takeContribution (c : Collective) (me src m : Nat) (ws : List (BitVec 32)) (poisoned : Bool) : Taken :=
  let owner := c.list.getD m noDevice
  if poisoned then .bad Code.poisonConsumed owner src m
  else match (c.digests.find? fun e => e.1 == m).bind fun e => e.2.head? with
    | some e =>
      if digestOf c.seed 0 (ws.map BitVec.toNat) ≠ e then .bad Code.digestMismatch owner src m
      else .good { c with contribs := c.contribs ++ [(m, ws)] }
        (if c.after me = owner then none else some (.contribution m ws false))
    | none => .wait

/-- Take one item. -/
def Collective.take (c : Collective) (me src : Nat) (adder : List AdderSlip) : CollData → Taken
  | .partialSum k mask sums => c.takePartial me src k mask sums adder
  | .wholeSum k sums => c.takeWhole me src k sums
  | .contribution m ws bad => c.takeContribution me src m ws bad

/-- The items that wait are taken in order; the fuel is their number. -/
def State.progress (s : State) (k : Nat) (adder : List AdderSlip) (f : MemFindings) : Nat → State
  | 0 => s.finishColl k f
  | n + 1 =>
    match s.collSlot k with
    | some c =>
      let me := s.straps.devId.toNat
      match c.held.find? fun x => c.take me x.1.toNat adder x.2 != .wait with
      | some x =>
        let c := { c with held := c.held.erase x }
        match c.take me x.1.toNat adder x.2 with
        | .wait => s
        | .bad status contrib sender chunk => s.abortColl k status contrib sender chunk
        | .good c' send =>
          let s := s.setCollSlot k (some { c' with lastMove := s.time })
          let s := match send with
            | some y => s.sendData k c (c.after me) y
            | none => s
          s.progress k adder f n
      | none => s.finishColl k f
    | none => s

/-- Take what waits for a slot that has started. -/
def State.takeHeld (s : State) (k : Nat) (adder : List AdderSlip) (f : MemFindings) : State :=
  match s.collSlot k with
  | some c => if c.started then s.progress k adder f c.held.length else s
  | none => s

/-! ## COLLECTIVE_START (R357, R358) -/

/-- What a member sends first. -/
def Collective.firstData (c : Collective) (me : Nat) (ws : List (BitVec 32)) : Option CollData :=
  let m := c.number me
  if c.op = 0 then
    some (.partialSum m (BitVec.ofNat 8 (2 ^ me)) ((slice ws (c.chunk m).1 (c.chunk m).2).map fun w => w.setWidth 64))
  else if c.op = 3 ∧ c.root.toNat ≠ me then none
  else some (.contribution m ws false)

/-- A collective starts: its contribution is read, its digests go to every member, and then its data to the next. -/
def State.startColl (s : State) (k : Nat) (c : Collective) (f : MemFindings) (adder : List AdderSlip) : State :=
  let me := s.straps.devId.toNat
  let m := c.number me
  if c.op = 3 ∧ c.root.toNat ≠ me then
    (s.setCollSlot k (some { c with started := true })).takeHeld k adder f
  else
    let r := s.readContribution c f
    match r.2.1 with
    | some w =>
      let q := max 1 ((c.len.toNat + c.size - 1) / max 1 c.size)
      r.2.2.abortColl k Code.poisonConsumed me noDevice (if c.op = 0 then w / q else m)
    | none =>
      let ds := c.digestsOf r.1
      let c' := { c with started := true, lastMove := s.time, digests := c.digests ++ [(m, ds)], contribs := [(m, r.1)] }
      let s := (r.2.2.setCollSlot k (some c')).sendMembers k c' (.digests m ds)
      let s := match c'.firstData me r.1 with
        | some x => s.sendData k c' (c'.after me) x
        | none => s
      s.takeHeld k adder f

/-- COLLECTIVE_START: every member has joined. -/
def execCollectiveStart (t : Time) (slot : Fin 4) (f : MemFindings) (adder : List AdderSlip) (s : State) : Result :=
  whenReady t (fun s => s.onlyIf s.dramServes fun s =>
    match s.collSlot slot with
    | some c => if c.started = false ∧ c.joined = c.members then s.startColl slot c f adder else s
    | none => s) s

/-- COLLECTIVE_TIMEOUT (R359): no chunk has moved for TIMEOUT_US. -/
def execCollectiveTimeout (t : Time) (slot : Fin 4) (s : State) : Result :=
  whenReady t (fun s =>
    match s.collSlot slot with
    | some c =>
      if c.lastMove.toNat + 1000 * c.timeoutUs ≤ s.now then s.abortColl slot Code.streamDeadlock noDevice noDevice noChunk else s
    | none => s) s

end Sys2Proof.Machine
end

