-- ==== Sys2Proof/Machine/Faults.lean ====
section
/-!
DEFINITION. The fault collector's commands (R367, R377 to R379, R383 to R392): the release of records, the bittern pin, the
external fault input, the sequencers' lockstep, re-mapping with its headroom check, and field tests.
-/

namespace Sys2Proof.Machine

open Sys2Proof

/-! ## RECORD_RELEASE (R383, R388, R389) -/

/-- Records in the order of release: ascending TIME, then ascending source. -/
def recordOrder (l : List Record) : List Record :=
  l.sortBy fun a b => decide (a.time.toNat < b.time.toNat) || (a.time == b.time && decide (a.source.toNat ≤ b.source.toNat))

/-- Concurrent groups: each record's time lies less than 8 ns after the one before it. -/
def groupRecords : List Record → List (List Record)
  | [] => []
  | r :: rest =>
    match groupRecords rest with
    | [] => [[r]]
    | [] :: gs => [r] :: gs
    | (x :: g) :: gs => if x.time.toNat < r.time.toNat + 8 then (r :: x :: g) :: gs else [r] :: (x :: g) :: gs

/-- A group is due 2 µs after its last record. -/
def groupDue (now : Nat) (g : List Record) : Bool := g.all fun r => decide (r.time.toNat + 2000 ≤ now)

/-- A group's records leave together, in ascending source; each carries CONCURRENT. -/
def releaseGroup (g : List Record) : List Record :=
  if g.length < 2 then g
  else (g.map fun r => { r with concurrent := true }).sortBy fun a b => decide (a.source.toNat ≤ b.source.toNat)

/-- One record is released: it takes its SEQ, enters the tussock ring, and is sent on the ports whose classes hold its own; a command
that waits for the SEQ completes with it (R392). -/
def State.release (s : State) (r : Record) : State :=
  let c := s.faults
  let r := { r with seq := c.nextSeq }
  let ring := c.ring ++ [r]
  let s := { s with faults := { c with ring := ring.drop (ring.length - 4096), nextSeq := c.nextSeq + 1
                                       pinSeq := if r.pin then r.seq else c.pinSeq } }
  let d := (s.recordBytes r).take 64
  let s := if r.toA then s.event .a 0x08F0 d else s
  let s := if r.toB then s.event .b 0x08F0 d else s
  match r.reply with
  | some x => s.complete x.1 Code.ok (x.2 ++ leBytes 4 r.seq.toNat)
  | none => s

/-- The external fault record. -/
def extFaultInfo : FaultInfo := { cls := Cls.saf, detector := Det.extFault, site := .chip Chip.extFault 0 }

/-- The one record of all assertions of EXT_FAULT_N that came before the collector started, at the time of the first (R457). -/
def State.extRecord (s : State) : State :=
  match s.faults.extHeld with
  | some t => ({ s with faults := { s.faults with extHeld := none } }).faultAt t fun s => s.fault extFaultInfo
  | none => s

/-- The collector runs: in start-up, from stage 4 on. -/
def State.collects (s : State) : Bool := s.faults.up && (s.phase != .starting || s.pastCheck)

def execRecordRelease (t : Time) (s : State) : Result :=
  let s := s.begin t
  .next (s.onlyIf s.collects fun s =>
    let s := s.extRecord
    let due := (groupRecords (recordOrder s.faults.held)).takeWhile (groupDue s.now)
    let out := due.flatMap releaseGroup
    let left := (recordOrder s.faults.held).drop out.length
    out.foldl State.release { s with faults := { s.faults with held := left } })

/-- TUSSOCK_READ (R389). -/
def tussockReadBody : Body := fun _ p s =>
  let c := s.faults
  let oldest := c.nextSeq - BitVec.ofNat 32 c.ring.length
  let n := le p 4 1
  if 1 ≤ n ∧ n ≤ 32 then
    (s, .ok (leBytes 4 oldest.toNat ++ leBytes 4 c.nextSeq.toNat
      ++ (fromOnward c.ring oldest (BitVec.ofNat 32 (le p 0 4)) n).flatMap s.recordBytes))
  else (s, .err Code.notPermitted)

def execTussockRead (q : Req) (s : State) : Result := lysil (opRow 0x0810 8 false true) q tussockReadBody s

/-- FAULT_CLEAR_COUNTERS (Table 14-12). -/
def faultClearBody : Body := fun _ p s =>
  if le p 0 1 = 0xFF then ({ s with faults := { s.faults with counters := [] } }, .ok) else (s, .err Code.notPermitted)

def execFaultClearCounters (q : Req) (s : State) : Result := lysil (opRow 0x0813 4 false true) q faultClearBody s

/-! ## The bittern pin (R386) -/

/-- The pin follows HOLD once its minimum low time is over. -/
def State.settlePin (s : State) : State :=
  if s.faults.hold = false ∧ s.faults.pinUntil.toNat ≤ s.now then { s with faults := { s.faults with pinLow := false } } else s

/-- ALARM_RELEASE clears HOLD, unless a pin-visible record is made in the same cycle (R6). -/
def execAlarmRelease (q : Req) (sameCycle : Bool) (s : State) : Result :=
  lysil (opRow 0x0812 0 false true) q
    (fun _ _ s => (({ s with faults := { s.faults with hold := sameCycle && s.faults.hold } }).settlePin, .ok)) s

/-- ALARM_MIN_LOW_END. -/
def execAlarmMinLowEnd (t : Time) (s : State) : Result := whenReady t State.settlePin s

/-! ## EXT_FAULT_N (R387, R457) -/

/-- EXT_FAULT: an assertion passes the filter; before the collector runs, it is held. -/
def execExtFault (t : Time) (s : State) : Result :=
  let s := s.begin t
  .next (s.onlyIf (s.phase != .reset && !s.faults.extFault) fun s =>
    let s := { s with faults := { s.faults with extFault := true } }
    if s.collects then s.fault extFaultInfo
    else { s with faults := { s.faults with extHeld := some (s.faults.extHeld.getD s.time) } })

/-- EXT_FAULT_N_RELEASE: released for 1 µs. -/
def execExtFaultNRelease (t : Time) (s : State) : Result :=
  let s := s.begin t
  .next { s with faults := { s.faults with extFault := false } }

/-! ## The sequencers (R367) -/

/-- A lockstep record. -/
def lockstepInfo : FaultInfo :=
  { cls := Cls.saf, detector := Det.lockstep, site := .chip Chip.lockstep 0, suppressed := some .sequencers }

/-- The request that was executing has taken no effect: it is answered with QUEUE_FULL, and its sequence is not consumed. -/
def State.refuseExecuting (s : State) (q : Req) (code : BitVec 16) : State :=
  let o : OpRow := { code := code, portB := true, lenOk := fun _ => true }
  if s.gate o q = .run then s.answer o q (.err Code.queueFull) false else s

/-- LOCKSTEP: the outputs of the two sequencers differ. -/
def execLockstep (t : Time) (executing : Option (Req × BitVec 16)) (s : State) : Result :=
  whenReady t (fun s =>
    if s.resync then s.fault lockstepInfo
    else
      let s := executing.elim s fun e => s.refuseExecuting e.1 e.2
      { s.fault lockstepInfo with resync := true }.suppress .sequencers) s

/-- SEQUENCER_RESYNC_DONE. -/
def execSequencerResyncDone (t : Time) (s : State) : Result :=
  whenReady t (fun s => s.onlyIf s.resync fun s => { s with resync := false }.suppressTail .sequencers) s

/-- SUPPRESSION_END (R385): 1 µs after the unit left its state. -/
def execSuppressionEnd (t : Time) (u : SuppressedUnit) (s : State) : Result :=
  whenReady t (fun s =>
    let over_ := fun (x : Suppression) => x.unit == u && x.ends.any fun e => decide (e.toNat ≤ s.now)
    { s with faults := { s.faults with suppressed := s.faults.suppressed.filter fun x => !over_ x } }) s

/-! ## REMAP_COMPLETE (R377, R378) -/

/-- A busy fraction: of a pipeline on a block, and of the block. -/
def busyOf (t : Tab Nat) (k : Nat) : Rat := ((Tab.get (fun _ => 0) t k : Nat) : Rat) / ((max 1 (Tab.get (fun _ => 0) t 25) : Nat) : Rat)
def busyAll (t : Tab Nat) : Rat := ((List.range 25).map (busyOf t)).sum

/-- The predicted load of the block at a position: its own, less that of shed pipelines, and its share of the fenced block's. -/
def RemapDue.load (d : RemapDue) (sets : List (Nat × BitVec 16)) (shed : List Nat) (i : Nat) : Rat :=
  let at_ := fun k => d.busy.getD k []
  let own := busyAll (at_ i) - (shed.map (busyOf (at_ i))).sum
  let moved := (d.sizes.filter fun e => !shed.contains e.1 && sets.any fun x => x.1 == e.1 && x.2.getLsbD i).map fun e =>
    busyOf (at_ (d.block % 16)) e.1 / (e.2 - 1 : Nat)
  own + moved.sum

/-- The overloaded blocks of the region: their positions, ascending. -/
def State.overloaded (s : State) (d : RemapDue) (sets : List (Nat × BitVec 16)) (shed : List Nat) : List Nat :=
  (List.range 16).filter fun i =>
    i != d.block % 16 && !(s.block (16 * (d.block / 16) + i)).fenced && decide ((d.limit : Rat) / 100 < d.load sets shed i)

/-- Pipeline rank (R21), by live settings: a smaller list outranks. -/
def State.pipeRank (s : State) (p : Nat) : List Nat :=
  [if (s.pipe p).live.safety then 0 else 1, 15 - (s.pipe p).live.priority, p]

/-- The pipeline to shed for the overloaded block at a position: the non-safety one of lowest rank with threads on it. -/
def State.shedFrom (s : State) (d : RemapDue) (shed : List Nat) (i : Nat) : Option Nat :=
  lastRanked ((indices 24 fun p => !shed.contains p && !(s.pipe p).live.safety
    && ((s.block (16 * (d.block / 16) + i)).threadOf (.pipeline (Fin.ofNat 24 p))).isSome).map fun p => (s.pipeRank p, p))

/-- The pipelines to shed: while a block is overloaded and has one to shed; and whether the load still exceeds the limit when none
has. The fuel is the number of pipelines. -/
def State.chooseShed (s : State) (d : RemapDue) (sets : List (Nat × BitVec 16)) (shed : List Nat) : Nat → List Nat × Bool
  | 0 => (shed, !(s.overloaded d sets shed).isEmpty)
  | n + 1 =>
    let l := s.overloaded d sets shed
    match l.findSome? (s.shedFrom d shed) with
    | none => (shed, !l.isEmpty)
    | some p => s.chooseShed d sets (shed ++ [p]) n

/-- The record of a re-mapping. -/
def remapFault (r b : Nat) (cls out : BitVec 8) : FaultInfo :=
  { cls := cls, detector := Det.remap, outcome := out, site := .region r, location := 64 + r, region := some r, block := some b }

/-- A block leaves the sets of the pipelines that hold it (R377). -/
def State.dropFromSets (s : State) (b : Nat) : State :=
  forEach (indices 24 fun p => (s.pipe p).carrying && (s.pipe p).setRegion == b / 16) (fun p s =>
    s.updPipe p fun x => { x with blocks := x.blocks &&& ~~~ BitVec.ofNat 16 (2 ^ (b % 16)) }) s

/-- Re-mapping of one fencing is complete: pipelines are shed, the block leaves the sets, and the record is made. A block that a passed
field test has unfenced meanwhile has no re-mapping left (R379). -/
def State.remap (s : State) (r : Nat) (d : RemapDue) : State :=
  let sets := d.sizes.map fun e => (e.1, (s.pipe e.1).blocks)
  let c := s.chooseShed d sets (indices 24 s.isShed) 24
  let new := c.1.filter fun p => !s.isShed p
  let mask := new.foldl (fun m p => m ||| BitVec.ofNat 32 (2 ^ p)) s.faults.remapStatus
  let s := { s with faults := { s.faults with remapStatus := mask } }
  let s := if c.2 then s.fault (remapFault r d.block Cls.saf Outc.shed) else s
  let s := s.dropFromSets d.block
  s.fault (remapFault r d.block Cls.info (if new.isEmpty then Outc.none else Outc.shed))

/-- REMAP_COMPLETE: the oldest fencing of a region. -/
def execRemapComplete (t : Time) (r : Fin 4) (s : State) : Result :=
  whenReady t (fun s =>
    match (s.region r).remapDue with
    | d :: rest => (s.updRegion r fun x => { x with remapDue := rest }).remap r d
    | [] => s) s

/-! ## Field tests (R379, R392) -/

/-- Fencing a block would leave a streaming pipeline's set with no unfenced block. -/
def State.emptiesSet (s : State) (b : Nat) : Bool :=
  !(s.block b).fenced && (List.range 24).any fun q =>
    (s.pipe q).stream == .streaming && (s.pipe q).setRegion == b / 16 && (s.pipe q).blocks.getLsbD (b % 16)
      && decide (s.liveSet q b ≤ 1)

/-- RUN_BLOCK_TEST. -/
def runBlockTestBody : Body := fun k p s =>
  let b := le p 0 1
  let x := s.block b
  let job := x.threads.any fun t => match t.owner with
    | .job _ => true
    | _ => false
  if 63 < b ∨ x.testing ∨ x.testDue.isSome ∨ le p 1 1 % 4 = 0 ∨ job = true ∨ s.emptiesSet b = true ∨ s.requestedOff b = true ∨ s.requestedOff (64 + b / 16) = true then
    (s, .err Code.notPermitted)
  else
    let s := s.updBlock b fun x => { x with testDue := some (k, BitVec.ofNat 8 (le p 1 1 % 4)) }
    (if x.fenced then s else s.remapFor b, .err Code.accepted)

def execRunBlockTest (q : Req) (s : State) : Result := lysil (opRow 0x0811 4 true true) q runBlockTestBody s

/-- A frame job in flight uses a block. -/
def State.frameUses (s : State) (b : Nat) : Bool :=
  (List.range 24).any fun q => (s.pipe q).setRegion == b / 16
    && (s.pipe q).frames.any fun j => !j.delivered && !j.idle && j.mask.getLsbD (b % 16)

/-- The block is out of every set, and no frame job uses it. -/
def State.testFree (s : State) (b : Nat) : Bool :=
  !((s.region (b / 16)).remapDue.any fun d => d.block == b) && !s.frameUses b

/-- BLOCK_TEST_BEGIN: the block is fenced without a record, or reset where it was fenced, and the test runs. -/
def execBlockTestBegin (t : Time) (b : Fin 64) (s : State) : Result :=
  whenReady t (fun s =>
    let x := s.block b
    s.onlyIf (x.testDue.isSome && !x.testing && !x.resetting && (s.domain b).isOn && (x.fenced || s.testFree b)) fun s =>
      let s := if (s.block b).fenced then s.resetBlock b else s.fenceBlock b
      (s.updBlock b fun x => { x with testing := true }).orphans (b / 16) 16) s

/-- Stripes in flight with rows on a block that returns to service keep what its fencing made of them (R215). -/
def State.markFenced (s : State) (b : Nat) : State :=
  forEach (List.finRange 24) (fun q s =>
    if (s.pipe q).setRegion = b / 16 then
      ((s.pipe q).frames.filter fun j => j.mask.getLsbD (b % 16)).foldl (fun s j =>
        ((List.range j.stripes.length).filter fun i => (j.stripe i).any (fun st => st.final.isNone)
            && (s.unitPlace b (.pipeline q) (j.frame, i)).any UnitPlace.hasRows).foldl (fun s i =>
          s.updStripe q j.frame i fun st => { st with fenced := true }) s) s
    else s) s

/-- A block is unfenced (R379): it is reset, its re-mapping ends, and the threads of streaming pipelines that name it are due to be
placed on it. Until they are, the sets are the reduced ones. -/
def State.unfence (s : State) (b : Nat) : State :=
  let s := ((s.markFenced b).resetBlock b).updRegion (b / 16) fun x => { x with remapDue := x.remapDue.filter fun d => d.block != b }
  let s := s.dropFromSets b
  let due := indices 24 fun q => (s.pipe q).stream == .streaming && (s.pipe q).names b
  s.updBlock b fun x => { x with fenced := false, placeDue := due }

/-- The record of a field test. -/
def testFault (b : Nat) (pass : Bool) (reply : Option (Ticket × List Byte)) : FaultInfo :=
  { cls := if pass then Cls.info else Cls.ucf, detector := Det.fieldTest, outcome := if pass then Outc.testPass else Outc.testFail
    site := .block b, served := .block b, location := b, region := some (b / 16), block := some b, reply := reply }

/-- Captures that a field test of a block runs: under CAPTURES, every one that the store holds of it (R392). -/
def State.capturesRun (s : State) (b : Nat) (flags : BitVec 8) : Nat :=
  if flags.getLsbD 1 then (s.faults.captures.filter fun c => c.block == b).length else 0

/-- The COMPLETION of RUN_BLOCK_TEST, up to the SEQ of its record: vectors and captures run, and the first that failed. -/
def testData (b vectors captures : Nat) (bad : Option (BitVec 16)) : List Byte :=
  leBytes 1 b ++ leBytes 1 (if bad.isSome then 1 else 0) ++ leBytes 2 vectors ++ leBytes 2 captures ++ leBytes 2 ((bad.getD 0xFFFF).toNat)

/-- BLOCK_TEST_END: vendor vectors run only under VENDOR, and only what was run can fail. The record is made, and the COMPLETION follows once it is released and has its SEQ (R383, R392). -/
def execBlockTestEnd (t : Time) (b : Fin 64) (r : TestResult) (s : State) : Result :=
  whenReady t (fun s =>
    let x := s.block b
    s.onlyIf (x.testing && !x.resetting) fun s =>
      let flags := (x.testDue.map fun d => d.2).getD 0
      let v := if flags.getLsbD 0 then r.vectors.toNat else 0
      let c := s.capturesRun b flags
      let bad := r.firstFail.filter fun i => decide (i.toNat < v + c)
      let pass := bad.isNone
      let s := s.updBlock b fun x => { x with testing := false, testDue := none }
      let s := s.fault (testFault b pass (x.testDue.map fun d => (d.1, testData b v c bad)))
      if pass then s.unfence b else s) s

end Sys2Proof.Machine
end

