-- ==== Sys2Proof/Machine/Health.lean ====
section
/-!
DEFINITION. Clocks, supply, temperature, calibration and ageing (R397 to R407, R413 to R424, R426).
-/

namespace Sys2Proof.Machine

open Sys2Proof

/-- The monitors, the supply loop and calibration run from the release of PORST_N on (R406). -/
def whenPowered (t : Time) (body : State → State) (s : State) : Result :=
  let s := s.begin t
  .next (s.onlyIf (s.phase != .reset) body)

/-- Count in CLOCK_COUNTERS (Table 15-7). -/
def State.countClock (s : State) (w : Nat) : State :=
  { s with health := { s.health with clockCounters := s.health.clockCounters.bump w } }

/-- A monitor of Table 15-3 fires: a SAF record, counted in MONITOR_TRIPS. -/
def State.monitor (s : State) (det : BitVec 8) (bit loc : Nat) : State :=
  (s.countClock 6).fault { cls := Cls.saf, detector := det, site := .chip bit 0, location := loc }

def State.clockMonitor (s : State) : State := s.monitor Det.clockMonitor Chip.clock 100
def State.voltageTrip (s : State) : State := s.monitor Det.voltageMonitor Chip.voltage 100

/-! ## PLLs, reference, derived clocks (R406, R407) -/

/-- A PLL's lock bit (Table 15-6). -/
def State.setLock (s : State) (i : Nat) (on : Bool) : State :=
  let m : BitVec 4 := BitVec.ofNat 4 (2 ^ i)
  { s with health := { s.health with lock := if on then s.health.lock ||| m else s.health.lock &&& ~~~ m } }

def execRootPllUnlock (t : Time) (s : State) : Result :=
  whenPowered t (fun s => s.onlyIf (s.health.lock.getLsbD 0) fun s => ((s.setLock 0 false).countClock 4).clockMonitor) s

def execRootPllRelock (t : Time) (s : State) : Result := whenPowered t (fun s => s.setLock 0 true) s

def execReferenceLoss (t : Time) (s : State) : Result :=
  whenPowered t (fun s => s.onlyIf s.health.refOk fun s =>
    (({ s with health := { s.health with refOk := false } }).countClock 5).clockMonitor) s

def execReferenceReturn (t : Time) (s : State) : Result :=
  whenPowered t (fun s => { s with health := { s.health with refOk := true } }) s

/-- DERIVED_CLOCK_FAULT: for SCLK the spine switches to the backup oscillator (R407). -/
def execDerivedClockFault (t : Time) (c : DerivedClock) (s : State) : Result :=
  whenPowered t (fun s =>
    let s := s.clockMonitor
    if c = .sclk then { s with health := { s.health with backup := true } } else s) s

def execSclkRecovered (t : Time) (s : State) : Result :=
  whenPowered t (fun s => { s with health := { s.health with backup := false } }) s

/-- The LOCK bit of an interface PLL (Table 15-6). -/
def pllBit : IfacePll → Nat
  | .dram => 1
  | .pcie => 2
  | .fovar => 3

/-- What the loss of an interface PLL does: DRAM accesses wait, the PCIe link retrains, Fovar ports go DOWN (Table 15-3). -/
def State.pllLost (s : State) : IfacePll → State
  | .dram => s
  | .pcie => { s with mem := { s.mem with pcieLink := false } }
  | .fovar => (forEach (indices 4 fun n => (s.fovarPort n).state == .up) (fun n s => s.fovarDown n) s).collLost

def execInterfacePllUnlock (t : Time) (c : IfacePll) (s : State) : Result :=
  whenPowered t (fun s => s.onlyIf (s.health.lock.getLsbD (pllBit c)) fun s =>
    (((s.setLock (pllBit c) false).countClock 4).clockMonitor).pllLost c) s

/-! ## Supply (R402 to R404, Table 15-3) -/

/-- GUARD_PS and DROOP_PS (Table 15-6). -/
def Health.guardPs (h : Health) : Int := (bits 15 8 h.voltageConfig : Nat)
def Health.droopPs (h : Health) : Int := (bits 23 16 h.voltageConfig : Nat)

/-- The ACLK period of a divider code, in ps, at 8 GHz (R397). -/
def periodPs (code : Nat) : Int := ((125 * dividerOf code : Nat) : Int)

/-- A region's slack as it would be at a divider: its present one, less the difference of that period and the one in force when it was
reported, /8 under a clamp (R403). -/
def Region.slackAt (x : Region) (code : Nat) : Int := x.slack.toInt - (periodPs x.slackCode.toNat - periodPs code)

/-- The slack that R402 weighs: at the divider that the region waits to move to, if it is faster (R403). -/
def Region.needSlack (x : Region) : Int := if x.wantDiv.toNat < x.liveDiv.toNat then x.slackAt x.wantDiv.toNat else x.slack.toInt

/-- Regions that are powered: those whose monitors report. -/
def State.poweredRegions (s : State) : List Nat := indices 4 fun r => (s.domain (64 + r)).isOn

/-- The least of some integers, if there is one. -/
def leastInt : List Int → Option Int
  | [] => none
  | x :: t => some (t.foldl min x)

/-- One step of the target, within 550 to 800 mV (R402). -/
def State.stepTarget (s : State) : State :=
  let h := s.health
  match leastInt (s.poweredRegions.map fun r => (s.region r).needSlack) with
  | some m =>
    { s with health := { h with targetMv :=
        if m < h.guardPs then min 800 (h.targetMv + 5)
        else if h.guardPs + 15 < m then max 550 (h.targetMv - 5)
        else h.targetMv } }
  | none => s

/-- The readback meets every region's need: no region's slack is below GUARD_PS. -/
def State.needsMet (s : State) : Bool := s.poweredRegions.all fun r => decide (s.health.guardPs ≤ (s.region r).slack.toInt)

/-- Running steps of every region go on under the dividers now in force (R401). -/
def State.reclockAll (s : State) : State := forEach [0, 1, 2, 3] (fun r s => s.reclock r) s

/-- One AVSBus transaction: the third failure in a row freezes the target and clamps every region, until one succeeds whose
readback meets every need. The clamp and its end change the clock of every running step (R401). -/
def State.avsTransaction (s : State) (good : Bool) (readback : BitVec 16) : State :=
  let h := s.health
  if good then
    { s with health := { h with avsFails := 0, readbackMv := readback, avsFault := h.avsFault && !s.needsMet } }.reclockAll
  else
    let s := ({ s with health := { h with avsFails := min 3 (h.avsFails + 1) } }).countClock 3
    s.onlyIf (h.avsFails == 2 && !h.avsFault) fun s =>
      ({ s with health := { s.health with avsFault := true } }).reclockAll.voltageTrip

/-- A powered region's ACLK is clamped to /8, mid-step if need be (R401, R404). -/
def State.clamp (s : State) (r : Nat) : State :=
  s.onlyIf ((s.domain (64 + r)).isOn && !(s.region r).droopClamped) fun s =>
    ((s.updRegion r fun x => { x with droopClamped := true }).reclock r).countClock 0

/-- A slack is reported for a region: it is kept, with the time of one below GUARD_PS, and one below DROOP_PS clamps (R404). -/
def State.noteSlack (s : State) (r : Nat) (v : BitVec 16) : State :=
  let s := s.updRegion r fun x => { x with slack := v, slackCode := BitVec.ofNat 2 (s.aclkCode r), slackLow := if v.toInt < s.health.guardPs then s.time else x.slackLow }
  if v.toInt < s.health.droopPs then s.clamp r else s

/-- The slacks of some locations over the last 10 µs: each location's margin, and a region's smallest. -/
def State.takeSlacks (s : State) (l : List (Fin 101 × BitVec 16)) : State :=
  let s := l.foldl (fun s x => s.setLocation x.1 { s.location x.1 with margin := x.2 }) s
  forEach [0, 1, 2, 3] (fun r s =>
    match leastInt ((l.filter fun x => x.1.val / 16 == r || x.1.val == 64 + r).map fun x => x.2.toInt) with
    | some m => s.noteSlack r (BitVec.ofInt 16 m)
    | none => s) s

/-- AVS_LOOP (R402): the slacks, one step of the target unless it is frozen, and the transaction that writes it. -/
def execAvsLoop (t : Time) (slack : List (Fin 101 × BitVec 16)) (transactionOk : Bool) (readbackMv senseMv : BitVec 16) (s : State) :
    Result :=
  whenPowered t (fun s =>
    let s := { s with health := { s.health with senseMv := senseMv } }.takeSlacks slack
    let s := if s.health.avsFault then s else s.stepTarget
    (s.send (.avs s.health.targetMv)).avsTransaction transactionOk readbackMv) s

/-- DROOP_CLAMP: a monitor of the region reports slack below DROOP_PS. -/
def execDroopClamp (t : Time) (r : Fin 4) (slack : BitVec 16) (s : State) : Result :=
  whenPowered t (fun s => s.onlyIf (decide (slack.toInt < s.health.droopPs) && (s.domain (64 + r)).isOn) fun s =>
    s.noteSlack r (if slack.toInt < (s.region r).slack.toInt then slack else (s.region r).slack)) s

/-- The slack of a region has stayed at or above GUARD_PS for 10 µs. -/
def State.slackHeld (s : State) (r : Nat) : Bool :=
  let x := s.region r
  decide (s.health.guardPs ≤ x.slack.toInt) && decide (x.slackLow.toNat + 10000 ≤ s.now)

/-- CLAMP_RELEASE: the region goes on at its steady divider (R404). -/
def execClampRelease (t : Time) (r : Fin 4) (s : State) : Result :=
  whenPowered t (fun s => s.onlyIf (s.slackHeld r) fun s =>
    (s.updRegion r fun x => { x with droopClamped := false }).reclock r) s

/-- VOLTAGE_MONITOR: a low VDD_CORE clamps every region as well. -/
def execVoltageMonitor (t : Time) (v : SupplyTrip) (s : State) : Result :=
  whenPowered t (fun s =>
    let s := s.voltageTrip
    if v = .coreLow then forEach [0, 1, 2, 3] (fun r s => s.clamp r) s else s) s

/-! ## Temperature (R405, R406) -/

/-- THROTTLE_C and SAF_C. -/
def Health.throttleC (h : Health) : Int := (bits 7 0 h.thermalConfig : Nat)
def Health.safC (h : Health) : Int := (bits 15 8 h.thermalConfig : Nat)

/-- The sensors of a region: its blocks' and its own. -/
def sensorsOf (r : Nat) : List Nat := (List.range 16).map (fun i => 16 * r + i) ++ [64 + r]

/-- A sensor of the region reads `c` degrees or more. -/
def State.anySensor (s : State) (r : Nat) (c : Int) : Bool := (sensorsOf r).any fun l => decide (8 * c ≤ (s.location l).temp.toInt)

/-- A location's reading; its monitor fires at SAF_C and is armed again below SAF_C − 5 (Table 15-3). -/
def State.senseTemp (s : State) (l : Nat) (v : BitVec 16) : State :=
  let s := s.setLocation l { s.location l with temp := v }
  let fired := s.faults.thermalFired
  if 8 * s.health.safC ≤ v.toInt then
    if fired.contains l then s
    else ({ s with faults := { s.faults with thermalFired := fired ++ [l] } }).monitor Det.thermal Chip.thermal l
  else if v.toInt < 8 * (s.health.safC - 5) then { s with faults := { s.faults with thermalFired := fired.filter fun x => x != l } }
  else s

/-- The hottest sensor of a region. -/
def State.hottest (s : State) (r : Nat) : BitVec 8 :=
  let l := (sensorsOf r).map fun l => degrees (s.location l).temp
  l.foldl (fun m v => if m.toInt < v.toInt then v else m) (l.headD 0)

/-- TEMPERATURE_READ. -/
def execTemperatureRead (t : Time) (readings : List (Fin 101 × BitVec 16)) (s : State) : Result :=
  whenPowered t (fun s =>
    let s := readings.foldl (fun s x => s.senseTemp x.1 x.2) s
    forEach [0, 1, 2, 3] (fun r s =>
      s.updRegion r fun x => { x with
        tempMax := s.hottest r
        hot := x.hot || s.anySensor r s.health.throttleC
        coolTicks := if s.anySensor r (s.health.throttleC - 5) then 0 else x.coolTicks }) s) s

/-! ## Calibration (R413 to R419) -/

/-- A target's code, index and domain (R419, Table 15-4). -/
def calCode : CalTarget → Nat
  | .sedge _ => 0
  | .pcie => 1
  | .fovar _ => 2
def calIndex : CalTarget → Nat
  | .sedge p => p
  | .pcie => 0
  | .fovar n => n
def calDomain : CalTarget → Nat
  | .sedge p => 68 + p
  | .pcie => 94
  | .fovar n => 95 + n

/-- A receiver's lane run and its lanes: 0 is PCIe, n + 1 is Fovar port n. -/
def State.laneRun (s : State) (k : Nat) : LaneRun := Tab.get (fun _ => LaneRun.reset) s.health.laneRuns k
def State.setLaneRun (s : State) (k : Nat) (v : LaneRun) : State :=
  { s with health := { s.health with laneRuns := Tab.set (fun _ => LaneRun.reset) s.health.laneRuns k v } }
def laneKey : CalTarget → Nat
  | .fovar n => n + 1
  | _ => 0
def laneBase (k : Nat) : Nat := if k = 0 then 0 else 12 + 4 * k
def laneCount (k : Nat) : Nat := if k = 0 then 16 else 4

/-- A run starts, of itself for a cause, or for RUN_CALIBRATION; one in progress starts anew (R417). -/
def State.startRun (s : State) (g : CalTarget) (cause : Option CalCause) : State :=
  match g with
  | .sedge p => s.updPort p fun x => { x with calRunning := true, calCause := cause.or x.calCause }
  | g =>
    let k := laneKey g
    let x := s.laneRun k
    s.setLaneRun k { x with running := true, cause := cause.or x.cause }

/-- The temperature at a target's last run, in 1/8 degrees. -/
def State.lastRunTemp (s : State) : CalTarget → BitVec 16
  | .sedge p => (s.port p).calTemp
  | g => (s.laneRun (laneKey g)).temp

/-- The cause of a target's run in progress. -/
def State.runCause (s : State) : CalTarget → Option CalCause
  | .sedge p => (s.port p).calCause
  | g => (s.laneRun (laneKey g)).cause

/-- A cause holds: the temperature has moved by more than RECAL_DELTA_C since the last run; the domain has switched on, or a port's mode
has gone live, which has begun the run itself. -/
def State.causeHolds (s : State) (g : CalTarget) : CalCause → Bool
  | .temperature =>
    decide (8 * bits 23 16 s.health.calConfig < ((s.location (calDomain g)).temp.toInt - (s.lastRunTemp g).toInt).natAbs)
  | c => s.runCause g == some c

/-- CALIBRATION_RUN_START. -/
def execCalibrationRunStart (t : Time) (g : CalTarget) (cause : CalCause) (s : State) : Result :=
  whenPowered t (fun s => s.onlyIf ((s.domain (calDomain g)).isOn && s.causeHolds g cause) fun s => s.startRun g (some cause)) s

/-- The targets that RUN_CALIBRATION names; none where it is out of range. -/
def calTargets (target index : Nat) : List CalTarget :=
  if target = 0 then (List.finRange 24).filterMap fun p => if index = 0xFF ∨ index = p.val then some (.sedge p) else none
  else if target = 1 then if index = 0xFF ∨ index = 0 then [.pcie] else []
  else if target = 2 then (List.finRange 4).filterMap fun n => if index = 0xFF ∨ index = n.val then some (.fovar n) else none
  else []

/-- RUN_CALIBRATION (R419). -/
def runCalibrationBody : Body := fun k p s =>
  let gs := calTargets (le p 0 1) (le p 1 1)
  if gs.isEmpty || gs.any fun g => !(s.domain (calDomain g)).isOn then (s, .err Code.notPermitted)
  else
    let s := gs.foldl (fun s g => s.startRun g none) s
    let c : CalCommand := { ticket := k, target := BitVec.ofNat 8 (le p 0 1), index := BitVec.ofNat 8 (le p 1 1)
                            waiting := gs.map calIndex, calibrated := 0, worst := 0xFF }
    ({ s with health := { s.health with calCommands := s.health.calCommands ++ [c] } }, .err Code.accepted)

def execRunCalibration (q : Req) (s : State) : Result := lysil (opRow 0x0910 4 true) q runCalibrationBody s

/-- One target of a command is done: how many inputs or lanes were calibrated, and the worst eye, where it was. -/
def CalCommand.note (c : CalCommand) (g : CalTarget) (n worst : Nat) : CalCommand :=
  if c.target.toNat = calCode g ∧ c.waiting.contains (calIndex g) then
    { c with waiting := c.waiting.filter fun i => i != calIndex g, calibrated := c.calibrated + n
             worst := if worst < c.worst.toNat then BitVec.ofNat 8 worst else c.worst }
  else c

/-- The COMPLETION of RUN_CALIBRATION. -/
def CalCommand.data (c : CalCommand) (now : Nat) : List Byte :=
  leBytes 1 c.target.toNat ++ leBytes 1 c.index.toNat ++ leBytes 2 c.calibrated ++ leBytes 1 c.worst.toNat ++ zeros 3 ++ leBytes 8 now

/-- The commands that wait for a target take note of it; those that wait for nothing more complete. -/
def State.noteCalibrated (s : State) (g : CalTarget) (n worst : Nat) : State :=
  let cs := s.health.calCommands.map fun c => c.note g n worst
  let s := { s with health := { s.health with calCommands := cs.filter fun c => !c.waiting.isEmpty } }
  (cs.filter fun c => c.waiting.isEmpty).foldl (fun s c => s.complete c.ticket Code.ok (c.data s.now)) s

/-- The code of a cause (Table 15-5). -/
def causeCode : CalCause → Nat
  | .temperature => 0
  | .powerOn => 1
  | .modeChange => 3

/-- Corrections have been applied: CAL_APPLIED for a run that started of itself, and the commands. -/
def State.calApplied (s : State) (g : CalTarget) (cause : Option CalCause) (n worst : Nat) : State :=
  let s := match cause with
    | some c => s.event .a 0x09F0 (leBytes 1 (calCode g) ++ leBytes 1 (calIndex g) ++ leBytes 1 (causeCode c)
        ++ leBytes 1 worst ++ zeros 4 ++ leBytes 8 s.now)
    | none => s
  s.noteCalibrated g n worst

/-- A port's run applies: an input that has seen 65,536 transitions takes the centre of its eye, which is a free value for an eye of no
width (R413, log 94); the EYE field holds at most 63. -/
def State.applySedge (s : State) (p : Fin 24) (scans : List EyeScan) (seen : Bool) : State :=
  let v := s.free
  let s := v.2
  let x := s.port p
  let l := ((List.range 26).map fun i => scans.getD i []).zipIdx
  let centre := fun (c : EyeScan × Nat) => scanCentre v.1 c.1 c.2
  let put := fun (t : Tab (BitVec 6)) (i : Nat) (v : BitVec 6) => Tab.set (fun _ => 0) t i v
  let y : Port := { x with
    taps := l.foldl (fun t c => if enoughSeen c.1 then put t c.2 (centre c) else t) x.taps
    centres := l.foldl (fun t c => put t c.2 (centre c)) x.centres
    eyes := l.foldl (fun t c => put t c.2 (BitVec.ofNat 6 (min 63 (eyeOf c.1).2))) x.eyes
    calRuns := sat16 x.calRuns, calTemp := (s.location (68 + p)).temp, calZq := !seen
    calValid := true, calRunning := false, calCause := none }
  (s.setPort p y).calApplied (.sedge p) x.calCause (l.filter fun c => enoughSeen c.1).length y.worstEye.1

/-- A receiver's run applies. -/
def State.applyLanes (s : State) (g : CalTarget) (r : List Lane) : State :=
  let k := laneKey g
  let x := s.laneRun k
  let l := (r.take (laneCount k)).zipIdx
  let lanes := l.foldl (fun t c => Tab.set (fun _ => (⟨0, 0, 0, 0, 0⟩ : Lane)) t (laneBase k + c.2) c.1) s.health.lanes
  let s := { s with health := { s.health with lanes := lanes } }
  (s.setLaneRun k { x with running := false, cause := none, temp := (s.location (calDomain g)).temp }).calApplied g x.cause
    l.length ((l.map fun c => c.1.width.toNat).foldl min 255)

/-- The inputs that a port samples in its mode: in SINGLE12, D[23:12] is ignored (R31). -/
def PortSettings.inputs (c : PortSettings) : List Nat := indices 26 fun i => !(c.modeField == 0 && decide (12 ≤ i) && decide (i < 24))

/-- The first run of a port since its power-on applies after 65,536 transitions on every input (Table 15-8, R467; of the inputs that its
mode samples: DEDUCED, log 118). -/
def Port.runReady (p : Port) (scans : List EyeScan) : Bool := p.calValid || p.live.inputs.all fun i => enoughSeen (scans.getD i [])

/-- The point at which a run applies (R418): a port's frame boundary (R29), or, where it has none because no streaming pipeline names it,
any time outside a frame, as its committed settings do (DEDUCED, log 86); the link carrying SKP or IDLE. -/
def State.mayApply (s : State) (scans : List EyeScan) : CalTarget → Bool
  | .sedge p => let x := s.port p
    x.calRunning && x.runReady scans && (if s.hasBoundary p then x.boundaryAt == some s.time else x.state != .inFrame)
  | .pcie => (s.laneRun 0).running && s.mem.pcieLink
  | .fovar n => (s.laneRun (n + 1)).running && (s.fovarPort n).state == .up

/-- CALIBRATION_APPLY: scans by input, or figures by lane; `portSeen`, the port has seen 65,536 transitions since its last run (R415). -/
def execCalibrationApply (t : Time) (g : CalTarget) (scans : List EyeScan) (lanes : List Lane) (portSeen : Bool) (s : State) : Result :=
  whenPowered t (fun s => s.onlyIf ((s.domain (calDomain g)).isOn && s.mayApply scans g) fun s =>
    match g with
    | .sedge p => s.applySedge p scans portSeen
    | g => s.applyLanes g lanes) s

/-- A run in progress when its domain switches off is abandoned (R417); a command waits for it no longer. -/
def State.abandonRun (s : State) (g : CalTarget) : State :=
  let s := match g with
    | .sedge p => s.updPort p fun x => { x with calRunning := false, calCause := none }
    | g => s.setLaneRun (laneKey g) { s.laneRun (laneKey g) with running := false, cause := none }
  s.noteCalibrated g 0 0xFF

/-! ## Ageing (R420 to R424) -/

/-- WARN_KH and MARGIN_EOL_PS. -/
def Health.warnKh (h : Health) : Nat := bits 31 16 h.ageConfig
def Health.marginEol (h : Health) : Nat := bits 7 0 h.ageConfig

/-- The whole root of a number below 2^(2·bits). -/
def rootOf (bits n : Nat) : Nat :=
  (List.range bits).reverse.foldl (fun v k => if (v + 2 ^ k) * (v + 2 ^ k) ≤ n then v + 2 ^ k else v) 0

/-- The sums of a fit, with √STRESS in 2^−32 √h (R422): Σ STRESS in 2^−40 h, Σ ΔD·√STRESS, Σ ΔD². -/
def fitSums (l : List (Nat × Int)) : Nat × Int × Nat :=
  l.foldl (fun a m => (a.1 + m.1, a.2.1 + m.2 * (rootOf 64 (m.1 * 2 ^ 24) : Nat), a.2.2 + (m.2 * m.2).toNat)) (0, 0, 0)

/-- K of least squares, in 2^−32 of (1/16 ps)/√h, and the half width of its 90 % interval: the standard error of K times the factor of
the number of measurements (log 4). -/
def fitK (l : List (Nat × Int)) : Int × Int :=
  let x := fitSums l
  let rest := ((x.2.2 * x.1 * 2 ^ 24 : Nat) - x.2.1 * x.2.1).toNat
  let err := rootOf 128 (rest * 2 ^ 80 / max 1 ((l.length - 1) * x.1 * x.1))
  (x.2.1 * 2 ^ 40 / max 1 (x.1 : Int), ((err * Config.interval90 l.length / 2 ^ 16 : Nat) : Int))

/-- The operating hours at which ΔD reaches a budget (1/16 ps) for a K, with stress accruing at the average rate so far (R422): the
stress (budget / K)² over STRESS / hours. -/
def Location.eolAt (l : Location) (budget hours : Nat) (k : Int) : BitVec 32 :=
  let num := budget * budget * 2 ^ 104 * hours
  let den := (k * k).toNat * l.stress
  let e := num / max 1 den + (if Config.eolUp num den then 1 else 0)
  if k ≤ 0 ∨ den = 0 ∨ 2 ^ 32 ≤ e then Config.eolOpen l.fit else BitVec.ofNat 32 e

/-- The normalised margin of a location, in 1/16 ps (R420). -/
def Location.normMargin (l : Location) : Int := 16 * (l.factoryMargin.toNat : Int) - l.deltaD

/-- A location's predictions, made only after 100 operating hours (R422): the normalised margin falls from the factory margin to
MARGIN_EOL_PS. -/
def Location.predict (l : Location) (marginEol hours : Nat) : Location :=
  if hours < 100 then { l with eol := 0xFFFF_FFFF, eolLow := 0xFFFF_FFFF, eolHigh := 0xFFFF_FFFF }
  else
    let budget := (l.normMargin + l.deltaD - 16 * (marginEol : Int)).toNat
    let k := fitK l.fit
    { l with eol := l.eolAt budget hours k.1, eolLow := l.eolAt budget hours (k.1 + k.2), eolHigh := l.eolAt budget hours (k.1 - k.2) }

/-- One location's measurement: the delay, corrected to the reference condition, less that of the first one (R420). -/
def State.measureAge (s : State) (x : AgeReading) : State :=
  let l := s.location x.location
  let d := Config.corrected x.location x.delay l.temp.toInt s.health.senseMv.toNat
  let first := l.firstDelay.getD d
  s.setLocation x.location { l with firstDelay := some first, deltaD := d - first, fit := l.fit ++ [(l.stress, d - first)] }

/-- AGE_WARNING (R424): one event for a location, until AGE_CONFIG is written. -/
def State.warnAge (s : State) (i : Nat) : State :=
  let l := s.location i
  if l.warned = false ∧ l.eolLow.toNat < s.health.hours.toNat + 1000 * s.health.warnKh then
    (s.setLocation i { l with warned := true }).event .a 0x09F1 (leBytes 4 i ++ leBytes 4 l.eolLow.toNat ++ leBytes 8 s.now)
  else s

/-- The age area takes the hours and every location's stress and fit data (R423). -/
def State.storeAge (s : State) : State :=
  let a : AgeArea := { hours := s.health.hours
                       stress := s.health.locations.foldl (fun t l => Tab.set (fun _ => 0) t l.1 l.2.stress) []
                       firstDelay := s.health.locations.foldl (fun t l => Tab.set (fun _ => none) t l.1 l.2.firstDelay) []
                       fit := s.health.locations.foldl (fun t l => Tab.set (fun _ => []) t l.1 l.2.fit) [] }
  { s with fw := { s.fw with ageArea := a } }

/-- AGE_MEASURE: one more hour with the spine powered (R423), the measurements, the predictions and the warnings. -/
def execAgeMeasure (t : Time) (readings : List AgeReading) (s : State) : Result :=
  whenPowered t (fun s =>
    let s := { s with health := { s.health with hours := sat32 s.health.hours } }
    let s := readings.foldl State.measureAge s
    let h := s.health
    let s := forEach (List.range 101) (fun i s =>
      (s.setLocation i ((s.location i).predict h.marginEol h.hours.toNat)).warnAge i) s
    s.storeAge) s

/-- 2^m for any exponent that arises, by small powers. -/
def twoTo (m : Nat) : Nat := (2 ^ 200) ^ (m / 200) * 2 ^ (m % 200)

/-- x^400. -/
def pow400 (x : Nat) : Nat := ((x ^ 20) ^ 4) ^ 5

/-- One second's stress in 2^−40 h, rounded down (R421): the largest v with v·2^−40 ≤ (1/3,600)·2^((T − 105)/10)·2^((V − 0.70)/0.05), that
is with (3,600·v)^400 ≤ 2^(n + 16,000) for n = 400 times the exponent; T in 1/8 °C, V in mV. -/
def stressFloor (temp : Int) (mv : Nat) : Nat :=
  let m := (5 * (temp - 840) + 8 * ((mv : Int) - 700) + 16000).toNat
  (List.range (m / 400)).reverse.foldl (fun v k =>
    if pow400 (3600 * (v + 2 ^ k)) ≤ twoTo m then v + 2 ^ k else v) 0

/-- One second's stress, rounded one way or the other (log 4). -/
def stressStep (temp : Int) (mv : Nat) : Nat := stressFloor temp mv + if Config.stressUp temp mv then 1 else 0

/-- STRESS_ACCUMULATE (R421): each second, at every location's temperature and VDD_CORE. -/
def execStressAccumulate (t : Time) (s : State) : Result :=
  whenPowered t (fun s => forEach (List.range 101) (fun i s =>
    let l := s.location i
    s.setLocation i { l with stress := l.stress + stressStep l.temp.toInt s.health.senseMv.toNat }) s) s

/-- After start-up the age area gives the hours, the stress and the fit data again. -/
def State.restoreAge (s : State) : State :=
  let a := s.fw.ageArea
  let s := { s with health := { s.health with hours := a.hours } }
  forEach (List.range 101) (fun i s =>
    let fit := Tab.get (fun _ => []) a.fit i
    let l := { s.location i with stress := Tab.get (fun _ => 0) a.stress i, fit := fit
                                 firstDelay := Tab.get (fun _ => none) a.firstDelay i, deltaD := (fit.getLast?.map Prod.snd).getD 0 }
    s.setLocation i (l.predict s.health.marginEol a.hours.toNat)) s

end Sys2Proof.Machine
end

