-- ==== Sys2Proof/Machine/Power.lean ====
section
/-!
DEFINITION. Switching a power domain on and off (R408 to R411, Table 15-4): what it brings and what is lost.
-/

namespace Sys2Proof.Machine

open Sys2Proof

/-- The receiver or port whose calibration lives in a domain. -/
def domainTarget (d : Nat) : Option CalTarget :=
  if d < 68 then none
  else if h : d - 68 < 24 then some (.sedge ⟨d - 68, h⟩)
  else if d = 94 then some .pcie
  else if 95 ≤ d ∧ d ≤ 98 then some (.fovar (Fin.ofNat 4 (d - 95)))
  else none

/-- A port whose domain is on starts DISABLED or IDLE as its ENABLE gives, each tap at its factory centre until a run applies; its front
end's line buffer is empty (R410, R418). -/
def State.portOn (s : State) (n : Nat) : State :=
  let s := s.updPipe n fun x => { x with fe := .reset }
  let x := s.port n
  s.portChange n { x with
    taps := [], centres := [], calValid := false, wantsPower := false
    state := if x.live.enable && !x.clockFault then .idle else .disabled }

/-- A block's scratchpad holds zeroes with poison clear (R121, R410). -/
def State.zeroSpad (s : State) (b : Nat) : State :=
  { s with spad := s.spad.clear (spadAddr b 0) (spadAddr (b + 1) 0)
           spadPoison := dropRange s.spadPoison (spadLines * b) (spadLines * (b + 1)) }

/-- A region's pool holds zeroes with poison clear. -/
def State.zeroPool (s : State) (r : Nat) : State :=
  { s with pool := s.pool.clear (poolAddr r 0) (poolAddr (r + 1) 0)
           poolPoison := dropRange s.poolPoison (0x4_0000 * r) (0x4_0000 * (r + 1)) }

/-- A block's detectors are under suppression while it is zeroed, at most 2 µs, and 1 µs more (Table 14-6). -/
def State.blockPowered (s : State) (b : Nat) : State :=
  { s with faults := { s.faults with
      suppressed := (s.faults.suppressed.filter fun x => x.unit != .block (Fin.ofNat 64 b))
        ++ [{ unit := .block (Fin.ofNat 64 b), ends := some (s.time + 3000) }] } }

/-- A domain switches on; a block, a region or a front end starts zeroed, and calibration starts a run (R410, R417). A block's busy
periods count from here (R378). -/
def State.switchOn (s : State) (d : Nat) : State :=
  let x := s.domain d
  let s := s.setDomain d { x with isOn := true, switches := sat16 x.switches, idleTicks := 0, waits := false }
  let s := if d < 64 then ((s.zeroSpad d).blockPowered d).updBlock d fun x => { x with busy := [], busyPast := [] } else if d < 68 then s.zeroPool (d - 64)
    else if d < 92 then s.portOn (d - 68) else s
  match domainTarget d with
  | some g => s.startRun g (some .powerOn)
  | none => s

/-- What a block loses (Table 15-4). -/
def State.blockOff (s : State) (b : Nat) : State :=
  (s.zeroSpad b).updBlock b fun x => { x with residents := [], acc := [], accPoison := [], carry := [] }

/-- What a region loses: its cache, once it is written back, and its pool (R410). -/
def State.regionOff (s : State) (r : Nat) : State :=
  ((s.writeBackAll r).updRegion r fun x => { x with cache := [] }).zeroPool r

/-- Transactions of a port that end with CANCELLED (R50), the exposure writes that are due among them. -/
def State.cancelI2c (s : State) (n : Nat) : State :=
  let p := s.port n
  let l := p.i2cBus.toList ++ p.i2cQueue
  let s := forEach (indices 24 fun q => (s.pipe q).sourcePort == some n) (fun q s => s.cancelExposures q fun e => e.due) s
  let s := s.updPort n fun p => { p with i2cBus := none, i2cDue := [], i2cQueue := [] }
  l.foldl (fun s x => match x.host with
    | some k => s.endTransfer k 5 0 x.readLen []
    | none => s) s

/-- What a front end loses: its port, transactions of its bus and the contents of its line buffer. -/
def State.frontOff (s : State) (n : Nat) : State :=
  ((s.cancelI2c n).updPort n Port.disable).updPipe n fun x => { x with fe := .reset }

/-- A domain switches off; a run of calibration in progress is abandoned (R417). -/
def State.switchOff (s : State) (d : Nat) : State :=
  let x := s.domain d
  let s := s.setDomain d { x with isOn := false, switches := sat16 x.switches, idleTicks := 0 }
  let s := if d < 64 then s.blockOff d
    else if d < 68 then s.regionOff (d - 64)
    else if d < 92 then s.frontOff (d - 68)
    else if d = 94 then { s with mem := { s.mem with pcieLink := false } }
    else if d = 99 then s.setEth .b { s.ethOf .b with link := false }
    else s
  match domainTarget d with
  | some g => s.abandonRun g
  | none => s

/-! ## Pins (R450) -/

/-- The levels and drivers of the pins that R450 names. The pull-down of a port's inputs is enabled while its domain is off or the port
is DISABLED; SCL and SDA are released while no transaction is on the bus; the flash interface is driven, and out of reset, once PORST_N
is released. -/
def State.pins (s : State) : Pins :=
  { pullDown := (List.range 24).map fun n => !(s.domain (68 + n)).isOn || (s.port n).state == .disabled
    fsync := (List.range 24).map fun n => (s.port n).fsync
    i2cReleased := (List.range 24).map fun n => (s.port n).i2cBus.isNone
    xspiDriven := s.phase != .reset
    xspiResetN := s.phase != .reset }

/-! ## What asks for a domain (R411) -/

/-- An owner whose placement waits needs its blocks, its region and, for a pipeline, its front end. -/
def State.placeNeeds (s : State) (w : Owner) (d : Nat) : Bool :=
  s.asksPlace w && ((decide (d < 64) && (s.targets w).contains d) || d == 64 + s.ownerRegion w || match w with
    | .pipeline p => d == 68 + p.val
    | .job _ => false)

/-- The owners that may wait for a placement. -/
def State.owners (s : State) : List Owner := (List.finRange 24).map Owner.pipeline ++ s.jobs.map fun j => .job j.id

/-- A block is needed by work that waits for it: a channel that is started, a field test. -/
def State.blockNeeded (s : State) (b : Nat) : Bool := s.inUse b || (s.block b).testDue.isSome

/-- Work needs a domain. -/
def State.needed (s : State) (d : Nat) : Bool :=
  s.owners.any (fun w => s.placeNeeds w d)
    || (if d < 64 then s.blockNeeded d
        else if d < 68 then (List.range 16).any fun i => s.blockNeeded (16 * (d - 64) + i)
        else if d < 92 then (s.port (d - 68)).wantsPower || s.inUse d
        else s.inUse d)

/-- A domain holds a residency (R409). -/
def State.holdsResident (s : State) (d : Nat) : Bool := decide (d < 64) && !(s.block d).residents.isEmpty

/-- A domain is to switch on at this fen tick; a block only while its region is on (R409, R410). -/
def State.wantsOn (s : State) (d : Nat) : Bool :=
  let x := s.domain d
  !x.isOn && (x.modeCode == 1 || (x.modeCode == 0 && s.needed d)) && (decide (64 ≤ d) || (s.domain (64 + d / 16)).isOn)

/-- A domain is to switch off: OFF and not in use, or AUTO and for AUTO_OFF_TICKS neither in use nor holding a residency. -/
def State.wantsOff (s : State) (d : Nat) : Bool :=
  let x := s.domain d
  let n := s.health.powerConfig.toNat
  x.isOn && !s.inUse d && !(decide (64 ≤ d) && decide (d < 68) && s.writeBackWaits (d - 64))
    && (x.modeCode == 2 || (x.modeCode == 0 && !s.holdsResident d && !s.needed d && n != 0 && decide (n ≤ x.idleTicks)))

/-- One more fen tick at which a domain was neither in use nor holding a residency, or none. -/
def State.countIdle (s : State) (d : Nat) : State :=
  let x := s.domain d
  let idle := x.isOn && !s.inUse d && !s.holdsResident d
  s.setDomain d { x with idleTicks := if idle then x.idleTicks + 1 else 0 }

/-- A block that work asks for stays PENDING while its region is off (R410). -/
def State.keepWaiting (s : State) (d : Nat) : State :=
  let x := s.domain d
  if d < 64 then s.setDomain d { x with waits := x.modeCode == 0 && !x.isOn && s.needed d } else s

/-- The fen tick's switching, in the order of R410. -/
def State.switchDomains (s : State) : State :=
  let s := forEach (List.range 100) (fun d s => s.countIdle d) s
  let on := fun (l : List Nat) (s : State) => forEach l (fun d s => if s.wantsOn d then s.switchOn d else s.keepWaiting d) s
  let off := fun (l : List Nat) (s : State) => forEach l (fun d s => if s.wantsOff d then s.switchOff d else s) s
  let regions := [64, 65, 66, 67]
  let others := (List.range 100).filter fun d => !(decide (64 ≤ d) && decide (d < 68))
  off regions (off others (on others (on regions s)))

end Sys2Proof.Machine
end

