-- ==== Sys2Proof/Machine/Boot.lean ====
section
/-!
DEFINITION. Straps and reset, start-up, firmware images, update and attestation (chapter 16; R429 to R446, R457).
-/

namespace Sys2Proof.Machine

open Sys2Proof

/-! ## Images (R433, R434) -/

/-- The most bytes of an image. -/
def imageMax : Nat := 4 * 2 ^ 20

/-- A section lies within the signed bytes. -/
def sectionIn (signed off len : Nat) : Bool := decide (off + len ≤ signed)

/-- Check 1: MAGIC, FORMAT, lengths, offsets, KEY_SET, SEC_VERSION and the reserved fields. -/
def imageFits (img : List Byte) : Bool :=
  let n := le img 8 4
  le img 0 4 == 0x46575141 && le img 4 2 == 1 && n % 64 == 0 && decide (2048 ≤ n) && decide (n + 3392 ≤ imageMax)
    && decide (n + 3392 ≤ img.length) && decide (le img 6 1 ≤ 3) && decide (le img 7 1 ≤ 64)
    && sectionIn n (le img 24 4) (le img 28 4) && decide (le img 28 4 ≤ 2 ^ 20) && sectionIn n (le img 32 4) (le img 36 4)
    && le img 40 1 / 16 == 0 && (slice img 41 23).all (· == 0) && (slice img (n + 3373) 19).all (· == 0)

/-- What an image's header and digest say. -/
def imageInfo (img : List Byte) : ImageInfo :=
  { keySet := le img 6 1, secVersion := le img 7 1, stateFormat := BitVec.ofNat 32 (le img 12 4)
    build := BitVec.ofNat 64 (le img 16 8), revoke := BitVec.ofNat 4 (le img 40 1)
    digest := sha512 (img.take (le img 8 4)) }

/-- Check 2: the key set is not revoked, its Ed25519 key is the image's, and the signature verifies. -/
def ed25519Good (o : Otp) (img : List Byte) (f : ImageInfo) : Bool :=
  let k := Tab.get otpKeyAbsent o.keys f.keySet
  !o.revoked.getLsbD f.keySet && k != otpKeyAbsent f.keySet && sha512 (slice img 64 32) == k.1
    && ed25519Verifies (slice img 64 32) f.digest (slice img (le img 8 4) 64)

/-- Check 3: the same of the ML-DSA key. -/
def mldsaGood (o : Otp) (img : List Byte) (f : ImageInfo) : Bool :=
  let k := Tab.get otpKeyAbsent o.keys f.keySet
  sha512 (slice img 96 1952) == k.2 && mldsaVerifies (slice img 96 1952) f.digest (slice img (le img 8 4 + 64) 3309)

/-- The checks of R434, in order; the first failure refuses the image. -/
def verifyImage (o : Otp) (img : List Byte) : Except (BitVec 16) ImageInfo :=
  let f := imageInfo img
  if imageFits img = false then .error Code.imageCorrupt
  else if ed25519Good o img f = false then .error Code.sigEd25519Fail
  else if mldsaGood o img f = false then .error Code.sigMldsaFail
  else if f.secVersion < o.rollback then .error Code.rollback
  else .ok f

/-- The microcode section of an image, which its bank holds. -/
def imageMicrocode (img : List Byte) : List Byte := slice img (le img 24 4) (le img 28 4)

/-- An image is checked into a bank; a refused one leaves the bank empty. -/
def State.checkImage (s : State) (bank : Nat) (src : ImageSource) (img : List Byte) : Except (BitVec 16) ImageInfo × State :=
  match verifyImage s.fw.otp img with
  | .ok f => (.ok f, s.setBank bank (some { source := src, info := f, microcode := imageMicrocode img }))
  | .error e => (.error e, s.setBank bank none)

/-- A slot is checked into a bank (Table 16-12). -/
def State.checkSlot (s : State) (bank i : Nat) : Except (BitVec 16) ImageInfo × State :=
  let x := s.fwSlot i
  let r := s.checkImage bank (.slot i) x.image
  match r.1 with
  | .ok f => (.ok f, r.2.setFwSlot i { x with state := .valid, lastStatus := Code.ok, info := some f })
  | .error e =>
    (.error e, r.2.setFwSlot i { x with state := if x.image.isEmpty then .empty else .refused, lastStatus := e, info := none })

/-- The bank that does not run. -/
def State.standby (s : State) : Nat := 1 - s.fw.activeBank

/-- A record of the firmware store (R435, R436). -/
def State.firmwareFault (s : State) (status : BitVec 16) : State :=
  s.fault { cls := Cls.ucf, detector := Det.firmwareImage, site := .chip Chip.otpFirmware 0, status := status }

/-! ## The device keys (R444) -/

/-- The three keys that the device secret gives. -/
def Otp.ed25519Key (o : Otp) : BitVec 256 := hkdf o.secret "AQ24 attest ed25519"
def Otp.mldsaSeed (o : Otp) : BitVec 256 := hkdf o.secret "AQ24 attest mldsa65"
def Otp.wrapKey (o : Otp) : BitVec 256 := hkdf o.secret "AQ24 wrap"

/-! ## The flash (R431, R432) -/

/-- The flash is written at an offset of Table 16-2. The layout of the age area is not given, and its writes are not shown. -/
def State.writeFlash (s : State) (offset : Nat) (d : List Byte) : State := s.send (.flash offset d)

/-- The copy of two that holds the later SEQ, of those that are valid (R431). -/
def laterCopy (v : Vector (List Byte) 2) (seq : List Byte → Option (BitVec 32)) : Option (Nat × BitVec 32) :=
  match seq v[0], seq v[1] with
  | none, none => none
  | some a, none => some (0, a)
  | none, some b => some (1, b)
  | some a, some b => if frameLater b a then some (1, b) else some (0, a)

/-- Write a copy. -/
def putCopy (v : Vector (List Byte) 2) (k : Nat) (x : List Byte) : Vector (List Byte) 2 :=
  if k = 0 then #v[x, v[1]] else #v[v[0], x]

/-- A valid boot control record's SEQ. -/
def bootSeq (l : List Byte) : Option (BitVec 32) :=
  if l.length = 64 ∧ le l 0 4 = 0x43425141 ∧ le l 60 4 = (crc32c (l.take 60)).toNat then some (BitVec.ofNat 32 (le l 4 4)) else none

/-- The boot slot: the later valid copy's, else 0. -/
def State.bootSlot (s : State) : Nat :=
  match laterCopy s.fw.bootRecords bootSeq with
  | some k => le (if k.1 = 0 then s.fw.bootRecords[0] else s.fw.bootRecords[1]) 8 1 % 2
  | none => 0

/-- A new boot control record names a slot, in the copy that does not hold the later SEQ. -/
def State.nameSlot (s : State) (slot : Nat) : State :=
  let k := laterCopy s.fw.bootRecords bootSeq
  let body := leBytes 4 0x43425141 ++ leBytes 4 (k.elim 0 fun x => (x.2 + 1).toNat) ++ leBytes 1 slot ++ zeros 51
  let record := body ++ leBytes 4 (crc32c body).toNat
  let copy := k.elim 0 fun x => 1 - x.1
  { s with fw := { s.fw with bootRecords := putCopy s.fw.bootRecords copy record } }.writeFlash (0x80_0000 + 0x1_0000 * copy) record

/-- A network settings block with its MAGIC and CRC. -/
def netSeq (l : List Byte) : Option (BitVec 32) :=
  if l.length = 1024 ∧ le l 0 4 = 0x4E535141 ∧ le l 1020 4 = (crc32c (l.take 1020)).toNat then some (BitVec.ofNat 32 (le l 4 4))
  else none

/-- NET_CONFIG words 0 to 3 of a block at an offset, the MAC from OTP (R432, Table 12-14). -/
def netWords (l : List Byte) (o : Nat) (mac : BitVec 48) : Vector (BitVec 64) 4 :=
  #v[keep 64 0xFFFF_FFFF_FF00_FFFF (le l o 8), keep 64 0xFFFF_FFFF_FFFF_FFFF (le l (o + 8) 8), keep 64 0xFFFF_FFFF_0FFF_E03F (le l (o + 16) 8),
    mac.setWidth 64]

/-- The default settings (Table 16-4). -/
def defaultWords (third port id : Nat) (gptp : Bool) (lease : Nat) (mac : BitVec 48) : Vector (BitVec 64) 4 :=
  #v[BitVec.ofNat 64 ((0xA9FE_0000 + third * 256 + 16 + id) * 2 ^ 32 + 16 * 2 ^ 24 + port), 0,
    BitVec.ofNat 64 (lease * 2 ^ 32 + flagAt 3 gptp), mac.setWidth 64]

/-- Both ports take their settings; with none, they stay down (Table 16-1). -/
def State.loadNet (s : State) : State :=
  let put := fun (s : State) (a b : Vector (BitVec 64) 4) => (s.setEth .a { s.ethOf .a with net := a }).setEth .b { s.ethOf .b with net := b }
  let m := s.fw.otp.macs
  let d := s.straps.devId.toNat
  match laterCopy s.fw.netBlocks netSeq with
  | some k =>
    let l := if k.1 = 0 then s.fw.netBlocks[0] else s.fw.netBlocks[1]
    put { s with fw := { s.fw with netSettings := BitVec.ofNat 2 k.1, netInUse := l } } (netWords l 8 m[0]) (netWords l 40 m[1])
  | none =>
    if s.straps.mgmtMode then
      put { s with fw := { s.fw with netSettings := 2 } } (defaultWords 10 52110 d true 1000 m[0]) (defaultWords 11 52111 d false 0 m[1])
    else { s with fw := { s.fw with netSettings := 3 } }

/-! ## Start-up (R428, R429, R436 to R438) -/

/-- A port starts, unless it has no settings. -/
def State.startPort (s : State) (e : EthPort) : State :=
  if s.fw.netSettings = 3 then s else s.setEth e { s.ethOf e with up := true }

/-- A port's link comes up. -/
def State.linkPort (s : State) (e : EthPort) : State := s.setEth e { s.ethOf e with link := true }

/-- An image is refused at start-up: BOOT_STATUS keeps its status, and its record waits for the collector. -/
def State.refusedAtStart (s : State) (e : BitVec 16) : State :=
  { s with fw := { s.fw with bootRefusal := e, refusals := s.fw.refusals ++ [(e, s.time)] } }

/-- A port runs in ROM mode. -/
def State.romPort (s : State) (e : EthPort) : State := (s.startPort e).linkPort e

/-- The ROM stays in charge (R438): on both ports, or, waiting for a network image, on port A and on a port B that started early
(Tables 16-1 and 16-6; log 96). -/
def State.romMode (s : State) (waiting : Bool) : State :=
  ({ s with phase := .rom waiting }.romPort .a).onlyIf (!waiting || s.straps.mgmtMode) fun s => s.romPort .b

/-- BOOT_STATUS.SOURCE (Table 16-13). -/
def sourceCode : ImageSource → BitVec 2
  | .slot i => BitVec.ofNat 2 i
  | .network => 2

/-- Stage 4 on: the microcode in bank 0 starts, and the collector with it, which makes the records that waited (R436, R457); the
interfaces lock and the stacks are trained, every granule zero; both Ethernet links come up. -/
def State.startMicrocode (s : State) (src : ImageSource) : State :=
  let s := { s with phase := .starting
                    fw := { s.fw with activeBank := 0, source := sourceCode src }
                    mem := { s.mem with dram := [], poison := [], carr := [] }
                    faults := { s.faults with up := true } }
  let s := (((s.setLock 1 true).setLock 2 true).setLock 3 true)
  let s := forEach [92, 93, 94] (fun d s => s.switchOn d) s
  let s := forEach [0, 1] (fun k s => s.setDramStack k { s.dramStack k with trained := true }) s
  let s := s.extRecord
  let s := s.fw.refusals.foldl (fun s r => s.faultAt r.2 fun s => s.firmwareFault r.1) s
  ({ s with fw := { s.fw with refusals := [] } }.linkPort .a).linkPort .b

/-- Stage 3 from the flash: the boot slot, then the other one. -/
def State.bootFlash (s : State) (waiting : Bool) : State :=
  let b := s.bootSlot
  match s.checkSlot 0 b with
  | (.ok _, s) => s.startMicrocode (.slot b)
  | (.error e, s) =>
    match (s.refusedAtStart e).checkSlot 0 (1 - b) with
    | (.ok _, s) => { s with fw := { s.fw with fallback := true } }.startMicrocode (.slot (1 - b))
    | (.error e, s) => (s.refusedAtStart e).romMode waiting

/-- A load that is cut off leaves the slot that it writes REFUSED (R455; log 96). -/
def State.cutLoad (s : State) : State :=
  match s.fw.load with
  | some l => s.onlyIf (l.target == 0) fun s =>
      s.setFwSlot l.slot { s.fwSlot l.slot with image := [0xFF], state := .refused, info := none }
  | none => s

/-- PORST_N_ASSERT (R429): everything but OTP is reset; what the flash holds, and the level of PCIE_PERST_N, stay. -/
def execPorstNAssert (t : Time) (s : State) : Result :=
  let s := (s.begin t).cutLoad
  let f := s.fw
  .next { State.reset with
    pending := s.pending, fresh := s.fresh, mem := { MemSys.reset with perstLow := s.mem.perstLow }
    fw := { Firmware.reset with
      otp := f.otp, slots := f.slots.map fun x => (x.1, { x.2 with lastStatus := 0 }), bootRecords := f.bootRecords, netBlocks := f.netBlocks, certificate := f.certificate
      ageArea := f.ageArea, bootCount := f.bootCount } }

/-- PORST_N_RELEASE (R428, R436): device time starts at 0, the straps are sampled, and the stages run up to command-ready, or to
the ROM. What stage 4 brings stands at once; the collector, gPTP and the later stages wait for its time (log 20). -/
def execPorstNRelease (x : PowerUp) (s : State) : Result :=
  let s := s.begin 0
  let straps := x.straps
  .next (s.onlyIf (s.phase == .reset) fun s =>
    let s := { s with time := 0, straps := straps, health := { s.health with refOk := true } }
    let s := (((s.setLock 0 true).restoreAge.switchOn 64).switchOn 99).loadNet
    let s := if straps.mgmtMode then s.romPort .b else s
    if straps.bootSrc = 2 then s.romMode true
    else if straps.bootSrc = 3 then s.romMode false
    else let s := s.bootFlash (straps.bootSrc == 1)
      { s with faults := { s.faults with startsAt := x.checked } })

/-- COMMAND_READY (Table 16-6, stage 6). -/
def execCommandReady (t : Time) (s : State) : Result :=
  let s := s.begin t
  .next (s.onlyIf (s.phase == .starting && s.pastCheck) fun s =>
    let s := s.extRecord
    let f := { s.fw with
      readyMs := BitVec.ofNat 16 (min 0xFFFF (s.sinceRelease / 1000000)), bootCount := s.fw.bootCount + 1, netImage := [] }
    let c := { s.faults with pinLow := s.faults.hold || decide (s.now < s.faults.pinUntil.toNat) }
    let s := ({ s with phase := .ready, fw := f, faults := c }.startPort .a).startPort .b
    let build := ((s.bank s.fw.activeBank).map fun b => b.info.build.toNat).getD 0
    let d := leBytes 8 s.bootStatus ++ leBytes 8 s.deviceId ++ leBytes 8 build ++ leBytes 8 s.now
    (s.event .a 0x0AF0 d).event .b 0x0AF0 d)

/-! ## FIRMWARE_LOAD (R437, R440) -/

/-- A chunk of a network image (R437). -/
def State.takeChunk (s : State) (k : Ticket) (p : List Byte) : State × Ack :=
  let d := p.drop 16
  let total := le p 4 4
  let offset := le p 8 4
  let f := s.fw
  if le p 0 1 = 0 ∧ le p 1 1 = 1 ∧ (offset = 0 ∨ offset = f.netImage.length) ∧ offset + d.length ≤ total
      ∧ (d.length % 64 = 0 ∨ offset + d.length = total) then
    ({ s with fw := { f with netImage := (if offset = 0 then [] else f.netImage) ++ d, netLen := total, netTicket := some k } },
      .err Code.accepted)
  else (s, .err Code.notPermitted)

/-- A load at command-ready (Table 16-8). -/
def State.takeLoad (s : State) (k : Ticket) (p : List Byte) : State × Ack :=
  let target := le p 0 1
  let slot := le p 2 1
  let fits := if target = 0 then decide (slot ≤ 1) && !s.slotRunning slot else target == 1 && le p 4 4 == 1024
  if le p 1 1 = 0 ∧ fits = true ∧ le p 16 8 % 64 = 0 then
    let l : FwLoad := { ticket := k, target := BitVec.ofNat 8 target, slot := slot, len := le p 4 4
                        source := BitVec.ofNat 64 (le p 16 8) }
    ({ s with fw := { s.fw with load := some l } }, .err Code.accepted)
  else (s, .err Code.notPermitted)

/-- FIRMWARE_LOAD. -/
def firmwareLoadBody : Body := fun k p s =>
  if s.fw.load.isSome ∨ s.fw.activate.isSome ∨ s.fw.netTicket.isSome ∨ imageMax < le p 4 4 then (s, .err Code.notPermitted)
  else match s.phase with
    | .rom _ => s.takeChunk k p
    | _ => s.takeLoad k p

/-- Its row: Table 16-8's 24 bytes, or 16 and a chunk. -/
def firmwareLoadRow : OpRow :=
  { code := 0x0A10, long := true, lenOk := fun p => if le p 1 1 = 1 then decide (16 ≤ p.length) else p.length == 24 }

/-- A chunk that does not complete the image completes at once. -/
def State.settleChunk (s : State) : State :=
  match s.fw.netTicket with
  | some k =>
    if s.fw.netImage.length < s.fw.netLen then ({ s with fw := { s.fw with netTicket := none } }).complete k Code.ok [] else s
  | none => s

def execFirmwareLoad (q : Req) (s : State) : Result :=
  lysilThen firmwareLoadRow q firmwareLoadBody (fun s => s.settleChunk) s

/-- The COMPLETION of a load. -/
def loadData (slot : Nat) (f : ImageInfo) : List Byte :=
  leBytes 1 slot ++ leBytes 1 f.secVersion ++ zeros 2 ++ leBytes 8 f.build.toNat ++ leBytes 64 f.digest.toNat

/-- The network image is complete: it is checked into bank 0, and start-up goes on (R437). -/
def State.netDone (s : State) (k : Ticket) : State :=
  match s.checkImage 0 .network s.fw.netImage with
  | (.ok f, s) => ({ s with fw := { s.fw with netTicket := none } }.complete k Code.ok (loadData 0 f)).startMicrocode .network
  | (.error e, s) => ({ s with fw := { s.fw with netTicket := none, netImage := [] } }.refusedAtStart e).complete k e []

/-- A slot is erased, programmed and read back into the standby bank; a failure after the erase leaves it EMPTY. -/
def State.programSlot (s : State) (l : FwLoad) (img : List Byte) : State :=
  let s := s.writeFlash (0x40_0000 * l.slot) img
  match (s.setFwSlot l.slot { s.fwSlot l.slot with image := img }).checkSlot s.standby l.slot with
  | (.ok f, s) => s.complete l.ticket Code.ok (loadData l.slot f)
  | (.error e, s) => (s.setFwSlot l.slot { Slot.reset with lastStatus := e }).complete l.ticket e []

/-- A network settings block is wrapped, numbered and written into the other copy. -/
def State.programNet (s : State) (l : FwLoad) (x : List Byte) : State :=
  if (netSeq x).isNone then s.complete l.ticket Code.imageCorrupt []
  else
    let k := laterCopy s.fw.netBlocks netSeq
    let body := x.take 4 ++ leBytes 4 (k.elim 0 fun y => (y.2 + 1).toNat) ++ slice x 8 64
      ++ wrapCak s.fw.otp.wrapKey (slice x 72 32) ++ slice x 112 908
    let block := body ++ leBytes 4 (crc32c body).toNat
    let copy := k.elim 0 fun y => 1 - y.1
    ({ s with fw := { s.fw with netBlocks := putCopy s.fw.netBlocks copy block } }.writeFlash (0x82_0000 + 0x1_0000 * copy)
      block).complete l.ticket Code.ok []

/-- A load ends: an unmapped page or a poisoned granule ends it before the flash is touched. -/
def State.fwLoadDone (s : State) (l : FwLoad) (f : MemFindings) : State :=
  let r := s.readVa l.source.toNat l.len f .nobody
  let s := { r.2 with fw := { r.2.fw with load := none } }
  match r.1.filter fun y => !y.2 with
  | none => s.complete l.ticket Code.imageCorrupt []
  | some y => if l.target = 0 then s.programSlot l y.1 else s.programNet l y.1

/-- FIRMWARE_LOAD_DONE. -/
def execFirmwareLoadDone (t : Time) (f : MemFindings) (s : State) : Result :=
  let s := s.begin t
  .next (match s.phase, s.fw.netTicket, s.fw.load with
    | .rom _, some k, _ => s.netDone k
    | .ready, _, some l => s.onlyIf (!s.deviceWaits l.source.toNat) fun s => s.fwLoadDone l f
    | _, _, _ => s)

/-! ## FIRMWARE_ACTIVATE (R435, R441, R442) -/

/-- The rollback counter rises to the running image's SEC_VERSION, one step at a time, and its REVOKE mask is revoked, except its
own set; `otp`, how many steps program before one fails. -/
def State.advance (s : State) (otp : Option Nat) : State :=
  match s.bank s.fw.activeBank with
  | some b =>
    let o := s.fw.otp
    let steps := b.info.secVersion - o.rollback
    let good := min steps (otp.getD steps)
    let own : BitVec 4 := BitVec.ofNat 4 (2 ^ b.info.keySet)
    let o := { o with rollback := o.rollback + good, revoked := o.revoked ||| (b.info.revoke &&& ~~~ own) }
    let s := { s with fw := { s.fw with otp := o } }
    if good < steps then s.firmwareFault 0 else s
  | none => s

/-- The COMPLETION of FIRMWARE_ACTIVATE; `tick` is that of the switch, or 0. -/
def State.activated (s : State) (a : FwActivate) (tick : Nat) : State :=
  ({ s with fw := { s.fw with activate := none } }).complete a.ticket Code.ok
    (leBytes 1 a.slot ++ leBytes 1 s.fw.otp.rollback ++ zeros 6 ++ leBytes 8 tick ++ leBytes 8 s.now)

/-- An activation ends without a switch. -/
def State.notActivated (s : State) (a : FwActivate) (e : BitVec 16) : State :=
  ({ s with fw := { s.fw with activate := none } }).complete a.ticket e []

/-- The standby bank holds a verified copy of a slot that the rollback counter still allows (R441, R442). -/
def State.standbyHolds (s : State) (slot : Nat) : Bool :=
  (s.bank s.standby).any fun b => b.source == .slot slot && decide (s.fw.otp.rollback ≤ b.info.secVersion)

/-- The verified image is in the standby bank: the switch is armed, unless its STATE_FORMAT is new and the device is not idle. -/
def State.arm (s : State) (a : FwActivate) : State :=
  let same := match s.bank s.standby, s.bank s.fw.activeBank with
    | some n, some r => n.info.stateFormat == r.info.stateFormat
    | _, _ => false
  if same || s.mayStep then { s with fw := { s.fw with activate := some { a with armed := true, resetTables := !same } } }
  else s.notActivated a Code.notPermitted

/-- An activation that needs no verification goes on at once. -/
def State.settleActivate (s : State) (otp : Option Nat) : State :=
  match s.fw.activate with
  | some a =>
    if a.armed then s
    else if s.slotRunning a.slot then (s.advance otp).activated a 0
    else if s.standbyHolds a.slot then s.arm a
    else s
  | none => s

/-- FIRMWARE_ACTIVATE. -/
def firmwareActivateBody : Body := fun k p s =>
  let slot := le p 0 1
  let adv := (le p 1 1).testBit 0
  if 1 < slot ∨ (s.fwSlot slot).state = .empty ∨ (s.slotRunning slot = true ∧ adv = false) ∨ s.fw.load.isSome ∨ s.fw.activate.isSome then
    (s, .err Code.notPermitted)
  else
    let a : FwActivate := { ticket := k, slot := slot, advance := adv, armed := false, resetTables := false }
    ({ s with fw := { s.fw with activate := some a } }, .err Code.accepted)

def execFirmwareActivate (q : Req) (otp : Option Nat) (s : State) : Result :=
  lysilThen (opRow 0x0A11 4 true) q firmwareActivateBody (fun s => s.settleActivate otp) s

/-- SLOT_VERIFIED: the activated slot has been read into the standby bank. -/
def execSlotVerified (t : Time) (s : State) : Result :=
  whenReady t (fun s =>
    match s.fw.activate with
    | some a =>
      if a.armed ∨ s.slotRunning a.slot = true then s
      else match s.checkSlot s.standby a.slot with
        | (.ok _, s) => s.arm a
        | (.error e, s) => s.notActivated a e
    | none => s) s

/-- A long command holds a switch back (R441, step 3); RUN_BLOCK_TEST is outstanding until its record is released (R392). -/
def State.switchHeld (s : State) : Bool :=
  !s.loads.isEmpty || s.fw.load.isSome || !s.health.calCommands.isEmpty || !s.fw.attests.isEmpty
    || ((List.range 64).any fun b => (s.block b).testDue.isSome) || s.faults.held.any fun r => r.reply.isSome

/-- The tables that the spine keeps for the microcode are reset: the mapping store, and the curves, defects and scaler tables of
the front ends and outputs. -/
def State.resetTables (s : State) : State :=
  let clear := fun (c : PipeSettings) => { c with curves := [], defects := [], scaler := none }
  forEach (List.range 24) (fun q s => s.updPipe q fun x =>
    { x with shadow := clear x.shadow, pending := x.pending.map clear, live := clear x.live }) { s with mappings := [] }

/-- At a fen tick an armed switch takes place, if nothing holds it back; the boot control record, the counter and the COMPLETION
follow (R441). It lasts 50 µs or less, an open time (R442, log 112). -/
def State.switchFirmware (s : State) (otp : Option Nat) : State :=
  match s.fw.activate with
  | some a =>
    if a.armed = false ∨ s.switchHeld = true then s
    else if a.resetTables = true ∧ s.mayStep = false then s.notActivated a Code.notPermitted
    else
      let (v, s) := s.free
      let s := { s with fw := { s.fw with activeBank := s.standby, source := BitVec.ofNat 2 a.slot
                                          switchEnd := s.time + BitVec.ofNat 64 (v.toNat % 50001) } }
      let s := if a.resetTables then s.resetTables else s
      let s := s.nameSlot a.slot
      (if a.advance then s.advance otp else s).activated a (s.base.tickNumber s.now)
  | none => s

/-! ## ATTEST (R443 to R446) -/

/-- Bytes of a report. -/
def reportLen : Nat := 5760

/-- Every page of a range is VALID with WRITE. -/
def State.writable (s : State) (va n : Nat) : Bool := (pieces n va (zeros n)).all fun x => s.translate (64 * x.1) true != .fault

/-- ATTEST. -/
def attestBody : Body := fun k p s =>
  let dest := le p 32 8
  let cert := (le p 40 1).testBit 0
  if dest % 64 = 0 ∧ s.writable dest (reportLen + if cert then s.fw.certificate.length else 0) = true then
    let a : AttestRun := { ticket := k, nonce := p.take 32, dest := BitVec.ofNat 64 dest, cert := cert }
    ({ s with fw := { s.fw with attests := s.fw.attests ++ [a] } }, .err Code.accepted)
  else (s, .err Code.notPermitted)

def execAttest (q : Req) (s : State) : Result := lysil (opRow 0x0A12 48 true) q attestBody s

/-- The loaded mappings, as MAPPINGS_DIGEST takes them. -/
def State.mappingsBytes (s : State) : List Byte :=
  (s.mappings.filter fun m => m.2.state == .loaded).flatMap fun m => leBytes 2 m.1 ++ leBytes 4 m.2.image.length ++ m.2.image

/-- Bytes 0 to 2,367 of the report (Table 16-10). -/
def State.reportBody (s : State) (nonce : List Byte) : List Byte :=
  let f := s.fw
  let run := s.bank f.activeBank
  let o := f.otp
  leBytes 4 0x54415141 ++ leBytes 2 1 ++ leBytes 2 2368 ++ leBytes 8 s.deviceId ++ leBytes 16 o.serial.toNat ++ nonce
    ++ leBytes 8 s.now ++ leBytes 8 (s.base.tickNumber s.now) ++ leBytes 4 s.health.hours.toNat ++ leBytes 4 f.bootCount.toNat
    ++ leBytes 1 o.rollback ++ leBytes 1 f.source.toNat ++ leBytes 1 ((run.map fun b => b.info.keySet).getD 0)
    ++ leBytes 1 o.revoked.toNat ++ zeros 4
    ++ digestBytes ((run.map fun b => b.info.digest).getD 0) ++ digestBytes (((s.bank s.standby).map fun b => b.info.digest).getD 0)
    ++ digestBytes (sha512 s.mappingsBytes)
    ++ digestBytes (if f.netInUse.isEmpty then 0 else sha512 f.netInUse)
    ++ ed25519Public o.ed25519Key ++ mldsaPublic o.mldsaSeed ++ zeros 32

/-- The whole report: both signatures are made over the SHA-512 of the body. -/
def State.report (s : State) (nonce : List Byte) : List Byte :=
  let b := s.reportBody nonce
  let d := sha512 b
  b ++ ed25519Sign s.fw.otp.ed25519Key d ++ mldsaSign s.fw.otp.mldsaSeed d (Config.signRandom d) ++ zeros 19

/-- ATTEST_COMPLETE: the oldest report is written at DEST, with the certificate after it. -/
def execAttestComplete (x : ReportEnd) (s : State) : Result :=
  whenReady x.time (fun s =>
    match s.fw.attests with
    | a :: rest => s.onlyIf (!s.deviceWaits a.dest.toNat) fun s =>
      let s := { s with fw := { s.fw with attests := rest } }
      let c := if a.cert then s.fw.certificate else []
      let s := (s.writeVa a.dest.toNat (s.report a.nonce ++ c) false .spine x.mem).2
      s.complete a.ticket Code.ok (leBytes 4 reportLen ++ leBytes 4 c.length ++ leBytes 8 s.now)
    | [] => s) s

end Sys2Proof.Machine
end

