-- ==== Sys2Proof/Machine/Link.lean ====
section
/-!
DEFINITION. The frames of the Fovar link that arrive (R348 to R361), and the commands by which its ports come up and go down.
-/

namespace Sys2Proof.Machine

open Sys2Proof

/-! ## Receiving a frame (R349 to R351) -/

/-- A frame for another device goes on (R350): not back to where it came from while another port is UP, else the other way round its
ring or dimension (R351); without a port that is UP, it is held until there is one. -/
def State.forward (s : State) (n : Nat) (f : LinkFrame) (type : BitVec 4) (coll : Option CollContent) : State :=
  let x : LinkTx :=
    { linkSeq := 0, e2eSeq := f.e2eSeq, type := type, vc := f.vc, src := f.src, dst := f.dst, epoch := f.epoch, window := f.window
      offset := f.offset, poison := f.poison, payload := f.payload, coll := coll }
  let groups := s.fovar.hops s.straps.devId.toNat f.dst.toNat
  let ports := ((groups.filter fun g => !g.contains n) ++ groups.filter fun g => g.contains n).flatten
  match ports.find? fun m => (s.fovarPort m).state == .up with
  | some m => s.transmit m x
  | none => match ports.head? with
    | some m => s.setFovarPort m { s.fovarPort m with replay := (s.fovarPort m).replay ++ [x] }
    | none => s

/-- Frames up to LINK_ACK have arrived at the neighbour. -/
def FovarPort.acked (p : FovarPort) (a : BitVec 16) : FovarPort :=
  let l := p.replay.filter fun x => !decide ((a - x.linkSeq).toNat < 2 ^ 15)
  { p with replay := l, resends := if l.length = p.replay.length then p.resends else 0 }

/-- The neighbour asks for the frames after LINK_ACK again: every frame of the replay buffer goes out once more, each counted; after
eight resends in a row of one frame, the port goes DOWN (R349). -/
def State.resend (s : State) (n : Nat) : State :=
  let p := s.fovarPort n
  if p.replay.isEmpty then s
  else if p.resends = 8 then (s.fovarDown n).collLost
  else p.replay.foldl (fun s x => (s.emit n x).countFovar 0 1) (s.setFovarPort n { p with resends := p.resends + 1 })

/-- Answer a frame to its sender. -/
def State.reply (s : State) (f : LinkFrame) (type : BitVec 4) (epoch : BitVec 16) (poison : Bool) (d : List Byte) : State :=
  if s.reachable f.src.toNat then
    s.sendFrame (s.routePort f.src.toNat 0) type f.src epoch f.window f.offset poison d
  else s

/-! ## WRITE and READ_REQ (R354) -/

/-- The first two checks of the owner on an access: the status and counter of a refusal. -/
def State.windowDenies (s : State) (f : LinkFrame) (isWrite : Bool) : Option (BitVec 16 × Nat) :=
  let w := s.window f.window.toNat
  if w.isOpen = false ∨ w.epoch ≠ f.epoch then some (Code.windowClosed, 2)
  else if w.allow.getLsbD f.src.toNat = false ∨ w.perm.getLsbD (if isWrite then 1 else 0) = false
      ∨ (w.pagesM1.toNat + 1) * 4096 ≤ f.offset.toNat then some (Code.notPermitted, 3)
  else none

/-- The device virtual address of an access. -/
def State.windowVa (s : State) (f : LinkFrame) : Nat := (s.window f.window.toNat).base.toNat + 64 * f.offset.toNat

/-- What the owner decides of an access: the status and counter of a refusal, or where it lies. -/
def State.windowCheck (s : State) (f : LinkFrame) (isWrite : Bool) : Except (BitVec 16 × Nat) Nat :=
  match s.windowDenies f isWrite with
  | some e => .error e
  | none => match s.translate (s.windowVa f) isWrite with
    | .local_ pa _ => .ok (pa / 64)
    | _ => .error (Code.notPermitted, 3)

/-- The carr map entry that an access is translated by, once the checks before are passed, may read uncorrectable (R301). -/
def State.windowEntry (s : State) (f : LinkFrame) (isWrite : Bool) (carr : List Nat) : State :=
  if (s.windowDenies f isWrite).isNone then s.meetEntry (s.windowVa f) carr else s

/-- Refuse an access. -/
def State.refuseAccess (s : State) (f : LinkFrame) (e : BitVec 16 × Nat) : State := (s.countFovar e.2 1).reply f 4 e.1 false []

/-- A WRITE is stored with its poison mark (R293), and acknowledged. -/
def State.serveWrite (s : State) (f : LinkFrame) (g : Nat) : State :=
  ((s.writeGranule g 0 f.payload f.poison).invalidateOthers none g).reply f 3 0 false []

/-- WRITE: checked as it arrives; while DRAM does not serve, it then waits (R288, R353). -/
def State.takeWrite (s : State) (f : LinkFrame) (m : MemFindings) : State :=
  let s := s.windowEntry f true m.carr
  match s.windowCheck f true with
  | .error e => s.refuseAccess f e
  | .ok g => if s.dramServes then s.serveWrite f g else s.awaitDram (.peerWrite g f m (s.via (s.windowVa f)))

/-- A READ_REQ is answered with READ_DATA, poisoned when the granule is (R294). -/
def State.serveRead (s : State) (f : LinkFrame) (g : Nat) (m : MemFindings) : State :=
  let r := s.readGranule g m { Reader.nobody with va := some (s.windowVa f) }
  r.2.reply f 2 0 r.1.2 r.1.1

/-- READ_REQ: checked as it arrives; while DRAM does not serve, it then waits. -/
def State.takeReadReq (s : State) (f : LinkFrame) (m : MemFindings) : State :=
  let s := s.windowEntry f false m.carr
  match s.windowCheck f false with
  | .error e => s.refuseAccess f e
  | .ok g => if s.dramServes then s.serveRead f g m else s.awaitDram (.peerRead g f m (s.via (s.windowVa f)))

/-! ## READ_DATA, ACK and REFUSE at the sender (R355) -/

/-- The oldest granule that an answer belongs to. -/
def answersTo (f : LinkFrame) (g : PeerGranule) : Bool :=
  g.device == f.src && g.window == f.window && g.offset == f.offset

/-- Take the first granule that meets a test out of those sent. -/
def State.takeSent (s : State) (p : PeerGranule → Bool) : Option (PeerGranule × State) :=
  (s.fovar.sent.find? p).map fun g => (g, { s with fovar := { s.fovar with sent := s.fovar.sent.eraseP p } })

/-- READ_DATA delivers a granule of a MOVE, poisoned where a parity error was found on its path too (R276); the data of any other read
has come with the command that made it (log 68). -/
def State.takeReadData (s : State) (f : LinkFrame) : State :=
  match s.takeSent fun g => answersTo f g && g.isRead with
  | some (g, s) => match g.use with
    | .move c serial unit part => s.arrive c serial unit part f.payload (f.poison || g.hit)
    | _ => s
  | none => s

/-- ACK: the granule is written; with the last of a stripe's coding rows, DONE may rise (R227). -/
def State.takeAck (s : State) (f : LinkFrame) : State :=
  match s.takeSent fun g => answersTo f g && !g.isRead with
  | some (g, s) => match g.use with
    | .move c serial _ _ => (s.answered c serial).settleFault c
    | .output p num _ _ => (s.raiseDone p num f.mem).settleOutput p f.mem
    | _ => s
  | none => s

/-- REFUSE. -/
def State.takeRefuse (s : State) (f : LinkFrame) : State :=
  let s := s.countFovar 4 1
  match s.takeSent (answersTo f) with
  | some (g, s) => s.refused g f.epoch f.mem
  | none => s

/-! ## COLLECTIVE_FRAME -/

/-- The slot that a join is for: by its COLL_ID, else by the part of it that frames carry. -/
def State.slotOfJoin (s : State) (f : LinkFrame) (id : BitVec 32) : Option Nat :=
  ((List.range 4).find? fun k => (s.collSlot k).any fun c => c.id == id).orElse fun _ =>
    (List.range 4).find? fun k => (s.collSlot k).any fun c => c.id.setWidth 16 == f.epoch && !c.started

/-- The slot that a frame belongs to: by COLL_ID[15:0] and its sender. -/
def State.slotFor (s : State) (f : LinkFrame) : CollContent → Option Nat
  | .join id _ _ _ _ _ => s.slotOfJoin f id
  | _ => (List.range 4).find? fun k => (s.collSlot k).any fun c => c.id.setWidth 16 == f.epoch && c.members.getLsbD f.src.toNat

/-- The bytes of a transfer, and what it is once they are all there; none for a frame that is no data. -/
def Collective.dataBytes (c : Collective) : CollContent → Option Nat
  | .partialSum k _ => some (8 * (c.chunk k).2)
  | .wholeSum k => some (8 * (c.chunk k).2)
  | .contribution _ => some (4 * c.len.toNat)
  | _ => none

/-- The 64-bit sums in a run of bytes. -/
def bytesSums (d : List Byte) : List (BitVec 64) := (List.range (d.length / 8)).map fun k => BitVec.ofNat 64 (le d (8 * k) 8)

/-- A whole transfer. -/
def CollPart.data (p : CollPart) : Option CollData :=
  match p.content with
  | .partialSum k mask => some (.partialSum k mask (bytesSums p.bytes))
  | .wholeSum k => some (.wholeSum k (bytesSums p.bytes))
  | .contribution m => some (.contribution m (bytesWords (p.bytes.length / 4) p.bytes) p.poisoned)
  | _ => none

/-- A frame of data joins the transfer of its sender, which is taken once it is whole. A frame of another transfer, or with OFFSET 0,
begins one. -/
def State.takeFrame (s : State) (k : Nat) (c : Collective) (f : LinkFrame) (x : CollContent) (n : Nat) (adder : List AdderSlip) : State :=
  let old := c.parts.find? fun p => p.device == f.src && p.content == x && f.offset != 0 && p.bytes.length == 64 * f.offset.toNat
  let old := old.getD { device := f.src, content := x, bytes := [], poisoned := false }
  let p := { old with bytes := (old.bytes ++ f.payload).take n, poisoned := old.poisoned || f.poison }
  let rest := c.parts.filter fun y => y.device != f.src
  match if n ≤ p.bytes.length then p.data else none with
  | some d => (s.setCollSlot k (some { c with parts := rest, held := c.held ++ [(f.src, d)] })).takeHeld k adder f.mem
  | none => s.setCollSlot k (some { c with parts := rest ++ [p] })

/-- A frame for a collective of the device. -/
def State.collFrame (s : State) (k : Nat) (c : Collective) (f : LinkFrame) (x : CollContent) (adder : List AdderSlip) : State :=
  match x with
  | .join id op members root len seed => s.joined k c f.src (.join id op members root len seed)
  | .digests m d =>
    if m = c.number f.src.toNat then (s.setCollSlot k (some { c with digests := c.digests ++ [(m, d)] })).takeHeld k adder f.mem else s
  | .abort status detector contrib sender chunk => s.endColl k status detector contrib sender chunk
  | x => match c.dataBytes x with
    | some n => s.takeFrame k c f x n adder
    | none => s

/-- A frame for a collective that the device has not been given yet: a join waits for it, and an abort ends that wait. -/
def State.strayFrame (s : State) (f : LinkFrame) : CollContent → State
  | .join id op members root len seed =>
    { s with fovar := { s.fovar with joins := s.fovar.joins ++ [{ device := f.src, id := f.epoch, fields := .join id op members root len seed }] } }
  | .abort _ _ _ _ _ =>
    { s with fovar := { s.fovar with joins := s.fovar.joins.filter fun j => !(j.device == f.src && j.id == f.epoch) } }
  | _ => s

/-- A frame of a collective is looked at. -/
def State.takeColl (s : State) (f : LinkFrame) (x : CollContent) (adder : List AdderSlip) : State :=
  match s.slotFor f x with
  | some k => match s.collSlot k with
    | some c => s.collFrame k c f x adder
    | none => s
  | none => s.strayFrame f x

/-- COLLECTIVE_FRAME: while DRAM does not serve, it waits. -/
def State.takeCollFrame (s : State) (f : LinkFrame) (x : CollContent) (adder : List AdderSlip) : State :=
  if s.dramServes then s.takeColl f x adder else s.awaitDram (.coll f x adder)

/-! ## The six kinds of frame -/

/-- A frame is taken by its kind. -/
def State.takeArrival (s : State) : FovarFrame → State
  | .write f m => s.takeWrite f m
  | .readReq f m => s.takeReadReq f m
  | .readData f => s.takeReadData f
  | .ack f => s.takeAck f
  | .refuse f => s.takeRefuse f
  | .coll f x adder => s.takeCollFrame f x adder

/-- TYPE, and the content of a collective's frame (Table 13-2). -/
def FovarFrame.type : FovarFrame → BitVec 4
  | .write _ _ => 0
  | .readReq _ _ => 1
  | .readData _ => 2
  | .ack _ => 3
  | .refuse _ => 4
  | .coll _ _ _ => 5
def FovarFrame.coll? : FovarFrame → Option CollContent
  | .coll _ x _ => some x
  | _ => none

/-- E2E_SEQ that is next from a device. -/
def State.nextFrom (s : State) (d : BitVec 3) : BitVec 16 := Tab.get (fun _ => 0) s.fovar.e2eRx d.toNat

/-- A frame that is next of its pair is accepted. -/
def State.accept (s : State) (x : FovarFrame) : State :=
  let d := x.frame.src
  State.takeArrival { s with fovar := { s.fovar with
    e2eRx := Tab.set (fun _ => 0) s.fovar.e2eRx d.toNat (s.nextFrom d + 1), ahead := s.fovar.ahead.erase x } } x

/-- Frames that came ahead of one that has now been accepted follow it, in order; the fuel is their number. -/
def State.followUp (s : State) (d : BitVec 3) : Nat → State
  | 0 => s
  | n + 1 => match s.fovar.ahead.find? fun x => x.frame.src == d && x.frame.e2eSeq == s.nextFrom d with
    | some x => (s.accept x).followUp d n
    | none => s

/-- A frame of the device's own arrives: one already accepted is discarded, one that is next of its pair is accepted, and one ahead of it
waits for those before it (R351). -/
def State.deliverFrame (s : State) (x : FovarFrame) : State :=
  let f := x.frame
  if f.e2eSeq = s.nextFrom f.src then (s.accept x).followUp f.src s.fovar.ahead.length
  else if 2 ^ 15 ≤ (f.e2eSeq - s.nextFrom f.src).toNat ∨ s.fovar.ahead.any fun y => y.frame.src == f.src && y.frame.e2eSeq == f.e2eSeq then s
  else { s with fovar := { s.fovar with ahead := s.fovar.ahead ++ [x] } }

/-- A frame arrives on a port: one that fails its CRC, or is not next in order on the port, is discarded, the first with a request for
it (R349, log 91); one for another device goes on. -/
def State.receive (s : State) (n : Nat) (x : FovarFrame) : State :=
  let f := x.frame
  let p := s.fovarPort n
  if p.state ≠ .up then s
  else if f.crcOk = false then s.send (.fovarNak n (p.rxSeq - 1))
  else
    let s := s.setFovarPort n (p.acked f.linkAck)
    let s := if f.nak then s.resend n else s
    let q := s.fovarPort n
    if q.state ≠ .up ∨ f.linkSeq ≠ q.rxSeq then s else
      let s := s.setFovarPort n { q with rxSeq := q.rxSeq + 1 }
      if f.dst ≠ s.straps.devId then s.forward n f x.type x.coll? else s.deliverFrame x

def execWrite (t : Time) (n : Fin 4) (f : LinkFrame) (m : MemFindings) (s : State) : Result :=
  whenReady t (fun s => s.receive n (.write f m)) s

def execReadReq (t : Time) (n : Fin 4) (f : LinkFrame) (m : MemFindings) (s : State) : Result :=
  whenReady t (fun s => s.receive n (.readReq f m)) s

def execReadData (t : Time) (n : Fin 4) (f : LinkFrame) (s : State) : Result := whenReady t (fun s => s.receive n (.readData f)) s

def execAck (t : Time) (n : Fin 4) (f : LinkFrame) (s : State) : Result := whenReady t (fun s => s.receive n (.ack f)) s

def execRefuse (t : Time) (n : Fin 4) (f : LinkFrame) (s : State) : Result := whenReady t (fun s => s.receive n (.refuse f)) s

def execCollectiveFrame (t : Time) (n : Fin 4) (f : LinkFrame) (x : CollContent) (adder : List AdderSlip) (s : State) : Result :=
  whenReady t (fun s => s.receive n (.coll f x adder)) s

/-! ## PORT_UP and PORT_DOWN -/

/-- Collectives that have not started tell their members again: a link that was down lost no frame, and one to a device that was
unreachable carried none. -/
def State.rejoin (s : State) (d : Nat) : State :=
  forEach [0, 1, 2, 3] (fun k s =>
    match s.collSlot k with
    | some c => if c.started = false ∧ c.members.getLsbD d then s.sendColl k c d c.joinFields else s
    | none => s) s

/-- PORT_UP (R346, R349): training ends. -/
def execPortUp (t : Time) (n : Fin 4) (neighbour : BitVec 3) (neighbourPort : BitVec 2) (bootCount : BitVec 32) (s : State) : Result :=
  whenReady t (fun s =>
    let p := s.fovarPort n
    s.onlyIf ((p.state == .training || p.state == .down) && (s.domain (95 + n)).isOn && s.health.lock.getLsbD 3) fun s =>
      let before := indices 8 s.reachable
      let s := (s.trained n neighbour neighbourPort bootCount).resendHeld (some n.val)
      forEach (indices 8 fun d => s.reachable d && !before.contains d) (fun d s => s.rejoin d) s) s

/-- PORT_DOWN (R349, R351). -/
def execPortDown (t : Time) (n : Fin 4) (s : State) : Result :=
  whenReady t (fun s => s.onlyIf ((s.fovarPort n).state == .up) fun s => (s.fovarDown n).collLost) s

end Sys2Proof.Machine
end

