-- ==== Sys2Proof/Machine/Tick.lean ====
section
/-!
DEFINITION. The fen tick (R315) and the pool quarter switch that it begins (R136): waiting copies go live, dividers and throttle,
power domains, interleave, firmware, and substitute frame boundaries.
-/

namespace Sys2Proof.Machine

open Sys2Proof

/-- Device time is the time of its current tick (R315). -/
def State.isTick (s : State) : Bool := decide (s.base.phase ≤ s.now) && s.base.tickTime (s.base.tickNumber s.now) == s.now

/-! ## Busy time (R378, R400) -/

/-- Start of the tick period that ends now. -/
def State.periodStart (s : State) : Nat :=
  let n := s.base.tickNumber s.now
  if n = 0 then 0 else s.base.tickTime (n - 1)

/-- A block's busy time of the period that ends now joins the last 16, with the period's length at key 25; a running step counts up
to now. -/
def State.closeBusy (s : State) (b : Nat) : State :=
  s.updBlock b fun x =>
    let t := match x.running with
      | some w => addBusy x.busy (busyKey w.owner) (s.now - max w.start.toNat s.periodStart)
      | none => x.busy
    let l := x.busyPast ++ [Tab.set (fun _ => 0) t 25 (s.now - s.periodStart)]
    { x with busy := [], busyPast := l.drop (l.length - 16) }

/-! ## Waiting copies -/

/-- A region's and a domain's waiting copies go live. -/
def State.regionLive (s : State) (r : Nat) : State :=
  s.updRegion r fun x => { x with
    policy := x.policyWait.getD x.policy, policyWait := none, dvfs := x.dvfsWait.getD x.dvfs, dvfsWait := none
    poolRequest := x.poolWait.getD x.poolRequest, poolWait := none }

def State.domainLive (s : State) (d : Nat) : State :=
  let x := s.domain d
  s.setDomain d { x with mode := x.modeWait.getD x.mode, modeWait := none }

/-- A Fovar port follows its PORT_EN bit; under a new FOVAR_CONFIG it trains anew (R346, Table 13-8). -/
def State.portEnLive (s : State) (n : Nat) : State :=
  let p := s.fovarPort n
  let u := SuppressedUnit.fovar (Fin.ofNat 4 n)
  if s.fovar.portEn n then
    ((s.setFovarPort n { p with state := .training, resends := 0 }).train n).suppress u
  else if p.state = .disabled then s
  else (s.setFovarPort n { p with state := .disabled }).suppressTail u

/-- A new FOVAR_CONFIG goes live; frames held by a port that is DISABLED now go another way, and a collective that lost a member
ends. -/
def State.fovarLive (s : State) : State :=
  match s.fovar.configWait with
  | some c =>
    let s := { s with fovar := { s.fovar with config := c, configWait := none } }
    (forEach [0, 1, 2, 3] (fun n s => s.portEnLive n) s).resendHeld.collLost
  | none => s

/-- Every waiting copy goes live. -/
def State.takeWaiting (s : State) : State :=
  let s := forEach [0, 1, 2, 3] (fun r s => s.regionLive r) s
  let s := forEach (List.range 100) (fun d s => s.domainLive d) s
  { s with health := { s.health with
      powerConfig := s.health.powerConfigWait.getD s.health.powerConfig, powerConfigWait := none } }.fovarLive

/-! ## Throttle and dividers (R400, R403, R405) -/

/-- One step of a region's thermal divider limit: slower while a sensor reads THROTTLE_C, faster after 16 cool ticks. -/
def State.throttle (s : State) (r : Nat) : State :=
  let x := s.region r
  let l := x.limit.toNat
  let now := s.anySensor r s.health.throttleC
  let put := fun (y : Region) (moved : Bool) => (s.setRegion r y).onlyIf moved fun s => s.countClock 1
  if x.hot || now then put { x with hot := now, coolTicks := 0, limit := BitVec.ofNat 2 (min 3 (l + 1)) } (l != 3)
  else if s.anySensor r (s.health.throttleC - 5) then put { x with coolTicks := 0 } false
  else if x.coolTicks + 1 < 16 then put { x with coolTicks := x.coolTicks + 1 } false
  else put { x with coolTicks := 0, limit := BitVec.ofNat 2 (l - 1) } (l != 0)

/-- The slowest divider at which the predicted busy fraction stays at or below a target, in percent. -/
def energyDiv (busy total cur target : Nat) : Nat :=
  ((List.range 4).reverse.find? fun c => decide (100 * busy * dividerOf c ≤ target * total * dividerOf cur)).getD 0

/-- The divider that R400 chooses for a region. -/
def State.chooseDiv (s : State) (r : Nat) : Nat :=
  let x := s.region r
  let b := s.regionBusy r
  let m := max (bits 1 0 x.dvfs) x.limit.toNat
  if x.dvfs.getLsbD 8 then max m (energyDiv b.1 b.2 x.liveDiv.toNat (bits 23 16 x.dvfs)) else m

/-- A region takes its divider, and its running steps go on under it (R401); a faster one only once its predicted slack meets GUARD_PS (R403). -/
def State.stepDiv (s : State) (r : Nat) : State :=
  let x := s.region r
  let c := s.chooseDiv r
  let held := decide (c < x.liveDiv.toNat) && (s.domain (64 + r)).isOn && decide (x.slackAt c < s.health.guardPs)
  let s := (s.setRegion r { x with wantDiv := BitVec.ofNat 2 c, liveDiv := if held then x.liveDiv else BitVec.ofNat 2 c }).reclock r
  s.onlyIf (!held && c != x.liveDiv.toNat) fun s => s.countClock 2

/-! ## Pool quarters (R136) -/

/-- Live modes with a quarter's mode replaced. -/
def putMode (modes : BitVec 8) (q m : Nat) : BitVec 8 :=
  (modes &&& ~~~ BitVec.ofNat 8 (3 * 4 ^ q)) ||| BitVec.ofNat 8 (m * 4 ^ q)

/-- The quarters of a region that are to switch. -/
def State.switching (s : State) (r : Nat) : List Nat := indices 4 fun q => (s.region r).pendingQuarter q && !s.referenced r q

/-- A switch begins: the cache stops allocating. -/
def State.beginSwitch (s : State) (r : Nat) : State :=
  let x := s.region r
  let qs := s.switching r
  if x.switching.isSome ∨ qs.isEmpty = true then s
  else
    let modes := qs.foldl (fun m q => putMode m q (fld (2 * q + 1) (2 * q) x.requested)) x.poolLive
    forEach qs (fun q s => s.suppress (.quarter (Fin.ofNat 4 r) (Fin.ofNat 4 q))) (s.setRegion r { x with switching := some modes })

/-- A quarter that enters SCRATCHPAD mode holds zeroes with poison clear. -/
def State.zeroQuarter (s : State) (r q : Nat) : State :=
  let a := poolAddr r (0x40_0000 * q)
  { s with pool := s.pool.clear a (a + 0x40_0000), poolPoison := dropRange s.poolPoison (a / 64) ((a + 0x40_0000) / 64) }

/-- The new modes become live: dirty lines are written back, and the cache starts empty. -/
def State.switchLive (s : State) (r : Nat) (modes : BitVec 8) : State :=
  let old := s.region r
  let qs := indices 4 fun q => bits (2 * q + 1) (2 * q) modes != bits (2 * q + 1) (2 * q) old.poolLive
  let s := (s.writeBackAll r).updRegion r fun x => { x with cache := [], poolLive := modes, switching := none }
  forEach qs (fun q s =>
    let s := if bits (2 * q + 1) (2 * q) modes = 0 then s.zeroQuarter r q else s
    (s.countPool r 6).suppressTail (.quarter (Fin.ofNat 4 r) (Fin.ofNat 4 q))) s

/-- QUARTER_SWITCH_LIVE. -/
def execQuarterSwitchLive (t : Time) (r : Fin 4) (s : State) : Result :=
  whenReady t (fun s =>
    match (s.region r).switching with
    | some m => s.onlyIf (!s.writeBackWaits r) fun s => s.switchLive r m
    | none => s) s

/-! ## FEN_TICK -/

/-- A waiting interleave goes live, or is dropped (R288). -/
def State.interleaveLive (s : State) : State :=
  match s.mem.interleaveWait with
  | some v =>
    if s.interleaveFree then
      { s with mem := { s.mem with
          config := keep 32 0xFFFF_FFFC s.mem.config.toNat ||| v.setWidth 32, interleaveWait := none, zeroing := true } }
    else { s with mem := { s.mem with interleaveWait := none } }
  | none => s

/-- The fen tick is a substitute boundary for every port that generates no FSYNC (R36). -/
def State.tickBoundaries (s : State) : State :=
  forEach (List.range 24) (fun n s => if s.fsyncRuns n then s else s.substitute n) s

/-- What happens at a fen tick. -/
def State.tick (s : State) (otp : Option Nat) : State :=
  let s := (forEach (List.range 64) (fun b s => s.closeBusy b) s).takeWaiting
  let s := forEach [0, 1, 2, 3] (fun r s => (s.throttle r).stepDiv r) s
  let s := forEach [0, 1, 2, 3] (fun r s => s.beginSwitch r) s.switchDomains
  (s.interleaveLive.switchFirmware otp).tickBoundaries

/-- A time distribution error sets TIME_BASE of the chip status word; it makes no record, since Table 14-8 names no detector
for one, and it is found at a fen tick (R381; DESIGN CHOICE, log 117). -/
def State.timeError (s : State) (found : Bool) : State := s.onlyIf found fun s => s.setChip Chip.timeBase

/-- FEN_TICK. -/
def execFenTick (t : Time) (x : TickFinding) (s : State) : Result :=
  whenReady t (fun s => s.onlyIf s.isTick fun s => (s.timeError x.timeError).tick x.otp) s

end Sys2Proof.Machine
end

