-- ==== Sys2Proof/Machine/Waiting.lean ====
section
/-!
DEFINITION. The end of a wait for DRAM (R288, R406): what has arrived meanwhile goes on, oldest first.
-/

namespace Sys2Proof.Machine

open Sys2Proof

/-- One access that has waited. -/
def State.goOn (s : State) : DramWait → State
  | .barWrite o d ep f => s.barWrite o.toNat d ep f
  | .barRead o n f => s.barRead o.toNat n f
  | .peerWrite g x _ _ => s.serveWrite x g
  | .peerRead g x f _ => s.serveRead x g f
  | .coll x c adder => s.takeColl x c adder

/-- The ACKs that accesses have held back leave, on a port that sends (R353, R312). -/
def State.sendCloseAcks (s : State) : State :=
  s.fovar.closeAcks.foldl (fun s p => s.onlyIf (s.ethOf p.port).sends fun s =>
      s.send ((s.ethOf p.port).packetOut { p with time := s.time }))
    { s with fovar := { s.fovar with closeAcks := [] } }

/-- Accesses that have waited go on, once DRAM serves. -/
def State.dramBack (s : State) : State :=
  s.onlyIf s.dramServes fun s =>
    (s.mem.waiting.foldl State.goOn { s with mem := { s.mem with waiting := [] } }).sendCloseAcks

/-- INTERLEAVE_ZEROED (R288): every granule is zero with poison clear, and what waits goes on. -/
def execInterleaveZeroed (t : Time) (s : State) : Result :=
  whenReady t (fun s => s.onlyIf s.mem.zeroing fun s =>
    { s with mem := { s.mem with dram := [], poison := [], zeroing := false } }.dramBack) s

/-- INTERFACE_PLL_RELOCK: with the DRAM PLL's, what waits goes on (R406). -/
def execInterfacePllRelock (t : Time) (c : IfacePll) (s : State) : Result :=
  whenPowered t (fun s => (s.setLock (pllBit c) true).dramBack) s

end Sys2Proof.Machine
end

