-- ==== Sys2Proof/Machine/Dispatch.lean ====
section
/-!
DEFINITION. The meaning of every command: one arm per row of spec/opcode_table.json.
-/

namespace Sys2Proof.Machine

open Sys2Proof

def exec (i : Instr) (s : State) : Host.Outcome State Fault Refusal :=
  match i with
  | .nop q opcode bank => Sys2Proof.Machine.execNop q opcode bank s
  | .attrRead q carr => Sys2Proof.Machine.execAttrRead q carr s
  | .attrWrite q => Sys2Proof.Machine.execAttrWrite q s
  | .commit q => Sys2Proof.Machine.execCommit q s
  | .shadowRevert q => Sys2Proof.Machine.execShadowRevert q s
  | .eventRead q => Sys2Proof.Machine.execEventRead q s
  | .sessionOpen q => Sys2Proof.Machine.execSessionOpen q s
  | .i2cTransfer q => Sys2Proof.Machine.execI2cTransfer q s
  | .portRecover q => Sys2Proof.Machine.execPortRecover q s
  | .portClearCounters q => Sys2Proof.Machine.execPortClearCounters q s
  | .loadCurve q => Sys2Proof.Machine.execLoadCurve q s
  | .loadDefects q => Sys2Proof.Machine.execLoadDefects q s
  | .setExposure q => Sys2Proof.Machine.execSetExposure q s
  | .arithClearCounters q => Sys2Proof.Machine.execArithClearCounters q s
  | .releaseResident q => Sys2Proof.Machine.execReleaseResident q s
  | .poolFlush q => Sys2Proof.Machine.execPoolFlush q s
  | .poolFlushDone t => Sys2Proof.Machine.execPoolFlushDone t s
  | .loadMapping q f => Sys2Proof.Machine.execLoadMapping q f s
  | .loadMappingDone t f => Sys2Proof.Machine.execLoadMappingDone t f s
  | .unloadMapping q => Sys2Proof.Machine.execUnloadMapping q s
  | .windowClearCounters q => Sys2Proof.Machine.execWindowClearCounters q s
  | .startStream q => Sys2Proof.Machine.execStartStream q s
  | .placement t w => Sys2Proof.Machine.execPlacement t w s
  | .residencyCopy t w id f => Sys2Proof.Machine.execResidencyCopy t w id f s
  | .stopStream q => Sys2Proof.Machine.execStopStream q s
  | .stripeClearCounters q => Sys2Proof.Machine.execStripeClearCounters q s
  | .launchJob q => Sys2Proof.Machine.execLaunchJob q s
  | .heldJobStart t j => Sys2Proof.Machine.execHeldJobStart t j s
  | .cancelJob q => Sys2Proof.Machine.execCancelJob q s
  | .jobEnd t j => Sys2Proof.Machine.execJobEnd t j s
  | .sluiceStart q => Sys2Proof.Machine.execSluiceStart q s
  | .sluiceHalt q => Sys2Proof.Machine.execSluiceHalt q s
  | .sluiceClearCounters q => Sys2Proof.Machine.execSluiceClearCounters q s
  | .instructionFetch t c shapes f => Sys2Proof.Machine.execInstructionFetch t c shapes f s
  | .move t c f => Sys2Proof.Machine.execMove t c f s
  | .moveComplete t c => Sys2Proof.Machine.execMoveComplete t c s
  | .loop t c => Sys2Proof.Machine.execLoop t c s
  | .endLoop t c => Sys2Proof.Machine.execEndLoop t c s
  | .endProgram t c => Sys2Proof.Machine.execEndProgram t c s
  | .ringSpace t c => Sys2Proof.Machine.execRingSpace t c s
  | .ringData t c => Sys2Proof.Machine.execRingData t c s
  | .waitEvent t c => Sys2Proof.Machine.execWaitEvent t c s
  | .timeAbs t c => Sys2Proof.Machine.execTimeAbs t c s
  | .timeRel t c => Sys2Proof.Machine.execTimeRel t c s
  | .waitConditionMet t c => Sys2Proof.Machine.execWaitConditionMet t c s
  | .waitTimeReached t c => Sys2Proof.Machine.execWaitTimeReached t c s
  | .ringAdvance t c => Sys2Proof.Machine.execRingAdvance t c s
  | .signalEvent t c => Sys2Proof.Machine.execSignalEvent t c s
  | .signalCompletion t c => Sys2Proof.Machine.execSignalCompletion t c s
  | .pageFaultTimeout t c => Sys2Proof.Machine.execPageFaultTimeout t c s
  | .streamDeadlock t nodes => Sys2Proof.Machine.execStreamDeadlock t nodes s
  | .mapPages q => Sys2Proof.Machine.execMapPages q s
  | .mapPagesDone t => Sys2Proof.Machine.execMapPagesDone t s
  | .memClearCounters q => Sys2Proof.Machine.execMemClearCounters q s
  | .windowOpen q => Sys2Proof.Machine.execWindowOpen q s
  | .windowClose q => Sys2Proof.Machine.execWindowClose q s
  | .collective q => Sys2Proof.Machine.execCollective q s
  | .collectiveStart t slot f adder => Sys2Proof.Machine.execCollectiveStart t slot f adder s
  | .collectiveTimeout t slot => Sys2Proof.Machine.execCollectiveTimeout t slot s
  | .tussockRead q => Sys2Proof.Machine.execTussockRead q s
  | .runBlockTest q => Sys2Proof.Machine.execRunBlockTest q s
  | .blockTestBegin t b => Sys2Proof.Machine.execBlockTestBegin t b s
  | .blockTestEnd t b r => Sys2Proof.Machine.execBlockTestEnd t b r s
  | .alarmRelease q sameCycle => Sys2Proof.Machine.execAlarmRelease q sameCycle s
  | .faultClearCounters q => Sys2Proof.Machine.execFaultClearCounters q s
  | .runCalibration q => Sys2Proof.Machine.execRunCalibration q s
  | .calibrationApply t g scans lanes portSeen => Sys2Proof.Machine.execCalibrationApply t g scans lanes portSeen s
  | .firmwareLoad q => Sys2Proof.Machine.execFirmwareLoad q s
  | .firmwareLoadDone t f => Sys2Proof.Machine.execFirmwareLoadDone t f s
  | .firmwareActivate q otp => Sys2Proof.Machine.execFirmwareActivate q otp s
  | .attest q => Sys2Proof.Machine.execAttest q s
  | .loadScaler q => Sys2Proof.Machine.execLoadScaler q s
  | .outputClearCounters q => Sys2Proof.Machine.execOutputClearCounters q s
  | .portStatusClear q sameCycle => Sys2Proof.Machine.execPortStatusClear q sameCycle s
  | .faultStatusClear q sameCycle => Sys2Proof.Machine.execFaultStatusClear q sameCycle s
  | .regionStatusClear q sameCycle => Sys2Proof.Machine.execRegionStatusClear q sameCycle s
  | .blockStatusClear q sameCycle => Sys2Proof.Machine.execBlockStatusClear q sameCycle s
  | .remapStatusWrite q sameCycle => Sys2Proof.Machine.execRemapStatusWrite q sameCycle s
  | .memConfigWrite q => Sys2Proof.Machine.execMemConfigWrite q s
  | .fenConfigWrite q => Sys2Proof.Machine.execFenConfigWrite q s
  | .ageConfigWrite q => Sys2Proof.Machine.execAgeConfigWrite q s
  | .fenTick t x => Sys2Proof.Machine.execFenTick t x s
  | .quarterSwitchLive t r => Sys2Proof.Machine.execQuarterSwitchLive t r s
  | .interleaveZeroed t => Sys2Proof.Machine.execInterleaveZeroed t s
  | .waitFrameTimeout t p => Sys2Proof.Machine.execWaitFrameTimeout t p s
  | .fsyncAssert t p => Sys2Proof.Machine.execFsyncAssert t p s
  | .fsyncDeassert t p => Sys2Proof.Machine.execFsyncDeassert t p s
  | .frameStart t x => Sys2Proof.Machine.execFrameStart t x s
  | .frameEnd t p => Sys2Proof.Machine.execFrameEnd t p s
  | .lineReceived t p words parity => Sys2Proof.Machine.execLineReceived t p words parity s
  | .syncGlitch t p => Sys2Proof.Machine.execSyncGlitch t p s
  | .cutTime t p => Sys2Proof.Machine.execCutTime t p s
  | .pclkStopped t p => Sys2Proof.Machine.execPclkStopped t p s
  | .pclkResumed t p => Sys2Proof.Machine.execPclkResumed t p s
  | .portClockFault t p edges => Sys2Proof.Machine.execPortClockFault t p edges s
  | .i2cTransactionStart t p sdaLow stuck => Sys2Proof.Machine.execI2cTransactionStart t p sdaLow stuck s
  | .i2cTransactionEnd t p e => Sys2Proof.Machine.execI2cTransactionEnd t p e s
  | .i2cTimeout t p => Sys2Proof.Machine.execI2cTimeout t p s
  | .encodedRowFinal t p err => Sys2Proof.Machine.execEncodedRowFinal t p err s
  | .stripeRowWrite t p f => Sys2Proof.Machine.execStripeRowWrite t p f s
  | .fallbackRowWrite t p err f => Sys2Proof.Machine.execFallbackRowWrite t p err f s
  | .statsPacketWrite t p err f => Sys2Proof.Machine.execStatsPacketWrite t p err f s
  | .stagingComplete t b o op level side tile f => Sys2Proof.Machine.execStagingComplete t b o op level side tile f s
  | .segmentStart t b o => Sys2Proof.Machine.execSegmentStart t b o s
  | .stepStart t b f => Sys2Proof.Machine.execStepStart t b f s
  | .stepEnd t b f => Sys2Proof.Machine.execStepEnd t b f s
  | .groupRetire t b o g => Sys2Proof.Machine.execGroupRetire t b o g s
  | .stripeDeadline t p frame stripe => Sys2Proof.Machine.execStripeDeadline t p frame stripe s
  | .residencyRefill t b id f => Sys2Proof.Machine.execResidencyRefill t b id f s
  | .blockResetComplete t b => Sys2Proof.Machine.execBlockResetComplete t b s
  | .suppressionEnd t u => Sys2Proof.Machine.execSuppressionEnd t u s
  | .remapComplete t r => Sys2Proof.Machine.execRemapComplete t r s
  | .outputStripeWrite t p frame stripe err f => Sys2Proof.Machine.execOutputStripeWrite t p frame stripe err f s
  | .headRowsRead t p frame stripe f => Sys2Proof.Machine.execHeadRowsRead t p frame stripe f s
  | .detectionPostprocess t r err => Sys2Proof.Machine.execDetectionPostprocess t r err s
  | .completionRecordWrite t p f => Sys2Proof.Machine.execCompletionRecordWrite t p f s
  | .scrubRead t f => Sys2Proof.Machine.execScrubRead t f s
  | .stackTemperatureRead t t0 t1 => Sys2Proof.Machine.execStackTemperatureRead t t0 t1 s
  | .bar0Write t offset data ep aer f => Sys2Proof.Machine.execBar0Write t offset data ep aer f s
  | .bar0Read t offset len f => Sys2Proof.Machine.execBar0Read t offset len f s
  | .hostReadCompletion t tag data ep failed aer => Sys2Proof.Machine.execHostReadCompletion t tag data ep failed aer s
  | .pciePerstN t low => Sys2Proof.Machine.execPciePerstN t low s
  | .write t n f m => Sys2Proof.Machine.execWrite t n f m s
  | .readReq t n f m => Sys2Proof.Machine.execReadReq t n f m s
  | .readData t n f => Sys2Proof.Machine.execReadData t n f s
  | .ack t n f => Sys2Proof.Machine.execAck t n f s
  | .refuse t n f => Sys2Proof.Machine.execRefuse t n f s
  | .collectiveFrame t n f c adder => Sys2Proof.Machine.execCollectiveFrame t n f c adder s
  | .portUp t n neighbour neighbourPort bootCount => Sys2Proof.Machine.execPortUp t n neighbour neighbourPort bootCount s
  | .portDown t n => Sys2Proof.Machine.execPortDown t n s
  | .linkDown t e => Sys2Proof.Machine.execLinkDown t e s
  | .linkUp t e => Sys2Proof.Machine.execLinkUp t e s
  | .sync t e gptp domain intervalNs => Sys2Proof.Machine.execSync t e gptp domain intervalNs s
  | .holdover t => Sys2Proof.Machine.execHoldover t s
  | .leaseExpired t => Sys2Proof.Machine.execLeaseExpired t s
  | .reassemblyAbandoned t e d => Sys2Proof.Machine.execReassemblyAbandoned t e d s
  | .arp t e h secured isRequest senderMac senderAddr target => Sys2Proof.Machine.execArp t e h secured isRequest senderMac senderAddr target s
  | .icmpEcho t e h secured srcAddr dstAddr data => Sys2Proof.Machine.execIcmpEcho t e h secured srcAddr dstAddr data s
  | .eapol t e established => Sys2Proof.Machine.execEapol t e established s
  | .recordRelease t => Sys2Proof.Machine.execRecordRelease t s
  | .alarmMinLowEnd t => Sys2Proof.Machine.execAlarmMinLowEnd t s
  | .extFault t => Sys2Proof.Machine.execExtFault t s
  | .lockstep t executing => Sys2Proof.Machine.execLockstep t executing s
  | .sequencerResyncDone t => Sys2Proof.Machine.execSequencerResyncDone t s
  | .avsLoop t slack transactionOk readbackMv senseMv => Sys2Proof.Machine.execAvsLoop t slack transactionOk readbackMv senseMv s
  | .droopClamp t r slack => Sys2Proof.Machine.execDroopClamp t r slack s
  | .clampRelease t r => Sys2Proof.Machine.execClampRelease t r s
  | .temperatureRead t readings => Sys2Proof.Machine.execTemperatureRead t readings s
  | .rootPllUnlock t => Sys2Proof.Machine.execRootPllUnlock t s
  | .referenceLoss t => Sys2Proof.Machine.execReferenceLoss t s
  | .derivedClockFault t c => Sys2Proof.Machine.execDerivedClockFault t c s
  | .sclkRecovered t => Sys2Proof.Machine.execSclkRecovered t s
  | .interfacePllUnlock t c => Sys2Proof.Machine.execInterfacePllUnlock t c s
  | .voltageMonitor t v => Sys2Proof.Machine.execVoltageMonitor t v s
  | .calibrationRunStart t g cause => Sys2Proof.Machine.execCalibrationRunStart t g cause s
  | .ageMeasure t readings => Sys2Proof.Machine.execAgeMeasure t readings s
  | .stressAccumulate t => Sys2Proof.Machine.execStressAccumulate t s
  | .porstNAssert t => Sys2Proof.Machine.execPorstNAssert t s
  | .porstNRelease x => Sys2Proof.Machine.execPorstNRelease x s
  | .commandReady t => Sys2Proof.Machine.execCommandReady t s
  | .rootPllRelock t => Sys2Proof.Machine.execRootPllRelock t s
  | .referenceReturn t => Sys2Proof.Machine.execReferenceReturn t s
  | .interfacePllRelock t c => Sys2Proof.Machine.execInterfacePllRelock t c s
  | .extFaultNRelease t => Sys2Proof.Machine.execExtFaultNRelease t s
  | .bar2Access t x => Sys2Proof.Machine.execBar2Access t x s
  | .configurationRequest t => Sys2Proof.Machine.execConfigurationRequest t s
  | .pcieLinkUp t => Sys2Proof.Machine.execPcieLinkUp t s
  | .pcieLinkDown t => Sys2Proof.Machine.execPcieLinkDown t s
  | .slotVerified t => Sys2Proof.Machine.execSlotVerified t s
  | .attestComplete t => Sys2Proof.Machine.execAttestComplete t s

end Sys2Proof.Machine
end

