-- ==== Sys2Proof/WellFormed.lean ====
section
/-!
DEFINITION. The checks that make a term of `Instr` a command of the AQ24. A Lysil datagram's bytes are consistent with
its length; the bytes of an access, of a frame and of what a read finds have the sizes its interface gives them.
-/

namespace Sys2Proof

/-- The opcodes that have a row of their own beside NOP's (Table 12-8). -/
def rowOpcodes : List (BitVec 16) :=
  [0x0002, 0x0003, 0x0004, 0x0005, 0x0006, 0x0007, 0x0210, 0x0211, 0x0212, 0x0310, 0x0311, 0x0320, 0x0410, 0x0430,
   0x0431, 0x0450, 0x0451, 0x0470, 0x0490, 0x0491, 0x0492, 0x04A0, 0x04A1, 0x0510, 0x0511, 0x0512, 0x0610, 0x0611,
   0x0710, 0x0711, 0x0712, 0x0810, 0x0811, 0x0812, 0x0813, 0x0910, 0x0A10, 0x0A11, 0x0A12, 0x0B10, 0x0B11]

/-- A datagram of 36 bytes or more holds its header, its CRC and the parameter bytes between them (R316). -/
def Req.wellFormed (q : Req) : Bool := q.len < 36 || q.params.length + 36 == q.len

/-- The bytes that a read finds are those of a granule, where it finds any. -/
def MemFindings.wellFormed (f : MemFindings) : Bool :=
  (f.wrong.all fun x => x.2.length == 64) && f.remote.all fun g => g.failed || g.data.length == 64

/-- A frame carries a granule or nothing (R348). -/
def LinkFrame.wellFormed (f : LinkFrame) : Bool := (f.payload.length == 0 || f.payload.length == 64) && f.mem.wellFormed

/-- So are the bytes a patrol read finds. -/
def ScrubFinding.wellFormed : ScrubFinding → Bool
  | .wrong _ data => data.length == 64
  | _ => true

/-- An access to the MSI-X table or pending-bit array moves at least a byte and stays in BAR 2 (R307). -/
def BarAccess.wellFormed : BarAccess → Bool
  | .read offset len _ => 0 < len && offset.toNat + len ≤ 2 ^ 16
  | .write offset data _ => 0 < data.length && offset.toNat + data.length ≤ 2 ^ 16

/-- A BAR 0 access moves at least a byte and stays in the BAR's 64 GiB (R307). -/
def barFits (offset : BitVec 36) (len : Nat) : Bool := 0 < len && offset.toNat + len ≤ 2 ^ 36

/-- An ageing reading, a temperature reading: each location at most once. -/
def distinct (l : List (Fin 101)) : Bool := decide l.Nodup

/-- The checks, by row. -/
def Instr.wellFormed : Instr → Bool
  | .nop q opcode _ => q.wellFormed && !rowOpcodes.contains opcode
  | .attrRead q _ => q.wellFormed
  | .attrWrite q => q.wellFormed
  | .commit q => q.wellFormed
  | .shadowRevert q => q.wellFormed
  | .eventRead q => q.wellFormed
  | .sessionOpen q => q.wellFormed
  | .i2cTransfer q => q.wellFormed
  | .portRecover q => q.wellFormed
  | .portClearCounters q => q.wellFormed
  | .loadCurve q => q.wellFormed
  | .loadDefects q => q.wellFormed
  | .setExposure q => q.wellFormed
  | .arithClearCounters q => q.wellFormed
  | .releaseResident q => q.wellFormed
  | .poolFlush q => q.wellFormed
  | .poolFlushDone _ => true
  | .loadMapping q f => q.wellFormed && f.wellFormed
  | .loadMappingDone _ f => f.wellFormed
  | .unloadMapping q => q.wellFormed
  | .windowClearCounters q => q.wellFormed
  | .startStream q => q.wellFormed
  | .placement _ _ => true
  | .residencyCopy _ _ _ f => f.wellFormed
  | .stopStream q => q.wellFormed
  | .stripeClearCounters q => q.wellFormed
  | .launchJob q => q.wellFormed
  | .heldJobStart _ _ => true
  | .cancelJob q => q.wellFormed
  | .jobEnd _ _ => true
  | .sluiceStart q => q.wellFormed
  | .sluiceHalt q => q.wellFormed
  | .sluiceClearCounters q => q.wellFormed
  | .instructionFetch _ _ _ f => f.wellFormed
  | .move _ _ f => f.wellFormed
  | .moveComplete _ _ => true
  | .loop _ _ => true
  | .endLoop _ _ => true
  | .endProgram _ _ => true
  | .ringSpace _ _ => true
  | .ringData _ _ => true
  | .waitEvent _ _ => true
  | .timeAbs _ _ => true
  | .timeRel _ _ => true
  | .waitConditionMet _ _ => true
  | .waitTimeReached _ _ => true
  | .ringAdvance _ _ => true
  | .signalEvent _ _ => true
  | .signalCompletion _ _ => true
  | .pageFaultTimeout _ _ => true
  | .streamDeadlock _ nodes => !nodes.isEmpty
  | .mapPages q => q.wellFormed
  | .mapPagesDone _ => true
  | .memClearCounters q => q.wellFormed
  | .windowOpen q => q.wellFormed
  | .windowClose q => q.wellFormed
  | .collective q => q.wellFormed
  | .collectiveStart _ _ f _ => f.wellFormed
  | .collectiveTimeout _ _ => true
  | .tussockRead q => q.wellFormed
  | .runBlockTest q => q.wellFormed
  | .blockTestBegin _ _ => true
  | .blockTestEnd _ _ _ => true
  | .alarmRelease q _ => q.wellFormed
  | .faultClearCounters q => q.wellFormed
  | .runCalibration q => q.wellFormed
  | .calibrationApply _ _ scans _ _ => scans.all fun x => x.length == 64
  | .firmwareLoad q => q.wellFormed
  | .firmwareLoadDone _ f => f.wellFormed
  | .firmwareActivate q _ => q.wellFormed
  | .attest q => q.wellFormed
  | .loadScaler q => q.wellFormed
  | .outputClearCounters q => q.wellFormed
  | .portStatusClear q _ => q.wellFormed
  | .faultStatusClear q _ => q.wellFormed
  | .regionStatusClear q _ => q.wellFormed
  | .blockStatusClear q _ => q.wellFormed
  | .remapStatusWrite q _ => q.wellFormed
  | .memConfigWrite q => q.wellFormed
  | .fenConfigWrite q => q.wellFormed
  | .ageConfigWrite q => q.wellFormed
  | .fenTick _ _ => true
  | .quarterSwitchLive _ _ => true
  | .interleaveZeroed _ => true
  | .waitFrameTimeout _ _ => true
  | .fsyncAssert _ _ => true
  | .fsyncDeassert _ _ => true
  | .frameStart _ _ => true
  | .frameEnd _ _ => true
  | .lineReceived _ _ _ _ => true
  | .syncGlitch _ _ => true
  | .cutTime _ _ => true
  | .pclkStopped _ _ => true
  | .pclkResumed _ _ => true
  | .portClockFault _ _ _ => true
  | .i2cTransactionStart _ _ _ _ => true
  | .i2cTransactionEnd _ _ _ => true
  | .i2cTimeout _ _ => true
  | .encodedRowFinal _ _ _ => true
  | .stripeRowWrite _ _ f => f.wellFormed
  | .fallbackRowWrite _ _ _ f => f.wellFormed
  | .statsPacketWrite _ _ _ f => f.wellFormed
  | .stagingComplete _ _ _ _ _ _ tile f => tile.length == 6 && f.wellFormed
  | .segmentStart _ _ _ => true
  | .stepStart _ _ f => f.wellFormed
  | .stepEnd _ _ _ => true
  | .groupRetire _ _ _ _ => true
  | .stripeDeadline _ _ _ _ => true
  | .residencyRefill _ _ _ f => f.wellFormed
  | .blockResetComplete _ _ => true
  | .suppressionEnd _ _ => true
  | .remapComplete _ _ => true
  | .outputStripeWrite _ _ _ _ _ f => f.wellFormed
  | .headRowsRead _ _ _ _ f => f.wellFormed
  | .detectionPostprocess _ _ x => x.mem.wellFormed
  | .completionRecordWrite _ _ f => f.wellFormed
  | .scrubRead _ f => f.wellFormed
  | .stackTemperatureRead _ _ _ => true
  | .bar0Write _ offset data _ _ f => barFits offset data.length && f.wellFormed
  | .bar0Read _ offset len f => barFits offset len && f.wellFormed
  | .hostReadCompletion _ _ data _ failed _ => failed || data.length == 64
  | .pciePerstN _ _ => true
  | .write _ _ f m => f.wellFormed && m.wellFormed
  | .readReq _ _ f m => f.wellFormed && m.wellFormed
  | .readData _ _ f => f.wellFormed
  | .ack _ _ f => f.wellFormed
  | .refuse _ _ f => f.wellFormed
  | .collectiveFrame _ _ f _ _ => f.wellFormed
  | .portUp _ _ _ _ _ => true
  | .portDown _ _ => true
  | .linkDown _ _ => true
  | .linkUp _ _ => true
  | .sync _ _ _ _ _ => true
  | .holdover _ => true
  | .leaseExpired _ => true
  | .reassemblyAbandoned _ _ _ => true
  | .arp _ _ _ _ _ _ _ _ => true
  | .icmpEcho _ _ _ _ _ _ _ => true
  | .eapol _ _ _ => true
  | .recordRelease _ => true
  | .alarmMinLowEnd _ => true
  | .extFault _ => true
  | .lockstep _ executing => executing.all fun e => e.1.wellFormed
  | .sequencerResyncDone _ => true
  | .avsLoop _ slack _ _ _ => distinct (slack.map Prod.fst)
  | .droopClamp _ _ _ => true
  | .clampRelease _ _ => true
  | .temperatureRead _ readings => distinct (readings.map Prod.fst)
  | .rootPllUnlock _ => true
  | .referenceLoss _ => true
  | .derivedClockFault _ _ => true
  | .sclkRecovered _ => true
  | .interfacePllUnlock _ _ => true
  | .voltageMonitor _ _ => true
  | .calibrationRunStart _ _ _ => true
  | .ageMeasure _ readings => distinct (readings.map AgeReading.location)
  | .stressAccumulate _ => true
  | .porstNAssert _ => true
  | .porstNRelease _ => true
  | .commandReady _ => true
  | .rootPllRelock _ => true
  | .referenceReturn _ => true
  | .interfacePllRelock _ _ => true
  | .extFaultNRelease _ => true
  | .bar2Access _ x => x.wellFormed
  | .configurationRequest _ => true
  | .pcieLinkUp _ => true
  | .pcieLinkDown _ => true
  | .slotVerified _ => true
  | .attestComplete x => x.mem.wellFormed

end Sys2Proof
end

