-- ==== Sys2Proof/Safety.lean ====
section
/-!
DEFINITION. The terms the statements use: the invariants that every step keeps, and what the reception of a Lysil request
does around the execution of its command.
-/

namespace Sys2Proof.Machine

open Sys2Proof

/-! ## Invariants -/

/-- Every byte-addressed memory of the AQ24 is in its canonical form. -/
def State.memoryWf (s : State) : Bool :=
  s.mem.dram.wf && s.spad.wf && s.pool.wf && Tab.wf msixReset s.mem.msix

/-! ## Reception of a request (R317 to R321) -/

/-- The request passes every check of Table 12-3 when it arrives (R317). -/
def State.takes (s : State) (o : OpRow) (q : Req) : Prop := (s.begin q.time).gate o q = .run

/-- The state in which a request that has passed the checks is executed: time, reassembly, RECEIVED and the lease are
noted. -/
def State.received (s : State) (q : Req) : State := ((s.begin q.time).noteArrival q).noteRequest q

/-- The execution's end: an accepted long command is outstanding, the ACK is sent, and the sequence is consumed. -/
def State.acked (s : State) (o : OpRow) (q : Req) (a : Ack) : State :=
  (s.noteLong o q a).answer o q a (o.code != Opc.sessionOpen)

/-- The identity a request's long command has. -/
def OpRow.ticket (o : OpRow) (q : Req) : Ticket := reqTicket q o.code

/-- The request's execution with no effect of its own: it is received and answered. -/
def State.served (s : State) (o : OpRow) (q : Req) (a : Ack) : State := (s.received q).acked o q a

/-- Memory is as it was, but for the pending bits of masked vectors (Table 11-7). -/
def State.keepsMemory (u s : State) : Prop := u.mem = { s.mem with msix := u.mem.msix }

/-- The last packet that a long command's port made is its COMPLETION (R322), with a status and data. -/
def State.completed (u : State) (k : Ticket) (status : BitVec 16) (data : List Byte) : Prop :=
  ∃ p, (u.ethOf k.port).ring.getLast? = some p ∧ p.port = k.port ∧ p.queue = k.queue ∧ p.seq = k.seq ∧ p.opcode = k.opcode ∧
    p.tag = k.tag ∧ p.flags = 2 ∧ p.status = status ∧ p.data = data

/-- From `s` to `u` one long command completes: its COMPLETION is made, and its queue has one command less outstanding. -/
def State.completes (s u : State) (k : Ticket) (status : BitVec 16) (data : List Byte) : Prop :=
  u.completed k status data ∧ ((u.ethOf k.port).queue k.queue.toNat).outstanding =
    ((s.ethOf k.port).queue k.queue.toNat).outstanding - 1

/-- From `s` to `u` a monitor of Table 15-3 has fired at `t` (R406): its SAF record joins the records that wait, ahead of any that
its action makes, and drives the pin; MONITOR_TRIPS counts it. -/
def State.trips (s u : State) (det : BitVec 8) (t : Time) : Prop :=
  (s.faults.up = true → ∃ r l, u.faults.held = s.faults.held ++ r :: l ∧ r.cls = 3 ∧ r.detector = det ∧ r.time = t ∧
    r.pin = true) ∧
  u.health.clockCounters.get 6 = BitVec.ofNat 32 (min (2 ^ 32 - 1) ((s.health.clockCounters.get 6).toNat + 1))

/-- Attribute reads and writes, as rows of Table 12-8. -/
def attrReadRow : OpRow := opRow 0x0002 8 false true

/-- I2C_TRANSFER's row: the parameters hold WRITE_LEN bytes of data (Table 02-5). -/
def i2cRow : OpRow := { code := 0x0210, long := true, lenOk := fun p => decide (4 ≤ p.length) && p.length == 4 + le p 1 1 }

/-- LOAD_CURVE's row. -/
def loadCurveRow : OpRow :=
  { code := 0x0310
    lenOk := fun p => if le p 1 1 < 3 then p.length == 1032 else if le p 1 1 < 5 then p.length == 550
                      else p.length == 1032 || p.length == 550 }

/-- LOAD_DEFECTS's row. -/
def loadDefectsRow : OpRow := { code := 0x0311, lenOk := fun p => p.length == 8 + 4 * le p 4 2 }

/-- SET_EXPOSURE's row. -/
def setExposureRow : OpRow :=
  { code := 0x0320, long := true
    lenOk := fun p => decide (8 ≤ p.length) && (exposureTxns (le p 1 1) (p.drop 8)).isSome }

/-- The row of Table 12-8 that a Lysil command runs under, and its request; none for an event of the device. -/
def lysilRow : Instr → Option (OpRow × Req)
  | .nop q opcode _ => some (if opcode = Opc.nop then opRow 0x0001 0 false true
      else { code := opcode, lenOk := fun _ => true }, q)
  | .attrRead q _ => some (attrReadRow, q)
  | .attrWrite q => some (attrWriteRow, q)
  | .commit q => some (opRow 0x0004 8, q)
  | .shadowRevert q => some (opRow 0x0005 8, q)
  | .eventRead q => some (opRow 0x0006 8 false true, q)
  | .sessionOpen q => some (opRow 0x0007 0, q)
  | .i2cTransfer q => some (i2cRow, q)
  | .portRecover q => some (opRow 0x0211 4, q)
  | .portClearCounters q => some (opRow 0x0212 4, q)
  | .loadCurve q => some (loadCurveRow, q)
  | .loadDefects q => some (loadDefectsRow, q)
  | .setExposure q => some (setExposureRow, q)
  | .arithClearCounters q => some (opRow 0x0410 4, q)
  | .releaseResident q => some (opRow 0x0430 12, q)
  | .poolFlush q => some (opRow 0x0431 4 true, q)
  | .loadMapping q _ => some (opRow 0x0450 16 true, q)
  | .unloadMapping q => some (opRow 0x0451 4, q)
  | .windowClearCounters q => some (opRow 0x0470 4, q)
  | .startStream q => some (opRow 0x0490 4 true, q)
  | .stopStream q => some (opRow 0x0491 4 true, q)
  | .stripeClearCounters q => some (opRow 0x0492 4, q)
  | .launchJob q => some (opRow 0x04A0 8 true, q)
  | .cancelJob q => some (opRow 0x04A1 4, q)
  | .sluiceStart q => some (opRow 0x0510 32 true, q)
  | .sluiceHalt q => some (opRow 0x0511 4, q)
  | .sluiceClearCounters q => some (opRow 0x0512 4, q)
  | .mapPages q => some (mapPagesRow, q)
  | .memClearCounters q => some (opRow 0x0611 4, q)
  | .windowOpen q => some (opRow 0x0710 24, q)
  | .windowClose q => some (opRow 0x0711 4, q)
  | .collective q => some (opRow 0x0712 40 true, q)
  | .tussockRead q => some (opRow 0x0810 8 false true, q)
  | .runBlockTest q => some (opRow 0x0811 4 true true, q)
  | .alarmRelease q _ => some (opRow 0x0812 0 false true, q)
  | .faultClearCounters q => some (opRow 0x0813 4 false true, q)
  | .runCalibration q => some (opRow 0x0910 4 true, q)
  | .firmwareLoad q => some (firmwareLoadRow, q)
  | .firmwareActivate q _ => some (opRow 0x0A11 4 true, q)
  | .attest q => some (opRow 0x0A12 48 true, q)
  | .loadScaler q => some (opRow 0x0B10 516, q)
  | .outputClearCounters q => some (opRow 0x0B11 4, q)
  | .portStatusClear q _ | .faultStatusClear q _ | .regionStatusClear q _ | .blockStatusClear q _
  | .remapStatusWrite q _ => some (attrWriteRow, q)
  | .memConfigWrite q | .fenConfigWrite q | .ageConfigWrite q => some (attrWriteRow, q)
  | _ => none

/-- Table 12-3 as a table: each check, whether it fails, and what follows, for a whole datagram on a port that is up, at
command-ready. -/
def requestChecks (s : State) (o : OpRow) (q : Req) : List (Bool × Gate) :=
  let e := s.ethOf q.port
  let x := e.queue q.queue.toNat
  let stale := Gate.reply { status := Code.staleSequence, data := leBytes 4 x.expected.toNat } false
  let fresh := decide (o.code = Opc.sessionOpen ∨ q.seq = x.expected)
  [ (!e.filterPasses q, .drop (e.filterWords q)),
    (!s.sourcePasses q o.code, .drop [2]),
    (q.magic != 0x4151 || q.flags.toNat % 4 != 0, .drop [1]),
    (decide (q.len < 36) || q.len != 36 + q.paramLen.toNat || q.params.length != q.paramLen.toNat,
      .reply (.err Code.badLength) false),
    (q.crc != reqCrc q o.code, .reply (.err Code.badCrc) false),
    (q.version != 1, .reply (.err Code.badOpcode) false),
    (match q.port with
      | .a => decide (15 < q.queue.toNat)
      | .b => decide (q.queue ≠ 0), .reply (.err Code.notPermitted) false),
    (!fresh && decide (q.seq = x.expected - 1), x.stored.elim stale .resend),
    (!fresh, stale),
    (decide (32 ≤ q.unacked), .reply (.err Code.queueFull) false),
    (decide (q.expiry ≠ 0 ∧ q.expiry.toNat < s.now), .reply (.err Code.tooLate) true),
    (!knownOpcodes.contains o.code, .reply (.err Code.badOpcode) true),
    (!portAccepts q o, .reply (.err Code.notPermitted) true),
    (!o.lenOk q.params, .reply (.err Code.badLength) true),
    (o.long && decide (64 ≤ x.outstanding), .reply (.err Code.queueFull) false) ]

/-- What the first failing check of Table 12-3 leaves of the state, without the command's own effect; none where every check
is passed. -/
def checksOutcome (s : State) (o : OpRow) (q : Req) : Option State :=
  (((requestChecks s o q).find? fun r => r.1).map fun r => match r.2 with
    | .drop ws => (ws.foldl (fun s w => s.countEth q.port w) s).linkError q.port q.fcsOk
    | .resend p => s.resendAck q p
    | .reply a consumed => s.answer o q a consumed
    | _ => s)

/-! ## Events of the device -/

/-- The time of an event that is live only at command-ready; none for the others, and for requests. -/
def readyTime : Instr → Option Time
  | .poolFlushDone t | .loadMappingDone t _ | .placement t _ | .residencyCopy t _ _ _ | .heldJobStart t _
  | .jobEnd t _ | .instructionFetch t _ _ _ | .move t _ _ | .moveComplete t _ | .loop t _ | .endLoop t _
  | .endProgram t _ | .ringSpace t _ | .ringData t _ | .waitEvent t _ | .timeAbs t _ | .timeRel t _
  | .waitConditionMet t _ | .waitTimeReached t _ | .ringAdvance t _ | .signalEvent t _ | .signalCompletion t _
  | .pageFaultTimeout t _ | .streamDeadlock t _ | .mapPagesDone t | .collectiveStart t _ _ _ | .collectiveTimeout t _
  | .blockTestBegin t _ | .blockTestEnd t _ _ | .fenTick t _ | .quarterSwitchLive t _ | .interleaveZeroed t
  | .waitFrameTimeout t _ | .fsyncAssert t _ | .fsyncDeassert t _ | .frameStart t _ | .frameEnd t _
  | .lineReceived t _ _ _ | .syncGlitch t _ | .cutTime t _ | .pclkStopped t _ | .pclkResumed t _
  | .portClockFault t _ _ | .i2cTransactionStart t _ _ _ | .i2cTransactionEnd t _ _ | .i2cTimeout t _
  | .encodedRowFinal t _ _ | .stripeRowWrite t _ _ | .fallbackRowWrite t _ _ _ | .statsPacketWrite t _ _ _
  | .stagingComplete t _ _ _ _ _ _ _ | .segmentStart t _ _ | .stepStart t _ _ | .stepEnd t _ _ | .groupRetire t _ _ _
  | .stripeDeadline t _ _ _ | .residencyRefill t _ _ _ | .blockResetComplete t _ | .suppressionEnd t _
  | .remapComplete t _ | .outputStripeWrite t _ _ _ _ _ | .headRowsRead t _ _ _ _ | .detectionPostprocess t _ _
  | .completionRecordWrite t _ _ | .scrubRead t _ | .stackTemperatureRead t _ _ | .bar0Write t _ _ _ _ _
  | .bar0Read t _ _ _ | .hostReadCompletion t _ _ _ _ _ | .write t _ _ _ | .readReq t _ _ _ | .readData t _ _
  | .ack t _ _ | .refuse t _ _ | .collectiveFrame t _ _ _ _ | .portUp t _ _ _ _ | .portDown t _ | .alarmMinLowEnd t
  | .lockstep t _ | .sequencerResyncDone t | .bar2Access t _ | .slotVerified t => some t
  | .attestComplete x => some x.time
  | _ => none

end Sys2Proof.Machine
end

