-- ==== Sys2Proof/Certificates/Slice0/Obligations.lean ====
section
/-!
DEFINITION. The statements for the provers, by chapter of the manual.
-/

open Sys2Proof Sys2Proof.Machine

/-- A step runs the command at the front of the queue. For every command c and every state whose queue of waiting
commands begins with c, step is exec of c on the state with the queue's rest. The queue is the model's own field (log
5). (Rests on 12_lysil_commands R318.) -/
def Obligations.StepRunsFrontCommand : Prop :=
  ∀ (c : Instr) (rest : List Instr) (s : State), s.pending = c :: rest → step s = exec c { s with pending := rest }

/-- On an empty queue the block idles. With no command waiting, step answers the same state. This is the model's
choice (log 5); the manual has no queue of commands. (Rests on 01_architecture.) -/
def Obligations.EmptyQueueIdles : Prop :=
  ∀ s : State, s.pending = [] → step s = .next s

/-- Before command-ready an event of the device is only time passing. For every event that readyTime lists, in a state
that is not command-ready, exec answers a next state in which only time has passed. That an event whose condition does
not hold has no effect is the model's choice (log 7). (Rests on 16_boot_and_trust, 00_scope.) -/
def Obligations.DeviceEventsNeedCommandReady : Prop :=
  ∀ (c : Instr) (t : Time) (s : State), readyTime c = some t → s.phase ≠ .ready → exec c s = .next (s.begin t)

/-- Every step keeps the canonical form of every byte memory. For every state whose DRAM, scratchpads, pools and MSI-X
table are in canonical form (addresses strictly rising, no listed byte equal to what an unlisted address reads as),
whatever command stands in front: if step answers a next state, the memories of that state are in canonical form
again. (Rests on 11_memory, 05_blocks_and_buffers.) -/
def Obligations.MemoriesKeepCanonicalForm : Prop :=
  ∀ s t : State, s.memoryWf = true → step s = .next t → t.memoryWf = true

/-- At reset every byte memory is in canonical form. The state after reset lists no byte in DRAM, the scratchpads, the
pools or the MSI-X table, so it meets the invariant; what an unlisted byte reads as is 0, the model's choice where the
manual zeroes the memory only later (log 15). (Rests on 11_memory, 16_boot_and_trust.) -/
def Obligations.ResetMemoriesCanonical : Prop :=
  State.reset.memoryWf = true ∧ ∀ a, State.reset.mem.dram.read a = 0 ∧ State.reset.spad.read a = 0 ∧ State.reset.pool.read a = 0

/-- Every well-formed command answers a next state. No command of the AQ24 stops the device: for every well-formed
command and every state exec answers a next state, never a fault and never a refusal. (Rests on 98_reader,
12_lysil_commands R317.) -/
def Obligations.WellFormedCommandsAnswer : Prop :=
  ∀ (c : Instr) (s : State), c.wellFormed = true → ∃ t, exec c s = .next t

/-- No command touches the queue of waiting commands. For every command and every state, a next state of exec has the
same commands waiting, so commands take effect one at a time in order. The queue is the model's own field (log 5).
(Rests on 12_lysil_commands R318.) -/
def Obligations.QueueLeftAlone : Prop :=
  ∀ (c : Instr) (s t : State), exec c s = .next t → t.pending = s.pending

/-- Device time never steps backward. For every command but the two of PORST_N, whose release sets device time to 0,
and every state: device time in a next state of exec is not earlier than it was. R314's other sentences are stated in
TimeSynchronisation. (Rests on R314.) -/
def Obligations.DeviceTimeNeverBack : Prop :=
  ∀ (c : Instr) (s t : State), (∀ u, c ≠ .porstNAssert u) → (∀ x, c ≠ .porstNRelease x) → exec c s = .next t →
    s.time.toNat ≤ t.time.toNat

/-- A VSYNC active edge in WAIT_FRAME starts a frame of the streaming pipeline, or a frame that is discarded. At
command-ready with the port in WAIT_FRAME: with no streaming pipeline naming the port, the frame is discarded,
FRAMES_DISCARDED rises and only the port changes: with TRACK_EN, after a run and between runs, the tap of an input
whose scan has seen 65,536 transitions moves one position towards the centre of its eye, the others stay (R413, R414).
With streaming pipeline q it is q's frame boundary: the settings of q and of the port that were committed before this
time are live, the frame takes q's next number, FRAMES_STARTED rises, and a frame job of that number stands under
those settings. Blocks, regions, channels and every byte of memory stay. (Rests on R22, R36, R37.) -/
def Obligations.FrameStartsOrIsDiscarded : Prop :=
  ∀ (s : State) (t : Time) (n : Fin 24) (r : List EyeScan), s.phase = .ready → (s.port n).state = .waitFrame →
    let tracked := fun (u : State) => (u.port n).taps = (s.port n).taps ∧ (u.port n).centres = (s.port n).centres
    let tracks := (s.port n).calValid = true ∧ (s.port n).calRunning = false ∧ s.health.calConfig.getLsbD 0 = true
    (s.streamOf n = none → ∃ u, exec (.frameStart t ⟨n, r⟩) s = .next u ∧ u = { s.begin t with ports := u.ports, fresh := u.fresh } ∧
      u.port n = { s.port n with
        state := .inFrame, waitLong := false, counters := (s.port n).counters.bump 1, taps := (u.port n).taps
        centres := (u.port n).centres, frame := some (newFrame none (s.port n).live (s.begin t).time) } ∧
      (¬ tracks → tracked u) ∧
      (tracks → ∀ i, (i < 26 → enoughSeen (r.getD i []) = true → (eyeOf (r.getD i [])).2 ≠ 0 →
          (u.port n).tap i = (moveTap ((s.port n).tap i) ((eyeOf (r.getD i [])).1 + ((eyeOf (r.getD i [])).2 - 1) / 2)).toNat) ∧
        ((26 ≤ i ∨ enoughSeen (r.getD i []) = false) → (u.port n).tap i = (s.port n).tap i)) ∧
      ∀ m, m ≠ n.val → u.port m = s.port m) ∧
    (∀ q, s.streamOf n = some q → ∃ u, exec (.frameStart t ⟨n, r⟩) s = .next u ∧
      (u.port n).state = .inFrame ∧ (u.port n).counters = (s.port n).counters.bump 0 ∧
      (if (s.port n).pendingAt.toNat < (s.begin t).now
        then (u.port n).live = (s.port n).pending.getD (s.port n).live ∧ (u.port n).pending = none
        else (u.port n).live = (s.port n).live ∧ (u.port n).pending = (s.port n).pending) ∧
      (∃ f, (u.port n).frame = some f ∧ f.job = some (q, (s.pipe q).nextFrame) ∧ f.cfg = (u.port n).live ∧
        f.start = (s.begin t).time ∧ f.lines = 0 ∧ f.ended = false) ∧
      (u.pipe q).nextFrame = (s.pipe q).nextFrame + 1 ∧
      (if (s.pipe q).pendingAt.toNat < (s.begin t).now
        then (u.pipe q).live = (s.pipe q).pending.getD (s.pipe q).live ∧ (u.pipe q).pending = none
        else (u.pipe q).live = (s.pipe q).live ∧ (u.pipe q).pending = (s.pipe q).pending) ∧
      (∃ j, (u.pipe q).frames = (s.pipe q).frames ++ [j] ∧ j.frame = (s.pipe q).nextFrame ∧
        j.startTime = (s.begin t).time ∧ j.flags = none ∧ j.settings = (u.pipe q).live ∧ j.port = (u.port n).live ∧
        j.mask = (s.pipe q).blocks ∧ j.stripes.length = stripeCount (u.pipe q).live (u.port n).live) ∧
      (∀ m, m ≠ n.val → u.port m = s.port m) ∧ (∀ p, p ≠ q → u.pipe p = s.pipe p) ∧
      u.blocks = s.blocks ∧ u.regions = s.regions ∧ u.channels = s.channels ∧ u.mem = s.mem ∧ u.spad = s.spad ∧
      u.pool = s.pool ∧ u.eth = s.eth ∧ u.jobs = s.jobs)

/-- A started frame that ends has its flags word, its END_CAUSE and its padded rows. For a started frame f of pipeline
q on a port at command-ready, ended by VSYNC inactive, by MAX_FRAME_TIME, by a line after HEIGHT rows, by a PCLK stop
or by PCLK over 210 MHz: its job holds the end time and the frame flags word of Table 02-18, with GLITCH_COUNT,
END_CAUSE and each flag as that table and Table 02-3 give them; the missing rows reach the front end as pad lines;
every byte of memory and every other port stays. The completion record of every result carries that word, in its bytes
32 to 35 (Table 09-3). (Formalises R54.) -/
def Obligations.FrameEndsUnderItsCause : Prop :=
  (∀ (j : FrameJob) (q prov : Nat) (now : Time) (w : BitVec 32), j.flags = some w →
    ((FrameJob.completion j q prov now).drop 32).take 4 = leBytes 4 w.toNat) ∧
  ∀ (s : State) (t : Time) (n : Fin 24) (f : PortFrame) (q : Nat) (num : BitVec 32), s.phase = .ready →
    (s.port n).state = .inFrame → s.started n = some (f, q, num) →
    let ends (c : Instr) (k : EndCause) : Prop := ∃ u, exec c s = .next u ∧
      (u.pipe q).lastEnded = some num ∧
      (u.pipe q).fe.lines = (s.pipe q).fe.lines ++ (List.range f.cfg.exposures).flatMap (fun e =>
        ((List.range f.cfg.height).filter fun r => decide (f.rows.toList.getD e 0 ≤ r)).map fun r =>
          { frame := num, exposure := e, row := r, words := [], padFrom := 0, bad := false }) ∧
      (∀ j ∈ (u.pipe q).frames, j.frame = num → j.delivered = false → j.endTime = some (s.begin t).time ∧
        ∃ w : BitVec 32, j.flags = some w ∧ bits 31 16 w = f.glitches.toNat ∧ bits 15 11 w = 0 ∧
          bits 10 8 w = endCode k ∧ bits 7 6 w = 0 ∧ w.getLsbD 5 = decide (k = .clockFault) ∧
          w.getLsbD 4 = (f.glitches != 0) ∧ w.getLsbD 3 = f.lineLong ∧ w.getLsbD 2 = f.lineShort ∧
          w.getLsbD 1 = decide (k = .cutLines ∨ k = .cutTime) ∧ 
          w.getLsbD 0 = (!f.complete || decide (k = .pclkStopped ∨ k = .clockFault))) ∧
      (∀ m, m ≠ n.val → u.port m = s.port m) ∧ (∀ p, p ≠ q → u.pipe p = s.pipe p) ∧
      u.mem = s.mem ∧ u.spad = s.spad ∧ u.pool = s.pool ∧ u.channels = s.channels
    ends (.frameEnd t n) .normal ∧
    ((s.begin t).overTime f = true → ends (.cutTime t n) .cutTime) ∧
    (∀ ws bad, f.cfg.vStart ≤ f.lines → f.complete = true → ends (.lineReceived t n ws bad) .cutLines) ∧
    ends (.pclkStopped t n) .pclkStopped ∧
    (∀ k, s.frontOn n = true → 420 < k → (s.port n).clockFault = false → (s.begin t).isSuppressed (.sedge n) = false →
      ends (.portClockFault t n k) .clockFault)

/-- A line of a started frame is a V_START line, or the next row of its exposure, cut at WIDTH or marked short. For a
started single-exposure frame at command-ready that is not complete: a line before V_START only advances the line
count. A later line is row r, the next one: its active pixels reach the front end (from H_START in HSYNC mode, the
first WIDTH in DE mode), fewer than WIDTH count LINES_SHORT and mark LINE_SHORT, more than WIDTH in DE mode count
LINES_LONG and mark LINE_LONG. Only the port and the pipeline's front end change. A parity error on its way to the
front end poisons the line, and makes a record besides. In a frame of two or three exposures the pattern entry of the
counted line names its exposure: an entry of no exposure and a line beyond HEIGHT are discarded, a placeholder of the
exposure is discarded and counted, and any other line is the exposure's next row. (Rests on R33, R34, R39, R40, R41.)
-/
def Obligations.LinesBecomeRows : Prop :=
  ∀ (s : State) (t : Time) (n : Fin 24) (f : PortFrame) (q : Nat) (num : BitVec 32) (ws : List (BitVec 24)),
    s.phase = .ready → s.started n = some (f, q, num) →
    (∀ bad, f.lines < f.cfg.vStart → ∃ u, exec (.lineReceived t n ws bad) s = .next u ∧ u = { s.begin t with ports := u.ports } ∧
      u.port n = { s.port n with frame := some { f with lines := f.lines + 1 } } ∧ ∀ m, m ≠ n.val → u.port m = s.port m) ∧
    (f.cfg.vStart ≤ f.lines → f.cfg.exposures = 1 → f.rows[0] < f.cfg.height →
      let px := activeWords f.cfg ws
      let short := decide (px.length < f.cfg.width)
      let long := f.cfg.lineSelDe && decide (f.cfg.width < ws.length)
      let row (bad : Bool) : RawLine :=
        { frame := num, exposure := 0, row := f.rows[0], words := px, padFrom := px.length, bad := bad }
      (∃ u, exec (.lineReceived t n ws true) s = .next u ∧
        (u.pipe q).fe.lines = (s.pipe q).fe.lines ++ [row true] ∧
        (u.port n).frame.map (fun g => g.rows[0]) = some (f.rows[0] + 1) ∧ (∀ m, m ≠ n.val → u.port m = s.port m)) ∧
      ∃ u g, exec (.lineReceived t n ws false) s = .next u ∧ u = { s.begin t with ports := u.ports, pipes := u.pipes } ∧
        (u.port n).frame = some g ∧ g.lines = f.lines + 1 ∧ g.rows[0] = f.rows[0] + 1 ∧
        g.lineShort = (f.lineShort || short) ∧ g.lineLong = (f.lineLong || long) ∧ g.job = f.job ∧
        g.ended = false ∧ g.glitches = f.glitches ∧
        ((u.port n).counters.get 3 = if short then BitVec.ofNat 32 (min (2 ^ 32 - 1) (((s.port n).counters.get 3).toNat + 1))
          else (s.port n).counters.get 3) ∧
        ((u.port n).counters.get 4 = if long then BitVec.ofNat 32 (min (2 ^ 32 - 1) (((s.port n).counters.get 4).toNat + 1))
          else (s.port n).counters.get 4) ∧
        u.pipe q = { s.pipe q with fe := { (s.pipe q).fe with lines := (s.pipe q).fe.lines ++ [row false] } } ∧
        (∀ m, m ≠ n.val → u.port m = s.port m) ∧ ∀ p, p ≠ q → u.pipe p = s.pipe p) ∧
    (f.cfg.vStart ≤ f.lines → f.cfg.exposures = 2 ∨ f.cfg.exposures = 3 → f.complete = false →
      let e := f.cfg.pattern ((f.lines - f.cfg.vStart) % f.cfg.patLen)
      let row := f.rows.toList.getD e 0
      let owed := f.cfg.offset e - f.skipped.toList.getD e 0
      let only (bad : Bool) (g : PortFrame) : Prop := ∃ u, exec (.lineReceived t n ws bad) s = .next u ∧
        u = { s.begin t with ports := u.ports } ∧ u.port n = { s.port n with frame := some g } ∧ ∀ m, m ≠ n.val → u.port m = s.port m
      (∀ bad, (f.cfg.exposures ≤ e ∨ owed = 0 ∧ f.cfg.height ≤ row) → only bad { f with lines := f.lines + 1 }) ∧
      (∀ bad, e < f.cfg.exposures → owed ≠ 0 → only bad { f with
        lines := f.lines + 1
        skipped := Vector.ofFn fun i : Fin 3 => f.skipped.toList.getD i 0 + (if i.val = e then 1 else 0) }) ∧
      (∀ bad, e < f.cfg.exposures → owed = 0 → row < f.cfg.height →
        let px := activeWords f.cfg ws
        ∃ u g, exec (.lineReceived t n ws bad) s = .next u ∧ (u.port n).frame = some g ∧ g.lines = f.lines + 1 ∧
          (∀ i, i < 3 → g.rows.toList.getD i 0 = f.rows.toList.getD i 0 + (if i = e then 1 else 0)) ∧
          g.skipped = f.skipped ∧ g.lineShort = (f.lineShort || decide (px.length < f.cfg.width)) ∧
          g.lineLong = (f.lineLong || (f.cfg.lineSelDe && decide (f.cfg.width < ws.length))) ∧
          (u.pipe q).fe.lines = (s.pipe q).fe.lines ++
            [{ frame := num, exposure := e, row := row, words := px, padFrom := px.length, bad := bad }] ∧
          (∀ m, m ≠ n.val → u.port m = s.port m) ∧ ∀ p, p ≠ q → u.pipe p = s.pipe p))

/-- Sync glitches, the return of PCLK, the WAIT_FRAME timeout and FSYNC change their port only. At command-ready: a
glitch in WAIT_FRAME or IN_FRAME is counted, in the frame in progress too. PCLK at an IDLE port whose front end is
powered takes it to WAIT_FRAME. A port in WAIT_FRAME for more than two nominal frame periods is marked so. FSYNC rises
PHASE_NS after a fen tick whose number is a multiple of DIV_M1 + 1 unless R46 omits it, for WIDTH_US; on a port that
no streaming pipeline names only the port changes. FSYNC falls when the pulse is over. (Rests on R35, R36, R43, R45,
R46.) -/
def Obligations.PortSignals : Prop :=
  ∀ (s : State) (t : Time) (n : Fin 24), s.phase = .ready →
    let p := s.port n
    let r := s.begin t
    ((p.state = .waitFrame ∨ p.state = .inFrame) → ∃ u, exec (.syncGlitch t n) s = .next u ∧
      u = { r with ports := u.ports } ∧ (∀ m, m ≠ n.val → u.port m = s.port m) ∧
      u.port n = { p with
        counters := p.counters.bump 2,
        frame := p.frame.map fun f => if f.ended then f else { f with glitches := sat16 f.glitches } }) ∧
    (p.state = .idle → s.frontOn n = true → exec (.pclkResumed t n) s =
      .next (r.setPort n { p with state := .waitFrame, frame := none, waitSince := r.time, waitLong := false })) ∧
    (p.state = .waitFrame → 2 * s.nominalNum p.live < (r.now - p.waitSince.toNat) * s.base.den →
      exec (.waitFrameTimeout t n) s = .next (r.setPort n { p with waitLong := true })) ∧
    (r.fsyncRuns n = true → r.fsyncDue n = true → r.fsyncOmitted n = false → s.streamOf n = none →
      exec (.fsyncAssert t n) s = .next (r.setPort n { p with
        fsync := true, fsyncStart := some r.time, fsyncMoved := false
        fsyncEnd := r.time + BitVec.ofNat 64 (1000 * p.fsyncCfg.fsyncWidthUs) })) ∧
    (p.fsync = true → p.fsyncEnd.toNat ≤ r.now → exec (.fsyncDeassert t n) s = .next (r.setPort n { p with fsync := false }))

/-- A PCLK over 210 MHz disables the port; PORT_RECOVER clears CLOCK_FAULT, and has no effect without it. At
command-ready with the front end powered, a window of at most 420 edges only sets PCLK_FREQ, in units of 100 kHz; a
window of more than 420 on an unsuppressed port without CLOCK_FAULT sets it and leaves the port DISABLED with FSYNC
still driven. A taken PORT_RECOVER of a port with CLOCK_FAULT clears it, and the port is IDLE when ENABLE is 1 and its
front end is powered and DISABLED otherwise; on a port without CLOCK_FAULT it answers OK and changes nothing; a port
number above 23 is answered NOT_PERMITTED. The front end being powered is R409 to R411's, the port number R51's.
(Rests on R42, R51, R409, R410, R411.) -/
def Obligations.PortRecovers : Prop :=
  (∀ (s : State) (t : Time) (n : Fin 24) (k : Nat), s.phase = .ready → s.frontOn n = true →
    (k ≤ 420 → exec (.portClockFault t n k) s =
      .next ((s.begin t).setPort n { s.port n with pclkFreq := BitVec.ofNat 12 (min 4095 (5 * k)) })) ∧
    (420 < k → (s.port n).clockFault = false → (s.begin t).isSuppressed (.sedge n) = false →
      ∃ u, exec (.portClockFault t n k) s = .next u ∧ (u.port n).clockFault = true ∧ (u.port n).state = .disabled ∧
        (u.port n).frame = none ∧ (u.port n).pclkFreq = BitVec.ofNat 12 (min 4095 (5 * k)) ∧
        ((s.port n).disableDue = false → (u.port n).fsync = (s.port n).fsync) ∧
        (u.port n).live = (s.port n).live ∧ ∀ m, m ≠ n.val → u.port m = s.port m)) ∧
  ∀ (q : Req) (s : State), s.takes (opRow 0x0211 4) q →
    let n := le q.params 0 1
    (n < 24 → (s.port n).clockFault = true → ∃ u, exec (.portRecover q) s = .next u ∧
      u = { s.served (opRow 0x0211 4) q .ok with ports := u.ports, faults := u.faults } ∧
      u.port n = { s.port n with
        clockFault := false,
        state := if (s.port n).live.enable && s.frontOn n then .idle else .disabled } ∧
      ∀ m, m ≠ n → u.port m = s.port m) ∧
    (n < 24 → (s.port n).clockFault = false → exec (.portRecover q) s = .next (s.served (opRow 0x0211 4) q .ok)) ∧
    (24 ≤ n → exec (.portRecover q) s = .next (s.served (opRow 0x0211 4) q (.err Code.notPermitted)))

/-- I2C transactions queue, start with exposure writes first, and end with their result. A taken I2C_TRANSFER of 1 to
64 bytes each way to a port that is not requested OFF and queues fewer than 16 transactions is ACCEPTED and queued
last; with 16 queued it is answered QUEUE_FULL. Which port a request names is a free value (log 13). At command-ready
with the bus free and the front end powered, the next transaction (a due exposure write before the queue) goes on the
bus. A transaction of the host that is on the bus ends with one COMPLETION: DONE and the bytes read, ADDR_NACK or
DATA_NACK with the byte's index, or TIMEOUT; then the bus is free. Byte 1 of the COMPLETION being 0 after DONE and
TIMEOUT is the model's choice (log 84). (Rests on R48, R49, R50, 02_sedge_ports.) -/
def Obligations.SensorBusTransactions : Prop :=
  (∀ (q : Req) (s : State), s.takes i2cRow q →
    let n := (Config.i2cPort q.queue q.tag q.params).val
    let w := le q.params 1 1
    let r := le q.params 2 1
    0 < w + r → w ≤ 64 → r ≤ 64 → s.requestedOff (68 + n) = false →
    ((s.port n).i2cQueue.length < 16 → ∃ u, exec (.i2cTransfer q) s = .next u ∧
      u = { s.served i2cRow q { status := Code.accepted } with ports := u.ports } ∧
      u.port n = { s.port n with i2cQueue := (s.port n).i2cQueue ++ [{
        host := some (i2cRow.ticket q), pipe := none,
        target := BitVec.ofNat 7 (le q.params 0 1), data := q.params.drop 4, readLen := r }] } ∧
      ∀ m, m ≠ n → u.port m = s.port m) ∧
    (16 ≤ (s.port n).i2cQueue.length → exec (.i2cTransfer q) s = .next (s.served i2cRow q (.err Code.queueFull)))) ∧
  ∀ (s : State) (t : Time) (n : Fin 24), s.phase = .ready →
    (∀ x p, (s.port n).nextTxn = some (x, p) → p.i2cBus = none → s.frontOn n = true →
      exec (.i2cTransactionStart t n false false) s =
        .next (((s.begin t).setPort n { p with i2cBus := some x }).send (.i2c n x.target x.data x.readLen))) ∧
    (∀ x k, (s.port n).i2cBus = some x → x.host = some k →
      (∀ read, exec (.i2cTransactionEnd t n (.done read)) s = .next
        (((s.begin t).setPort n { s.port n with i2cBus := none }).complete k Code.ok
          ([0, 0, 0, 0] ++ (read ++ zeros x.readLen).take x.readLen))) ∧
      (∀ i, ∃ u d, exec (.i2cTransactionEnd t n (.nack i)) s = .next u ∧
        u = State.complete { (s.begin t).setPort n { s.port n with i2cBus := none } with fresh := u.fresh } k Code.ok
          ([if i = 0 then 1 else 2, i, 0, 0] ++ d) ∧ d.length = x.readLen) ∧
      ∃ u d, exec (.i2cTimeout t n) s = .next u ∧
        u = State.complete { (s.begin t).setPort n { s.port n with i2cBus := none } with fresh := u.fresh } k Code.ok
          ([3, 0, 0, 0] ++ d) ∧ d.length = x.readLen)

/-- LOAD_CURVE and LOAD_DEFECTS write the shadow of their pipeline, and a bad table is refused whole. A taken
LOAD_CURVE of pipeline 0 to 23 and curve 0 to 4 whose points never decrease and set no reserved bit answers OK and
puts the curve into the pipeline's shadow settings; one that decreases or sets a reserved bit is answered
NOT_PERMITTED and changes nothing. A taken LOAD_DEFECTS with START at most the previous length and at most 4,096
entries in all, each inside the frame and all ascending with the one before START, answers OK and sets the table to
START + COUNT entries; otherwise it is answered NOT_PERMITTED and changes nothing. Live settings and every other
pipeline stay. Another parameter length fails the request check on PARAM_LEN. The frame meant is the shadow geometry
of the port whose FE_STATUS the pipeline shows, which is the model's choice (logs 85 and 19). (Rests on R60, R64.) -/
def Obligations.CurvesAndDefectsLoadShadow : Prop :=
  (∀ (q : Req) (s : State), s.takes loadCurveRow q →
    let p := le q.params 0 1
    let k := le q.params 1 1
    let w := if k < 3 then 4 else 2
    let top := if k < 3 then 2 ^ 24 else 2 ^ 12
    let points := (List.range (if k < 3 then 257 else 273)).map fun i => le q.params (4 + w * i) w
    let good := nonDecreasing points && points.all fun x => decide (x < top)
    (p < 24 → k < 5 → good = true → ∃ t, exec (.loadCurve q) s = .next t ∧
      t = { s.served loadCurveRow q .ok with pipes := t.pipes } ∧
      t.pipe p = { s.pipe p with shadowChanged := true, shadow := { (s.pipe p).shadow with
        curves := Tab.insert k points (s.pipe p).shadow.curves } } ∧ ∀ j, j ≠ p → t.pipe j = s.pipe j) ∧
    ((24 ≤ p ∨ 5 ≤ k ∨ good = false) →
      exec (.loadCurve q) s = .next (s.served loadCurveRow q (.err Code.notPermitted))) ∧
    (k < 5 → q.params.length = (if k < 3 then 4 + 1028 else 4 + 546))) ∧
  ∀ (q : Req) (s : State), s.takes loadDefectsRow q →
    let p := le q.params 0 1
    let start := le q.params 2 2
    let count := le q.params 4 2
    let new := (List.range count).map fun i => le q.params (8 + 4 * i) 4
    let old := (s.pipe p).shadow.defects
    let g := (s.port (s.statusPort p)).shadow
    let place := fun e => fld 23 12 e * 4096 + fld 11 0 e
    let good := decide (start ≤ old.length) && decide (start + count ≤ 4096)
      && new.all (fun e => decide (fld 11 0 e < g.width) && decide (fld 23 12 e < g.height))
      && ascending ((if start = 0 then [] else [place (old.getD (start - 1) 0).toNat]) ++ new.map place)
    (p < 24 → start ≤ 4095 → count ≤ 256 → good = true → ∃ t, exec (.loadDefects q) s = .next t ∧
      t = { s.served loadDefectsRow q .ok with pipes := t.pipes } ∧
      t.pipe p = { s.pipe p with shadowChanged := true, shadow := { (s.pipe p).shadow with
        defects := old.take start ++ new.map fun e => BitVec.ofNat 32 (e % 2 ^ 24) } } ∧
      ∀ j, j ≠ p → t.pipe j = s.pipe j) ∧
    ((24 ≤ p ∨ 4095 < start ∨ 256 < count ∨ good = false) →
      exec (.loadDefects q) s = .next (s.served loadDefectsRow q (.err Code.notPermitted)))

/-- SET_EXPOSURE applies to its target frame, or to the achievable frame, marked LATE. A taken SET_EXPOSURE of 1 to 8
transactions for a streaming pipeline. With a heron unit of latency L, F being the last frame whose end was accepted
(-1 before any) and A = F + L + 1: HAS_TARGET = 0 applies to A; a target T later than F + 256 is answered
NOT_PERMITTED; a T not earlier than A applies to T; an earlier one applies to A, marked LATE; with 8 pending commands
it is answered QUEUE_FULL. Without a heron unit PLANNED_FRAME is 0xFFFF_FFFF and HAS_TARGET is answered NOT_PERMITTED.
An accepted command is added to the pipeline's commands and nothing else changes. A pipeline that is not streaming is
answered NOT_PERMITTED. (Rests on R76, R77, R79, R80.) -/
def Obligations.ExposureCommandsPlanned : Prop :=
  ∀ (q : Req) (s : State), s.takes setExposureRow q →
    let p := le q.params 0 1
    let n := le q.params 1 1
    let has := le q.params 3 1 % 2 == 1
    let T := BitVec.ofNat 32 (le q.params 4 4)
    let F := ((s.pipe p).lastEnded).getD (BitVec.allOnes 32)
    let refused := fun (c : BitVec 16) => exec (.setExposure q) s = .next (s.served setExposureRow q (.err c))
    let planned := fun (f : BitVec 32) (late : Bool) (u : Option Nat) => ∃ t e, exec (.setExposure q) s = .next t ∧
      t = { s.served setExposureRow q { status := Code.accepted
                                        data := leBytes 4 f.toNat ++ [if late then 1 else 0, 0, 0, 0] } with
            pipes := t.pipes } ∧
      t.pipe p = { s.pipe p with exposures := (s.pipe p).exposures ++ [e] } ∧ (∀ j, j ≠ p → t.pipe j = s.pipe j) ∧
      e.frame = f ∧ e.late = late ∧ e.unit = u ∧ e.target = BitVec.ofNat 7 (le q.params 2 1) ∧ e.due = false ∧
      e.ticket = setExposureRow.ticket q ∧ exposureTxns n (q.params.drop 8) = some e.txns
    (s.streams p = false → refused Code.notPermitted) ∧
    (s.streams p = true → 1 ≤ n → n ≤ 8 →
      (s.heronOf p = none → (has = true → refused Code.notPermitted) ∧
        (has = false → planned (BitVec.allOnes 32) false none)) ∧
      ∀ u, s.heronOf p = some u →
        let A := F + BitVec.ofNat 32 ((s.heron u).latency + 1)
        let room := ((s.pipe p).exposures.filter fun e => e.unit == some u).length < 8
        (has = true → frameLater T (F + 256) = true → refused Code.notPermitted) ∧
        ((has = false ∨ frameLater T (F + 256) = false) → ¬ room → refused Code.queueFull) ∧
        (has = false → room → planned A false (some u)) ∧
        (has = true → frameLater T (F + 256) = false → room →
          (frameLater A T = false → planned T false (some u)) ∧ (frameLater A T = true → planned A true (some u))))

/-- The front end's row events each take the next row of the pipeline's frame and go one row on. At command-ready,
with no error found. ENCODED_ROW_FINAL, once the rows that row r needs are delivered, adds row r to the encoded rows,
its codes being linear R, G and B through curve 3, and row r + 1 is next; only the pipeline changes. STRIPE_ROW_WRITE
of the next encoded row of a stripe leaves that row written and goes on to the next one; DRAM, pools, ports and
channels stay. FALLBACK_ROW_WRITE of the next encoded row, where DRAM serves its buffer, moves the fallback path on by
one row; scratchpads, pools and ports stay. STATS_PACKET_WRITE of an ended frame all of whose rows are final, where
DRAM serves its ring, advances SEQ and marks the packet made, and a frame that is also delivered is gone; with
delivery enabled and the ring full DROPPED rises and DRAM stays; scratchpads and pools stay. The model's choices are
that a packet is made and SEQ advances with STATS_EN = 0 too (log 90), how many rows a row waits for (log 28) and
which ring is in use (log 38). (Rests on R67, R69, R73, R74, R206, R473.) -/
def Obligations.FrontEndRowsAdvance : Prop :=
  ∀ (s : State) (t : Time) (q : Fin 24), s.phase = .ready →
    (∀ i j, ((s.pipe q).frames.findIdx? fun j => decide (j.feRow < j.port.height)) = some i →
      (s.pipe q).frames[i]? = some j →
      (s.pipe q).fe.hasRows j.port j.frame (j.feRow - 5) (j.settings.lastNeeded j.port j.feRow) = true →
      ∃ u e, exec (.encodedRowFinal t q false) s = .next u ∧ u = { s.begin t with pipes := u.pipes } ∧
        (∀ p, p ≠ q.val → u.pipe p = s.pipe p) ∧ (u.pipe q).fe.encoded = (s.pipe q).fe.encoded ++ [e] ∧
        e.frame = j.frame ∧ e.row = j.feRow ∧ e.poisoned = (s.pipe q).fe.badInput j.settings j.frame j.feRow ∧ e.rgb.length = j.port.width ∧
        e.codes = e.rgb.map (fun p => (j.settings.encode 3 p.1, j.settings.encode 3 p.2.1, j.settings.encode 3 p.2.2)) ∧
        (u.pipe q).frames.map FrameJob.feRow = ((s.pipe q).frames.map FrameJob.feRow).modify i (· + 1)) ∧
    (∀ j w e, (((s.pipe q).frames.filter fun j => !j.idle && !j.delivered).findSome? fun j =>
        (j.nextWrite (s.mapping (s.pipe q).mappingId).image).map fun w => (j, w)) = some (j, w) →
      ((s.pipe q).fe.encoded.find? fun e => e.frame == j.frame && e.row == w.2) = some e →
      ∃ u, exec (.stripeRowWrite t q .none) s = .next u ∧
        (∀ y ∈ (u.pipe q).frames, y.frame = j.frame → y.delivered = false → y.write = (w.1, w.2 + 1)) ∧
        (∀ p, p ≠ q.val → u.pipe p = s.pipe p) ∧
        u.mem = s.mem ∧ u.pool = s.pool ∧ u.ports = s.ports ∧ u.channels = s.channels ∧ u.eth = s.eth ∧
        u.faults = s.faults) ∧
    (∀ j e, ((s.pipe q).frames.find? fun j => !j.delivered && decide (j.fbRow < j.port.height)) = some j →
      ((s.pipe q).fe.encoded.find? fun e => e.frame == j.frame && e.row == j.fbRow) = some e →
      (s.begin t).deviceWaits j.settings.fbBase = false → ∃ u, exec (.fallbackRowWrite t q false .none) s = .next u ∧
        (∀ y ∈ (u.pipe q).frames, y.frame = j.frame → y.delivered = false → y.fbRow = j.fbRow + 1) ∧
        (∀ p, p ≠ q.val → u.pipe p = s.pipe p) ∧ u.spad = s.spad ∧ u.pool = s.pool ∧ u.ports = s.ports) ∧
    (∀ i j, ((s.pipe q).frames.findIdx? fun j => !j.statsDone) = some i → (s.pipe q).frames[i]? = some j →
      j.endTime.isSome = true → j.port.height ≤ j.feRow →
      (s.begin t).deviceWaits (s.pipe q).live.statsBase = false →
      ∃ u, exec (.statsPacketWrite t q false .none) s = .next u ∧ (u.pipe q).statsSeq = (s.pipe q).statsSeq + 1 ∧
        (u.pipe q).frames.map FrameJob.frame = (((s.pipe q).frames.modify i fun y => { y with statsDone := true }).filter
          fun y => !(y.delivered && y.statsDone)).map FrameJob.frame ∧
        ((s.pipe q).live.statsSlotsM1 ≠ 0 → (s.pipe q).statsFull = true →
          (u.pipe q).statsDropped = sat32 (s.pipe q).statsDropped ∧ u.mem = s.mem) ∧
        (∀ p, p ≠ q.val → u.pipe p = s.pipe p) ∧ u.spad = s.spad ∧ u.pool = s.pool ∧ u.ports = s.ports)

/-- RELEASE_RESIDENT, POOL_FLUSH and its end, and a pool quarter switch. A taken RELEASE_RESIDENT whose blocks hold no
thread that binds the ID drops that residency from the named blocks and nothing else; else it is answered
NOT_PERMITTED. A taken POOL_FLUSH of a region or of all notes the lines that are dirty now and nothing else. When a
flush is done and DRAM serves, no line it noted is dirty, the only DRAM bytes that may change are those of the cached
lines it noted, a single dirty line's bytes stand in DRAM, and the command completes OK. When a quarter switch is
live, the region's modes are the new ones, its cache is empty, a quarter that enters SCRATCHPAD mode reads 0
everywhere, and every other pool byte stays; another region at most loses lines that the write-back has changed in
DRAM. (Rests on R124, R134, R136.) -/
def Obligations.ResidenciesAndFlushes : Prop :=
  (∀ (q : Req) (s : State), s.takes (opRow 0x0430 12) q →
    let id := le q.params 0 4
    let held := (indices 64 fun b => (le q.params 4 8).testBit b).any fun b =>
      (s.block b).threads.any fun t => s.binds t id
    (held = false → ∃ u, exec (.releaseResident q) s = .next u ∧
      u = { s.served (opRow 0x0430 12) q .ok with blocks := u.blocks } ∧
      ∀ n, u.block n = if n < 64 ∧ (le q.params 4 8).testBit n = true then
        { s.block n with residents := (s.block n).residents.filter fun r => r.id.toNat != id } else s.block n) ∧
    (held = true →
      exec (.releaseResident q) s = .next (s.served (opRow 0x0430 12) q (.err Code.notPermitted)))) ∧
  (∀ (q : Req) (s : State), s.takes (opRow 0x0431 4 true) q →
    let r := le q.params 0 1
    (r < 4 ∨ r = 0xFF → ∃ u f, exec (.poolFlush q) s = .next u ∧
      u = { s.served (opRow 0x0431 4 true) q { status := Code.accepted } with flushes := s.flushes ++ [f] } ∧
      f.ticket = (opRow 0x0431 4 true).ticket q ∧
      ∀ x a, (x, a) ∈ f.lines ↔ x < 4 ∧ (r = x ∨ r = 0xFF) ∧ ∃ l ∈ (s.region x).cache, l.dirty = true ∧ l.addr = a) ∧
    (4 ≤ r → r ≠ 0xFF →
      exec (.poolFlush q) s = .next (s.served (opRow 0x0431 4 true) q (.err Code.notPermitted)))) ∧
  (∀ (s : State) (t : Time) (f : Flush) (rest : List Flush), s.phase = .ready → s.flushes = f :: rest →
    ((s.begin t).dramServes = true ∨ f.lines = []) → ∃ u, exec (.poolFlushDone t) s = .next u ∧ u.flushes = rest ∧ s.completes u f.ticket Code.ok [] ∧
      (∀ x a, (x, a) ∈ f.lines → ∀ l ∈ (u.region x).cache, l.addr = a → l.dirty = false) ∧
      (∀ a, (∀ x n, (x, n) ∈ f.lines → ∀ l, (s.region x).lookup n = some l →
        a < 64 * n ∨ 64 * n + l.data.length ≤ a) → u.mem.dram.read a = s.mem.dram.read a) ∧
      (∀ x n l, f.lines = [(x, n)] → (s.region x).lookup n = some l → l.dirty = true →
        u.mem.dram.bytes (64 * n) l.data.length = l.data) ∧
      u.blocks = s.blocks ∧ u.spad = s.spad ∧ u.pool = s.pool ∧ u.channels = s.channels) ∧
  ∀ (s : State) (t : Time) (r : Fin 4) (m : BitVec 8), s.phase = .ready → (s.region r).switching = some m →
    (s.begin t).writeBackWaits r = false → ∃ u, exec (.quarterSwitchLive t r) s = .next u ∧ (u.region r).poolLive = m ∧ (u.region r).switching = none ∧
      (u.region r).cache = [] ∧
      (let zeroed (q : Nat) : Bool := bits (2 * q + 1) (2 * q) m == 0 && bits (2 * q + 1) (2 * q) (s.region r).poolLive != 0
       ∀ a, u.pool.read a = if ((List.range 4).any fun q => zeroed q && decide (poolAddr r (0x40_0000 * q) ≤ a)
           && decide (a < poolAddr r (0x40_0000 * (q + 1)))) = true then 0 else s.pool.read a) ∧
      (∀ x, x ≠ r.val → (u.region x).poolLive = (s.region x).poolLive ∧
        (u.region x).switching = (s.region x).switching ∧ ∀ l ∈ (u.region x).cache, l ∈ (s.region x).cache) ∧ u.spad = s.spad ∧ u.blocks = s.blocks ∧ u.channels = s.channels

/-- LOAD_MAPPING waits in order and ends loaded or empty; UNLOAD_MAPPING needs a LOADED mapping that nothing uses. A
taken LOAD_MAPPING of an ID that is not EMPTY is answered NOT_PERMITTED, a misaligned address SLUICE_MISALIGNED;
otherwise, with ID at most 1,023 and the reserved bits 0, it is ACCEPTED, its ID is LOADING, and it waits last with
the copy of its image, which is made now unless DRAM does not serve. When the oldest load, its image copied, ends: an
unreadable image ends with check 0x01's report and one that fails a check with that report, and the ID is EMPTY again;
otherwise the ID is LOADED with the image and the load completes OK. UNLOAD_MAPPING of a LOADED mapping that no
resident thread and no held job uses empties the ID; else NOT_PERMITTED. No other ID changes. (Rests on R167, R168,
R170.) -/
def Obligations.MappingsLoadAndUnload : Prop :=
  (∀ (q : Req) (s : State) (f : MemFindings), s.takes (opRow 0x0450 16 true) q →
    let id := le q.params 0 2
    let addr := le q.params 4 8
    let row := opRow 0x0450 16 true
    ((s.mapping id).state ≠ .empty → exec (.loadMapping q f) s = .next (s.served row q (.err Code.notPermitted))) ∧
    ((s.mapping id).state = .empty → addr % 64 ≠ 0 →
      exec (.loadMapping q f) s = .next (s.served row q (.err Code.sluiceMisaligned))) ∧
    ((s.mapping id).state = .empty → addr % 64 = 0 → (1023 < id ∨ 15 < le q.params 2 1 ∨ le q.params 3 1 ≠ 0) →
      exec (.loadMapping q f) s = .next (s.served row q (.err Code.notPermitted))) ∧
    ((s.mapping id).state = .empty → addr % 64 = 0 → id ≤ 1023 → le q.params 2 1 ≤ 15 → le q.params 3 1 = 0 →
      let r := (s.received q).setMapping id { Mapping.reset with state := .loading }
      let l : MapLoad := { ticket := row.ticket q, id := id, len := le q.params 12 4, copied := false, image := none
                           regionMask := BitVec.ofNat 4 (le q.params 2 1), addr := BitVec.ofNat 64 addr }
      let x := r.copyImage l f
      exec (.loadMapping q f) s =
        .next ({ x.2 with loads := s.loads ++ [x.1] }.acked row q { status := Code.accepted }) ∧
      (r.deviceWaits addr = true → x = (l, r)) ∧
      (r.deviceWaits addr = false → x.1.copied = true ∧
        x.1.image = ((r.readVa addr l.len f .nobody).1.filter fun y => !y.2 && y.1.length == l.len).map Prod.fst) ∧
      x.2.mapping id = { Mapping.reset with state := .loading } ∧ ∀ m, m ≠ id → x.2.mapping m = s.mapping m)) ∧
  (∀ (s : State) (t : Time) (f : MemFindings) (l : MapLoad) (rest : List MapLoad), s.phase = .ready →
    s.loads = l :: rest → ((s.begin t).copyImage l f).1.copied = true →
    let y := (s.begin t).copyImage l f
    ∃ u, exec (.loadMappingDone t f) s = .next u ∧ u.loads = rest ∧
      (y.1.image = none →
        u.mapping l.id = .reset ∧ s.completes u l.ticket Code.notPermitted (reportBytes (some imageReport))) ∧
      (∀ x, y.1.image = some x →
        (∀ c, y.2.loadChecks x l.len l.regionMask.toNat = some c → u.mapping l.id = .reset ∧
          s.completes u l.ticket c.status (reportBytes (some c))) ∧
        (y.2.loadChecks x l.len l.regionMask.toNat = none → u.mapping l.id = {
            state := .loaded, regionMask := l.regionMask, image := x, accElems := imgAcc x, carryEntries := imgCarry x
            unusable := false } ∧
          s.completes u l.ticket Code.ok (reportBytes none))) ∧
      (l.copied = true → u.mem = s.mem) ∧
      (∀ m, m ≠ l.id → u.mapping m = s.mapping m) ∧ u.spad = s.spad ∧ u.pool = s.pool ∧
      u.channels = s.channels ∧ u.pipes = s.pipes) ∧
  ∀ (q : Req) (s : State), s.takes (opRow 0x0451 4) q →
    let id := le q.params 0 2
    (id ≤ 1023 → (s.mapping id).state = .loaded → s.mappingUsed id = false → ∃ u, exec (.unloadMapping q) s = .next u ∧
      u = { s.served (opRow 0x0451 4) q .ok with mappings := u.mappings } ∧
      u.mapping id = .reset ∧ ∀ m, m ≠ id → u.mapping m = s.mapping m) ∧
    ((1023 < id ∨ (s.mapping id).state ≠ .loaded ∨ s.mappingUsed id = true) →
      exec (.unloadMapping q) s = .next (s.served (opRow 0x0451 4) q (.err Code.notPermitted)))

/-- A placement is held, rejected with its report, waits for residencies, or creates the threads. At command-ready,
with every domain it needs on, no other placement of its region copying and, for a start, no frame of the last run
left (log 81): a standalone job that lacks a thread slot is held. A placement that a check rejects places nothing: a
starting pipeline is STOPPED and a job removed, each completing with the report. One whose residencies are all held
creates a thread of the owner on every target block; a starting pipeline streams from frame number 0 and completes OK;
a job runs from now. Otherwise the missing residencies are to be copied first. Blocks that are no target stay, and so
does all memory. (Rests on R19, R20, R159, R168, R218, R379, R411.) -/
def Obligations.PlacementsHoldFailOrPlace : Prop :=
  ∀ (s : State) (t : Time) (w : Owner), s.phase = .ready → (s.begin t).wantsPlace w = true →
    (s.begin t).domainsOn w = true → (s.begin t).placeBusy w = false →
    (∀ p, w = .pipeline p → (s.pipe p).stream = .starting → (s.pipe p).frames = []) →
    let r := s.begin t
    let bs := r.targets w
    let hold := match w with
      | .job k => r.slotsShort k && bs.all fun b => !(r.block b).fenced
      | .pipeline _ => false
    (∀ k, w = .job k → hold = true → exec (.placement t w) s = .next (r.updJob k fun j => { j with state := .held })) ∧
    (∀ c, hold = false → r.placeReport w = some c → ∃ u, exec (.placement t w) s = .next u ∧
      u.spad = s.spad ∧ u.pool = s.pool ∧ u.mem = s.mem ∧
      (∀ b, (u.block b).threads = (s.block b).threads ∧ (u.block b).residents = (s.block b).residents ∧
        (u.block b).rings = (s.block b).rings) ∧
      (∀ p, w = .pipeline p → (s.pipe p).stream = .starting → (u.pipe p).stream = .stopped ∧
        ∀ k, (s.pipe p).ticket = some k → s.completes u k c.status (reportBytes (some c))) ∧
      ∀ k j, w = .job k → s.jobOf k = some j → u.jobs = (s.jobs.filter fun x => x.id != k) ∧
        s.completes u j.ticket c.status (jobBytes j (some c) r.time)) ∧
    (hold = false → r.placeReport w = none → r.toCopy w ≠ [] → exec (.placement t w) s =
      .next { r with placings := r.placings ++ [{ owner := w, copies := (r.toCopy w).map (BitVec.ofNat 32) }] }) ∧
    (hold = false → r.placeReport w = none → r.toCopy w = [] → ∃ u, exec (.placement t w) s = .next u ∧
      (∀ b ∈ bs, ∃ th ∈ (u.block b).threads, th.owner = w ∧ th.mapping = r.ownerMapping w ∧ th.unit = none) ∧
      (∀ b, b ∉ bs → u.block b = s.block b) ∧ u.spad = s.spad ∧ u.pool = s.pool ∧ u.mem = s.mem ∧
      (∀ p, w = .pipeline p → (s.pipe p).stream = .starting →
        (u.pipe p).stream = .streaming ∧ (u.pipe p).nextFrame = 0 ∧ (u.pipe p).blocks = positions bs ∧
        ∀ k, (s.pipe p).ticket = some k → s.completes u k Code.ok (reportBytes none)) ∧
      ∀ k, w = .job k → u.jobs = s.jobs.map fun j => if j.id == k then { j with state := .running, start := r.time } else j)

/-- A residency copy lands in every block that lacks it or fails the placement; a refill ends with its failed lines.
At command-ready, when a copy that a placement waits for is complete: data that is missing, poisoned or of another
digest rejects the placement and writes no scratchpad; otherwise each target block that takes lines and lacked the
residency holds its bytes at its lines, other scratchpad bytes stay, and the copy is outstanding no more; when it was
the last one, the block set is checked again, and the placement fails with that report, or the owner's threads stand
on every block of the set. When a refill ends, the residency is refilling no more. Without errors found on the way,
and for a single line with any, the bad lines whose source reads unreadable are exactly those noted as failed, and
each other bad line holds its source's bytes and its poison is gone; with no error found on the way a record is made
exactly when there are some (the collector running), and no other line's bytes change. (Rests on R123, R159, R296.) -/
def Obligations.ResidenciesCopiedAndRefilled : Prop :=
  (∀ (s : State) (t : Time) (w : Owner) (id : BitVec 32) (f : MemFindings) (x : ImgResid), s.phase = .ready →
    (s.placings.any fun p => p.owner == w && p.copies.contains id) = true →
    (imgResids (s.mapping (s.ownerMapping w)).image).find? (fun r => r.id == id.toNat) = some x →
    let i := (imgResids (s.mapping (s.ownerMapping w)).image).findIdx fun r => r.id == id.toNat
    (s.begin t).deviceWaits x.source = false →
    let y := (s.begin t).readVa x.source (64 * x.lines) f (ownerReader w (s.ownerRegion w))
    let good := y.1.any fun v => !v.2 && v.1.length == 64 * x.lines && (crc64 v.1).toNat == x.digest
    (good = false → ∃ u, exec (.residencyCopy t w id f) s = .next u ∧ u.spad = s.spad ∧
      (∀ b, (u.block b).threads = (s.block b).threads) ∧
      ∀ p k, w = .pipeline p → (s.pipe p).stream = .starting → (s.pipe p).ticket = some k →
        (u.pipe p).stream = .stopped ∧ s.completes u k (sourceReport i).status (reportBytes (some (sourceReport i)))) ∧
    (∀ v, y.1 = some v → good = true → 64 * (x.line + x.lines) ≤ 0x30_0000 →
      ∃ u : State, u = { y.2 with spad := u.spad, spadPoison := u.spadPoison, placings := u.placings } ∧
        ((u.placings.all fun p => p.owner != w || !p.copies.isEmpty) = true → exec (.residencyCopy t w id f) s = .next u) ∧
        ((u.placings.any fun p => p.owner == w && p.copies.isEmpty) = true →
          (∀ c, u.placeReport w = some c → exec (.residencyCopy t w id f) s = .next (u.placeFail w c)) ∧
          (u.placeReport w = none → ∃ z, exec (.residencyCopy t w id f) s = .next z ∧ z.spad = u.spad ∧
            (z.placings.all fun p => p.owner != w) = true ∧
            ∀ b ∈ u.targets w, ∃ th ∈ (z.block b).threads, th.owner = w ∧ th.mapping = u.ownerMapping w ∧ th.unit = none)) ∧
        (let lacking (b : Nat) : Prop := b ∈ y.2.targets w ∧ y.2.takesLines b = true ∧
           (y.2.block b).residents.all (fun r => r.id.toNat != x.id) = true
         (∀ b, lacking b → ∀ k, k < 64 * x.lines →
           u.spad.read (spadAddr b x.line + k) = v.1.getD k 0) ∧
         ∀ a, (∀ b, lacking b → a < spadAddr b x.line ∨ spadAddr b (x.line + x.lines) ≤ a) → u.spad.read a = s.spad.read a) ∧
        u.placings = s.placings.map fun p =>
          if p.owner == w then { p with copies := p.copies.filter fun c => c != id } else p)) ∧
  ∀ (s : State) (t : Time) (b : Fin 64) (id : BitVec 32) (f : MemFindings) (x : Resident), s.phase = .ready →
    (s.block b).residents.find? (fun r => r.id == id && r.refilling) = some x →
    (s.begin t).deviceWaits x.source.toNat = false →
    let bad := ((List.range x.lines).map (x.line + ·)).filter fun l => s.lineBad b l && !x.failed.contains l
    let src := fun l => ((s.begin t).sourceLine b (x.source.toNat + 64 * (l - x.line)) f).1
    ∃ u fs, exec (.residencyRefill t b id f) s = .next u ∧
      (f = .none ∧ s.mem.mapChanges = [] ∨ bad.length ≤ 1 →
        fs = bad.filter (fun l => (src l).isNone) ∧
        u.spadPoison = (bad.filter fun l => (src l).isSome).foldl (fun p l => p.erase (0xC000 * b.val + l)) s.spadPoison ∧
        ∀ l ∈ bad, ∀ d, src l = some d → d.length = 64 ∧ ∀ k, k < 64 → u.spad.read (spadAddr b l + k) = d.getD k 0) ∧
      (u.block b).residents = ((s.block b).residents.map fun r =>
        if r.id == id then { r with refilling := false, failed := r.failed ++ fs } else r) ∧
      (∀ l ∈ fs, x.line ≤ l ∧ l < x.line + x.lines ∧ s.lineBad b l = true ∧ l ∉ x.failed) ∧
      (f = .none → (fs = [] → u.faults = s.faults) ∧
        (fs ≠ [] → s.faults.up = true → u.faults.held.length = s.faults.held.length + 1)) ∧
      (∀ a, (∀ l, x.line ≤ l → l < x.line + x.lines → s.lineBad b l = true →
        a < spadAddr b l ∨ spadAddr b (l + 1) ≤ a) → u.spad.read a = s.spad.read a) ∧
      (f = .none → u.mem.dram = s.mem.dram) ∧ u.pool = s.pool ∧ u.pipes = s.pipes ∧ u.channels = s.channels

/-- A thread takes its next unit or segment; a staged tile takes its buffer, and leaves its output at its home. At
command-ready on an unfenced block: a thread without a unit takes the next unit that may run and has rows there, in
its first segment, with no step started. A thread that has finished a segment which every block of its set has
finished goes to the next segment. A wanted tile of an input whose source is there and whose buffer is free stands in
that buffer when its copy completes. A copy in either direction changes no port, channel, mapping or job other than
those ended by poison. When a tile of an uncompressed output whose codes have all retired is copied from its outermost
buffer to a home in DRAM, without errors and no two of its bytes at one address: each element of the tile and each
padding element of its granules holds at home the code that the buffer holds, a code of another tile beside it in the
same byte stays, each of its groups has its shift entry at home, and every other DRAM byte stays. (Rests on R152,
R154, R470.) -/
def Obligations.UnitsAdvanceAndStage : Prop :=
  (∀ (s : State) (t : Time) (b : Fin 64) (o : Owner) (th : Thread), s.phase = .ready → (s.block b).fenced = false →
    (s.block b).threadOf o = some th →
    let r := s.begin t
    (∀ id p, th.unit = none → r.nextUnit b th = some id → r.unitPlace b o id = some p →
      p.idleIn ((segments p.image).headD 0) = false →
      ∃ u th', exec (.segmentStart t b o) s = .next u ∧ u = { r with blocks := u.blocks } ∧
        (u.block b).threadOf o = some th' ∧
        th'.unit = some { frame := id.1, stripe := id.2, segment := (segments p.image).headD 0, started := [], ended := []
                          groups := [], staged := [], checks := [], segmentDone := false, since := r.time } ∧
        ∀ n, n ≠ b.val → u.block n = s.block n) ∧
    (∀ x p g, th.unit = some x → x.segmentDone = true → r.unitPlace b o x.id = some p →
      ((r.unitBlocks o x.id).all fun c => r.segmentOver c o x.id x.segment) = true →
      (segments p.image).find? (fun g => decide (x.segment < g)) = some g → p.idleIn g = false →
      ∃ u th', exec (.segmentStart t b o) s = .next u ∧ u = { r with blocks := u.blocks } ∧
        (u.block b).threadOf o = some th' ∧
        th'.unit = some { frame := x.frame, stripe := x.stripe, segment := g, started := [], ended := [], groups := []
                          staged := [], checks := [], segmentDone := false, since := r.time } ∧
        ∀ n, n ≠ b.val → u.block n = s.block n)) ∧
  ∀ (s : State) (t : Time) (b : Fin 64) (o : Owner) (i v : Nat) (side : StageSide) (org : List Nat) (f : MemFindings)
    (c : Ctx), s.phase = .ready → (s.block b).fenced = false → (s.block b).resetting = false →
    (s.block b).testing = false → (s.begin t).ctx b o = some c → (s.begin t).threadRuns c = true →
    i ∈ segmentOps c.image c.run.segment →
    ∃ u, exec (.stagingComplete t b o i v side org f) s = .next u ∧ u.ports = s.ports ∧ u.channels = s.channels ∧
      u.mappings = s.mappings ∧ u.loads = s.loads ∧ u.session = s.session ∧
      (∀ n, side ≠ .out → stagedAt c.image (c.op i) v side = true → c.stagedTile i v side org = none →
        org ∈ c.wanted i v → c.sourceReady i v side org = true → (s.block b).holdsFor o = false →
        c.inSlot i v side = some n →
        ((c.srcLevel i side (v + 1)).isSome = true ∨ (s.begin t).homeWaits (c.tensor i side) = false) →
        (f = .none → u.mem.dram = s.mem.dram) ∧ u.pipes = s.pipes ∧
        ∃ c' e, u.ctx b o = some c' ∧ c'.stagedTile i v side org = some e ∧ e.line = c.slotLine i v side n) ∧
      (∀ e, side = .out → f = .none → s.mem.mapChanges = [] → c.stagedTile i v .out org = some e →
        let r := s.begin t
        let tn := c.tensor i .out
        let es := c.tileElems i v org
        let gs := (es.map (outGranule tn)).uniq
        let ks := (es.map (elemGroup tn)).uniq
        let dram (p : Place) : Option Nat := match p with
          | .va a => match r.translate a true with
            | .local_ pa _ => some pa
            | _ => none
          | _ => none
        let byteAt (g : Nat × Nat × Nat × Nat) (k : Nat) := (r.outDest c i v org g).bind fun p => dram (p.add k)
        let markAt (k : GroupKey) := (r.homeEntry c tn k.fold k.cb k.row k.grp).bind dram
        let cells := (gs.flatMap fun g => (List.range 64).map (byteAt g)) ++ (ks.filter fun k => (c.group k).isSome).map markAt
        c.tileRetired i es = true → c.innerDone i v org = true → c.srcLevel i .out (v + 1) = none → r.homeWaits tn = false →
        tn.peat = 0 → (cells.all Option.isSome) = true → cells.Nodup →
        (∀ g ∈ gs, ∀ k n a, k < 64 → byteAt g k = some a →
          (c.gbox i .out (boxOf (c.walk i) v org)).index g.1 g.2.1 g.2.2.1 g.2.2.2 = some n →
          let mine := fun m => isPadding tn g.2.1 g.2.2.2 m || es.any fun x => outGranule tn x == g && inGranule tn x.c x.x == m
          let from_ := (r.peekByte c ((c.bufPlace i v (e.line + n)).add k)).toNat
          let was := (s.mem.dram.read a).toNat
          (u.mem.dram.read a).toNat = (if mine (2 * k) then from_ % 16 else was % 16)
            + 16 * (if mine (2 * k + 1) then from_ / 16 else was / 16)) ∧
        (∀ k ∈ ks, ∀ g a, c.group k = some g → markAt k = some a → u.mem.dram.read a = g.entry) ∧
        ∀ a, some a ∉ cells → u.mem.dram.read a = s.mem.dram.read a)

/-- A block starts the step that R13 selects, and runs it until its time is over. At command-ready on a powered block
that is in service, idle and not under test: an owed check replay, or a referee's step, runs with the operands its
step fetched; a scale replay and a ready step of the best rank are fetched and run from now. The running step is the
one selected, under its owner's unit, and the block's step count rises by 1; a ready step of one operator is counted
as started. An uncorrectable word of the mapping store makes the mapping unusable instead. No byte of memory, no
channel and no other block's running step changes. While a step runs, at most one more step is fetched into the
block's queue of four, and nothing else changes. (Rests on R11, R13, R116, R117, R366, R371.) -/
def Obligations.StepsStart : Prop :=
  ∀ (s : State) (t : Time) (b : Fin 64) (f : MemFindings), s.phase = .ready → (s.block b).fenced = false →
    (s.block b).resetting = false → (s.block b).testing = false → (s.domain b).isOn = true →
    ((s.block b).running.isSome = true → f.store = false → ∃ u l, exec (.stepStart t b f) s = .next u ∧
      u = { s.begin t with blocks := u.blocks, fresh := u.fresh } ∧
      u.block b = { s.block b with lookahead := (s.block b).lookahead ++ l } ∧ l.length ≤ 1 ∧
      (4 ≤ (s.block b).lookahead.length → l = []) ∧ ∀ n, n ≠ b.val → u.block n = s.block n) ∧
    ((s.block b).running = none →
    let r := s.begin t
    let runs (u : State) (o : Owner) (k : StepKind) (st : Step) (id : BitVec 32 × Nat) : Prop := ∃ w,
      (u.block b).running = some w ∧ w.owner = o ∧ w.kind = k ∧ w.step = st ∧ w.unit = id ∧ w.start = r.time ∧
      (u.block b).steps = (s.block b).steps + 1 ∧ (∀ n, n ≠ b.val → (u.block n).running = (s.block n).running) ∧
      u.mem = s.mem ∧ u.spad = s.spad ∧ u.pool = s.pool ∧ u.channels = s.channels
    (∀ w, r.choose b = some (.checkReplay w) → ∃ u, exec (.stepStart t b f) s = .next u ∧
      runs u w.run.owner .checkReplay w.run.step w.run.unit) ∧
    (∀ y w, r.choose b = some (.referee y w) → ∃ u, exec (.stepStart t b f) s = .next u ∧
      runs u w.run.owner (.refereeFor y) w.run.step w.run.unit) ∧
    (∀ c k i st, r.choose b = some (.scale c k i st) → ∃ u, exec (.stepStart t b f) s = .next u ∧
      runs u c.o .scaleReplay st c.run.id) ∧
    (∀ c ops, r.choose b = some (.step c ops) → f.store = true → ∃ u, exec (.stepStart t b f) s = .next u ∧
      (u.mapping c.thread.mapping).unusable = true ∧ (u.block b).running = none) ∧
    (∀ c i st, r.choose b = some (.step c [i]) → f.store = false → (c.walk i)[c.startedOf i]? = some st →
      let r' := if st.first && (c.op i).isMultiplier then r.countTile c st else r
      ∀ c' st', r'.ctx c.b c.o = some c' → (c'.walk i)[c'.startedOf i]? = some st' →
        ∃ u, exec (.stepStart t b f) s = .next u ∧ runs u c.o .normal st' c'.run.id ∧
          ∃ th x, (u.block b).threadOf c.o = some th ∧ th.unit = some x ∧
            Tab.get (fun _ => 0) x.started i = c'.startedOf i + 1))

/-- The sums of a step enter its accumulators when it ends; a failed check owes a replay; a scale group retires. At
command-ready, before the running step's time is over nothing but time changes. When a step of a MATMUL or CONV ends
clean, with its unit still there, the block runs nothing, and each element of the step with one sum holds the
Isauri-40 sum of what it held, or of its bias, and that sum; an element that the step has no sum for keeps its
accumulator, or, where it had none and is finished, holds its bias; elements of other operators and owners stay. When
the comparison of a checked step fails, its replay is owed and no accumulator changes; a single lane error that is no
multiple of 31 fails it. A scale group whose codes are emitted and that owes no replay retires: FLAT counts in
ARITH_COUNTERS word 2 and its clipped codes in word 5, and a CARRIED group's shift entry is written to its home in the
scratchpad; every other scratchpad byte, the pool and DRAM stay. (Rests on R13, R98, R99, R107, R116, R368, R371,
R401.) -/
def Obligations.StepsEndAndGroupsRetire : Prop :=
  (∀ (s : State) (t : Time) (b : Fin 64) (f : StepFinding) (w : Running), s.phase = .ready →
    (s.block b).running = some w →
    let r := s.begin t
    (w.isOver r.now = false → exec (.stepEnd t b f) s = .next r) ∧
    (w.isOver r.now = true →
      (∀ c, w.kind = .normal → w.group = none → w.poisoned = false → r.ctx b w.owner = some c → c.run.id = w.unit →
        ((c.op w.step.op).isMatmul || (c.op w.step.op).isConv) = true →
        (∀ a ∈ w.sums, a.1.op = w.step.op) → w.step.op < 65536 →
        ∃ u, exec (.stepEnd t b .clean) s = .next u ∧ (u.block b).running = none ∧
          (∀ e n x, (w.sums.filter fun a => a.1 == e) = [(e, n, x)] → (u.block b).accOf w.owner e =
            some (addI40 (((s.block b).accOf w.owner e).getD (c.startValue e)) n x).1) ∧
          (∀ o e, o ≠ w.owner ∨ e.op ≠ w.step.op → (u.block b).accOf o e = (s.block b).accOf o e) ∧
          (∀ e, e.op = w.step.op → (w.sums.all fun a => a.1 != e) = true →
            ((u.block b).accOf w.owner e).getD (c.startValue e) = ((s.block b).accOf w.owner e).getD (c.startValue e) ∧
            (e ∉ completedBy (c.walk w.step.op) w.index → (u.block b).accOf w.owner e = (s.block b).accOf w.owner e)) ∧
          ∀ n, n ≠ b.val → u.block n = s.block n) ∧
      (∀ es cells tree, w.kind = .normal → w.checked = true → w.compare es = some (cells, tree) → ∃ u ow,
        exec (.stepEnd t b (.lanes es)) s = .next u ∧ (u.block b).running = none ∧
        (u.block b).owed = some ow ∧ ow.run = w ∧ ow.referee = false ∧ ow.cells = cells ∧ ow.tree = tree ∧
        (u.block b).acc = (s.block b).acc ∧ u.spad = s.spad ∧ u.mem = s.mem ∧ u.pipes = s.pipes))) ∧
  (∀ (w : Running) (e : LaneError), e.off.emod 31 ≠ 0 → (w.compare [e]).isSome = true) ∧
  ∀ (s : State) (t : Time) (b : Fin 64) (o : Owner) (k : GroupKey) (c : Ctx) (g : Group), s.phase = .ready →
    (s.block b).fenced = false → (s.begin t).ctx b o = some c → c.group k = some g → g.retired = false →
    g.emitted.isSome = true → g.replaying = false →
    let sat (x : BitVec 32) (n : Nat) : BitVec 32 := BitVec.ofNat 32 (min (2 ^ 32 - 1) (x.toNat + n))
    let home := (s.begin t).homeEntry c (c.tensor k.op .out) k.fold k.cb k.row k.grp
    ∃ u, exec (.groupRetire t b o k) s = .next u ∧
      (∀ m, (u.block b).arith.get m = sat ((s.block b).arith.get m)
        (if m = 2 then (if g.flat then 1 else 0) else if m = 5 then g.clipped else 0)) ∧
      (∀ a, (c.op k.op).carried = true → home = some (.spad a) →
        u.spad.read (spadAddr b 0 + a) = g.entry ∧ ∀ x, x ≠ spadAddr b 0 + a → u.spad.read x = s.spad.read x) ∧
      ((c.op k.op).carried = false → u.spad = s.spad) ∧
      u.mem = s.mem ∧ u.pool = s.pool ∧ u.channels = s.channels ∧ u.ports = s.ports

/-- START_STREAM needs a stopped pipeline that is ready to run; STOP_STREAM ends one that streams. A taken
START_STREAM of a STOPPED pipeline with a source port, a LOADED mapping and no needed domain requested OFF is
ACCEPTED; the pipeline is STARTING and holds the command; otherwise NOT_PERMITTED. A taken STOP_STREAM of a STREAMING
pipeline with a result still to come leaves it STOPPING with its frame jobs, without exposure commands of heron units;
with none to come it is STOPPED at once and no block holds a thread of it. A pipeline that is not STREAMING is
answered NOT_PERMITTED. Stopping completes the command with OK and keeps the residencies. (Rests on R218, R219, R412,
R254.) -/
def Obligations.StreamsStartAndStop : Prop :=
  (∀ (q : Req) (s : State), s.takes (opRow 0x0490 4 true) q →
    let p := le q.params 0 1
    let x := s.pipe p
    let row := opRow 0x0490 4 true
    let off := (setBlocks x.setRegion x.setMask).any s.requestedOff || s.requestedOff (64 + x.setRegion)
      || s.requestedOff (68 + p)
    let good := decide (p < 24) && x.stream == .stopped && x.sourcePort.isSome && x.mapped
      && (s.mapping x.mappingId).state == .loaded && !off
    (good = true → ∃ u, exec (.startStream q) s = .next u ∧
      u = { s.served row q { status := Code.accepted } with pipes := u.pipes } ∧
      u.pipe p = { x with stream := .starting, ticket := some (row.ticket q) } ∧ ∀ n, n ≠ p → u.pipe n = s.pipe n) ∧
    (good = false → exec (.startStream q) s = .next (s.served row q (.err Code.notPermitted)))) ∧
  (∀ (q : Req) (s : State), s.takes (opRow 0x0491 4 true) q →
    let p := le q.params 0 1
    let x := s.pipe p
    let row := opRow 0x0491 4 true
    ((24 ≤ p ∨ x.stream ≠ .streaming) →
      exec (.stopStream q) s = .next (s.served row q (.err Code.notPermitted)).settleStops) ∧
    (p < 24 → x.stream = .streaming → (x.frames.any fun j => !j.delivered) = true → ∃ u,
      exec (.stopStream q) s = .next u ∧ (u.pipe p).stream = .stopping ∧ (u.pipe p).ticket = some (row.ticket q) ∧
      (u.pipe p).frames = x.frames ∧ (u.pipe p).exposures = x.exposures.filter (fun e => !e.unit.isSome) ∧
      u.mem = s.mem ∧ u.spad = s.spad ∧ u.pool = s.pool) ∧
    (p < 24 → x.stream = .streaming → (x.frames.all fun j => j.delivered) = true → ∃ u,
      exec (.stopStream q) s = .next u ∧ (u.pipe p).stream = .stopped ∧ (u.pipe p).ticket = none ∧
      (∀ h, p = h.val → ∀ b, b < 64 → ∀ th ∈ (u.block b).threads, th.owner ≠ .pipeline h) ∧
      u.keepsMemory s ∧ u.spad = s.spad ∧ u.pool = s.pool)) ∧
  ∀ (s : State) (h : Fin 24) (k : Ticket), (s.pipe h).ticket = some k →
    (s.stopped h).completed k Code.ok [] ∧ ((s.stopped h).pipe h).stream = .stopped ∧
    ∀ b, ((s.stopped h).block b).residents = (s.block b).residents

/-- At D(s) a stripe that is not final is cancelled and substituted, once its last fallback row is final. At
command-ready, at or after the deadline of a stripe that is neither final nor waiting: it is cancelled. With all its
fallback rows final it becomes final with FENCED, POISON or LATE, the code Table 08-1 gives it, never NEURAL, and that
code's STRIPE_COUNTERS word rises by 1. With a fallback row missing it is not final; it waits and FALLBACK_WAITS rises
by 1; when that row is final, the stripe becomes final with the code Table 08-1 then gives it, never NEURAL. Before
the deadline, and for a stripe that is final, only time passes. No byte of memory and no channel changes. (Rests on
R211.) -/
def Obligations.StripesBecomeFinalAtTheirDeadline : Prop :=
  (∀ (s : State) (t : Time) (p : Fin 24) (frame : BitVec 32) (i : Nat) (j : FrameJob) (st : Stripe), s.phase = .ready →
    (s.pipe p).job frame = some j → j.stripe i = some st →
    let r := s.begin t
    let code := if r.codeNow p j i = .neural then .late else r.codeNow p j i
    let up (x : BitVec 32) : BitVec 32 := BitVec.ofNat 32 (min (2 ^ 32 - 1) (x.toNat + 1))
    ((st.final ≠ none ∨ st.waiting = true ∨ r.now < st.deadline) →
      exec (.stripeDeadline t p frame i) s = .next r) ∧
    (st.final = none → st.waiting = false → st.deadline ≤ r.now → ∃ u j' st',
      exec (.stripeDeadline t p frame i) s = .next u ∧ (u.pipe p).job frame = some j' ∧ j'.stripe i = some st' ∧
      st'.cancelled = true ∧ code ≠ .neural ∧
      (j.fallbackReady i = true → st'.final = some code ∧ st'.waiting = false ∧
        (u.pipe p).stripeCounters.get (provCode code) = up ((s.pipe p).stripeCounters.get (provCode code))) ∧
      (j.fallbackReady i = false → st'.final = none ∧ st'.waiting = true ∧
        (u.pipe p).stripeCounters.get 6 = up ((s.pipe p).stripeCounters.get 6)) ∧
      (∀ k, k ≠ i → j'.stripe k = j.stripe k) ∧ (∀ n, n ≠ p.val → u.pipe n = s.pipe n) ∧
      u.mem = s.mem ∧ u.spad = s.spad ∧ u.pool = s.pool ∧ u.channels = s.channels)) ∧
  ∀ (s : State) (p : Fin 24) (frame : BitVec 32) (i : Nat) (j : FrameJob) (st : Stripe),
    (s.pipe p).job frame = some j → j.stripe i = some st → st.waiting = true → j.fallbackReady i = true →
    ∃ j' st', ((s.fallbackFinal p frame i).pipe p).job frame = some j' ∧ j'.stripe i = some st' ∧
      st'.final = some (if s.codeNow p j i = .neural then .late else s.codeNow p j i)

/-- LAUNCH_JOB numbers and queues a job; a held job starts by rank; CANCEL_JOB and JOB_END end one. A taken LAUNCH_JOB
whose mapping is LOADED, whose fields are in range, whose mask is not 0 and that needs no domain requested OFF is
ACCEPTED with JOB; JOB counts on past 0xFFFF_FFFF to 1; else NOT_PERMITTED. A held job with free slots and its domains
on, outranked by no held job that names one of its blocks, is placed and runs; outranked, it stays. CANCEL_JOB gives a
held or running job that has not ended the status JOB_CANCELLED, else NOT_PERMITTED, and held jobs with a status end
at once. A job that is over ends, unless DRAM does not take its write-back: no block holds a thread of it, no cached
line of its region is dirty if it ran, and its command completes with its status. (Rests on R20, R323, R335, R336,
R254, R134.) -/
def Obligations.JobsLaunchWaitAndEnd : Prop :=
  (∀ (q : Req) (s : State), s.takes (opRow 0x04A0 8 true) q →
    let id := le q.params 0 2
    let x := le q.params 2 1
    let mask := le q.params 4 2
    let row := opRow 0x04A0 8 true
    let good := decide (id ≤ 1023) && (s.mapping id).state == .loaded && decide (x ≤ 3) && mask != 0
      && decide (le q.params 6 1 ≤ 6) && !((setBlocks x mask).any s.requestedOff || s.requestedOff (64 + x))
    (good = true → exec (.launchJob q) s = .next { s.served row q { status := Code.accepted, data := leBytes 4 s.nextJob.toNat } with
      nextJob := if s.nextJob = 0xFFFF_FFFF then 1 else s.nextJob + 1
      jobs := s.jobs ++ [{ id := s.nextJob, ticket := row.ticket q, mapping := id, region := x, priority := le q.params 3 1 % 16
                           mask := BitVec.ofNat 16 mask, check := le q.params 6 1, collision := s.jobCollision.setWidth 2
                           created := (s.begin q.time).time, state := .placing, start := 0, endStatus := none
                           firstStatus := 0, statusEvents := 0 }] }) ∧
    (good = false → exec (.launchJob q) s = .next (s.served row q (.err Code.notPermitted)))) ∧
  (∀ (s : State) (t : Time) (k : BitVec 32) (j : Job), s.phase = .ready → s.jobOf k = some j → j.state = .held →
    j.endStatus = none → (s.begin t).slotsShort k = false → (s.begin t).domainsOn (.job k) = true →
    (s.begin t).placeBusy (.job k) = false →
    let r := (s.begin t).updJob k fun j => { j with state := .placing }
    ((s.jobs.any fun b => (s.begin t).blocksHeld j b) = true → exec (.heldJobStart t k) s = .next (s.begin t)) ∧
    ((s.jobs.any fun b => (s.begin t).blocksHeld j b) = false → r.placeReport (.job k) = none → r.toCopy (.job k) = [] →
      ∃ u, exec (.heldJobStart t k) s = .next u ∧
        u.jobs = (r.jobs.map fun x => if x.id == k then { x with state := .running, start := r.time } else x) ∧
        (∀ b ∈ r.targets (.job k), ∃ th ∈ (u.block b).threads, th.owner = .job k ∧ th.mapping = j.mapping) ∧
        u.mem = s.mem ∧ u.spad = s.spad)) ∧
  (∀ (q : Req) (s : State), s.takes (opRow 0x04A1 4) q →
    let k := BitVec.ofNat 32 (le q.params 0 4)
    let cut (x : State) : State := x.updJob k fun j => { j with endStatus := some Code.jobCancelled }
    (∀ j, s.jobOf k = some j → j.endStatus = none → j.state ≠ .placing →
      exec (.cancelJob q) s = .next (cut (s.served (opRow 0x04A1 4) q .ok)).settleHeld) ∧
    ((s.jobOf k = none ∨ ∃ j, s.jobOf k = some j ∧ (j.endStatus.isSome = true ∨ j.state = .placing)) →
      exec (.cancelJob q) s = .next (s.served (opRow 0x04A1 4) q (.err Code.notPermitted)).settleHeld)) ∧
  (∀ s : State, ∀ x ∈ s.settleHeld.jobs, x.state = .held → x.endStatus = none) ∧
  (∀ (s : State) (t : Time) (k : BitVec 32) (j : Job), s.phase = .ready → s.jobOf k = some j →
    (s.begin t).jobOver j = true →
    let waits := decide (j.state = .running) && (s.begin t).writeBackWaits j.region
    (waits = true → exec (.jobEnd t k) s = .next (s.begin t)) ∧
    (waits = false → exec (.jobEnd t k) s = .next ((s.begin t).endJob (if j.endStatus.isNone && (s.mapping j.mapping).unusable then
      { j with endStatus := some Code.poisonConsumed } else j)))) ∧
  ∀ (s : State) (j : Job), let u := s.endJob j
    u.jobs = (s.jobs.filter fun x => x.id != j.id) ∧
    (∀ b, b < 64 → ∀ th ∈ (u.block b).threads, th.owner ≠ .job j.id) ∧
    (j.state = .running → ∀ l ∈ (u.region j.region).cache, l.dirty = false) ∧
    u.completed j.ticket j.status (jobBytes j none s.time) ∧ u.spad = s.spad ∧ u.pool = s.pool

/-- LOAD_SCALER, and the writing of stripes, detections and the completion record of a result. A taken LOAD_SCALER of
pipeline 0 to 23 whose coefficients lie in -512 to 511 and sum to 256 in each phase sets the pipeline's shadow table;
else NOT_PERMITTED and nothing changes. At command-ready: a final stripe not yet written is written once, and its
result begun if a form is on; blocks, scratchpads, pools and channels stay, and with no form on all memory. With forms
on and no error on the way, every byte of a row that lies in DRAM, at the address of its slot in the output area
(BASE, slot pitch and row pitch), holds the row's byte unless another byte of the result goes to the same address, and
DRAM elsewhere stays, but for the coding marker's eight bytes. The heads of a NEURAL stripe are read once; its
candidates join the frame's, each with a box of positive size. The first frame in order whose heads are done gets its
list; on an error it has none and CHECK_ERROR. The map of a complete result is sent, and once no peer owes it an
answer the result is delivered: RESULT_PRODUCER and RESULTS_DELIVERED advance, and a record in host memory is one
write of 64 bytes. (Rests on R26, R230, R235, R236, R239, R241, R242, R246, R374.) -/
def Obligations.OutputsAreWritten : Prop :=
  (∀ (q : Req) (s : State), s.takes (opRow 0x0B10 516) q →
    let p := le q.params 0 1
    let v := (List.range 256).map fun k => le q.params (4 + 2 * k) 2
    let good := decide (p < 24) && (v.all fun x => decide (-512 ≤ toSigned 16 x) && decide (toSigned 16 x ≤ 511))
      && (List.range 64).all fun f => (((slice v (4 * f) 4).map (toSigned 16)).sum : Int) == 256
    (good = true → ∃ u, exec (.loadScaler q) s = .next u ∧ u = { s.served (opRow 0x0B10 516) q .ok with pipes := u.pipes } ∧
      u.pipe p = { s.pipe p with shadowChanged := true, shadow := { (s.pipe p).shadow with
        scaler := some (v.map (BitVec.ofNat 16)) } } ∧ ∀ n, n ≠ p → u.pipe n = s.pipe n) ∧
    (good = false → exec (.loadScaler q) s = .next (s.served (opRow 0x0B10 516) q (.err Code.notPermitted)))) ∧
  (∀ (s : State) (t : Time) (p : Fin 24) (f : BitVec 32) (i : Nat) (j : FrameJob) (st : Stripe), s.phase = .ready →
    (s.pipe p).job f = some j → j.stripe i = some st →
    (∀ err m, st.written = false → st.final.isSome = true →
      ((s.begin t).stripeVas p j i (st.final == some .neural)).any (s.begin t).deviceWaits = false → ∃ u j' st',
      exec (.outputStripeWrite t p f i err m) s = .next u ∧ (u.pipe p).job f = some j' ∧
      ((j.settings.codingEn || j.settings.displayEn || j.settings.mvEn) = true → j'.begun = true) ∧ j'.stripe i = some st' ∧ st'.written = true ∧ st'.fbSlot = none ∧
      u.blocks = s.blocks ∧ u.spad = s.spad ∧ u.pool = s.pool ∧ u.channels = s.channels ∧ u.ports = s.ports ∧
      (j.settings.codingEn = false → j.settings.displayEn = false → j.settings.mvEn = false → u.mem = s.mem)) ∧
    (∀ c, st.written = false → st.final = some c →
      ((s.begin t).stripeVas p j i (c == .neural)).any (s.begin t).deviceWaits = false → s.mem.mapChanges = [] →
      let r := s.begin t
      let on := j.settings.codingEn || j.settings.displayEn || j.settings.mvEn
      let b := if on then r.beginResult p f else r
      let b := if j.settings.codingEn && !(j.stripes.any fun st => st.written) then b.writeMarker p j 0 .none else b
      let rows := (b.stripeRuns p j i (c == .neural) .none).1
      let x := s.pipe p
      let ps := outPieces rows.1 ++ outPieces rows.2
      let all := ps ++ if j.settings.codingEn then outPieces [(x.slotAt j 0 + x.offB 0, zeros 8, false)] else []
      let home (y : OutPiece) (a : Nat) : Prop := ∃ pa k, r.translate (64 * y.1 + y.2.1) true = .local_ pa k ∧
        64 * (pa / 64) + y.2.1 ≤ a ∧ a < 64 * (pa / 64) + y.2.1 + y.2.2.1.length
      ∃ u, exec (.outputStripeWrite t p f i false .none) s = .next u ∧
        (∀ a, (∀ y ∈ all, ¬ home y a) → u.mem.dram.read a = s.mem.dram.read a) ∧
        ∀ y ∈ ps, ∀ pa k n, r.translate (64 * y.1 + y.2.1) true = .local_ pa k → n < y.2.2.1.length →
          (∀ z ∈ all, home z (64 * (pa / 64) + y.2.1 + n) → z = y) →
          u.mem.dram.read (64 * (pa / 64) + y.2.1 + n) = y.2.2.1.getD n 0) ∧
    (∀ err m, st.written = true → exec (.outputStripeWrite t p f i err m) s = .next (s.begin t)) ∧
    (∀ m, j.settings.detEn = true → st.headsRead = false → st.final = some .neural →
      ((s.begin t).headVas p).any (s.begin t).deviceWaits = false → ∃ u j' st' cs,
      exec (.headRowsRead t p f i m) s = .next u ∧ (u.pipe p).job f = some j' ∧ j'.stripe i = some st' ∧
      st'.headsRead = true ∧ j'.candidates = j.candidates ++ cs ∧ j'.candCount = j.candCount + cs.length ∧
      (∀ c ∈ cs, c.x0 < c.x1 ∧ c.y0 < c.y1 ∧ c.stripe = i) ∧ (m = .none → u.mem.dram = s.mem.dram) ∧ u.blocks = s.blocks)) ∧
  (∀ (s : State) (t : Time) (r : Fin 4) (q : Nat) (j : FrameJob), s.phase = .ready →
    bestRanked (s.detectionQueue r) = some (q, j) → j.headsDone = true → j.delivered = false →
    (s.begin t).deviceWaits (((s.begin t).pipe q).slotAt j 3) = false →
    ∀ x, ∃ u j', exec (.detectionPostprocess t r x) s = .next u ∧ (u.pipe q).job j.frame = some j' ∧
      j'.detDone = true ∧ j'.candidates = [] ∧
      (x.err = true → j'.checkError = true ∧ (u.region r).detErrorFrame = some (q, j.frame) ∧ u.mem = s.mem) ∧
      (x.err = false → j'.detValid = true ∧ j'.detCount ≤ min 4096 j.settings.maxDet ∧
        (u.region r).detErrorFrame = none) ∧ u.spad = s.spad ∧ u.blocks = s.blocks) ∧
  ∀ (s : State) (t : Time) (p : Fin 24) (j : FrameJob) (m : MemFindings), s.phase = .ready →
    (s.pipe p).nextResult = some j → s.resultReady p j = true → j.mapSent = false → j.recordSent = false →
    (s.pipe p).recordVas.any (s.begin t).deviceWaits = false →
    (j.idle = true ∨ (s.begin t).writeBackWaits (s.pipe p).setRegion = false) →
    let va := (s.pipe p).compBase + 64 * j.slot
    ∃ u, exec (.completionRecordWrite t p m) s = .next u ∧ u.spad = s.spad ∧ u.pool = s.pool ∧
      (∀ x ∈ (u.pipe p).frames, x.frame = j.frame → x.delivered = false → x.mapSent = true) ∧
      (u.outputsLanded p j.frame = true → (u.pipe p).outProducer = j.frame + 1 ∧
      (u.pipe p).outCounters.get 0 = BitVec.ofNat 32 (min (2 ^ 32 - 1) (((s.pipe p).outCounters.get 0).toNat + 1)) ∧
      (∀ x ∈ (u.pipe p).frames, x.frame = j.frame → x.delivered = true) ∧
      ∀ a, m = .none → va % 64 = 0 → (s.begin t).translate va true = .host a → s.mem.pcieLink = true → ∃ o w,
        .hostWrite (BitVec.ofNat 52 a) (FrameJob.completion { j with begun := true, overrun := o, writeFault := w } p
          ((s.pipe p).provBase + 320 * j.slot) (s.begin t).time) false ∈ u.out)

/-- SLUICE_START starts a channel, SLUICE_HALT halts one, and a fetched burst enters the buffer. A taken SLUICE_START
of an IDLE or HALTED channel, with aligned addresses, a legal vector, contexts that name a streaming pipeline or a
running job with a thread on the block, and no needed domain requested OFF, is ACCEPTED: the channel is RUNNING at PC
0 with the operands; else NOT_PERMITTED. A taken SLUICE_HALT of a channel that is neither IDLE nor HALTED leaves it
HALTED with status OK, its command completing with the six CHANNEL_STATUS words; of an IDLE or HALTED one changes
nothing. At command-ready, powered, running and with DRAM serving, a clean burst that is fetched enters the buffer
beside that of PC; a poisoned one halts the channel with POISON_CONSUMED, one from a closed peer with WINDOW_CLOSED.
(Rests on R252, R253, R254, R255.) -/
def Obligations.SluiceProgramsStartHaltAndFetch : Prop :=
  (∀ (q : Req) (s : State), s.takes (opRow 0x0510 32 true) q →
    let p := q.params
    let b := le p 0 1
    let c := 16 * b + le p 1 1
    let row := opRow 0x0510 32 true
    let y : Channel := { s.channel c with
      state := .running, status := 0, pc := 0, ownerKind := BitVec.ofNat 8 (le p 2 1), owner := BitVec.ofNat 32 (le p 4 4)
      ringKind := BitVec.ofNat 8 (le p 3 1), ringOwner := BitVec.ofNat 32 (le p 8 4), vector := BitVec.ofNat 16 (le p 12 2)
      program := BitVec.ofNat 64 (le p 16 8), shapes := BitVec.ofNat 64 (le p 24 8), ticket := some (row.ticket q), loops := []
      bursts := [], shapeCache := [], waitKind := 0xFF, waitArg := 0, resume := none, position := 0, faultDst := false
      faultAddr := 0, faultDue := false }
    let good := decide (b < 64) && decide (le p 1 1 < 16) && (decide (le p 12 2 < 2048) || le p 12 2 == 0xFFFF)
      && ((s.channel c).state == .idle || (s.channel c).state == .halted) && le p 16 8 % 256 == 0 && le p 24 8 % 64 == 0
      && s.mayName (le p 2 1) (le p 4 4) && s.mayName (le p 3 1) (le p 8 4)
      && y.context.all (fun o => ((s.block b).threadOf o).isSome) && !s.requestedOff b && !s.requestedOff (64 + b / 16)
    (good = true → ∃ u, exec (.sluiceStart q) s = .next u ∧
      u = { s.served row q { status := Code.accepted } with channels := u.channels } ∧
      u.channel c = y ∧ ∀ n, n ≠ c → u.channel n = s.channel n) ∧
    (good = false → exec (.sluiceStart q) s = .next (s.served row q (.err Code.notPermitted)))) ∧
  (∀ (q : Req) (s : State), s.takes (opRow 0x0511 4) q →
    let c := 16 * le q.params 0 1 + le q.params 1 1
    let x := s.channel c
    let row := opRow 0x0511 4
    ((63 < le q.params 0 1 ∨ 15 < le q.params 1 1) →
      exec (.sluiceHalt q) s = .next (s.served row q (.err Code.notPermitted))) ∧
    (le q.params 0 1 ≤ 63 → le q.params 1 1 ≤ 15 → (x.state = .idle ∨ x.state = .halted) →
      exec (.sluiceHalt q) s = .next (s.served row q .ok)) ∧
    (le q.params 0 1 ≤ 63 → le q.params 1 1 ≤ 15 → x.state ≠ .idle → x.state ≠ .halted → ∃ u,
      exec (.sluiceHalt q) s = .next u ∧ (u.channel c).state = .halted ∧ (u.channel c).status = Code.ok ∧
      (u.channel c).ticket = none ∧ (u.channel c).pc = x.pc ∧
      (∀ k, x.ticket = some k → u.completed k Code.ok (leBytes 48 (u.channel c).statusWords)) ∧
      (∀ n, n ≠ c → u.channel n = s.channel n) ∧ u.keepsMemory s ∧ u.spad = s.spad ∧ u.blocks = s.blocks)) ∧
  ∀ (s : State) (t : Time) (c : Fin 1024) (f : MemFindings) (n : Nat), s.phase = .ready →
    (s.begin t).blockOn (c.val / 16) = true → (s.block (c.val / 16)).fenced = false → (s.channel c).state = .running →
    (s.channel c).faultDue = false → (s.channel c).wantBurst = some n →
    let x := s.channel c
    let va := x.program.toNat + 256 * n
    let y := ((s.begin t).countSluice c (grantClass [va] false) 1).readBurst c va f
    ((s.begin t).deviceWaits va = true → exec (.instructionFetch t c false f) s = .next (s.begin t)) ∧
    ((s.begin t).deviceWaits va = false →
    (∀ d, y.1 = .data d false → ∃ u, exec (.instructionFetch t c false f) s = .next u ∧
      u.channel c = x.keepBurst n d ∧ (∀ b ∈ x.bursts, b.1 = x.pc / 16 → b.1 ≠ n → ∃ b' ∈ (u.channel c).bursts, b'.1 = b.1) ∧
      ∀ k, k ≠ c.val → u.channel k = s.channel k) ∧
    (∀ d, y.1 = .data d true → ∃ u, exec (.instructionFetch t c false f) s = .next u ∧
      (u.channel c).state = .halted ∧ (u.channel c).status = Code.poisonConsumed) ∧
    (y.1 = .refused → ∃ u, exec (.instructionFetch t c false f) s = .next u ∧
      (u.channel c).state = .halted ∧ (u.channel c).status = Code.windowClosed) ∧
    (∀ a, y.1 = .fault a → ∃ u, exec (.instructionFetch t c false f) s = .next u ∧
      (u.channel c).faultAddr = BitVec.ofNat 36 a ∧ (u.channel c).faultDst = false ∧ (u.channel c).position = 0 ∧
      ((u.channel c).state = .faulted ∨ (u.channel c).faultDue = true)))

/-- LOOP, ENDLOOP, END and the SIGNALs of a sluice program. For a running channel whose instruction at PC is in its
buffer, below PC 65,535: a legal LOOP with fewer than four loops open opens one and goes on; ENDLOOP of a loop with
passes left goes back to the start with its index one higher, else closes it and goes on; an illegal one halts the
channel with NOT_PERMITTED or SLUICE_MISALIGNED. Once every MOVE is complete, END halts with OK; a legal RING_ADVANCE
moves HEAD or TAIL of its ring, and a HEAD's advance gives back slots that a cancelled unit still owes (log 114);
EVENT sets its flag; COMPLETION makes an event on port A with an MSI-X message when its vector names one; each goes
on. Other channels stay, and memory but for a masked vector's pending bit. The event's code is the model's constant
(log 14), and the halt of the reserved opcodes 6 to 15 through END's row its choice (log 23). (Rests on R255, R256,
R262, R265, R266, R270.) -/
def Obligations.SluiceControlFlow : Prop :=
  ∀ (s : State) (t : Time) (c : Fin 1024) (i : List Byte), s.phase = .ready → (s.block (c.val / 16)).fenced = false →
    (s.channel c).state = .running → (s.channel c).faultDue = false → (s.channel c).instr = some i →
    let r := s.begin t
    let x := s.channel c
    let b := c.val / 16
    let next (y : Channel) : Channel := { y with pc := x.pc + 1, state := .running, waitKind := 0xFF, waitArg := 0 }
    let only (u : State) (y : Channel) : Prop :=
      u = { r with channels := u.channels } ∧ u.channel c = y ∧ ∀ n, n ≠ c.val → u.channel n = s.channel n
    let halts (op : Instr) (st : BitVec 16) : Prop :=
      ∃ u, exec op s = .next u ∧ (u.channel c).state = .halted ∧ (u.channel c).status = st ∧ (u.channel c).pc = x.pc
    (opOf i = 2 →
      ((le i 0 1 ≠ 2 ∨ le i 1 3 ≠ 0 ∨ 4 ≤ x.loops.length) → halts (.loop t c) Code.notPermitted) ∧
      (le i 0 1 = 2 → le i 1 3 = 0 → x.loops.length < 4 → (le i 8 4 % 64 ≠ 0 ∨ le i 12 4 % 64 ≠ 0) →
        halts (.loop t c) Code.sluiceMisaligned) ∧
      (le i 0 1 = 2 → le i 1 3 = 0 → x.loops.length < 4 → le i 8 4 % 64 = 0 → le i 12 4 % 64 = 0 → x.pc < 65535 →
        let l : OpenLoop := ⟨x.pc + 1, BitVec.ofNat 32 (le i 4 4), 0, toSigned 32 (le i 8 4), toSigned 32 (le i 12 4)⟩
        ∃ u, exec (.loop t c) s = .next u ∧ only u (next { x with loops := x.loops ++ [l] }))) ∧
    (opOf i = 3 →
      ((x.loops = [] ∨ le i 0 1 ≠ 3 ∨ le i 1 15 ≠ 0) → halts (.endLoop t c) Code.notPermitted) ∧
      (∀ l rest, x.loops = rest ++ [l] → le i 0 1 = 3 → le i 1 15 = 0 →
        ((l.count = 0 ∨ l.iter.toNat + 1 < l.count.toNat) → ∃ u, exec (.endLoop t c) s = .next u ∧
          only u { x with loops := rest ++ [{ l with iter := l.iter + 1 }], pc := l.start }) ∧
        (l.count ≠ 0 → l.count.toNat ≤ l.iter.toNat + 1 → x.pc < 65535 → ∃ u, exec (.endLoop t c) s = .next u ∧
          only u (next { x with loops := rest })))) ∧
    (opOf i = 0 → le i 0 1 = 0 → x.moves = [] → halts (.endProgram t c) Code.ok) ∧
    (opOf i = 0 → le i 0 1 = 0 → x.moves ≠ [] → exec (.endProgram t c) s = .next r) ∧
    ((opOf i = 0 ∧ le i 0 1 ≠ 0 ∨ 5 < opOf i) → halts (.endProgram t c) Code.notPermitted) ∧
    (opOf i = 5 → le i 0 1 = 5 → le i 10 6 = 0 → x.moves = [] → x.pc < 65535 →
      (∀ k g, kindOf i = 0 → r.advanceLegal c i = true → r.contextRing c b (le i 2 2) = some (k, g) →
        ∃ u, exec (.ringAdvance t c) s = .next u ∧ u = { r with channels := u.channels, blocks := u.blocks } ∧
          u.channel c = next x ∧ (∀ n, n ≠ c.val → u.channel n = s.channel n) ∧ (∀ n, n ≠ b → u.block n = s.block n) ∧
          ((g.kind = 2 → g.owes = 0) → (u.block b).ring k = some
            (if g.kind = 2 then { g with head := g.head + BitVec.ofNat 16 (le i 4 4), moved := r.time, channel := some c.val }
              else { g with tail := g.tail + BitVec.ofNat 16 (le i 4 4), moved := r.time, channel := some c.val })) ∧
          (g.kind = 2 → ∃ g', (u.block b).ring k = some g' ∧ g'.head = g.head + BitVec.ofNat 16 (le i 4 4) ∧
            g'.tail = g.tail + BitVec.ofNat 16 (min (g.head + BitVec.ofNat 16 (le i 4 4) - g.tail).toNat g.owes))) ∧
      (kindOf i = 1 → le i 2 1 < 64 → (le i 3 1 < 16 ∨ le i 3 1 = 0xFF) → le i 4 6 = 0 →
        let n := if le i 3 1 = 0xFF then b else c.val / 256 * 16 + le i 3 1
        ∃ u, exec (.signalEvent t c) s = .next u ∧ u = { r with channels := u.channels, blocks := u.blocks } ∧
          u.channel c = next x ∧ (∀ k, k ≠ n → u.block k = s.block k) ∧
          u.block n = { s.block n with events := (s.block n).events ||| BitVec.ofNat 64 (2 ^ le i 2 1) }) ∧
      (kindOf i = 2 → le i 2 2 = 0 → (le i 8 2 < 2048 ∨ le i 8 2 = 0xFFFF) → ∃ u p,
        exec (.signalCompletion t c) s = .next u ∧ u.channel c = next x ∧ (u.ethOf .a).ring.getLast? = some p ∧
        p.flags = 3 ∧ p.opcode = Config.signalCode ∧ u.keepsMemory s ∧ u.blocks = s.blocks ∧
        (le i 8 2 < 2048 → s.mem.masked (le i 8 2) = false → s.mem.pcieLink = true → .msix (BitVec.ofNat 11 (le i 8 2)) ∈ u.out)))

/-- WAITs end at once or when their condition holds; a page fault times out; a deadlock ends its lowest job. For a
running channel with no incomplete MOVE and a legal WAIT at PC (below 65,535): if its condition holds the channel goes
on at once, an EVENT's flag being cleared; else it is WAITING on that kind and argument and nothing else changes. A
waiting channel goes on when its condition or its time has come; a MOVE that waits on its rings runs again when they
are ready; otherwise only time passes. A FAULTED channel halts with PAGE_FAULT_TIMEOUT once its time is over, counted
in FAULT_TIMEOUTS. Of stalled nodes the job of lowest rank ends with STREAM_DEADLOCK; without one the lowest of the
channels among them halts with it, and no other channel changes. (Rests on R264, R266, R270, R277, R280, R282, R268.)
-/
def Obligations.SluiceWaitsAndFaults : Prop :=
  (∀ (s : State) (t : Time) (c : Fin 1024) (i : List Byte), s.phase = .ready → (s.block (c.val / 16)).fenced = false →
    (s.channel c).state = .running → (s.channel c).faultDue = false → (s.channel c).instr = some i →
    (s.channel c).moves = [] → opOf i = 4 → le i 0 1 = 4 → (s.channel c).pc < 65535 →
    let r := s.begin t
    let x := s.channel c
    let waits (op : Instr) (k n m till : Nat) : Prop :=
      let y : Channel := { x with
        state := .waiting, waitKind := BitVec.ofNat 8 k, waitArg := BitVec.ofNat 32 n, waitN := BitVec.ofNat 32 m
        waitUntil := BitVec.ofNat 64 till, waitSince := r.time, watchdog := bits 47 32 s.sluiceConfig }
      ∃ u, exec op s = .next u ∧ (∀ n, n ≠ c.val → u.channel n = s.channel n) ∧
        ((r.setChannel c y).waitHolds c y = false → u = r.setChannel c y) ∧
        ((r.setChannel c y).waitHolds c y = true → u = { r with channels := u.channels, blocks := u.blocks } ∧
          u.channel c = { y with pc := x.pc + 1, state := .running, waitKind := 0xFF, waitArg := 0 } ∧
          ∀ b, u.block b = if k = 2 ∧ b = c.val / 16 then
            { s.block b with events := (s.block b).events &&& ~~~ BitVec.ofNat 64 (2 ^ n) } else s.block b)
    (kindOf i = 0 → r.ringLegal c 2 i = true → waits (.ringSpace t c) 0 (le i 2 2) (le i 4 4) 0) ∧
    (kindOf i = 1 → r.ringLegal c 3 i = true → waits (.ringData t c) 1 (le i 2 2) (le i 4 4) 0) ∧
    (kindOf i = 2 → le i 2 2 < 64 → le i 4 4 = 0 → le i 8 8 = 0 → waits (.waitEvent t c) 2 (le i 2 2) 0 0) ∧
    (kindOf i = 3 → le i 2 6 = 0 → waits (.timeAbs t c) 3 0 0 (le i 8 8)) ∧
    (kindOf i = 4 → le i 2 6 = 0 → waits (.timeRel t c) 4 0 0 (min (2 ^ 64 - 1) (r.now + le i 8 8)))) ∧
  (∀ (s : State) (t : Time) (c : Fin 1024), s.phase = .ready → (s.channel c).state = .waiting → (s.channel c).pc < 65535 →
    let r := s.begin t
    let x := s.channel c
    let goes (op : Instr) : Prop := ∃ u, exec op s = .next u ∧ (u.channel c).pc = x.pc + 1 ∧
      (u.channel c).state = .running ∧ (u.channel c).waitKind = 0xFF ∧ u.mem = s.mem ∧ u.spad = s.spad ∧ u.eth = s.eth
    (x.waitKind.toNat < 3 → r.waitHolds c x = true → goes (.waitConditionMet t c)) ∧
    (x.waitKind.toNat < 3 → r.waitHolds c x = false → exec (.waitConditionMet t c) s = .next r) ∧
    (∀ i, x.waitKind = 5 → x.instr = some i → r.moveReady c i = true → exec (.waitConditionMet t c) s =
      .next (r.setChannel c { x with state := .running, waitKind := 0xFF, waitArg := 0 })) ∧
    ((x.waitKind = 3 ∨ x.waitKind = 4) → x.waitUntil.toNat ≤ r.now → goes (.waitTimeReached t c)) ∧
    ((x.waitKind = 3 ∨ x.waitKind = 4) → r.now < x.waitUntil.toNat → exec (.waitTimeReached t c) s = .next r)) ∧
  (∀ (s : State) (t : Time) (c : Fin 1024), s.phase = .ready → (s.channel c).state = .faulted →
    (s.channel c).faultUntil ≤ (s.begin t).now → ∃ u, exec (.pageFaultTimeout t c) s = .next u ∧
      (u.channel c).state = .halted ∧ (u.channel c).status = Code.pageFaultTimeout ∧
      (u.region (c.val / 256)).sluice.get 5 =
        BitVec.ofNat 32 (min (2 ^ 32 - 1) (((s.region (c.val / 256)).sluice.get 5).toNat + 1))) ∧
  ∀ (s : State) (t : Time) (nodes : List WaitNode), let r := s.begin t
    (s.phase = .ready → r.stalled nodes = true →
      (∀ k f j, lastRanked (nodes.filterMap r.nodeJob) = some (.job k, f) → s.jobOf k = some j → j.endStatus = none →
        ∃ u, exec (.streamDeadlock t nodes) s = .next u ∧
          u.jobs = s.jobs.map fun x => if x.id == k then { x with endStatus := some (x.endStatus.getD Code.streamDeadlock) } else x) ∧
      (∀ p f, lastRanked (nodes.filterMap r.nodeJob) = some (.pipeline p, f) → ∃ u, exec (.streamDeadlock t nodes) s = .next u ∧
        ∀ j, (s.pipe p).job f = some j → ∃ j', (u.pipe p).job f = some j' ∧
          j'.jobStatus = (if j.jobStatus = 0 then Code.streamDeadlock else j.jobStatus) ∧
          ∀ st ∈ j'.stripes, st.final = none → st.cancelled = true) ∧
      (∀ n : Fin 1024, lastRanked (nodes.filterMap r.nodeJob) = none → WaitNode.channel n ∈ nodes →
        (∀ m : Fin 1024, WaitNode.channel m ∈ nodes → n.val ≤ m.val) → (s.channel n).state = .waiting →
        ∃ u, exec (.streamDeadlock t nodes) s = .next u ∧
          (u.channel n).state = .halted ∧ (u.channel n).status = Code.streamDeadlock ∧
          ∀ m, m ≠ n.val → u.channel m = s.channel m)) ∧
    (∀ n : Fin 1024, lastRanked (nodes.filterMap s.nodeJob) = none → WaitNode.channel n ∈ nodes →
      (∀ m : Fin 1024, WaitNode.channel m ∈ nodes → n.val ≤ m.val) → (s.channel n).state = .waiting →
      ((s.breakDeadlock nodes).channel n).state = .halted ∧ ((s.breakDeadlock nodes).channel n).status = Code.streamDeadlock ∧
      ∀ m, m ≠ n.val → (s.breakDeadlock nodes).channel m = s.channel m)

/-- A MOVE that fails a check halts, one whose rings are not ready waits, another is issued; a MOVE with all granules
written completes. For a running channel with a MOVE at PC whose shape is cached: a shape index above 63 or a failed
check halts the channel with that status; a MOVE whose rings are not ready waits; one that passes and is served stands
among the channel's MOVEs under the next number, and one that DRAM does not serve waits. A MOVE of one granule within
the own scratchpad of a block that takes lines copies exactly 64 bytes, is issued and goes on, and no other scratchpad
byte, no DRAM and no pool changes. MOVE_COMPLETE removes the oldest MOVE all of whose granules are written. (Rests on
R259, R266, R267, R271.) -/
def Obligations.MovesIssueAndComplete : Prop :=
  (∀ (s : State) (t : Time) (c : Fin 1024) (f : MemFindings) (i : List Byte), s.phase = .ready → (s.block (c.val / 16)).fenced = false →
    (s.channel c).state = .running → (s.channel c).faultDue = false → (s.channel c).instr = some i →
    opOf i = 1 →
    let r := s.begin t
    let x := s.channel c
    (64 ≤ le i 2 1 → ∃ u, exec (.move t c f) s = .next u ∧ (u.channel c).state = .halted ∧
      (u.channel c).status = Code.notPermitted) ∧
    (∀ e, le i 2 1 < 64 → x.shapeCache.find? (fun e => e.1 == le i 2 1) = some e → x.resume = none →
      (∀ st, r.moveCheck c x i e.2 = some st → ∃ u, exec (.move t c f) s = .next u ∧ (u.channel c).state = .halted ∧
        (u.channel c).status = st ∧ (u.channel c).pc = x.pc) ∧
      (r.moveCheck c x i e.2 = none → r.moveReady c i = false → ∃ u, exec (.move t c f) s = .next u ∧
        u = { r with channels := u.channels } ∧ (u.channel c).state = .waiting ∧ (u.channel c).waitKind = 5 ∧
        (u.channel c).pc = x.pc) ∧
      (r.moveCheck c x i e.2 = none → r.moveReady c i = true → r.moveServed i = true → ∃ u v,
        exec (.move t c f) s = .next u ∧ v ∈ (u.channel c).moves ∧ v.serial = x.serial ∧ v.pc = x.pc) ∧
      (r.moveCheck c x i e.2 = none → r.moveReady c i = true → r.moveServed i = false → exec (.move t c f) s = .next r) ∧
      (r.moveCheck c x i e.2 = none → f = .none → r.takesLines (c.val / 16) = true → x.moves = [] → x.pc < 65535 →
        let m := moveOf i e.2
        m.codec = 0 → m.len0 = 64 → m.counts = [1, 1, 1] → m.src.space = 2 → m.dst.space = 2 → m.mask = 0 →
        let base := 64 * ((r.contextThread c (c.val / 16)).map fun t => t.workBase).getD 0
        let from_ := base + (m.src.rowAt m.counts (x.loopShift false) 0).toNat
        let to_ := base + (m.dst.rowAt m.counts (x.loopShift true) 0).toNat
        from_ % 64 = 0 → to_ % 64 = 0 → s.lineBad (c.val / 16) (from_ / 64) = false →
        ∃ u v, exec (.move t c f) s = .next u ∧ (u.channel c).pc = x.pc + 1 ∧ (u.channel c).moves = [v] ∧
          v.issued = true ∧ v.units = [] ∧
          u.spad.bytes (spadAddr (c.val / 16) 0 + to_) 64 = s.spad.bytes (spadAddr (c.val / 16) 0 + from_) 64 ∧
          (∀ a, (a < spadAddr (c.val / 16) 0 + to_ ∨ spadAddr (c.val / 16) 0 + to_ + 64 ≤ a) → u.spad.read a = s.spad.read a) ∧
          u.mem = s.mem ∧ u.pool = s.pool))) ∧
  ∀ (s : State) (t : Time) (c : Fin 1024) (v : MoveRun), s.phase = .ready → (s.channel c).moves.all (fun m => m.units.isEmpty) = true →
    (s.channel c).faultDue = false →
    (s.channel c).moves.find? (fun m => m.issued && m.units.isEmpty && m.unacked == 0) = some v →
    ∃ u, exec (.moveComplete t c) s = .next u ∧ u = { s.begin t with channels := u.channels } ∧
      u.channel c = { s.channel c with moves := (s.channel c).moves.filter fun m => m.serial != v.serial } ∧
      ∀ n, n ≠ c.val → u.channel n = s.channel n

/-- MAP_PAGES is taken whole or refused, and comes into force once no access uses an old value. A taken MAP_PAGES of 1
to 256 entries, all of them legal at their indices and within the map, is ACCEPTED and waits last; else it is answered
NOT_PERMITTED; no entry changes yet. While an access that an old value translated is under way, or DRAM does not take
a line to be written back, the oldest change only waits. Then each of its entries has its new value and every other
keeps its own, the command completes OK, FAULTED channels whose address no longer faults run again and no other
channel changes, and the only DRAM bytes that may change are those of dirty cached lines. Scratchpads, pools and
pipelines stay. (Rests on R279, R302, R303, R304.) -/
def Obligations.CarrMapChanges : Prop :=
  (∀ (q : Req) (s : State), s.takes mapPagesRow q →
    let first := le q.params 0 4
    let n := le q.params 4 2
    let es := (List.range n).map fun k => BitVec.ofNat 64 (le q.params (8 + 8 * k) 8)
    let good := decide (1 ≤ n) && decide (n ≤ 256) && decide (first + n ≤ 262144)
      && (List.range n).all fun k => s.entryLegal (first + k) (BitVec.ofNat 64 (le q.params (8 + 8 * k) 8))
    (good = true → exec (.mapPages q) s = .next { s.served mapPagesRow q { status := Code.accepted } with
      mem := { s.mem with mapChanges := s.mem.mapChanges ++ [{ ticket := mapPagesRow.ticket q, first := first, entries := es.map carrKeep }] } }) ∧
    (good = false → exec (.mapPages q) s = .next (s.served mapPagesRow q (.err Code.notPermitted)))) ∧
  ∀ (s : State) (t : Time) (m : MapChange) (rest : List MapChange), s.phase = .ready → s.mem.mapChanges = m :: rest →
    ((s.mapSettled m = false ∨ (s.begin t).mapWaits m = true) → exec (.mapPagesDone t) s = .next (s.begin t)) ∧
    (s.mapSettled m = true → (s.begin t).mapWaits m = false → ∃ u, exec (.mapPagesDone t) s = .next u ∧ u.mem.mapChanges = rest ∧
      s.completes u m.ticket Code.ok [] ∧
      (∀ i, Tab.get carrReset u.mem.carr i = if m.first ≤ i then (m.entries[i - m.first]?).getD (Tab.get carrReset s.mem.carr i)
        else Tab.get carrReset s.mem.carr i) ∧
      (∀ c, c < 1024 → (s.channel c).state = .faulted →
        (u.translate (s.channel c).faultAddr.toNat (s.channel c).faultDst = .fault → u.channel c = s.channel c) ∧
        (u.translate (s.channel c).faultAddr.toNat (s.channel c).faultDst ≠ .fault →
          u.channel c = { s.channel c with state := .running })) ∧
      (∀ c, (s.channel c).state ≠ .faulted → u.channel c = s.channel c) ∧
      (∀ a, (∀ x, x < 4 → ∀ l ∈ (s.region x).cache, l.dirty = true → a < 64 * l.addr ∨ 64 * l.addr + l.data.length ≤ a) →
        u.mem.dram.read a = s.mem.dram.read a) ∧
      u.spad = s.spad ∧ u.pool = s.pool ∧ u.pipes = s.pipes ∧ u.blocks = s.blocks)

/-- The scrubber goes on granule by granule, temperatures set the refresh rate, and zeroing ends with DRAM zero. At
command-ready with DRAM served, a scrub read of the next granule changes no byte of DRAM but those of one miscorrected
or wrong undetected; a clean or poisoned granule's poison stays, and one that is found uncorrectable becomes poisoned,
counts in UE_DETECTED and POISON_SET and is LAST_POISON_PA. The position goes on by one granule and wraps after the
last. Temperatures are stored per stack, and refresh is doubled from 85 degrees. When zeroing ends, every byte of DRAM
reads 0 and no granule is poisoned; then the accesses that wait go on, and nothing else changes. (Rests on R288, R290,
R291, R292, R295.) -/
def Obligations.DramUpkeep : Prop :=
  (∀ (s : State) (t : Time) (f : ScrubFinding), s.phase = .ready → s.dramServes = true →
    let g := s.mem.scrubNext
    let k := s.mem.stackOf (64 * g)
    let up (x : BitVec 32) : BitVec 32 := BitVec.ofNat 32 (min (2 ^ 32 - 1) (x.toNat + 1))
    ∃ u, exec (.scrubRead t f) s = .next u ∧ u.mem.scrubNext = (g + 1) % 2 ^ 29 ∧
      (u.dramStack k).scrubPos = 4 * (g / 4096) ∧ ((s.mem.poison.contains g = true ∨ ∀ r d, f ≠ .wrong r d) → u.mem.dram = s.mem.dram) ∧
      (∀ a, a / 64 ≠ g → u.mem.dram.read a = s.mem.dram.read a) ∧
      ((s.mem.poison.contains g = true ∨ f ≠ .uncorrectable) → u.mem.poison = s.mem.poison) ∧
      (s.mem.poison.contains g = false → f = .uncorrectable → g ∈ u.mem.poison ∧
        (u.dramStack k).counters.get 1 = up ((s.dramStack k).counters.get 1) ∧
        (u.dramStack k).counters.get 2 = up ((s.dramStack k).counters.get 2) ∧
        (u.dramStack k).lastPoison = BitVec.ofNat 35 (64 * g)) ∧
      u.spad = s.spad ∧ u.pool = s.pool ∧ u.channels = s.channels ∧ u.pipes = s.pipes) ∧
  (∀ (s : State) (t : Time) (t0 t1 : BitVec 8), s.phase = .ready → ∃ u, exec (.stackTemperatureRead t t0 t1) s = .next u ∧
    u = { s.begin t with mem := { s.mem with dramStacks := u.mem.dramStacks } } ∧
    u.dramStack 0 = { s.dramStack 0 with temp := t0, refresh2x := decide (85 ≤ t0.toInt) } ∧
    u.dramStack 1 = { s.dramStack 1 with temp := t1, refresh2x := decide (85 ≤ t1.toInt) }) ∧
  ∀ (s : State) (t : Time), s.phase = .ready → s.mem.zeroing = true →
    let z := { s.begin t with mem := { s.mem with zeroing := false, dram := [], poison := [] } }
    exec (.interleaveZeroed t) s = .next z.dramBack ∧ (∀ a, z.mem.dram.read a = 0) ∧
    ((s.mem.waiting = [] ∧ s.fovar.closeAcks = [] ∨ s.health.lock.getLsbD 1 = false) → z.dramBack = z) ∧
    ∀ w : State, w.sendCloseAcks.fovar.closeAcks = [] ∧
      w.sendCloseAcks.out = w.out ++ (w.fovar.closeAcks.filter fun p => (w.ethOf p.port).sends).map fun p => (w.ethOf p.port).packetOut { p with time := w.time }

/-- What the host does over PCIe: BAR 0, BAR 2, configuration requests, read completions, link and reset. With the
link up, DRAM served, at command-ready: a BAR 0 write within one granule that translates to local DRAM writes exactly
its bytes, poisoned with EP; a read returns the DRAM bytes and changes nothing, or all ones with EP when poisoned; one
that faults is counted, a read as Unsupported Request; while DRAM does not serve, both wait. BAR 2 reads the MSI-X
table and pending bits byte by byte and writes the table, no other byte of memory. A configuration request is retried
until command-ready. A read completion closes its request, is counted with EP, and its granule joins its MOVE,
poisoned with EP, failed or hit by a parity error on the way. PCIE_PERST_N low drops the link and the MSI-X table; the
link comes up only powered, locked, released and 20 ms after start. (Rests on R276, R306, R307, R308, R458.) -/
def Obligations.PcieEndpoint : Prop :=
  (∀ (s : State) (t : Time) (o : BitVec 36) (pa : Nat) (ca : Bool), s.phase = .ready → s.mem.pcieLink = true →
    s.dramServes = true → o.toNat < 2 ^ 35 →
    let r := s.begin t
    let a := pa + o.toNat % 64
    let tgt (w : Bool) : Target := translateBy (r.barEntry o.toNat (64 * (o.toNat / 64))) (64 * (o.toNat / 64)) w
    (∀ d ep aer f, 1 ≤ d.length → o.toNat % 64 + d.length ≤ 64 → f.carr = [] → f.wrong = [] → tgt true = .local_ pa ca →
      ∃ u, exec (.bar0Write t o d ep aer f) s = .next u ∧ u.mem.dram.bytes a d.length = d ∧
        (∀ x, (x < a ∨ a + d.length ≤ x) → u.mem.dram.read x = s.mem.dram.read x) ∧
        (ep = true → pa / 64 ∈ u.mem.poison) ∧ u.spad = s.spad ∧ u.pool = s.pool ∧ u.channels = s.channels) ∧
    (∀ d ep aer f, 1 ≤ d.length → o.toNat % 64 + d.length ≤ 64 → f.carr = [] → tgt true = .fault →
      ∃ u, exec (.bar0Write t o d ep aer f) s = .next u ∧ u.mem.dram = s.mem.dram ∧
        u.mem.pcieCounters.get 0 = BitVec.ofNat 32 (min (2 ^ 32 - 1) ((s.mem.pcieCounters.get 0).toNat + 1))) ∧
    (∀ n, 1 ≤ n → o.toNat % 64 + n ≤ 64 → tgt false = .local_ pa ca →
      s.mem.poison.contains (pa / 64) = false →
      exec (.bar0Read t o n .none) s = .next (r.send (.barCompletion (some (s.mem.dram.bytes a n)) false))) ∧
    (∀ n f, 1 ≤ n → o.toNat % 64 + n ≤ 64 → f.carr = [] → tgt false = .local_ pa ca →
      s.mem.poison.contains (pa / 64) = true → ∃ u, exec (.bar0Read t o n f) s = .next u ∧
        u.out = [.barCompletion (some (List.replicate n 0xFF)) true] ∧ u.mem.dram = s.mem.dram) ∧
    (∀ n f, 1 ≤ n → o.toNat % 64 + n ≤ 64 → f.carr = [] → tgt false = .fault →
      exec (.bar0Read t o n f) s = .next ((r.countPcie 1).send (.barCompletion none false)))) ∧
  (∀ (s : State) (t : Time) (o : BitVec 36), s.phase = .ready → s.mem.pcieLink = true → s.dramServes = false →
    (∀ d ep f, exec (.bar0Write t o d ep false f) s = .next ((if ep then (s.begin t).countPcie 2 else s.begin t).awaitDram
      (.barWrite o d ep f))) ∧
    ∀ n f, exec (.bar0Read t o n f) s = .next ((s.begin t).awaitDram (.barRead o n f))) ∧
  (∀ (s : State) (t : Time) (o : BitVec 16), s.phase = .ready → s.mem.pcieLink = true →
    (∀ n, ∃ u d, exec (.bar2Access t (.read o n)) s = .next u ∧ u.out = [.barCompletion (some d) false] ∧ d.length = n ∧
      u.mem = s.mem ∧ ∀ k, k < n → msixAt (o.toNat + k) = true → d.getD k 0 = s.mem.msixByte (o.toNat + k)) ∧
    ∀ d, ∃ u, exec (.bar2Access t (.write o d)) s = .next u ∧ u = { s.begin t with mem := { s.mem with msix := u.mem.msix }, out := u.out } ∧
      ∀ a, a < 0x8000 → u.mem.msixByte a = if o.toNat ≤ a ∧ a < o.toNat + d.length then d.getD (a - o.toNat) 0
        else s.mem.msixByte a) ∧
  (∀ (s : State) (t : Time), s.mem.pcieLink = true →
    exec (.configurationRequest t) s = .next ((s.begin t).send (.configAnswer (s.phase != .ready)))) ∧
  (∀ (s : State) (t : Time) (h : HostRead) (d : List Byte) (ep bad aer : Bool), s.phase = .ready →
    s.mem.hostReads.find? (fun x => x.tag == h.tag) = some h →
    let x := s.channel h.channel
    let mv := x.moves.map fun m => if m.serial = h.serial then { m with units := m.units.map fun v =>
      if v.index = h.unit then { v with got := v.got ++ [(h.part, (d ++ zeros 64).take 64, ep || bad || h.hit)] } else v } else m
    ∃ u, exec (.hostReadCompletion t h.tag d ep bad aer) s = .next u ∧
      u.mem.hostReads = (s.mem.hostReads.filter fun x => x.tag != h.tag) ∧
      (((mv.findSome? fun m => m.units.head?).all fun v => v.got.length != v.need) = true → x.faultDue = false →
        u.channel h.channel = { x with moves := mv } ∧ (ep = true → u.mem.pcieCounters.get 2 =
          BitVec.ofNat 32 (min (2 ^ 32 - 1) ((s.mem.pcieCounters.get 2).toNat + 1))) ∧ u.mem.dram = s.mem.dram)) ∧
  ∀ (s : State) (t : Time),
    exec (.pciePerstN t true) s =
      .next { s.begin t with mem := { s.mem with perstLow := true, pcieLink := false, msix := [] } } ∧
    exec (.pciePerstN t false) s = .next { s.begin t with mem := { s.mem with perstLow := false } } ∧
    exec (.pcieLinkDown t) s = .next { s.begin t with mem := { s.mem with pcieLink := false } } ∧
    (let may := (s.phase = .starting ∧ s.faults.startsAt.toNat ≤ (s.begin t).now ∨ s.phase = .ready) ∧ s.mem.perstLow = false ∧ (s.domain 94).isOn = true ∧
        s.health.lock.getLsbD 2 = true ∧ 20000000 ≤ (s.begin t).now - s.base.stepped
     (may → exec (.pcieLinkUp t) s = .next { s.begin t with mem := { s.mem with pcieLink := true } }) ∧
     (¬ may → exec (.pcieLinkUp t) s = .next (s.begin t)))

/-- A request gets the outcome of the first check of Table 12-3 that it fails, and nothing else happens. For every
Lysil command, on a port that is up with its link up, with a whole datagram, at command-ready, outside a
resynchronisation and a switch of banks and with no firmware activation outstanding: when some check of Table 12-3
fails, exec answers the state in which only the first failing check's outcome has taken place (dropped and counted;
answered with its status, with its sequence consumed or not; or the stored ACK sent again with RESENT set and TIME
updated; an answer goes out where the port sends). The command is not executed: nothing but time, the port's counters
and sequence and the interface changes, and a CE record of the port is made where the frame's FCS or the packet's
CRC-32C fails (R365; its DETECTOR and OUTCOME are the model's choice, log 116). A SEQUENCE one before the expected one
with no stored ACK is answered with STALE_SEQUENCE. (Rests on R317, R320.) -/
def Obligations.RequestChecksInTableOrder : Prop :=
  ∀ (c : Instr) (o : OpRow) (q : Req) (s t : State), lysilRow c = some (o, q) → c.wellFormed = true →
    q.arrival = .whole → (s.ethOf q.port).up = true → (s.ethOf q.port).link = true → s.phase = .ready →
    s.resync = false → (s.begin q.time).bankSwitching = false → s.fw.activate = none → checksOutcome (s.begin q.time) o q = some t → exec c s = .next t

/-- A request that passes every check of Table 12-3 is executed. On a port that is up with its link up, with a whole
datagram, at command-ready, outside a resynchronisation and a switch of banks and with no activation outstanding: a
request none of whose checks fails is taken, whatever its row. (Rests on R317, R318.) -/
def Obligations.PassedChecksTakeTheRequest : Prop :=
  ∀ (o : OpRow) (q : Req) (s : State), q.arrival = .whole → (s.ethOf q.port).up = true → (s.ethOf q.port).link = true →
    s.phase = .ready → s.resync = false → (s.begin q.time).bankSwitching = false → s.fw.activate = none →
    ((requestChecks (s.begin q.time) o q).all fun r => !r.1) = true → s.takes o q

/-- What reception and the ACK change, and that they change nothing else. Receiving a request that is executed changes
only time, the interface, the count of free values, the port's RECEIVED count and reassembly, and renews the session's
lease. Answering it sends one ACK with the request's QUEUE, SEQUENCE, OPCODE and TAG, KIND ACK and the given status
and data; the queue's expected sequence rises by 1 and the ACK is stored (for SESSION_OPEN neither); an accepted long
command is one more outstanding; every other queue, the other port and all else stay. (Rests on R319, R320, R321,
R328.) -/
def Obligations.ReceptionAndAnswerFrame : Prop :=
  ∀ (s : State) (o : OpRow) (q : Req) (a : Ack),
    (let r := s.received q
     r = { s.begin q.time with eth := r.eth, session := r.session } ∧
     ((r.ethOf q.port).counters.get 0).toNat = min (2 ^ 32 - 1) (((s.ethOf q.port).counters.get 0).toNat + 1) ∧
     (∀ i, (r.ethOf q.port).queue i = (s.ethOf q.port).queue i) ∧
     (∀ e, e ≠ q.port → r.ethOf e = s.ethOf e) ∧
     r.session = (if q.port = .a then s.session.map fun x => { x with lastValid := (s.begin q.time).time, lapsed := false }
                  else s.session)) ∧
    (let t := s.acked o q a
     let i := q.queue.toNat
     let old := (s.ethOf q.port).queue i
     let new := (t.ethOf q.port).queue i
     t = { s with eth := t.eth, out := s.out ++ [(s.ethOf q.port).packetOut (reqAck q o.code s.time a)] } ∧
     (∀ e, e ≠ q.port → t.ethOf e = s.ethOf e) ∧
     (∀ j, j ≠ i → (t.ethOf q.port).queue j = (s.ethOf q.port).queue j) ∧
     new.outstanding = old.outstanding + (if o.long = true ∧ a.status = Code.accepted then 1 else 0) ∧
     (o.code ≠ Opc.sessionOpen → new.expected = old.expected + 1 ∧ new.stored = some (reqAck q o.code s.time a)) ∧
     (o.code = Opc.sessionOpen → new.expected = old.expected ∧ new.stored = old.stored) ∧
     (t.ethOf q.port).ring = (s.ethOf q.port).ring ∧ (t.ethOf q.port).nextEvent = (s.ethOf q.port).nextEvent)

/-- NOP is answered OK and changes nothing; an opcode of no row is answered BAD_OPCODE. A NOP that is taken, with no
error in control SRAM, answers a next state in which it has only been received and answered OK without data. With a
corrected word a CE record of MEMORY_ECC is made as well, and with an uncorrectable word of a microcode bank a UCF
record of MAPPING_STORE, on the control SRAM's bit of the chip word; that the error is found by a NOP, and the
records' OUTCOME, are the model's choice (log 66). A datagram whose OPCODE is none of Table 12-8, with no earlier
check failing, is answered with BAD_OPCODE and consumes its sequence. (Rests on R337, R317, R366, 14_faults.) -/
def Obligations.NopAndUnknownOpcodes : Prop :=
  (∀ (q : Req) (s : State), s.takes (opRow 0x0001 0 false true) q →
    let o := opRow 0x0001 0 false true
    let sram : FaultInfo := { cls := Cls.ce, detector := Det.memoryEcc, outcome := Outc.corrected, site := .chip Chip.controlSram 0 }
    exec (.nop q 0x0001 .clean) s = .next (s.served o q .ok) ∧
    exec (.nop q 0x0001 .corrected) s = .next (((s.received q).fault sram).acked o q .ok) ∧
    exec (.nop q 0x0001 .uncorrectable) s =
      .next (((s.received q).fault { sram with cls := Cls.ucf, detector := Det.mappingStore }).acked o q .ok)) ∧
  ∀ (q : Req) (op : BitVec 16) (bank : BankFinding) (s : State), knownOpcodes.contains op = false → q.arrival = .whole →
    (s.ethOf q.port).up = true → (s.ethOf q.port).link = true → s.resync = false → (s.begin q.time).bankSwitching = false →
    ((requestChecks (s.begin q.time) { code := op, lenOk := fun _ => true } q).take 11).all (fun r => !r.1) = true →
    exec (.nop q op bank) s =
      .next ((s.begin q.time).answer { code := op, lenOk := fun _ => true } q (.err Code.badOpcode) true)

/-- ATTR_READ returns the values at the indices asked for and changes nothing. A taken ATTR_READ of an attribute in
use, with COUNT 1 to 64, indices in range and at most 8,156 bytes of data, answers a next state that only holds its
ACK OK with the values at INDEX to INDEX + COUNT - 1 one after another in the attribute's size, the last written ones
with SHADOW = 1. A carr map entry that reads uncorrectable is made not VALID first. An unknown ATTR or an index out of
range is answered NOT_PERMITTED, too much data BAD_LENGTH. (Formalises R331.) -/
def Obligations.AttributeReads : Prop :=
  ∀ (q : Req) (carr : List Nat) (s : State), s.takes attrReadRow q →
    let id := le q.params 0 2
    let n := le q.params 3 1
    let i := le q.params 4 4
    let shadow := le q.params 2 1 % 2 == 1
    let r := (s.received q).meetEntries id i n carr
    ((id ≠ 0x0603 ∨ carr = []) → r = s.received q) ∧
    (∀ a, attrSpec id = some a → 1 ≤ n → n ≤ 64 → i + n ≤ a.count → 4 * a.words * n ≤ 8156 →
      exec (.attrRead q carr) s = .next (r.acked attrReadRow q (.ok
        ((List.range n).flatMap fun k => leBytes (4 * a.words) (r.attrValue id (i + k) shadow))))) ∧
    (∀ a, attrSpec id = some a → 1 ≤ n → n ≤ 64 → i + n ≤ a.count → 8156 < 4 * a.words * n →
      exec (.attrRead q carr) s = .next (s.served attrReadRow q (.err Code.badLength))) ∧
    (∀ a, attrSpec id = some a → (n = 0 ∨ 64 < n ∨ a.count < i + n) →
      exec (.attrRead q carr) s = .next (s.served attrReadRow q (.err Code.notPermitted))) ∧
    (attrSpec id = none → exec (.attrRead q carr) s = .next (s.served attrReadRow q (.err Code.notPermitted)))

/-- ATTR_WRITE: an accepted write reads back, the checks answer in their order, a rejected write changes nothing. A
taken ATTR_WRITE of an unknown attribute, an index out of range or an attribute whose fields are all RO is answered
NOT_PERMITTED; then a value of another size BAD_LENGTH; then what the defining chapter's state, range and relation
rules answer; a rejected write changes nothing else. A write those rules accept answers OK and leaves the state they
give. For every settings attribute (each with the bits of its field map that are not reserved): in the state after an
accepted write, ATTR_READ with SHADOW = 1 gives the value written with its reserved bits 0, and every other settings
attribute and index reads as before, live and last written. For those that wait for a COMMIT, live values are as
before, and every other attribute of Table 12-9 at every index reads as before too, but for the counters and queues of
the port that received the command and SETTINGS_STATUS. The W1C attributes are RowOwnedAttributeWrites'. (Rests on
R331, R332, R339, 12_lysil_commands.) -/
def Obligations.AttributeWrites : Prop :=
  ∀ (q : Req) (s : State), s.takes attrWriteRow q →
    let id := le q.params 0 2
    let i := le q.params 4 4
    let v := ofLe (q.params.drop 8)
    let put := (s.received q).attrPut id i v 0
    let committed : List (Nat × Nat) :=
      [(0x0200, 0xFFF), (0x0201, 2 ^ 64 - 1), (0x0202, 0xFF_FFFF), (0x0203, 2 ^ 64 - 1), 
      (0x0204, 0xFFFF_0F00_FFFF_FFFF), (0x0205, 0x00FF_FFFF_FFFF_FFFF), (0x0300, 0xFFFF_FFFF_000E_00E3), 
      (0x0301, 0x00FF_FFFF_00FF_FFFF_00FF_FFFF_00FF_FFFF), (0x0302, 2 ^ 192 - 1), (0x0303, 0x3FFF_FFFF), 
      (0x0304, 0xFFFF_FFFF_FFFF_0000_FFFF_FFFF_FFFF_0000_FFFF_FFFF_FFFF), (0x0305, 0xF_FFFF_FFFF_FFFF), 
      (0x0306, 0xFFFF_F00F_FFFF_FFFF), (0x0401, 0xFFFF_0001), (0x0421, 3), (0x0480, 0x00F8_FF03), (0x0804, 7), 
      (0x0B00, 0xFFFF_FFFF_FF00_03DB), (0x0B06, 0xFFFF_FFF3_01FF_03FF), (0x0B07, 2 ^ 512 - 1)]
    let settings : List (Nat × Nat) := committed ++
      [(0x0101, 0x00FF_0103), (0x0103, 0x00FF_FF00), (0x0105, 0xFFFF), (0x0107, 3), (0x0109, 0xFFFF), 
      (0x0181, 2 ^ 96 - 1), (0x0182, 0xFF00_FFFF_FFFF), (0x0206, 0xFFFF_0003), (0x020A, 0xFF), (0x0307, 0xFF), 
      (0x0309, 0x3FF), (0x0422, 0xFF), (0x0481, 0xFFFF_0003_07FF), (0x0500, 0x01FF_0FFF), 
      (0x0501, 0xFFF0_FFFF_FFFF_FFFF), (0x0600, 0xFF00_FF03), (0x0700, 0x3F0F), (0x0805, 0x3F3F_0007), 
      (0x0808, 0xFF), (0x0900, 0x00FF_FF01), (0x0904, 0xFFFF_00FF), (0x0B01, 2 ^ 128 - 2 ^ 32), 
      (0x0B02, 2 ^ 256 - 2 ^ 128 + (2 ^ 36 - 1) * (2 ^ 64 + 1)), (0x0B03, (2 ^ 36 - 1) * (2 ^ 64 + 1)), 
      (0x0B04, 2 ^ 32 - 1)]
    (attrSpec id = none → exec (.attrWrite q) s = .next (s.served attrWriteRow q (.err Code.notPermitted))) ∧
    ∀ a, attrSpec id = some a →
      (a.count ≤ i ∨ a.ro = true → exec (.attrWrite q) s = .next (s.served attrWriteRow q (.err Code.notPermitted))) ∧
      (i < a.count → a.ro = false →
        (q.params.length ≠ 8 + 4 * a.words →
          exec (.attrWrite q) s = .next (s.served attrWriteRow q (.err Code.badLength))) ∧
        (q.params.length = 8 + 4 * a.words →
          (∀ c, put = .error c → exec (.attrWrite q) s = .next (s.served attrWriteRow q (.err c))) ∧
          ∀ r, put = .ok r → let u := r.acked attrWriteRow q .ok
            exec (.attrWrite q) s = .next u ∧
            (∀ m, (id, m) ∈ settings → u.attrValue id i true = v &&& m ∧
              ∀ x ∈ settings, ∀ b, attrSpec x.1 = some b → ∀ j, j < b.count → (x.1, j) ≠ (id, i) → ∀ sh,
                u.attrValue x.1 j sh = s.attrValue x.1 j sh) ∧
            (∀ m, (id, m) ∈ committed → (id = 0x0421 → i < 24) → u.attrValue id i false = s.attrValue id i false ∧
              ∀ x b, attrSpec x = some b → x ∉ [0x0006, 0x0007, 0x0008] → ∀ j, j < b.count → (x, j) ≠ (id, i) → ∀ sh,
                u.attrValue x j sh = (s.received q).attrValue x j sh)))

/-- COMMIT copies the shadow to the pending copy, live at once without a boundary; SHADOW_REVERT copies back. A taken
COMMIT whose mask names pipelines that all pass the checks answers OK with an all-zero report, 0xFF and the device
time. For each pipeline named: if it streams, its pending copy is its shadow and its live settings stay; if not, its
live settings are its shadow and nothing is pending. For each port that a named pipeline carries (its source, and the
port of its number when no pipeline names that): with a streaming pipeline on it, its pending copy is its shadow and
its live settings stay; otherwise its live settings are its shadow. That a pipeline in STARTING or STOPPING counts as
not streaming is the model's choice (log 12). Every other pipeline and port stays, and all memory. Where a check
fails, the answer is the report of the lowest named pipeline that fails one, with its number, and nothing changes. A
taken SHADOW_REVERT sets the shadow of each pipeline named and each port carried to its pending copy, or to its live
settings where nothing is pending, and leaves live and pending; nothing else changes. (Rests on R333, R334, R468.) -/
def Obligations.SettingsWaitForCommit : Prop :=
  ∀ (q : Req) (s : State),
    let ps := (List.range 24).filter fun p => (le q.params 0 4).testBit p
    let carried := fun n => ∃ p ∈ ps, n ∈ s.carriedPorts p
    (s.takes (opRow 0x0004 8) q →
      let r := s.received q
      ((∀ p ∈ ps, r.commitCheck p = none) → ∃ t, exec (.commit q) s = .next t ∧
        (s.ethOf q.port).packetOut (reqAck q 0x0004 (s.begin q.time).time
          (.ok (zeros 16 ++ leBytes 1 0xFF ++ zeros 7 ++ leBytes 8 (s.begin q.time).now))) ∈ t.out ∧
        (∀ p ∈ ps, (t.pipe p).shadow = (s.pipe p).shadow ∧ (t.pipe p).shadowChanged = false ∧
          (s.streams p = true → (t.pipe p).pending = some (s.pipe p).shadow ∧ (t.pipe p).live = (s.pipe p).live) ∧
          (s.streams p = false → (t.pipe p).pending = none ∧ (t.pipe p).live = (s.pipe p).shadow)) ∧
        (∀ p, p ∉ ps → t.pipe p = s.pipe p) ∧
        (∀ n, n < 24 → carried n → (t.port n).shadow = (s.port n).shadow ∧ (t.port n).shadowChanged = false ∧
          (s.hasBoundary n = true → (t.port n).pending = some (s.port n).shadow ∧ (t.port n).live = (s.port n).live) ∧
          (s.hasBoundary n = false → (t.port n).pending = none ∧ (t.port n).live = (s.port n).shadow)) ∧
        (∀ n, ¬ carried n → t.port n = s.port n) ∧
        t.mem = s.mem ∧ t.spad = s.spad ∧ t.pool = s.pool ∧ t.blocks = s.blocks ∧ t.regions = s.regions ∧
        t.channels = s.channels) ∧
      ∀ p ∈ ps, ∀ c, r.commitCheck p = some c → (∀ p' ∈ ps, p' < p → r.commitCheck p' = none) →
        exec (.commit q) s = .next (s.served (opRow 0x0004 8) q
          { status := c.status, data := reportBytes (some c) ++ leBytes 1 p ++ zeros 7 ++ leBytes 8 r.now })) ∧
    (s.takes (opRow 0x0005 8) q → ∃ t, exec (.shadowRevert q) s = .next t ∧
      (s.ethOf q.port).packetOut (reqAck q 0x0005 (s.begin q.time).time .ok) ∈ t.out ∧
      t = { s.served (opRow 0x0005 8) q .ok with ports := t.ports, pipes := t.pipes } ∧
      (∀ p ∈ ps, t.pipe p = { s.pipe p with shadow := (s.pipe p).pending.getD (s.pipe p).live, shadowChanged := false }) ∧
      (∀ p, p ∉ ps → t.pipe p = s.pipe p) ∧
      (∀ n, carried n → t.port n =
        { s.port n with shadow := (s.port n).pending.getD (s.port n).live, shadowChanged := false }) ∧
      ∀ n, ¬ carried n → t.port n = s.port n)

/-- EVENT_READ returns the ring of its own port from FROM onward. A taken EVENT_READ with COUNT 1 to 8 answers OLDEST,
NEXT and up to COUNT stored packets of the port it arrives on, each in a 128-byte field, from FROM or from OLDEST when
FROM is older; it changes nothing else. Another COUNT is answered NOT_PERMITTED. (Rests on R326, R330.) -/
def Obligations.EventRingReads : Prop :=
  ∀ (q : Req) (s : State), s.takes (opRow 0x0006 8 false true) q →
    let e := (s.received q).ethOf q.port
    let n := le q.params 4 1
    let skip := (BitVec.ofNat 32 (le q.params 0 4) - e.oldest).toNat
    (1 ≤ n → n ≤ 8 → exec (.eventRead q) s = .next (s.served (opRow 0x0006 8 false true) q (.ok
      (leBytes 4 e.oldest.toNat ++ leBytes 4 e.nextEvent.toNat
        ++ ((e.ring.drop (if skip < 2 ^ 31 then skip else 0)).take n).flatMap fun p =>
             p.bytes ++ zeros (128 - p.bytes.length))))) ∧
    (n = 0 ∨ 8 < n → exec (.eventRead q) s =
      .next (s.served (opRow 0x0006 8 false true) q (.err Code.notPermitted)))

/-- SESSION_OPEN makes its source the peer, sets every expected sequence to 0 and clears the stored ACKs. SESSION_OPEN
is taken from the cases of R328 and from no other source. When taken on port A at command-ready, the session's peer is
its source, SINCE and the lease start now; in each of the 16 queues the expected sequence is 0 and no ACK is stored,
while outstanding commands stay; the ACK returns DEVICE_ID, OLDEST and NEXT. Pipelines, jobs, channels and all memory
stay. (Rests on R328.) -/
def Obligations.SessionOpenMakesPeer : Prop :=
  (∀ (q : Req) (s : State), q.port = .a → s.takes (opRow 0x0007 0) q → ∃ t, exec (.sessionOpen q) s = .next t ∧
    t = { s.received q with eth := t.eth, session := t.session, out := t.out } ∧
    t.session = some ⟨q.srcAddr, q.srcPort, (s.begin q.time).time, (s.begin q.time).time, false⟩ ∧
    t.out = [(s.ethOf .a).packetOut (reqAck q 0x0007 (s.begin q.time).time (.ok (leBytes 8 s.deviceId
      ++ leBytes 4 (s.ethOf .a).oldest.toNat ++ leBytes 4 (s.ethOf .a).nextEvent.toNat)))] ∧
    (∀ i, i < 16 → (t.ethOf .a).queue i =
      { (s.ethOf .a).queue i with expected := 0, stored := none }) ∧
    t.ethOf .b = s.ethOf .b) ∧
  ∀ (q : Req) (s : State), q.port = .a →
    let owner := BitVec.ofNat 32 (s.ethOf .a).peerAddr
    (s.sourcePasses q Opc.sessionOpen = true ↔
      (owner = 0 ∧ s.session = none) ∨ (∃ x, s.session = some x ∧ x.addr = q.srcAddr ∧ x.port = q.srcPort) ∨
      (owner = 0 ∧ ∃ x, s.session = some x ∧ x.lapsed = true) ∨ (owner ≠ 0 ∧ q.srcAddr = owner))

/-- The clear commands set the counters they name to 0 and nothing else. PORT_, ARITH_, WINDOW_, STRIPE_, OUTPUT_ and
SLUICE_CLEAR_COUNTERS that are taken clear the counters of the index in byte 0, or of every index with 0xFF, and
change nothing else; MEM_CLEAR_COUNTERS those of stack 0 or 1, PCIE_COUNTERS with 2, or all; FAULT_CLEAR_COUNTERS with
0xFF all of FAULT_COUNTERS. The ACK is OK. Another index is answered NOT_PERMITTED and nothing is cleared. (Rests on
R337, 02_sedge_ports, 04_narrow_arithmetic, 07_convolution, 08_stripes, 09_outputs, 10_sluice_and_rings, 11_memory,
14_faults.) -/
def Obligations.CounterClears : Prop :=
  ∀ (q : Req) (s : State),
    let i := le q.params 0 1
    (s.takes (opRow 0x0212 4) q → (i < 24 ∨ i = 0xFF) → ∃ t, exec (.portClearCounters q) s = .next t ∧
      t = { s.served (opRow 0x0212 4) q .ok with ports := t.ports } ∧
      ∀ n, t.port n = if n < 24 ∧ (i = n ∨ i = 0xFF) then { s.port n with counters := [] } else s.port n) ∧
    (s.takes (opRow 0x0410 4) q → (i < 64 ∨ i = 0xFF) → ∃ t, exec (.arithClearCounters q) s = .next t ∧
      t = { s.served (opRow 0x0410 4) q .ok with blocks := t.blocks } ∧
      ∀ n, t.block n = if n < 64 ∧ (i = n ∨ i = 0xFF) then { s.block n with arith := [] } else s.block n) ∧
    (s.takes (opRow 0x0470 4) q → (i < 64 ∨ i = 0xFF) → ∃ t, exec (.windowClearCounters q) s = .next t ∧
      t = { s.served (opRow 0x0470 4) q .ok with blocks := t.blocks } ∧
      ∀ n, t.block n = if n < 64 ∧ (i = n ∨ i = 0xFF) then { s.block n with window := [] } else s.block n) ∧
    (s.takes (opRow 0x0492 4) q → (i < 24 ∨ i = 0xFF) → ∃ t, exec (.stripeClearCounters q) s = .next t ∧
      t = { s.served (opRow 0x0492 4) q .ok with pipes := t.pipes } ∧
      ∀ n, t.pipe n = if n < 24 ∧ (i = n ∨ i = 0xFF) then { s.pipe n with stripeCounters := [] } else s.pipe n) ∧
    (s.takes (opRow 0x0B11 4) q → (i < 24 ∨ i = 0xFF) → ∃ t, exec (.outputClearCounters q) s = .next t ∧
      t = { s.served (opRow 0x0B11 4) q .ok with pipes := t.pipes } ∧
      ∀ n, t.pipe n = if n < 24 ∧ (i = n ∨ i = 0xFF) then { s.pipe n with outCounters := [] } else s.pipe n) ∧
    (s.takes (opRow 0x0512 4) q → (i < 4 ∨ i = 0xFF) → ∃ t, exec (.sluiceClearCounters q) s = .next t ∧
      t = { s.served (opRow 0x0512 4) q .ok with regions := t.regions } ∧
      ∀ n, t.region n = if n < 4 ∧ (i = n ∨ i = 0xFF) then { s.region n with sluice := [] } else s.region n) ∧
    (s.takes (opRow 0x0611 4) q → (i < 3 ∨ i = 0xFF) → ∃ t, exec (.memClearCounters q) s = .next t ∧
      t = { s.served (opRow 0x0611 4) q .ok with mem := t.mem } ∧
      t.mem = { s.mem with dramStacks := t.mem.dramStacks, pcieCounters := t.mem.pcieCounters } ∧
      t.mem.pcieCounters = (if i = 2 ∨ i = 0xFF then [] else s.mem.pcieCounters) ∧
      ∀ n, t.dramStack n = if n < 2 ∧ (i = n ∨ i = 0xFF) then { s.dramStack n with counters := [] } else s.dramStack n) ∧
    (s.takes (opRow 0x0813 4 false true) q → i = 0xFF → exec (.faultClearCounters q) s = .next
      (State.acked { s.received q with faults := { s.faults with counters := [] } } (opRow 0x0813 4 false true) q .ok)) ∧
    (i ≠ 0xFF →
      (s.takes (opRow 0x0212 4) q → 24 ≤ i → exec (.portClearCounters q) s = .next (s.served (opRow 0x0212 4) q (.err Code.notPermitted))) ∧
      (s.takes (opRow 0x0410 4) q → 64 ≤ i → exec (.arithClearCounters q) s = .next (s.served (opRow 0x0410 4) q (.err Code.notPermitted))) ∧
      (s.takes (opRow 0x0470 4) q → 64 ≤ i → exec (.windowClearCounters q) s = .next (s.served (opRow 0x0470 4) q (.err Code.notPermitted))) ∧
      (s.takes (opRow 0x0492 4) q → 24 ≤ i → exec (.stripeClearCounters q) s = .next (s.served (opRow 0x0492 4) q (.err Code.notPermitted))) ∧
      (s.takes (opRow 0x0B11 4) q → 24 ≤ i → exec (.outputClearCounters q) s = .next (s.served (opRow 0x0B11 4) q (.err Code.notPermitted))) ∧
      (s.takes (opRow 0x0512 4) q → 4 ≤ i → exec (.sluiceClearCounters q) s = .next (s.served (opRow 0x0512 4) q (.err Code.notPermitted))) ∧
      (s.takes (opRow 0x0611 4) q → 3 ≤ i → exec (.memClearCounters q) s = .next (s.served (opRow 0x0611 4) q (.err Code.notPermitted))) ∧
      (s.takes (opRow 0x0813 4 false true) q →
        exec (.faultClearCounters q) s = .next (s.served (opRow 0x0813 4 false true) q (.err Code.notPermitted))))

/-- Links, reassembly, ARP, ICMP, MKA and the lease change their own port or session only. LINK_DOWN leaves the port
with its link down and stops nothing else; LINK_UP on a port that runs brings it up (port B: with its power domain
on). REASSEMBLY_ABANDONED forgets the datagram once 2 ms have passed. Of frames that pass the port's filters, an ARP
request for the port's address is answered and its sender's entry updated, and an ICMP echo to the port's address is
answered with its data, unless its data is longer than 8,192 bytes and comes in fragments. One that MACsec drops
counts in MACSEC_DROPS alone, which is the model's choice (log 95). One whose FCS fails is dropped with a CE record of
its port (its DETECTOR and OUTCOME are the model's choice, log 116), and one longer than the port takes without a
trace; an MKA frame on a port with MACSEC_EN sets whether the secure channel stands. LEASE_EXPIRED, once LEASE_MS has
passed since the peer's last valid request, marks the lease as lapsed. Nothing else changes. (Rests on R312, R313,
R326, R328, R365, 12_lysil_commands.) -/
def Obligations.EthernetEvents : Prop :=
  ∀ (s : State) (t : Time) (e : EthPort),
    exec (.linkDown t e) s = .next ((s.begin t).setEth e { s.ethOf e with link := false }) ∧
    ((s.ethOf e).up = true → (e = .b → (s.domain 99).isOn = true) →
      exec (.linkUp t e) s = .next ((s.begin t).setEth e { s.ethOf e with link := true })) ∧
    (∀ i : DatagramKey, exec (.reassemblyAbandoned t e i) s =
      .next ((s.begin t).setEth e { s.ethOf e with reassembly := (s.ethOf e).reassembly.filter fun y =>
        y.1 != i || (s.begin t).now < y.2.toNat + 2000000 })) ∧
    ((s.ethOf e).up = true → (s.ethOf e).link = true →
      (∀ (vid : FrameHead) (secured isRequest : Bool) (mac : BitVec 48) (addr target : BitVec 32),
        (vid.fcsOk = false →
          exec (.arp t e vid secured isRequest mac addr target) s = .next ((s.begin t).fault (ethernetFault e)) ∧
          ∀ dst d, exec (.icmpEcho t e vid secured addr dst d) s = .next ((s.begin t).fault (ethernetFault e))) ∧
        (vid.fcsOk = true → (if (s.ethOf e).net[2].getLsbD 4 = true then 9022 else 1522) < vid.len →
          exec (.arp t e vid secured isRequest mac addr target) s = .next (s.begin t) ∧
          ∀ dst d, exec (.icmpEcho t e vid secured addr dst d) s = .next (s.begin t)) ∧
        (vid.fcsOk = true → vid.len ≤ (if (s.ethOf e).net[2].getLsbD 4 = true then 9022 else 1522) → (s.ethOf e).vlanFits vid.vid = true →
        ((s.ethOf e).macsecDrops secured = true →
          exec (.arp t e vid secured isRequest mac addr target) s = .next ((s.begin t).countEth e 7) ∧
          ∀ dst d, exec (.icmpEcho t e vid secured addr dst d) s = .next ((s.begin t).countEth e 7)) ∧
        ((s.ethOf e).macsecDrops secured = false → target.toNat = (s.ethOf e).ipv4 →
          exec (.arp t e vid secured true mac addr target) s = .next (((s.begin t).setEth e { s.ethOf e with
            arp := ((s.ethOf e).arp.filter fun a => a.1 != addr) ++ [(addr, mac)] }).send
              (.arp e (s.ethOf e).tag true addr mac)) ∧
          ∀ d : List Byte, d.length ≤ 8192 → exec (.icmpEcho t e vid secured addr target d) s =
            .next ((s.begin t).send (.icmpReply e (s.ethOf e).tag addr d))))) ∧
      (∀ b, (s.ethOf e).macsecEn = true →
        exec (.eapol t e b) s = .next ((s.begin t).setEth e { s.ethOf e with macsecUp := b }))) ∧
    (∀ x, s.session = some x → x.lastValid.toNat + (s.ethOf .a).leaseMs * 1000000 ≤ (s.begin t).now →
      exec (.leaseExpired t) s = .next { s.begin t with session := some { x with lapsed := true } })

/-- What a Sync and its absence do to device time and the time state. From stage 4 of start-up on, a Sync on the port
with GPTP set, its link up, and in the configured domain measures OFFSET. Behind by more than STEP_THR_US with every
pipeline STOPPED and no job running, device time steps forward to gPTP time and the state is SYNCED; in every other
case device time does not step, the rate correction is at most MAX_PPM and none once |OFFSET| is 100 ns or less, and
the state is SLEWING while |OFFSET| exceeds STEP_THR_US and SYNCED otherwise. With no Sync for 3 sync intervals the
state is HOLDOVER and the rate stays. A change of state sends a TIME_STATE event on port A. The correction's size is a
free value (log 2). (Rests on R314.) -/
def Obligations.TimeSynchronisation : Prop :=
  ∀ (s : State) (t : Time),
    (∀ (e : EthPort) (g : Time) (d : BitVec 8) (n : BitVec 32), (s.phase = .starting ∧ s.faults.startsAt.toNat ≤ (s.begin t).now ∨ s.phase = .ready) → (s.ethOf e).link = true →
      (s.ethOf e).gptp = true → d.toNat = s.base.domain →
      let off : Int := ((s.begin t).time.toNat : Int) - g.toNat
      ∃ u, exec (.sync t e g d n) s = .next u ∧ u.base.offset = off ∧ u.base.syncInterval = n ∧
        u.base.config = s.base.config ∧ u.base.stepped = s.base.stepped + (u.now - (s.begin t).now) ∧ u.base.fen0 = s.base.fen0 ∧ u.base.fen1 = s.base.fen1 ∧
        u.pipes = s.pipes ∧ u.mem = s.mem ∧ u.spad = s.spad ∧ u.pool = s.pool ∧ u.faults = s.faults ∧
        (off < -s.base.stepNs → s.mayStep = true → u.time = g ∧ u.base.state = .synced ∧ u.base.ratePpm = 0) ∧
        (¬ (off < -s.base.stepNs ∧ s.mayStep = true) →
          u.time = (s.begin t).time ∧ u.base.lastSync = u.time ∧ u.base.ratePpm.natAbs ≤ s.base.maxPpm ∧
          (off.natAbs ≤ 100 → u.base.ratePpm = 0) ∧
          u.base.state = (if s.base.stepNs < off.natAbs then .slewing else .synced)) ∧
        (u.base.state ≠ s.base.state → (u.ethOf .a).nextEvent = (s.ethOf .a).nextEvent + 1)) ∧
    (s.base.state ≠ .freeRun → s.base.lastSync.toNat + 3 * s.base.syncInterval.toNat ≤ (s.begin t).now →
      ∃ u, exec (.holdover t) s = .next u ∧ u.base = { s.base with state := .holdover } ∧ u.time = (s.begin t).time ∧
        u.pipes = s.pipes ∧ u.mem = s.mem ∧ (s.base.state ≠ .holdover →
          (u.ethOf .a).nextEvent = (s.ethOf .a).nextEvent + 1))

/-- The attribute writes with rows of their own leave the register values their tables give. A taken write of 32 bits
(64 for FAULT_STATUS, 128 for FEN_CONFIG) with no bit set by hardware in the same cycle: PORT_STATUS, FAULT_STATUS,
REGION_STATUS and BLOCK_STATUS clear the bits written with 1 in the named unit only; PORT_STATUS only PCLK_STOPPED.
REMAP_STATUS clears the bits written and marks the pipelines that were shed so that their shedding ends at their next
boundary. MEM_CONFIG takes CE_LIMIT and SCRUB_HOURS at once, and another INTERLEAVE, where R288 lets it change, waits;
FEN_CONFIG with every pipeline STOPPED and a legal value takes it at once; AGE_CONFIG in its range takes it at once
and lets the warnings be sent again. A status bit that hardware sets in the same cycle as the write that clears it is
set afterwards, in each of these words, and a pipeline shed in that cycle stays shed. (Rests on R6, R288, R315, R378,
R381, R424.) -/
def Obligations.RowOwnedAttributeWrites : Prop :=
  ∀ (q : Req) (s : State), s.takes attrWriteRow q →
    let i := le q.params 4 4
    let v := ofLe (q.params.drop 8)
    (le q.params 0 2 = 0x0208 → i < 24 → q.params.length = 12 → exec (.portStatusClear q false) s = .next
      (((s.received q).updPort i fun x => { x with pclkStopped := x.pclkStopped && !v.testBit 4 }).acked attrWriteRow q .ok)) ∧
    (le q.params 0 2 = 0x0800 → i = 0 → q.params.length = 16 → exec (.faultStatusClear q 0) s = .next
      (State.acked { s.received q with faults := { s.faults with status := s.faults.status &&& ~~~ BitVec.ofNat 64 v } }
        attrWriteRow q .ok)) ∧
    (le q.params 0 2 = 0x0801 → i < 4 → q.params.length = 12 → exec (.regionStatusClear q 0) s = .next
      (((s.received q).updRegion i fun x => { x with status := x.status &&& ~~~ BitVec.ofNat 32 v }).acked attrWriteRow q .ok)) ∧
    (le q.params 0 2 = 0x0802 → i < 64 → q.params.length = 12 → exec (.blockStatusClear q 0) s = .next
      (((s.received q).updBlock i fun x => { x with status := x.status &&& ~~~ BitVec.ofNat 32 v }).acked attrWriteRow q .ok)) ∧
    (le q.params 0 2 = 0x0809 → i = 0 → q.params.length = 12 → ∃ t, exec (.remapStatusWrite q 0) s = .next t ∧
      t.faults = { s.faults with remapStatus := s.faults.remapStatus &&& ~~~ BitVec.ofNat 32 v } ∧
      ∀ p, t.pipe p = if p < 24 ∧ s.faults.remapStatus.getLsbD p = true ∧ v.testBit p = true then
        { s.pipe p with unshedDue := true } else s.pipe p) ∧
    (le q.params 0 2 = 0x0600 → i = 0 → q.params.length = 12 → 1 ≤ fld 31 24 v → 1 ≤ fld 15 8 v → fld 15 8 v ≤ 168 →
      (fld 1 0 v = bits 1 0 s.mem.config ∨ (s.received q).interleaveFree = true) → ∃ t, exec (.memConfigWrite q) s = .next t ∧
      t = { s.served attrWriteRow q .ok with mem := { s.mem with
        config := t.mem.config, interleaveWait := t.mem.interleaveWait } } ∧
      bits 31 24 t.mem.config = fld 31 24 v ∧ bits 15 8 t.mem.config = fld 15 8 v ∧
      bits 1 0 t.mem.config = bits 1 0 s.mem.config ∧ t.mem.interleaveWait =
        (if fld 1 0 v = bits 1 0 s.mem.config then none else some (BitVec.ofNat 2 v))) ∧
    (le q.params 0 2 = 0x0181 → i = 0 → q.params.length = 24 →
      (∀ p < 24, (s.pipe p).stream = .stopped) → fenLegal v = true → ∃ t, exec (.fenConfigWrite q) s = .next t ∧
      t = { s.served attrWriteRow q .ok with base := { s.base with fen0 := BitVec.ofNat 64 v, fen1 := t.base.fen1 } } ∧
      t.base.fen1.toNat = v / 2 ^ 64 % 2 ^ 32) ∧
    (le q.params 0 2 = 0x0904 → i = 0 → q.params.length = 12 → 5 ≤ fld 7 0 v → fld 7 0 v ≤ 60 →
      ∃ t, exec (.ageConfigWrite q) s = .next t ∧ t = { s.served attrWriteRow q .ok with health := t.health } ∧
      t.health = { s.health with ageConfig := keep 32 0xFFFF00FF v, locations := t.health.locations }) ∧
    (le q.params 0 2 = 0x0208 → i < 24 → q.params.length = 12 → exec (.portStatusClear q true) s = .next
      (((s.received q).updPort i fun x => { x with pclkStopped := true }).acked attrWriteRow q .ok)) ∧
    (∀ a, le q.params 0 2 = 0x0800 → i = 0 → q.params.length = 16 → ∃ t, exec (.faultStatusClear q a) s = .next t ∧
      t = { s.served attrWriteRow q .ok with faults := { s.faults with status := t.faults.status, times := t.faults.times } } ∧
      (∀ k, k < 64 → t.faults.status.getLsbD k = (s.faults.status.getLsbD k && !v.testBit k ||
        decide (k < 28) && k != 23 && a.getLsbD k)) ∧
      ∀ k, Tab.get (fun _ => 0) t.faults.times k = if k < 28 ∧ k ≠ 23 ∧ a.getLsbD k = true then (s.begin q.time).time
        else Tab.get (fun _ => 0) s.faults.times k) ∧
    (∀ a, le q.params 0 2 = 0x0801 → i < 4 → q.params.length = 12 → ∃ t, exec (.regionStatusClear q a) s = .next t ∧
      t = { s.served attrWriteRow q .ok with regions := t.regions, faults := t.faults } ∧
      (∀ n, n ≠ i → t.region n = s.region n) ∧ t.region i = { s.region i with status := (t.region i).status } ∧
      (∀ k, k < 32 → (t.region i).status.getLsbD k = ((s.region i).status.getLsbD k && !v.testBit k ||
        decide (k < 26) && a.getLsbD k)) ∧
      (a = 0 → t.faults = s.faults)) ∧
    (∀ a, le q.params 0 2 = 0x0802 → i < 64 → q.params.length = 12 → ∃ t, exec (.blockStatusClear q a) s = .next t ∧
      t = { s.served attrWriteRow q .ok with blocks := t.blocks, regions := t.regions, faults := t.faults } ∧
      (∀ n, n ≠ i → t.block n = s.block n) ∧ t.block i = { s.block i with status := (t.block i).status } ∧
      ∀ k, k < 32 → (t.block i).status.getLsbD k = ((s.block i).status.getLsbD k && !v.testBit k ||
        decide (k < 26) && !(k == 22 || k == 23 || k == 24) && a.getLsbD k)) ∧
    (∀ a, le q.params 0 2 = 0x0809 → i = 0 → q.params.length = 12 → ∃ t, exec (.remapStatusWrite q a) s = .next t ∧
      (∀ k, k < 32 → t.faults.remapStatus.getLsbD k = (s.faults.remapStatus.getLsbD k && !v.testBit k ||
        decide (k < 24) && a.getLsbD k)) ∧
      ∀ p, p < 24 → a.getLsbD p = true → t.pipe p = { s.pipe p with unshedDue := false })

/-- WINDOW_OPEN and WINDOW_CLOSE, and what the owner does with a WRITE and a READ_REQ. A taken WINDOW_OPEN of a closed
window 0 to 63, with a permission, a new non-zero epoch and an aligned range of 1 to 32,768 pages below 2^35, opens
it; WINDOW_CLOSE closes an open one, its ACK waiting while accesses that passed the checks before still wait for DRAM;
else NOT_PERMITTED. An in-order frame for this device on an UP port, no frame of its source being kept ahead of its
turn, advances both sequences. A WRITE that its window admits stores exactly its bytes, poisoned if marked, and is
acknowledged; a READ_REQ is answered with the granule's bytes and poison; one that is not admitted changes no memory,
counts, and is refused with WINDOW_CLOSED or NOT_PERMITTED; answers go out when the sender is reachable. While DRAM
does not serve, admitted accesses wait. A frame out of order has no effect, one with a bad CRC that of asking for it
again; when the neighbour asks, every frame it has not acknowledged goes out again, counted in RETRIES, and after
eight such times the port is DOWN. The form in which a receiver asks, and that each resend counts, are the model's
choice (log 91). (Rests on R345, R349, R351, R352, R353, R354.) -/
def Obligations.WindowsAdmitPeers : Prop :=
  (∀ (q : Req) (s : State), s.takes (opRow 0x0710 24) q →
    let p := q.params
    let w := le p 0 1
    let good := decide (w < 64) && le p 1 1 % 4 != 0 && !(s.window w).isOpen && le p 4 2 != 0
      && le p 4 2 != (s.window w).epoch.toNat && le p 8 8 % 2 ^ 18 == 0 && decide (1 ≤ le p 16 4) && decide (le p 16 4 ≤ 32768)
      && decide (le p 8 8 + le p 16 4 * 2 ^ 18 ≤ 2 ^ 35)
    (good = true → ∃ u, exec (.windowOpen q) s = .next u ∧
      u = { s.served (opRow 0x0710 24) q .ok with fovar := { s.fovar with windows := u.fovar.windows } } ∧
      u.window w = { epoch := BitVec.ofNat 16 (le p 4 2), allow := BitVec.ofNat 8 (le p 2 1), perm := BitVec.ofNat 2 (le p 1 1),
                     isOpen := true, pagesM1 := BitVec.ofNat 16 (le p 16 4 - 1), base := BitVec.ofNat 36 (le p 8 8) } ∧
      ∀ n, n ≠ w → u.window n = s.window n) ∧
    (good = false → exec (.windowOpen q) s = .next (s.served (opRow 0x0710 24) q (.err Code.notPermitted)))) ∧
  (∀ (q : Req) (s : State), s.takes (opRow 0x0711 4) q →
    let w := le q.params 0 1
    (w < 64 → (s.window w).isOpen = true → s.mem.waiting.any (DramWait.ofWindow w) = true → ∃ u p, exec (.windowClose q) s = .next u ∧
      u.out = [] ∧ u.fovar.closeAcks = s.fovar.closeAcks ++ [p] ∧ p.seq = q.seq ∧ p.status = Code.ok ∧
      u.window w = { s.window w with isOpen := false } ∧ u.mem = s.mem) ∧
    (w < 64 → (s.window w).isOpen = true → s.mem.waiting.any (DramWait.ofWindow w) = false → ∃ u, exec (.windowClose q) s = .next u ∧
      u = { s.served (opRow 0x0711 4) q .ok with fovar := { s.fovar with windows := u.fovar.windows } } ∧
      u.window w = { s.window w with isOpen := false } ∧ ∀ n, n ≠ w → u.window n = s.window n) ∧
    ((64 ≤ w ∨ (s.window w).isOpen = false) →
      exec (.windowClose q) s = .next (s.served (opRow 0x0711 4) q (.err Code.notPermitted)))) ∧
  (∀ (s : State) (t : Time) (n : Fin 4) (f : LinkFrame) (m : MemFindings), s.phase = .ready → (s.fovarPort n).state = .up → f.crcOk = true → f.nak = false →
    f.linkSeq = (s.fovarPort n).rxSeq → f.dst = s.straps.devId →
    f.e2eSeq = Tab.get (fun _ => 0) s.fovar.e2eRx f.src.toNat → (∀ x ∈ s.fovar.ahead, x.frame.src ≠ f.src) → m.carr = [] →
    let r := s.begin t
    let noted (u : State) : Prop := (u.fovarPort n).rxSeq = (s.fovarPort n).rxSeq + 1 ∧
      Tab.get (fun _ => 0) u.fovar.e2eRx f.src.toNat = f.e2eSeq + 1 ∧ u.spad = s.spad ∧ u.pool = s.pool ∧ u.channels = s.channels
    let answers (u : State) (type : BitVec 4) (ep : BitVec 16) (bad : Bool) (d : List Byte) : Prop :=
      r.reachable f.src.toNat = true → ∃ k y a b, .fovar k y a b ∈ u.out ∧ y.type = type ∧ y.dst = f.src ∧ y.window = f.window ∧
        y.offset = f.offset ∧ y.epoch = ep ∧ y.poison = bad ∧ y.payload = d
    (∀ g, s.dramServes = true → r.windowCheck f true = .ok g → ∃ u, exec (.write t n f m) s = .next u ∧ noted u ∧ answers u 3 0 false [] ∧
      u.mem.dram.bytes (64 * g) f.payload.length = f.payload ∧ (f.poison = true → g ∈ u.mem.poison) ∧
      ∀ x, (x < 64 * g ∨ 64 * g + f.payload.length ≤ x) → u.mem.dram.read x = s.mem.dram.read x) ∧
    (∀ g, s.dramServes = true → m.wrong = [] → r.windowCheck f false = .ok g → ∃ u, exec (.readReq t n f m) s = .next u ∧
      noted u ∧ u.mem.dram = s.mem.dram ∧
      answers u 2 0 (s.mem.poison.contains g || m.uncorrectable.contains g) (s.mem.dram.bytes (64 * g) 64)) ∧
    (∀ g, s.dramServes = false →
      (r.windowCheck f true = .ok g → ∃ u, exec (.write t n f m) s = .next u ∧ noted u ∧
        u.mem = { s.mem with waiting := s.mem.waiting ++ [.peerWrite g f m (r.via (s.windowVa f))] }) ∧
      (r.windowCheck f false = .ok g → ∃ u, exec (.readReq t n f m) s = .next u ∧ noted u ∧
        u.mem = { s.mem with waiting := s.mem.waiting ++ [.peerRead g f m (r.via (s.windowVa f))] })) ∧
    (∀ e, r.windowCheck f true = .error e → ∃ u, exec (.write t n f m) s = .next u ∧ noted u ∧ u.mem = s.mem ∧
      answers u 4 e.1 false []) ∧
    (∀ e, r.windowCheck f false = .error e → ∃ u, exec (.readReq t n f m) s = .next u ∧ noted u ∧ u.mem = s.mem ∧
      answers u 4 e.1 false [])) ∧
  ∀ (s : State) (t : Time) (n : Fin 4) (f : LinkFrame) (m : MemFindings), s.phase = .ready →
    let p := (s.fovarPort n).acked f.linkAck
    let both (u : State) : Prop := exec (.write t n f m) s = .next u ∧ exec (.readReq t n f m) s = .next u
    ((s.fovarPort n).state ≠ .up → both (s.begin t)) ∧
    ((s.fovarPort n).state = .up → f.crcOk = false → both ((s.begin t).send (.fovarNak n ((s.fovarPort n).rxSeq - 1)))) ∧
    ((s.fovarPort n).state = .up → f.crcOk = true → f.linkSeq ≠ (s.fovarPort n).rxSeq →
      (f.nak = false → both ((s.begin t).setFovarPort n p)) ∧
      (f.nak = true → p.replay ≠ [] → p.resends ≠ 8 → ∃ u, both u ∧
        u.fovarPort n = { p with resends := p.resends + 1 } ∧
        u.out = (p.replay.map fun x => let y := { x with vc := x.vc || s.wraps n }
          .fovar n y (p.rxSeq - 1) (y.bytes (p.rxSeq - 1))) ∧
        u.fovar.counters.get 0 = BitVec.ofNat 32 (min (2 ^ 32 - 1) ((s.fovar.counters.get 0).toNat + p.replay.length)) ∧
        u.mem = s.mem ∧ u.channels = s.channels) ∧
      (f.nak = true → p.replay ≠ [] → p.resends = 8 → ∃ u, both u ∧ (u.fovarPort n).state = .down))

/-- READ_DATA, ACK and REFUSE at the sender, and Fovar ports going up and down. An in-order answer for this device, no
frame of its source being kept ahead of its turn, takes the oldest granule sent that it belongs to. READ_DATA adds the
granule to its MOVE, which lands once it is whole; ACK lowers the MOVE's writes outstanding by 1; REFUSE counts, and
halts a running channel at that granule with the status it carries, or marks an output's result with WRITE_FAULT. With
a refusal or an ACK of an output, DONE of the coding marker rises to the stripes written without a gap, none of whose
coding rows a peer still has to answer, and the result's delivery goes on as far as it can. Trained, powered and
locked, a port with the neighbour of the wiring is UP, its sequences restart, and the event is made; with another it
is MISWIRED. An UP port that goes down is DOWN, counted, with an event and a record (the collector running). That the
sequences restart at 0 at UP is the model's choice (log 30). (Rests on R227, R245, R346, R349, R351, R355.) -/
def Obligations.PeersAnswerAndPortsChange : Prop :=
  (∀ (s : State) (t : Time) (n : Fin 4) (f : LinkFrame) (g : PeerGranule), s.phase = .ready → (s.fovarPort n).state = .up → f.crcOk = true → f.nak = false →
    f.linkSeq = (s.fovarPort n).rxSeq → f.dst = s.straps.devId →
    f.e2eSeq = Tab.get (fun _ => 0) s.fovar.e2eRx f.src.toNat → (∀ x ∈ s.fovar.ahead, x.frame.src ≠ f.src) →
    (∀ c k i j, s.fovar.sent.find? (fun g => answersTo f g && g.isRead) = some g → g.use = .move c k i j →
      let x := s.channel c
      let mv := x.moves.map fun m => if m.serial = k then { m with units := m.units.map fun v =>
        if v.index = i then { v with got := v.got ++ [(j, f.payload, f.poison || g.hit)] } else v } else m
      ((mv.findSome? fun m => m.units.head?).all fun v => v.got.length != v.need) = true → x.faultDue = false →
      ∃ u, exec (.readData t n f) s = .next u ∧ u.channel c = { x with moves := mv } ∧ u.mem = s.mem ∧
        u.fovar.sent = s.fovar.sent.eraseP (fun g => answersTo f g && g.isRead)) ∧
    (∀ c k i j, s.fovar.sent.find? (fun g => answersTo f g && !g.isRead) = some g → g.use = .move c k i j →
      (s.channel c).faultDue = false → ∃ u, exec (.ack t n f) s = .next u ∧
        u.channel c = { s.channel c with
          moves := (s.channel c).moves.map fun m => if m.serial = k then { m with unacked := m.unacked - 1 } else m } ∧
        u.mem = s.mem ∧ u.fovar.sent = s.fovar.sent.eraseP (fun g => answersTo f g && !g.isRead)) ∧
    (∀ c k i j m, s.fovar.sent.find? (answersTo f) = some g → g.use = .move c k i j →
      (s.channel c).moves.find? (fun m => m.serial == k) = some m → m.ended = false → (s.channel c).state = .running →
      ∃ u, exec (.refuse t n f) s = .next u ∧ (u.channel c).state = .halted ∧ (u.channel c).status = f.epoch ∧
        (u.channel c).pc = m.pc) ∧
    (∀ p num i k j, s.fovar.sent.find? (answersTo f) = some g → g.use = .output p num i k → (s.pipe p).job num = some j →
      ∃ (y : State) (j' : FrameJob), exec (.refuse t n f) s = .next ((y.raiseDone p num f.mem).settleOutput p f.mem) ∧
        (y.pipe p).job num = some j' ∧ j'.writeFault = true ∧
        y.mem = s.mem ∧ y.fovar.counters.get 4 = BitVec.ofNat 32 (min (2 ^ 32 - 1) ((s.fovar.counters.get 4).toNat + 1)) ∧
        (j.settings.codingEn = false → ((s.pipe p).frames.all fun j => !j.mapSent && !j.recordSent) = true →
          (y.raiseDone p num f.mem).settleOutput p f.mem = y)) ∧
    (∀ p num i k, s.fovar.sent.find? (fun g => answersTo f g && !g.isRead) = some g → g.use = .output p num i k →
      ∃ y : State, exec (.ack t n f) s = .next ((y.raiseDone p num f.mem).settleOutput p f.mem) ∧ y.pipes = s.pipes ∧ y.mem = s.mem ∧
        y.fovar.sent = s.fovar.sent.eraseP fun g => answersTo f g && !g.isRead)) ∧
  (∀ (s : State) (q : Nat) (f : BitVec 32) (m : MemFindings) (j : FrameJob), (s.pipe q).job f = some j →
    (j.settings.codingEn = false ∨ s.doneNow q j ≤ j.done → s.raiseDone q f m = s) ∧
    (j.settings.codingEn = true → j.done < s.doneNow q j → ∃ y : State, s.raiseDone q f m = y.writeMarker q j (s.doneNow q j) m ∧
      (∀ x ∈ (y.pipe q).frames, x.frame = f → x.delivered = false → x.done = s.doneNow q j)) ∧
    ∀ i, i < s.doneNow q j → (∀ st, j.stripe i = some st → st.written = true) ∧
      ∀ g ∈ s.fovar.sent, g.use ≠ .output q j.frame (some i) true) ∧
  (∀ (s : State) (t : Time) (n : Fin 4) (d : BitVec 3) (dp : BitVec 2) (boot : BitVec 32), s.phase = .ready →
    ((s.fovarPort n).state = .training ∨ (s.fovarPort n).state = .down) → (s.domain (95 + n.val)).isOn = true →
    s.health.lock.getLsbD 3 = true →
    (s.fovar.wiring s.straps.devId.toNat n = (d.toNat, dp.toNat) → ∃ u pk, exec (.portUp t n d dp boot) s = .next u ∧
      (u.fovarPort n).state = .up ∧ (u.fovarPort n).neighbour = d ∧ (u.fovarPort n).neighbourPort = dp ∧
      (u.fovarPort n).rxSeq = 0 ∧ (u.fovarPort n).boot = some boot ∧ (u.ethOf .a).ring.getLast? = some pk ∧
      pk.opcode = 0x07F0 ∧ pk.flags = 3 ∧ pk.data = leBytes 1 n ++ [2, BitVec.ofNat 8 (fovarStateCode (s.fovarPort n).state)]
        ++ leBytes 1 d.toNat ++ zeros 4 ++ leBytes 8 (s.begin t).now) ∧
    (s.fovar.wiring s.straps.devId.toNat n ≠ (d.toNat, dp.toNat) → ∃ u, exec (.portUp t n d dp boot) s = .next u ∧
      (u.fovarPort n).state = .miswired ∧ u.mem = s.mem ∧ u.channels = s.channels)) ∧
  ∀ (s : State) (t : Time) (n : Fin 4), s.phase = .ready → (s.fovarPort n).state = .up → ∃ u, exec (.portDown t n) s = .next u ∧
    (u.fovarPort n).state = .down ∧
    u.fovar.counters.get 1 = BitVec.ofNat 32 (min (2 ^ 32 - 1) ((s.fovar.counters.get 1).toNat + 1)) ∧
    (s.faults.up = true → s.faults.held.length < u.faults.held.length)

/-- COLLECTIVE takes a slot, joins are compared, a started one goes on or ends, a stalled one times out. A taken
COLLECTIVE is answered SLUICE_MISALIGNED for a misaligned SRC or DST, QUEUE_FULL with no free slot, NOT_PERMITTED for
a field out of range, a member missing or an ID in use; otherwise it is ACCEPTED and stands in the lowest free slot,
only this device having joined. A member's join with its fields sets its sender's bit; one with others, or of no
member, ends it with NOT_PERMITTED; an abort ends it with the status sent; a join for no slot is kept; while DRAM does
not serve, frames wait. Once all have joined it starts, or ends when its data cannot be read. After TIMEOUT_US without
movement it ends with STREAM_DEADLOCK, not before. An end frees the slot and completes the command. That an early join
is kept, what a join of no member does, and the status of an unreadable SRC are the model's choice (log 31). (Rests on
R356, R357, R359, 13_fovar_link.) -/
def Obligations.CollectivesRunAndEnd : Prop :=
  (∀ (q : Req) (s : State), s.takes (opRow 0x0712 40 true) q →
    let p := q.params
    let row := opRow 0x0712 40 true
    let me := s.straps.devId.toNat
    let c := collOf (row.ticket q) p (BitVec.ofNat 8 (2 ^ me)) (s.begin q.time).time
    let slot := (List.range 4).find? fun i => (s.collSlot i).isNone
    let fits := collFits p && c.members.getLsbD me && c.list.all (fun m => decide (m < s.fovar.size))
      && !(List.range 4).any fun i => (s.collSlot i).any fun x => x.id == c.id
    ((le p 24 8 % 64 ≠ 0 ∨ le p 32 8 % 64 ≠ 0) →
      exec (.collective q) s = .next (s.served row q (.err Code.sluiceMisaligned)).settleJoins) ∧
    (le p 24 8 % 64 = 0 → le p 32 8 % 64 = 0 → slot = none →
      exec (.collective q) s = .next (s.served row q (.err Code.queueFull)).settleJoins) ∧
    (∀ i, le p 24 8 % 64 = 0 → le p 32 8 % 64 = 0 → slot = some i → fits = false →
      exec (.collective q) s = .next (s.served row q (.err Code.notPermitted)).settleJoins) ∧
    (∀ i, le p 24 8 % 64 = 0 → le p 32 8 % 64 = 0 → slot = some i → fits = true → ∃ v : State,
      exec (.collective q) s = .next v.settleJoins ∧ v.collSlot i = some c ∧ (∀ k, k ≠ i → v.collSlot k = s.collSlot k) ∧
      v.fovar.joins = s.fovar.joins ∧ v.mem = s.mem ∧ v.spad = s.spad ∧ v.channels = s.channels ∧
      (s.ethOf q.port).packetOut (reqAck q 0x0712 (s.begin q.time).time { status := Code.accepted }) ∈ v.out)) ∧
  (∀ (s : State) (t : Time) (n : Fin 4) (f : LinkFrame) (x : CollContent) (e : List AdderSlip), s.phase = .ready → (s.fovarPort n).state = .up → f.crcOk = true → f.nak = false →
    f.linkSeq = (s.fovarPort n).rxSeq → f.dst = s.straps.devId →
    f.e2eSeq = Tab.get (fun _ => 0) s.fovar.e2eRx f.src.toNat → (∀ x ∈ s.fovar.ahead, x.frame.src ≠ f.src) →
    (s.dramServes = false → ∃ u, exec (.collectiveFrame t n f x e) s = .next u ∧
      u.mem = { s.mem with waiting := s.mem.waiting ++ [.coll f x e] } ∧ u.fovar.slots = s.fovar.slots) ∧
    (∀ k c, s.dramServes = true → s.slotFor f x = some k → s.collSlot k = some c →
      (x = c.joinFields → c.members.getLsbD f.src.toNat = true → ∃ u, exec (.collectiveFrame t n f x e) s = .next u ∧
        u.mem = s.mem ∧ u.collSlot k = some { c with joined := c.joined ||| BitVec.ofNat 8 (2 ^ f.src.toNat) }) ∧
      (∀ i o m w l d, x = .join i o m w l d → (x ≠ c.joinFields ∨ c.members.getLsbD f.src.toNat = false) →
        ∃ u st, exec (.collectiveFrame t n f x e) s = .next u ∧ u.collSlot k = none ∧
          u.completed c.ticket Code.notPermitted st) ∧
      (∀ st a b d h, x = .abort st a b d h → ∃ u y, exec (.collectiveFrame t n f x e) s = .next u ∧
        u.collSlot k = none ∧ u.completed c.ticket st y)) ∧
    (∀ i o m w l d, s.dramServes = true → x = .join i o m w l d → s.slotFor f x = none →
      ∃ u, exec (.collectiveFrame t n f x e) s = .next u ∧ u.mem = s.mem ∧
        u.fovar.joins = s.fovar.joins ++ [{ device := f.src, id := f.epoch, fields := x }])) ∧
  ∀ (s : State) (t : Time) (k : Fin 4) (c : Collective) (f : MemFindings) (e : List AdderSlip), s.phase = .ready → s.collSlot k = some c →
    (c.started = false → c.joined = c.members → s.dramServes = true → ∃ u, exec (.collectiveStart t k f e) s = .next u ∧
      (u.collSlot k = none ∨ ∃ c', u.collSlot k = some c' ∧ c'.started = true ∧ c'.id = c.id) ∧
      ((c.op ≠ 3 ∨ c.root.toNat = s.straps.devId.toNat) → ((s.begin t).readContribution c f).2.1 ≠ none →
        u.collSlot k = none ∧ ∃ y, u.completed c.ticket Code.poisonConsumed y)) ∧
    ((c.started = true ∨ c.joined ≠ c.members) → exec (.collectiveStart t k f e) s = .next (s.begin t)) ∧
    (c.lastMove.toNat + 1000 * c.timeoutUs ≤ (s.begin t).now → ∃ u y, exec (.collectiveTimeout t k) s = .next u ∧
      u.collSlot k = none ∧ u.completed c.ticket Code.streamDeadlock y) ∧
    ((s.begin t).now < c.lastMove.toNat + 1000 * c.timeoutUs → exec (.collectiveTimeout t k) s = .next (s.begin t))

/-- A detector's report becomes one record: its class, its status bits, its counter, its pin. While the collector does
not run, a report changes nothing. While it runs, a report joins the records that wait, with the report's detector,
outcome and source ID and the time at which its detector fired; no other kind of state changes but the status words.
Its class is FENCE under suppression (never for INFO), SAF for a UCF of a unit that serves a carrying safety pipeline,
else the detector's. FENCE and INFO set no status bit. Any other sets the SEEN bit of its class, its site's bits with
FAULT_TIMES, and clears none; a block bit's rise sets the region's BLOCK bit unless suppressed, and a region bit's
rise the chip's. A SAF record, and one in PIN_CLASSES, carries PIN, drives the pin low, sets HOLD and restarts the 20
us; any other leaves the pin. (Rests on R380, R381, R382, R383, R384, R385, R386, 14_faults.) -/
def Obligations.CollectorMakesRecords : Prop :=
  ∀ (s : State) (f : FaultInfo),
    (s.faults.up = false → s.fault f = s) ∧
    (s.faults.up = true → ∃ u r, s.fault f = u ∧ u = { s with faults := u.faults, blocks := u.blocks, regions := u.regions } ∧
      u.faults.held = s.faults.held ++ [r] ∧ r.time = f.found.getD s.time ∧ r.source = f.site.source ∧ r.detector = f.detector ∧
      r.outcome = f.outcome ∧ r.block = f.block ∧ r.region = f.region ∧ r.pipeline = f.pipeline ∧ r.frame = f.frame ∧
      r.cls = (if f.suppressed.any s.isSuppressed = true ∧ f.cls ≠ Cls.info then Cls.fence
        else if f.cls = Cls.ucf ∧ s.servesSafety f.served = true then Cls.saf else f.cls) ∧
      ((r.cls = Cls.fence ∨ r.cls = Cls.info) → u.faults.status = s.faults.status ∧ u.faults.times = s.faults.times ∧
        u.blocks = s.blocks ∧ u.regions = s.regions) ∧
      (∀ i, s.faults.status.getLsbD i = true → u.faults.status.getLsbD i = true) ∧
      (r.cls.toNat ≤ 3 →
        u.faults.status.getLsbD (24 + r.cls.toNat) = true ∧
        (∀ i n, f.site = .chip i n → i < 64 →
          u.faults.status.getLsbD i = true ∧ Tab.get (fun _ => 0) u.faults.times i = s.time) ∧
        (∀ b i, f.site = .block b → i ∈ f.blockBits → i < 32 → b < 64 → (u.block b).status.getLsbD i = true ∧
          ((s.block b).status.getLsbD i = false → s.isSuppressed (.block (Fin.ofNat 64 b)) = false →
            (u.region (b / 16)).status.getLsbD (b % 16) = true ∧
            ((s.region (b / 16)).status.getLsbD (b % 16) = false → u.faults.status.getLsbD (b / 16) = true)))) ∧
      r.pin = (decide (r.cls = Cls.saf) || decide (r.cls.toNat < 3) && s.faults.alarmConfig.getLsbD r.cls.toNat) ∧
      (r.pin = true → u.faults.hold = true ∧ u.faults.pinLow = true ∧ u.faults.pinUntil = s.time + 20000) ∧
      (r.pin = false → u.faults.hold = s.faults.hold ∧ u.faults.pinLow = s.faults.pinLow ∧
        u.faults.pinUntil = s.faults.pinUntil) ∧
      (r.cls.toNat ≤ 4 → u.faults.counters.get r.cls.toNat =
        BitVec.ofNat 32 (min (2 ^ 32 - 1) ((s.faults.counters.get r.cls.toNat).toNat + 1))) ∧
      u.faults.ring = s.faults.ring ∧ u.faults.nextSeq = s.faults.nextSeq)

/-- Records are released in one order and read back; the bittern pin and EXT_FAULT_N. RECORD_RELEASE releases only
records 2 us old, with consecutive SEQ, ascending by time unless they form a concurrent group, which leaves in
ascending source ID with CONCURRENT; all others stay. They join the ring of the last 4,096; a record sent on port A is
a FAULT_RECORD event of its first 64 bytes, and a command that waits for a record's SEQ completes with it.
TUSSOCK_READ of 1 to 32 records answers OLDEST, NEXT and the records from FROM on, and changes nothing. ALARM_RELEASE
clears HOLD, unless a record is made in the same cycle; the pin is then low only while its minimum time lasts.
EXT_FAULT_N makes one SAF record per assertion, again only after a release; before the collector runs, in start-up
from stage 4 on, only the first assertion's time is kept. (Rests on R383, R386, R387, R388, R389.) -/
def Obligations.RecordsLeaveInOrder : Prop :=
  (∀ (s : State) (t : Time), let runs := s.faults.up = true ∧ (s.phase = .starting → s.faults.startsAt.toNat ≤ (s.begin t).now)
    (¬ runs → exec (.recordRelease t) s = .next (s.begin t)) ∧
    (runs → s.faults.extHeld = none → s.faults.ring.length ≤ 4096 → ∃ u out, exec (.recordRelease t) s = .next u ∧
      u = { s.begin t with faults := u.faults, eth := u.eth, out := u.out } ∧
      (∀ r ∈ out, r.time.toNat + 2000 ≤ (s.begin t).now) ∧
      (∀ (i : Nat) r, out[i]? = some r → r.seq = s.faults.nextSeq + BitVec.ofNat 32 i) ∧
      out.Pairwise (fun a b => a.time.toNat + 8 ≤ b.time.toNat ∨
        (a.concurrent = true ∧ b.concurrent = true ∧ a.source.toNat ≤ b.source.toNat)) ∧
      u.faults.ring = (s.faults.ring ++ out).drop ((s.faults.ring ++ out).length - 4096) ∧
      u.faults.nextSeq = s.faults.nextSeq + BitVec.ofNat 32 out.length ∧
      u.faults.held.length + out.length = s.faults.held.length ∧ (∀ r ∈ u.faults.held, r ∈ s.faults.held) ∧
      (∀ r ∈ s.faults.held, (s.begin t).now < r.time.toNat + 2000 → r ∈ u.faults.held) ∧
      (∀ r, s.faults.held = [r] → r.time.toNat + 2000 ≤ (s.begin t).now → u.faults.held = [] ∧
        (r.reply = none → r.toA = true → ∃ p, (u.ethOf .a).ring.getLast? = some p ∧ p.opcode = 0x08F0 ∧ p.flags = 3 ∧
          p.data = (s.recordBytes { r with seq := s.faults.nextSeq }).take 64) ∧
        (∀ k d, r.reply = some (k, d) → u.completed k Code.ok (d ++ leBytes 4 s.faults.nextSeq.toNat))))) ∧
  (∀ (q : Req) (s : State), s.takes (opRow 0x0810 8 false true) q →
    let c := s.faults
    let n := le q.params 4 1
    let row := opRow 0x0810 8 false true
    let oldest := c.nextSeq - BitVec.ofNat 32 c.ring.length
    let skip := (BitVec.ofNat 32 (le q.params 0 4) - oldest).toNat
    (1 ≤ n → n ≤ 32 → exec (.tussockRead q) s = .next (s.served row q (.ok (leBytes 4 oldest.toNat ++ leBytes 4 c.nextSeq.toNat
      ++ ((c.ring.drop (if skip < 2 ^ 31 then skip else 0)).take n).flatMap s.recordBytes)))) ∧
    ((n = 0 ∨ 32 < n) → exec (.tussockRead q) s = .next (s.served row q (.err Code.notPermitted)))) ∧
  (∀ (q : Req) (same : Bool) (s : State), s.takes (opRow 0x0812 0 false true) q →
    ∃ u, exec (.alarmRelease q same) s = .next u ∧
      u = { s.served (opRow 0x0812 0 false true) q .ok with faults := { s.faults with
        hold := same && s.faults.hold
        pinLow := s.faults.pinLow && (same && s.faults.hold || decide ((s.begin q.time).now < s.faults.pinUntil.toNat)) } }) ∧
  (∀ (s : State) (t : Time), s.phase = .ready → exec (.alarmMinLowEnd t) s = .next { s.begin t with
    faults := { s.faults with
      pinLow := s.faults.pinLow && (s.faults.hold || decide ((s.begin t).now < s.faults.pinUntil.toNat)) } }) ∧
  (∀ (s : State) (t : Time), s.phase ≠ .reset → (s.faults.extFault = true → exec (.extFault t) s = .next (s.begin t)) ∧
    (s.faults.extFault = false → ¬ (s.faults.up = true ∧ (s.phase = .starting → s.faults.startsAt.toNat ≤ (s.begin t).now)) → exec (.extFault t) s = .next { s.begin t with
      faults := { s.faults with extFault := true, extHeld := some (s.faults.extHeld.getD (s.begin t).time) } }) ∧
    (s.faults.extFault = false → s.faults.up = true → (s.phase = .starting → s.faults.startsAt.toNat ≤ (s.begin t).now) → ∃ u r, exec (.extFault t) s = .next u ∧
      u = { s.begin t with faults := u.faults } ∧ u.faults.extFault = true ∧ u.faults.held = s.faults.held ++ [r] ∧
      r.cls = 3 ∧ r.detector = 0x15 ∧ r.source = 0x3240 ∧ r.time = (s.begin t).time ∧ r.pin = true ∧
      u.faults.hold = true ∧ u.faults.pinLow = true ∧ u.faults.pinUntil = (s.begin t).time + 20000)) ∧
  ∀ (s : State) (t : Time), exec (.extFaultNRelease t) s = .next { s.begin t with faults := { s.faults with extFault := false } }

/-- Field tests, block resets, re-mapping, suppression windows and the lockstep pair. A taken RUN_BLOCK_TEST of a
block that may be tested is ACCEPTED and waits; else NOT_PERMITTED. A test begins on a powered block that is fenced or
free of frame jobs: the block is fenced, in reset and TESTING, its threads and residencies are gone and its scratchpad
is zero. Its end makes the record whose release completes the command, with vectors run only under VENDOR, and
captures only under CAPTURES, every one held of the block, and a failure only of one that was run; a pass unfences and
resets the block, a failure leaves it fenced; no other block changes. A block leaves reset with 1 us more of
suppression; a window that is over goes, no other. The oldest re-mapping of a region takes the fenced block out of
every carrying set and out of no other, sheds no safety pipeline and makes an INFO record. LOCKSTEP makes a SAF record
and the sequencers resynchronise; pipelines, jobs, blocks, channels and memory go on; the resynchronisation ends.
(Rests on R367, R376, R377, R378, R379, R385, R392.) -/
def Obligations.TestsResetsAndSequencers : Prop :=
  (∀ (q : Req) (s : State), s.takes (opRow 0x0811 4 true true) q →
    let b := le q.params 0 1
    let x := s.block b
    let row := opRow 0x0811 4 true true
    let good := decide (b < 64) && !x.testing && x.testDue.isNone && decide (le q.params 1 1 % 4 ≠ 0) &&
      (x.threads.all fun th => match th.owner with
        | .job _ => false
        | .pipeline _ => true) && !s.emptiesSet b && !s.requestedOff b && !s.requestedOff (64 + b / 16)
    (good = true → ∃ u, exec (.runBlockTest q) s = .next u ∧
      u = { s.served row q { status := Code.accepted } with blocks := u.blocks, regions := u.regions } ∧
      u.block b = { x with testDue := some (row.ticket q, BitVec.ofNat 8 (le q.params 1 1 % 4)) } ∧
      (∀ n, n ≠ b → u.block n = s.block n) ∧ (x.fenced = true → u.regions = s.regions)) ∧
    (good = false → exec (.runBlockTest q) s = .next (s.served row q (.err Code.notPermitted)))) ∧
  (∀ (s : State) (t : Time) (b : Fin 64), s.phase = .ready →
    let x := s.block b
    let good := x.testDue.isSome && !x.testing && !x.resetting && (s.domain b).isOn && (x.fenced || s.testFree b)
    (good = false → exec (.blockTestBegin t b) s = .next (s.begin t)) ∧
    (good = true → ∃ u, exec (.blockTestBegin t b) s = .next u ∧ (u.block b).testing = true ∧ (u.block b).fenced = true ∧
      (u.block b).resetting = true ∧ (u.block b).threads = [] ∧ (u.block b).residents = [] ∧ (u.block b).events = 0 ∧
      (∀ a, a < 0x30_0000 → u.spad.read (0x30_0000 * b.val + a) = 0) ∧ u.mem.dram = s.mem.dram ∧ u.pool = s.pool)) ∧
  (∀ (s : State) (t : Time) (b : Fin 64) (r : TestResult) (k : Ticket) (pat : BitVec 8), s.phase = .ready →
    (s.block b).testing = true → (s.block b).resetting = false → (s.block b).testDue = some (k, pat) →
    let v := if pat.getLsbD 0 then r.vectors.toNat else 0
    let c := if pat.getLsbD 1 then (s.faults.captures.filter fun c => c.block == b.val).length else 0
    let bad := if (r.firstFail.map fun i => decide (i.toNat < v + c)) = some true then r.firstFail else none
    ∃ u, exec (.blockTestEnd t b r) s = .next u ∧ (u.block b).testing = false ∧ (u.block b).testDue = none ∧
      (s.faults.up = true → ∃ f, u.faults.held = s.faults.held ++ [f] ∧ f.detector = 0x16 ∧ f.block = some b.val ∧
        f.reply = some (k, leBytes 1 b.val ++ leBytes 1 (if bad.isSome then 1 else 0) ++ leBytes 2 v ++ leBytes 2 c
          ++ leBytes 2 ((bad.getD 0xFFFF).toNat))) ∧
      (bad = none → (u.block b).fenced = false ∧ (u.block b).resetting = true) ∧
      (bad ≠ none → (u.block b).fenced = (s.block b).fenced) ∧ (∀ n, n ≠ b.val → u.block n = s.block n) ∧ u.mem = s.mem ∧ u.channels = s.channels) ∧
  (∀ (s : State) (t : Time) (b : Fin 64), s.phase = .ready →
    ((s.block b).resetting = false → exec (.blockResetComplete t b) s = .next (s.begin t)) ∧
    ((s.block b).resetting = true → ∃ u, exec (.blockResetComplete t b) s = .next u ∧
      u = { s.begin t with blocks := u.blocks, faults := { s.faults with suppressed :=
        (s.faults.suppressed.filter fun y => y.unit != .block b) ++ [⟨.block b, some ((s.begin t).time + 1000)⟩] } } ∧
      u.block b = { s.block b with resetting := false } ∧ ∀ n, n ≠ b.val → u.block n = s.block n)) ∧
  (∀ (s : State) (t : Time) (x : SuppressedUnit), s.phase = .ready → ∃ u, exec (.suppressionEnd t x) s = .next u ∧
    u = { s.begin t with faults := { s.faults with suppressed := u.faults.suppressed } } ∧
    ∀ w, w ∈ u.faults.suppressed ↔
      w ∈ s.faults.suppressed ∧ ¬ (w.unit = x ∧ ∃ e, w.ends = some e ∧ e.toNat ≤ (s.begin t).now)) ∧
  (∀ (s : State) (t : Time) (r : Fin 4), s.phase = .ready →
    ((s.region r).remapDue = [] → exec (.remapComplete t r) s = .next (s.begin t)) ∧
    (∀ d rest, (s.region r).remapDue = d :: rest → ∃ u, exec (.remapComplete t r) s = .next u ∧
      (u.region r).remapDue = rest ∧ u.mem = s.mem ∧ u.blocks = s.blocks ∧
      (∀ p, p < 24 →
        ((s.pipe p).carrying = true → (s.pipe p).setRegion = r.val → u.pipe p = { s.pipe p with blocks := (u.pipe p).blocks } ∧
          ∀ i, i < 16 → (u.pipe p).blocks.getLsbD i = ((s.pipe p).blocks.getLsbD i && decide (i ≠ d.block % 16))) ∧
        (((s.pipe p).carrying = false ∨ (s.pipe p).setRegion ≠ r.val) → u.pipe p = s.pipe p) ∧
        (s.faults.remapStatus.getLsbD p = false → u.faults.remapStatus.getLsbD p = true → (s.pipe p).live.safety = false)) ∧
      (s.faults.up = true → ∃ l f, u.faults.held = l ++ [f] ∧ f.cls = 5 ∧ f.detector = 0x17 ∧ f.block = some d.block))) ∧
  (∀ (s : State) (t : Time) (e : Option (Req × BitVec 16)), s.phase = .ready → ∃ u, exec (.lockstep t e) s = .next u ∧
    u = { s.begin t with resync := true, eth := u.eth, out := u.out, faults := u.faults } ∧
    (s.resync = true → u.eth = s.eth ∧ u.out = []) ∧
    (s.resync = false → s.faults.up = true → (s.begin t).isSuppressed .sequencers = false →
      ∃ f, u.faults.held = s.faults.held ++ [f] ∧ f.cls = 3 ∧ f.detector = 9 ∧ f.source = 0x30A0 ∧ f.time = (s.begin t).time) ∧
    (∀ q c, s.resync = false → e = some (q, c) →
      (s.begin t).gate { code := c, portB := true, lenOk := fun _ => true } q = .run →
      u.out = [(s.ethOf q.port).packetOut (reqAck q c (s.begin t).time (.err Code.queueFull))] ∧
      ((u.ethOf q.port).queue q.queue.toNat).expected = ((s.ethOf q.port).queue q.queue.toNat).expected)) ∧
  ∀ (s : State) (t : Time), s.phase = .ready →
    (s.resync = false → exec (.sequencerResyncDone t) s = .next (s.begin t)) ∧
    (s.resync = true → exec (.sequencerResyncDone t) s = .next { s.begin t with resync := false, faults := { s.faults with
      suppressed := (s.faults.suppressed.filter fun y => y.unit != .sequencers)
        ++ [⟨.sequencers, some ((s.begin t).time + 1000)⟩] } })

/-- RUN_CALIBRATION starts runs; a run applies its corrections in one step and completes what waits for it. A taken
RUN_CALIBRATION that names targets whose domains are all on is ACCEPTED: a run of each starts and the command waits
for all of them; no tap moves. Else NOT_PERMITTED. A run starts of itself only on a powered target whose cause holds.
A port's run applies only while it runs, at the port's frame boundary or, where it has none, outside a frame, and the
first one after power-on only with 65,536 transitions on every input that the port's mode samples (which inputs count
is the model's choice, log 118): inputs that saw 65,536 transitions take the centre of their eyes, others keep their
taps, every eye is stored, RUNS counts, VALID is set and no other port changes; a receiver's run applies only with its
link up, storing its lanes' figures. A run that started of itself sends CAL_APPLIED; a command that waited for this
target alone completes with OK. The eye among equal runs and its middle (log 94), the time at which a port without a
boundary applies (log 86) and what an input with fewer transitions stores (log 17) are the model's choice. (Rests on
R413, R415, R416, R417, R418, R419.) -/
def Obligations.CalibrationRunsAndApplies : Prop :=
  (∀ (q : Req) (s : State), s.takes (opRow 0x0910 4 true) q →
    let row := opRow 0x0910 4 true
    let gs := calTargets (le q.params 0 1) (le q.params 1 1)
    let good := !gs.isEmpty && gs.all fun g => (s.domain (calDomain g)).isOn
    (good = true → ∃ u c, exec (.runCalibration q) s = .next u ∧
      u = { s.served row q { status := Code.accepted } with ports := u.ports, health := { s.health with
        laneRuns := u.health.laneRuns, calCommands := s.health.calCommands ++ [c] } } ∧
      c.ticket = row.ticket q ∧ c.waiting = gs.map calIndex ∧ c.calibrated = 0 ∧
      (∀ g ∈ gs, match g with
        | .sedge p => (u.port p).calRunning = true
        | g => (u.laneRun (laneKey g)).running = true) ∧
      ∀ n, (u.port n).taps = (s.port n).taps ∧ (u.port n).state = (s.port n).state) ∧
    (good = false → exec (.runCalibration q) s = .next (s.served row q (.err Code.notPermitted)))) ∧
  (∀ (s : State) (t : Time) (g : CalTarget) (cause : CalCause), s.phase ≠ .reset →
    let good := (s.domain (calDomain g)).isOn && s.causeHolds g cause
    (good = false → exec (.calibrationRunStart t g cause) s = .next (s.begin t)) ∧
    (good = true → ∃ u, exec (.calibrationRunStart t g cause) s = .next u ∧
      u = { s.begin t with ports := u.ports, health := { s.health with laneRuns := u.health.laneRuns } } ∧
      match g with
      | .sedge p => u.port p = { s.port p with calRunning := true, calCause := some cause }
      | g => u.laneRun (laneKey g) = { s.laneRun (laneKey g) with running := true, cause := some cause })) ∧
  (∀ (s : State) (t : Time) (p : Fin 24) (r : List EyeScan) (la : List Lane) (seen : Bool), s.phase ≠ .reset →
    let x := s.port p
    let first := x.calValid || (List.range 26).all fun i => (bits 1 0 x.live.mode == 0 && decide (12 ≤ i) && decide (i < 24)) ||
      enoughSeen (r.getD i [])
    let may := (s.domain (68 + p.val)).isOn && x.calRunning && first &&
      (if s.hasBoundary p then x.boundaryAt == some (s.begin t).time else x.state != .inFrame)
    (may = false → exec (.calibrationApply t (.sedge p) r la seen) s = .next (s.begin t)) ∧
    (may = true → ∃ u, exec (.calibrationApply t (.sedge p) r la seen) s = .next u ∧
      u = { s.begin t with ports := u.ports, health := { s.health with calCommands := u.health.calCommands }, eth := u.eth
                           out := u.out, fresh := u.fresh } ∧
      (u.port p).calRunning = false ∧ (u.port p).calValid = true ∧ (u.port p).calZq = !seen ∧
      (u.port p).calRuns = BitVec.ofNat 16 (min 0xFFFF (x.calRuns.toNat + 1)) ∧
      (∀ i, i < 26 → let c := r.getD i []
        (u.port p).eye i = min 63 (eyeOf c).2 ∧ (enoughSeen c = false → (u.port p).tap i = x.tap i) ∧
        (enoughSeen c = true → (eyeOf c).2 ≠ 0 → (u.port p).tap i = (eyeOf c).1 + ((eyeOf c).2 - 1) / 2)) ∧
      (∀ i, 26 ≤ i → (u.port p).eye i = x.eye i ∧ (u.port p).tap i = x.tap i) ∧
      (∀ n, n ≠ p.val → u.port n = s.port n) ∧
      (∀ c, x.calCause = some c → s.health.calCommands = [] → ∃ d, (u.ethOf .a).ring.getLast? = some d ∧ d.opcode = 0x09F0 ∧
        d.flags = 3 ∧ d.data.take 3 = leBytes 1 0 ++ leBytes 1 p.val ++ leBytes 1 (causeCode c)) ∧
      (∀ k, s.health.calCommands = [k] → k.target = 0 → k.waiting = [p.val] → u.health.calCommands = [] ∧
        ∃ d, u.completed k.ticket Code.ok d ∧ d.length = 16 ∧ d.take 2 = [k.target, k.index]))) ∧
  ∀ (s : State) (t : Time) (g : CalTarget) (la : List EyeScan) (r : List Lane) (seen : Bool), s.phase ≠ .reset →
    (s.domain (calDomain g)).isOn = true → (s.laneRun (laneKey g)).running = true →
    (g = .pcie ∧ s.mem.pcieLink = true ∨ ∃ n, g = .fovar n ∧ (s.fovarPort n).state = .up) →
    ∃ u, exec (.calibrationApply t g la r seen) s = .next u ∧ (u.laneRun (laneKey g)).running = false ∧
      (∀ i c, i < laneCount (laneKey g) → r[i]? = some c →
        Tab.get (fun _ => (⟨0, 0, 0, 0, 0⟩ : Lane)) u.health.lanes (laneBase (laneKey g) + i) = c) ∧
      u.ports = s.ports ∧ u.mem = s.mem ∧ u.fovar = s.fovar

/-- Each monitor makes its SAF record and takes its action, the supply loop steps, and no other kind of state changes.
Once PORST_N is released: the loss of a lock that was held clears its LOCK bit and trips CLOCK_MONITOR; the PCIe PLL
drops the link, the Fovar PLL takes UP ports DOWN. The reference and the derived clocks trip it too; SCLK puts the
spine on the backup oscillator until it recovers; relock and return set their bits. A supply trip makes a
VOLTAGE_MONITOR record; a low VDD_CORE clamps every powered region, whose running steps go on at /8. A sensor at SAF_C
trips THERMAL once. AVS_LOOP stores the slacks, moves the target by 5 mV within 550 to 800 mV (by the least slack of
powered regions), or not at all under an AVS fault, writes it over AVSBus, and the third failure in a row sets that
fault. A slack below DROOP_PS clamps a powered region, counted once; the release ends it once slack has been at
GUARD_PS for 10 us; no other region changes. How the slack of regions moves the target, and when an AVS fault ends,
rest on the model's choice (log 16). (Rests on R402, R403, R404, R405, R406, R407.) -/
def Obligations.MonitorsAct : Prop :=
  ∀ (s : State) (t : Time), s.phase ≠ .reset →
    let now := (s.begin t).time
    let low (i : Nat) : BitVec 4 := s.health.lock &&& ~~~ BitVec.ofNat 4 (2 ^ i)
    (s.health.lock.getLsbD 0 = false → exec (.rootPllUnlock t) s = .next (s.begin t)) ∧
    (s.health.lock.getLsbD 0 = true → ∃ u, exec (.rootPllUnlock t) s = .next u ∧
      u = { s.begin t with faults := u.faults, health := { s.health with
        lock := low 0, clockCounters := u.health.clockCounters } } ∧ s.trips u Det.clockMonitor now) ∧
    exec (.rootPllRelock t) s = .next { s.begin t with health := { s.health with lock := s.health.lock ||| 1 } } ∧
    (s.health.refOk = true → ∃ u, exec (.referenceLoss t) s = .next u ∧
      u = { s.begin t with faults := u.faults, health := { s.health with
        refOk := false, clockCounters := u.health.clockCounters } } ∧ s.trips u Det.clockMonitor now) ∧
    (s.health.refOk = false → exec (.referenceLoss t) s = .next (s.begin t)) ∧
    exec (.referenceReturn t) s = .next { s.begin t with health := { s.health with refOk := true } } ∧
    (∀ c, ∃ u, exec (.derivedClockFault t c) s = .next u ∧ s.trips u Det.clockMonitor now ∧
      u = { s.begin t with faults := u.faults, health := { s.health with
        backup := s.health.backup || decide (c = .sclk), clockCounters := u.health.clockCounters } }) ∧
    exec (.sclkRecovered t) s = .next { s.begin t with health := { s.health with backup := false } } ∧
    (∀ c, (let z := { s.begin t with health := { s.health with lock := s.health.lock ||| BitVec.ofNat 4 (2 ^ pllBit c) } }
        exec (.interfacePllRelock t c) s = .next z.dramBack ∧ (s.mem.waiting = [] → z.dramBack = z)) ∧
      (s.health.lock.getLsbD (pllBit c) = false → exec (.interfacePllUnlock t c) s = .next (s.begin t)) ∧
      (s.health.lock.getLsbD (pllBit c) = true → ∃ u, exec (.interfacePllUnlock t c) s = .next u ∧
        s.trips u Det.clockMonitor now ∧ u.health.lock = low (pllBit c) ∧
        (c = .pcie → u.mem = { s.mem with pcieLink := false }) ∧ (c = .dram → u.mem = s.mem ∧ u.fovar = s.fovar) ∧
        (c = .fovar → ∀ n : Fin 4, (u.fovarPort n).state = if (s.fovarPort n).state = .up then .down else (s.fovarPort n).state) ∧
        u.ports = s.ports ∧ (c ≠ .fovar → u.regions = s.regions))) ∧
    (∀ v, ∃ u, exec (.voltageMonitor t v) s = .next u ∧ s.trips u Det.voltageMonitor now ∧
      u = { s.begin t with faults := u.faults, regions := u.regions, blocks := u.blocks, health := { s.health with
        clockCounters := u.health.clockCounters } } ∧ (v ≠ .coreLow → u.blocks = s.blocks) ∧
      ∀ r, r < 4 → u.region r = { s.region r with
        droopClamped := (s.region r).droopClamped || (decide (v = .coreLow) && (s.domain (64 + r)).isOn) }) ∧
    (∀ (l : Fin 101) (v : BitVec 16), ∃ u, exec (.temperatureRead t [(l, v)]) s = .next u ∧
      u.location l = { s.location l with temp := v } ∧ (∀ i, i ≠ l.val → u.location i = s.location i) ∧
      (8 * s.health.safC ≤ v.toInt → s.faults.thermalFired.contains l.val = false → s.trips u Det.thermal now) ∧
      ((v.toInt < 8 * s.health.safC ∨ s.faults.thermalFired.contains l.val = true) → u.faults.held = s.faults.held) ∧
      (l.val < 64 → 8 * s.health.throttleC ≤ v.toInt → (u.region (l.val / 16)).hot = true) ∧
      (∀ r, (u.region r).limit = (s.region r).limit ∧ (u.region r).liveDiv = (s.region r).liveDiv) ∧ u.mem = s.mem) ∧
    (∀ (l : List (Fin 101 × BitVec 16)) (good : Bool) (rb sense : BitVec 16), ((l.map Prod.fst).Nodup) →
      ∃ u, exec (.avsLoop t l good rb sense) s = .next u ∧
      u = { s.begin t with out := [.avs u.health.targetMv], faults := u.faults, regions := u.regions, blocks := u.blocks, health := { s.health with
        senseMv := sense, targetMv := u.health.targetMv, readbackMv := if good then rb else s.health.readbackMv
        avsFails := if good then 0 else min 3 (s.health.avsFails + 1), avsFault := u.health.avsFault
        clockCounters := u.health.clockCounters, locations := u.health.locations } } ∧
      (∀ x ∈ l, u.location x.1 = { s.location x.1 with margin := x.2 }) ∧
      (∀ i, (∀ x ∈ l, x.1.val ≠ i) → u.location i = s.location i) ∧
      (∀ r : Fin 4, let seen := (l.filter fun x => x.1.val / 16 == r.val || x.1.val == 64 + r.val).map fun x => x.2.toInt
        (seen = [] → u.region r = s.region r) ∧
        (seen ≠ [] → (u.region r).slackCode.toNat = s.aclkCode r ∧ (u.region r).slack.toInt ∈ seen ∧ (∀ v ∈ seen, (u.region r).slack.toInt ≤ v) ∧
          ((u.region r).slack.toInt < s.health.droopPs → (s.domain (64 + r.val)).isOn = true → (u.region r).droopClamped = true))) ∧
      (s.health.avsFault = true → u.health.targetMv = s.health.targetMv) ∧
      (550 ≤ s.health.targetMv → s.health.targetMv ≤ 800 → 550 ≤ u.health.targetMv ∧ u.health.targetMv ≤ 800 ∧
        u.health.targetMv ≤ s.health.targetMv + 5 ∧ s.health.targetMv ≤ u.health.targetMv + 5) ∧
      (∀ r : Fin 4, s.health.avsFault = false → (s.domain (64 + r.val)).isOn = true →
        (u.region r).needSlack < s.health.guardPs → u.health.targetMv = min 800 (s.health.targetMv + 5)) ∧
      ((∃ r : Fin 4, (s.domain (64 + r.val)).isOn = true) → s.health.avsFault = false →
        (∀ r : Fin 4, (s.domain (64 + r.val)).isOn = true → s.health.guardPs + 15 < (u.region r).needSlack) →
        u.health.targetMv = max 550 (s.health.targetMv - 5)) ∧
      (good = false → u.health.avsFault = (s.health.avsFault || decide (s.health.avsFails = 2)) ∧
        (s.health.avsFails = 2 → s.health.avsFault = false → s.trips u Det.voltageMonitor now)) ∧
      (good = true → (u.health.avsFault = true ↔ s.health.avsFault = true ∧ ∃ r : Fin 4,
        (s.domain (64 + r.val)).isOn = true ∧ (u.region r).slack.toInt < s.health.guardPs))) ∧
    ∀ (r : Fin 4) (x : BitVec 16),
      ((s.health.droopPs ≤ x.toInt ∨ (s.domain (64 + r.val)).isOn = false) → exec (.droopClamp t r x) s = .next (s.begin t)) ∧
      (x.toInt < s.health.droopPs → (s.domain (64 + r.val)).isOn = true → ∃ u, exec (.droopClamp t r x) s = .next u ∧
        u = { s.begin t with regions := u.regions, blocks := u.blocks, health := { s.health with
          clockCounters := u.health.clockCounters } } ∧
        (u.region r).droopClamped = true ∧ (u.region r).slack.toInt = min x.toInt (s.region r).slack.toInt ∧
        (∀ n, n ≠ r.val → u.region n = s.region n) ∧ (∀ b, b / 16 ≠ r.val → u.block b = s.block b) ∧
        u.health.clockCounters.get 0 = if (s.region r).droopClamped then s.health.clockCounters.get 0
          else BitVec.ofNat 32 (min (2 ^ 32 - 1) ((s.health.clockCounters.get 0).toNat + 1))) ∧
      ((s.begin t).slackHeld r = false → exec (.clampRelease t r) s = .next (s.begin t)) ∧
      ((s.begin t).slackHeld r = true → s.health.guardPs ≤ (s.region r).slack.toInt ∧ ∃ u, exec (.clampRelease t r) s = .next u ∧
        u = { s.begin t with regions := u.regions, blocks := u.blocks } ∧
        u.region r = { s.region r with droopClamped := false } ∧ (∀ n, n ≠ r.val → u.region n = s.region n) ∧
        ∀ b, b / 16 ≠ r.val → u.block b = s.block b)

/-- What a fen tick does, and the hourly and per-second ageing. At command-ready, at a time that is no fen tick's,
FEN_TICK only passes time. At a tick a time distribution error sets TIME_BASE of the chip status word (that it is
found there, and makes no record, is the model's choice, log 117), and every waiting copy is live: policies, dividers'
settings, pool requests, domain modes, POWER_CONFIG; no interleave waits; a FOVAR_CONFIG that waits is in force, each
Fovar port without PORT_EN is DISABLED and each with it trains anew. A powered region takes a faster divider only if
its predicted slack meets GUARD_PS. A block that is switched on lies in a region that is on. With power, AGE_MEASURE
counts an hour, takes a location's shift from its first measurement, predicts nothing before 100 hours, and writes
hours, stress and fit data to the age area; memory, blocks and pipelines stay. STRESS_ACCUMULATE adds each location's
stress step at its temperature and VDD_CORE and changes nothing else: 1/3,600 h in units of 2^-40 h at 105 degrees and
0.70 V, twice that 10 degrees or 50 mV higher, rounded one way or the other (log 4). (Rests on R315, R403, R409, R410,
R421, R422, R423, R288.) -/
def Obligations.TicksAndAge : Prop :=
  (∀ (s : State) (t : Time) (otp : TickFinding), s.phase = .ready →
    let r := s.begin t
    let n := r.base.tickNumber r.now
    let tick := r.base.phase ≤ r.now ∧ n * r.base.num / r.base.den + r.base.phase = r.now
    (¬ tick → exec (.fenTick t otp) s = .next r) ∧
    (tick → ∃ u, exec (.fenTick t otp) s = .next u ∧
      (∀ x, x < 4 → (u.region x).policy = (s.region x).policyWait.getD (s.region x).policy ∧ (u.region x).policyWait = none ∧
        (u.region x).dvfs = (s.region x).dvfsWait.getD (s.region x).dvfs ∧ (u.region x).dvfsWait = none ∧
        (u.region x).poolRequest = (s.region x).poolWait.getD (s.region x).poolRequest) ∧
      (∀ d, d < 100 → (u.domain d).mode = (s.domain d).modeWait.getD (s.domain d).mode ∧ (u.domain d).modeWait = none) ∧
      u.health.powerConfig = s.health.powerConfigWait.getD s.health.powerConfig ∧ u.mem.interleaveWait = none ∧
      u.fovar.config = s.fovar.configWait.getD s.fovar.config ∧ u.fovar.configWait = none ∧
      (∀ c n, s.fovar.configWait = some c → n < 4 → (u.fovarPort n).state = if c.getLsbD (10 + n) then .training else .disabled) ∧
      (∀ x, x < 4 → (s.domain (64 + x)).isOn = true → (u.region x).liveDiv.toNat < (s.region x).liveDiv.toNat →
        s.health.guardPs ≤ (s.region x).slackAt (u.region x).liveDiv.toNat) ∧
      (otp.timeError = true → u = (r.setChip 21).tick otp.otp) ∧
      (∀ d, d < 64 → (s.domain d).isOn = false → (u.domain d).isOn = true → (u.domain (64 + d / 16)).isOn = true))) ∧
  (∀ (s : State) (t : Time) (x : AgeReading), s.phase ≠ .reset →
    let l := s.location x.location
    let d := Config.corrected x.location x.delay l.temp.toInt s.health.senseMv.toNat
    ∃ u, exec (.ageMeasure t [x]) s = .next u ∧
    u = { s.begin t with health := u.health, eth := u.eth, out := u.out, fw := { s.fw with ageArea := u.fw.ageArea } } ∧
    u.health.hours = BitVec.ofNat 32 (min (2 ^ 32 - 1) (s.health.hours.toNat + 1)) ∧
    (u.location x.location).firstDelay = some (l.firstDelay.getD d) ∧
    (u.location x.location).deltaD = d - l.firstDelay.getD d ∧
    (u.location x.location).fit = l.fit ++ [(l.stress, d - l.firstDelay.getD d)] ∧
    (∀ i, i < 101 → (u.location i).stress = (s.location i).stress) ∧
    (u.health.hours.toNat < 100 → ∀ i, i < 101 → (u.location i).eol = 0xFFFF_FFFF ∧ (u.location i).eolLow = 0xFFFF_FFFF ∧
      (u.location i).eolHigh = 0xFFFF_FFFF) ∧
    u.fw.ageArea.hours = u.health.hours) ∧
  stressFloor (8 * 105) 700 = 2 ^ 40 / 3600 ∧ stressFloor (8 * 115) 700 = 2 ^ 41 / 3600 ∧ stressFloor (8 * 105) 750 = 2 ^ 41 / 3600 ∧
  ∀ (s : State) (t : Time), s.phase ≠ .reset → ∃ u, exec (.stressAccumulate t) s = .next u ∧
    u = { s.begin t with health := { s.health with locations := u.health.locations } } ∧
    (∀ i, i < 101 → u.location i = { s.location i with
      stress := (s.location i).stress + stressFloor (s.location i).temp.toInt s.health.senseMv.toNat
        + if Config.stressUp (s.location i).temp.toInt s.health.senseMv.toNat then 1 else 0 }) ∧
    ∀ i, 101 ≤ i → u.location i = s.location i

/-- FIRMWARE_LOAD, FIRMWARE_ACTIVATE and ATTEST, and how each ends. With no load or activation outstanding, a taken
FIRMWARE_LOAD at command-ready with METHOD 0, a slot that does not run or 1,024 bytes of settings, and an aligned
SOURCE is ACCEPTED and no slot changes; else NOT_PERMITTED. In the ROM, a first chunk that fits starts the image. A
slot's load that ends leaves that slot VALID with OK, EMPTY with a refusal, or untouched with IMAGE_CORRUPT, and the
other slot and the running bank as they were. A taken FIRMWARE_ACTIVATE of a slot that runs, with ADVANCE, completes
at once; an unverified one waits; a bad one is NOT_PERMITTED. SLOT_VERIFIED refuses a bad image with its status, and
puts a good one in the standby bank. ATTEST of an aligned, writable range is ACCEPTED and waits; its end completes it
with the lengths and the time. How a load and an activation go on in stages, and how a chunk of a network image
completes, are the model's choice (logs 21, 22). (Rests on R434, R435, R437, R440, R441, R442, R445, R446.) -/
def Obligations.FirmwareLoadsActivatesAttests : Prop :=
  (∀ (q : Req) (s : State), s.takes firmwareLoadRow q →
    let p := q.params
    let idle := s.fw.load.isNone && s.fw.activate.isNone && s.fw.netTicket.isNone && decide (le p 4 4 ≤ 4 * 2 ^ 20)
    let fits := if le p 0 1 = 0 then decide (le p 2 1 ≤ 1) && !s.slotRunning (le p 2 1) else le p 0 1 == 1 && le p 4 4 == 1024
    let good := idle && fits && decide (le p 1 1 = 0) && decide (le p 16 8 % 64 = 0)
    (s.phase = .ready → good = true → ∃ l, exec (.firmwareLoad q) s = .next { s.served firmwareLoadRow q { status := Code.accepted } with
      fw := { s.fw with load := some l } } ∧ l.ticket = firmwareLoadRow.ticket q ∧ l.target.toNat = le p 0 1 ∧
      l.slot = le p 2 1 ∧ l.len = le p 4 4 ∧ l.source.toNat = le p 16 8) ∧
    (s.phase = .ready → good = false → s.fw.netTicket = none →
      exec (.firmwareLoad q) s = .next (s.served firmwareLoadRow q (.err Code.notPermitted))) ∧
    (s.phase = .rom true → idle = true → le p 0 1 = 0 → le p 1 1 = 1 → le p 8 4 = 0 → 16 ≤ p.length → p.length - 16 ≤ le p 4 4 →
      ((p.length - 16) % 64 = 0 ∨ p.length - 16 = le p 4 4) → ∃ u, exec (.firmwareLoad q) s = .next u ∧
      u.fw.netImage = p.drop 16 ∧ u.fw.netLen = le p 4 4 ∧ u.fw.slots = s.fw.slots ∧
      (p.length - 16 < le p 4 4 → u.completed (firmwareLoadRow.ticket q) Code.ok [] ∧ u.fw.netTicket = none) ∧
      (p.length - 16 = le p 4 4 → u.fw.netTicket = some (firmwareLoadRow.ticket q)))) ∧
  (∀ (s : State) (t : Time) (l : FwLoad) (h : MemFindings), s.phase = .ready → s.fw.load = some l → s.dramServes = true →
    ∃ u st d, exec (.firmwareLoadDone t h) s = .next u ∧ u.fw.load = none ∧ u.completed l.ticket st d ∧
      (∀ k, k ≠ l.slot → u.fwSlot k = s.fwSlot k) ∧ u.bank u.fw.activeBank = s.bank s.fw.activeBank ∧ (h.wrong = [] → u.mem.dram = s.mem.dram) ∧
      (l.target ≠ 0 → u.fwSlot l.slot = s.fwSlot l.slot) ∧
      (l.target = 0 → (st = Code.ok ∧ (u.fwSlot l.slot).state = .valid ∧ (u.fwSlot l.slot).image.length = l.len) ∨
        (st ≠ Code.ok ∧ d = [] ∧ (u.fwSlot l.slot).state = .empty) ∨
        (st = Code.imageCorrupt ∧ d = [] ∧ u.fwSlot l.slot = s.fwSlot l.slot))) ∧
  (∀ (q : Req) (otp : Option Nat) (s : State), s.takes (opRow 0x0A11 4 true) q → s.fw.activate = none →
    let slot := le q.params 0 1
    let adv := (le q.params 1 1).testBit 0
    let row := opRow 0x0A11 4 true
    let good := decide (slot ≤ 1) && decide ((s.fwSlot slot).state ≠ .empty) && (!s.slotRunning slot || adv) && s.fw.load.isNone
    (good = false → exec (.firmwareActivate q otp) s = .next (s.served row q (.err Code.notPermitted))) ∧
    (good = true → s.slotRunning slot = true → ∃ u d, exec (.firmwareActivate q otp) s = .next u ∧ u.fw.activate = none ∧
      u.completed (row.ticket q) Code.ok d ∧ u.fw.activeBank = s.fw.activeBank ∧ s.fw.otp.rollback ≤ u.fw.otp.rollback ∧
      (∀ i, s.fw.otp.revoked.getLsbD i = true → u.fw.otp.revoked.getLsbD i = true) ∧ u.fw.slots = s.fw.slots) ∧
    (good = true → s.slotRunning slot = false → s.standbyHolds slot = false → exec (.firmwareActivate q otp) s =
      .next { s.served row q { status := Code.accepted } with
        fw := { s.fw with activate := some ⟨row.ticket q, slot, adv, false, false⟩ } })) ∧
  (∀ (s : State) (t : Time) (a : FwActivate), s.phase = .ready → s.fw.activate = some a → a.armed = false →
    s.slotRunning a.slot = false →
    (∀ e, verifyImage s.fw.otp (s.fwSlot a.slot).image = .error e → ∃ u, exec (.slotVerified t) s = .next u ∧
      u.fw.activate = none ∧ u.completed a.ticket e [] ∧ (u.fwSlot a.slot).lastStatus = e ∧
      u.bank u.fw.activeBank = s.bank s.fw.activeBank) ∧
    (∀ f, let img := (s.fwSlot a.slot).image
      verifyImage s.fw.otp img = .ok f → ∃ u, exec (.slotVerified t) s = .next u ∧
      u.bank s.standby = some { source := .slot a.slot, info := f, microcode := slice img (le img 24 4) (le img 28 4) } ∧ (u.fwSlot a.slot).state = .valid ∧
      u.bank u.fw.activeBank = s.bank s.fw.activeBank ∧
      ((∃ y, u.fw.activate = some y ∧ y.armed = true ∧ y.ticket = a.ticket) ∨
        (u.fw.activate = none ∧ u.completed a.ticket Code.notPermitted [])))) ∧
  (∀ (q : Req) (s : State), s.takes (opRow 0x0A12 48 true) q →
    let p := q.params
    let row := opRow 0x0A12 48 true
    let cert := (le p 40 1).testBit 0
    let good := decide (le p 32 8 % 64 = 0) && s.writable (le p 32 8) (5760 + if cert then s.fw.certificate.length else 0)
    (s.mem.mapChanges = [] → good = true → exec (.attest q) s = .next { s.served row q { status := Code.accepted } with
      fw := { s.fw with attests := s.fw.attests ++ [⟨row.ticket q, p.take 32, BitVec.ofNat 64 (le p 32 8), cert⟩] } }) ∧
    (s.mem.mapChanges = [] → good = false → exec (.attest q) s = .next (s.served row q (.err Code.notPermitted)))) ∧
  ∀ (s : State) (t : Time) (h : MemFindings) (a : AttestRun) (rest : List AttestRun), s.phase = .ready → s.dramServes = true →
    s.fw.attests = a :: rest → ∃ u, exec (.attestComplete ⟨t, h⟩) s = .next u ∧ u.fw = { s.fw with attests := rest } ∧
      u.completed a.ticket Code.ok (leBytes 4 5760 ++ leBytes 4 (if a.cert then s.fw.certificate.length else 0)
        ++ leBytes 8 (s.begin t).now)

/-- PORST_N resets all but what OTP and flash hold; its release starts up; COMMAND_READY ends start-up. PORST_N_ASSERT
gives the reset state, but for OTP, the flash's contents (a slot that a load is writing is REFUSED: log 96), the boot
count and PCIE_PERST_N; the xSPI outputs are off, FSYNC low, SCL and SDA released, and a port's pull-downs are enabled
while it is off or DISABLED. A release in reset sets device time 0, samples the straps and locks the root PLL.
BOOT_SRC 2 and 3 leave the ROM in charge with no bank loaded. Otherwise the boot slot's image is checked into bank 0;
when it is good, start-up goes on with it, DRAM is zero and the collector runs; when both slots are refused, the ROM
is in charge. A release outside reset has no effect. COMMAND_READY after stage 4 makes the device ready with
BOOT_REPORT on both ports, counts the boot, starts the ports that have settings, and raises ALARM_N unless HOLD is set
or its time lasts; an EXT_FAULT_N that came before stage 4 is recorded then, once, at the time of its first assertion;
no memory changes. At another time it has no effect. Which refusal is kept and what the stages leave in between is the
model's choice (log 20). (Rests on R428, R429, R430, R431, R436, R437, R438, R450, R457.) -/
def Obligations.ResetAndStartUp : Prop :=
  (∀ (s : State) (t : Time), exec (.porstNAssert t) s = .next { State.reset with
    pending := s.pending, fresh := (s.begin t).fresh, mem := { State.reset.mem with perstLow := s.mem.perstLow }
    fw := { State.reset.fw with
      otp := s.fw.otp, bootRecords := s.fw.bootRecords, netBlocks := s.fw.netBlocks
      slots := (s.begin t).cutLoad.fw.slots.map fun x => (x.1, { x.2 with lastStatus := 0 }), certificate := s.fw.certificate, ageArea := s.fw.ageArea, bootCount := s.fw.bootCount } }) ∧
  (∀ (s : State), (s.fw.load = none → s.cutLoad = s) ∧ ∀ l, s.fw.load = some l →
    (l.target ≠ 0 → s.cutLoad = s) ∧ (l.target = 0 → (s.cutLoad.fwSlot l.slot).state = .refused ∧
      ∀ k, k ≠ l.slot → s.cutLoad.fwSlot k = s.fwSlot k)) ∧
  (∀ (s : State), s.phase = .reset → s.pins.xspiDriven = false ∧ s.pins.xspiResetN = false) ∧
  (∀ (s : State) (n : Nat), n < 24 → s.pins.pullDown[n]? = some (!(s.domain (68 + n)).isOn || (s.port n).state == .disabled) ∧
    (State.reset.port n).fsync = false ∧ State.reset.pins.fsync[n]? = some false ∧ State.reset.pins.i2cReleased[n]? = some true) ∧
  (∀ (s : State) (x : Straps) (d : Time), (s.phase ≠ .reset → exec (.porstNRelease ⟨x, d⟩) s = .next (s.begin 0)) ∧
    (s.phase = .reset → ∃ u, exec (.porstNRelease ⟨x, d⟩) s = .next u ∧ (x.bootSrc.toNat < 2 → u.faults.startsAt = d) ∧ u.time = 0 ∧ u.straps = x ∧ u.pending = s.pending ∧
      u.health.lock.getLsbD 0 = true ∧ u.health.refOk = true ∧ u.fw.otp = s.fw.otp ∧ u.pipes = s.pipes ∧ u.blocks = s.blocks ∧
      (x.bootSrc = 2 → u.phase = .rom true ∧ u.fw.banks = s.fw.banks) ∧
      (x.bootSrc = 3 → u.phase = .rom false ∧ u.fw.banks = s.fw.banks) ∧
      (x.bootSrc.toNat < 2 → ∀ f, let img := (s.fwSlot s.bootSlot).image
        verifyImage s.fw.otp img = .ok f → u.phase = .starting ∧
        u.bank 0 = some { source := .slot s.bootSlot, info := f, microcode := slice img (le img 24 4) (le img 28 4) } ∧ u.fw.activeBank = 0 ∧ u.fw.fallback = s.fw.fallback ∧
        u.faults.up = true ∧ (∀ a, u.mem.dram.read a = 0) ∧ u.mem.poison = [] ∧ u.health.lock.getLsbD 1 = true ∧
        (u.domain 92).isOn = true ∧ (u.domain 93).isOn = true) ∧
      (x.bootSrc.toNat < 2 → ∀ e e', verifyImage s.fw.otp (s.fwSlot s.bootSlot).image = .error e →
        verifyImage s.fw.otp (s.fwSlot (1 - s.bootSlot)).image = .error e' →
        u.phase = .rom (x.bootSrc == 1) ∧ u.fw.bootRefusal = e'))) ∧
  ∀ (s : State) (t : Time), (s.phase ≠ .starting ∨ (s.begin t).now < s.faults.startsAt.toNat → exec (.commandReady t) s = .next (s.begin t)) ∧
    (s.phase = .starting → s.faults.startsAt.toNat ≤ (s.begin t).now → ∃ u, exec (.commandReady t) s = .next u ∧ u.phase = .ready ∧
      u.fw.bootCount = s.fw.bootCount + 1 ∧ u.mem = s.mem ∧ u.spad = s.spad ∧ u.pool = s.pool ∧ u.pipes = s.pipes ∧
      (s.fw.netSettings ≠ 3 → (u.ethOf .a).up = true ∧ (u.ethOf .b).up = true) ∧
      (s.fw.netSettings = 3 → (u.ethOf .a).up = (s.ethOf .a).up ∧ (u.ethOf .b).up = (s.ethOf .b).up) ∧
      (s.faults.extHeld = none → u.faults.pinLow = (s.faults.hold || decide ((s.begin t).now < s.faults.pinUntil.toNat))) ∧
      (∀ a, s.faults.extHeld = some a → s.faults.up = true → u.faults.extHeld = none ∧ u.faults.pinLow = true ∧
        ∃ r, u.faults.held = s.faults.held ++ [r] ∧ r.cls = 3 ∧ r.detector = 0x15 ∧ r.time = a) ∧
      ∀ e, ∃ p, (u.ethOf e).ring.getLast? = some p ∧ p.opcode = 0x0AF0 ∧ p.flags = 3 ∧ p.data.length = 32)

/-- What PORST_N low leaves: the reset values that the field maps state. In the reset state no command waits, nothing
is in memory, ALARM_N is low, and the attributes read the values of the Reset columns: 2,160 by 3,840 port geometry, a
7,407 ns line time, REMAP_CONFIG 90, VOLTAGE_CONFIG's 20 and 5 ps, a 750 mV target, 125 and 120 degrees, POWER_CONFIG
60, CAL_CONFIG 10, 8 and 1, AGE_CONFIG 10 and 15, DRAM, PCIe and port B requested ON and the others AUTO, FOVAR_CONFIG
SIZE 2, every window closed, every channel IDLE, every mapping empty, every pipeline STOPPED, every port DISABLED.
Values the spec leaves to OTP or flash are not claimed. (Rests on R428, R429, 12_lysil_commands, 13_fovar_link,
14_faults, 15_clocks_power_health, 02_sedge_ports.) -/
def Obligations.ResetLeaves : Prop :=
  let s := State.reset
  s.pending = [] ∧ s.phase = .reset ∧ s.mem.dram = [] ∧ s.spad = [] ∧ s.pool = [] ∧ s.faults.pinLow = true ∧
  s.faults.hold = false ∧ s.session = none ∧
  [(0x0700, 0, 2), (0x0201, 0, 0x0870_0F00), (0x0203, 0, 7407), (0x0805, 0, 0x2F2F_0004), (0x0808, 0, 90), (0x0101, 0, 70 * 2 ^ 16),
    (0x0103, 0, 0x0005_1400), (0x0104, 0, 750 * 2 ^ 48), (0x0105, 0, 125 * 256 + 120), (0x0109, 0, 60), (0x0900, 0, 0x000A_0801), (0x0904, 0, 0x000A_000F),
    (0x0901, 0, 2 ^ 32), (0x0800, 0, 0), (0x0801, 3, 0), (0x0802, 63, 0)].all
    (fun x => s.attrValue x.1 x.2.1 false == x.2.2) = true ∧
  (∀ d, d < 100 → s.attrValue 0x0107 d false = if 92 ≤ d ∧ d ≤ 94 ∨ d = 99 then 1 else 0) ∧
  (∀ p, p < 24 → (s.pipe p).stream = .stopped ∧ (s.port p).state = .disabled) ∧
  (∀ c, (s.channel c).state = .idle) ∧ (∀ w, (s.window w).isOpen = false) ∧ (∀ m, (s.mapping m).state = .empty) ∧
  ∀ n, (s.fovarPort n).state = .disabled
end

