-- ==== Sys2Proof/Laws/Tables.lean ====
section
/-!
SUPPORT. What the sparse table and the byte memory do, said once: a read after a write, and that a write keeps the
canonical form.
-/

namespace Sys2Proof

/-! ## The sparse table -/

namespace Tab

variable {α : Type}

theorem get_erase_same (d : Nat → α) (k : Nat) : ∀ t : Tab α, get d (erase k t) k = d k
  | [] => rfl
  | (j, v) :: t => by
    by_cases h : j = k
    · simp [erase, h, get_erase_same d k t]
    · simp [erase, h, get, get_erase_same d k t]

theorem get_erase_other (d : Nat → α) {k m : Nat} (h : m ≠ k) : ∀ t : Tab α, get d (erase k t) m = get d t m
  | [] => rfl
  | (j, v) :: t => by
    by_cases hj : j = k
    · subst hj
      simp [erase, get, Ne.symm h, get_erase_other d h t]
    · by_cases hm : j = m
      · subst hm
        simp [erase, hj, get]
      · simp [erase, hj, get, hm, get_erase_other d h t]

theorem get_insert_same (d : Nat → α) (k : Nat) (v : α) : ∀ t : Tab α, get d (insert k v t) k = v
  | [] => by simp [insert, get]
  | (j, w) :: t => by
    unfold insert
    split
    · simp [get]
    · split
      · simp [get]
      · rename_i h
        simp [get, Ne.symm h, get_insert_same d k v t]

theorem get_insert_other (d : Nat → α) {k m : Nat} (v : α) (h : m ≠ k) :
    ∀ t : Tab α, get d (insert k v t) m = get d t m
  | [] => by simp [insert, get, Ne.symm h]
  | (j, w) :: t => by
    unfold insert
    split
    · simp [get, Ne.symm h]
    · split
      · rename_i hk
        subst hk
        simp [get, Ne.symm h]
      · simp [get, get_insert_other d v h t]

/-- A read after a write to the same key gives the value written. -/
@[simp] theorem get_set_same [DecidableEq α] (d : Nat → α) (t : Tab α) (k : Nat) (v : α) :
    get d (set d t k v) k = v := by
  unfold set
  split
  · rename_i h
    rw [get_erase_same, h]
  · exact get_insert_same d k v t

/-- A write leaves every other key as it was. -/
@[simp] theorem get_set_other [DecidableEq α] (d : Nat → α) (t : Tab α) {k m : Nat} (v : α) (h : m ≠ k) :
    get d (set d t k v) m = get d t m := by
  unfold set
  split
  · exact get_erase_other d h t
  · exact get_insert_other d v h t

/-- A read after a write, by key. -/
theorem get_set [DecidableEq α] (d : Nat → α) (t : Tab α) (k m : Nat) (v : α) :
    get d (set d t k v) m = if m = k then v else get d t m := by
  by_cases h : m = k
  · subst h; simp
  · simp [h]

theorem rising_erase {b k : Nat} : ∀ t : Tab α, risingAbove b t = true → risingAbove b (erase k t) = true
  | [], _ => rfl
  | (j, v) :: t, h => by
    simp only [risingAbove, Bool.and_eq_true, decide_eq_true_eq] at h
    by_cases hj : j = k
    · have := rising_erase (b := j) (k := k) t h.2
      simp only [erase, hj, ↓reduceIte]
      cases he : erase k t with
      | nil => rfl
      | cons x r =>
        rw [hj] at this h
        rw [he] at this
        simp only [risingAbove, Bool.and_eq_true, decide_eq_true_eq] at this ⊢
        exact ⟨by omega, this.2⟩
    · simp [erase, hj, risingAbove, h.1, rising_erase (b := j) (k := k) t h.2]

theorem rising_insert {b k : Nat} {v : α} (hk : b < k) : ∀ t : Tab α, risingAbove b t = true →
    risingAbove b (insert k v t) = true
  | [], _ => by simp [insert, risingAbove, hk]
  | (j, w) :: t, h => by
    simp only [risingAbove, Bool.and_eq_true, decide_eq_true_eq] at h
    unfold insert
    split
    · rename_i hlt
      simp [risingAbove, hk, hlt, h.2]
    · split
      · rename_i he
        subst he
        simp [risingAbove, hk, h.2]
      · rename_i h1 h2
        simp [risingAbove, h.1, rising_insert (b := j) (k := k) (v := v) (by omega) t h.2]

/-- The canonical form does not depend on what stands before: a table in it has a head, its keys rise above it, and its tail
is in it. -/
theorem wf_cons [DecidableEq α] (d : Nat → α) (j : Nat) (v : α) (t : Tab α) :
    wf d ((j, v) :: t) = true ↔ v ≠ d j ∧ risingAbove j t = true ∧ wf d t = true := by
  simp [wf, and_assoc]

theorem wf_erase [DecidableEq α] (d : Nat → α) (k : Nat) : ∀ t : Tab α, wf d t = true → wf d (erase k t) = true
  | [], _ => rfl
  | (j, v) :: t, h => by
    rw [wf_cons] at h
    by_cases hj : j = k
    · simpa [erase, hj] using wf_erase d k t h.2.2
    · simp only [erase, hj, ↓reduceIte]
      exact (wf_cons d j v _).2 ⟨h.1, rising_erase t h.2.1, wf_erase d k t h.2.2⟩

theorem wf_insert [DecidableEq α] (d : Nat → α) (k : Nat) (v : α) (hv : v ≠ d k) : ∀ t : Tab α, wf d t = true →
    wf d (insert k v t) = true
  | [], _ => by simp [insert, wf, hv, risingAbove]
  | (j, w) :: t, h => by
    have h' := (wf_cons d j w t).1 h
    unfold insert
    split
    · rename_i hlt
      exact (wf_cons d k v _).2 ⟨hv, by simp [risingAbove, hlt, h'.2.1], h⟩
    · split
      · rename_i he
        subst he
        exact (wf_cons d k v t).2 ⟨hv, h'.2.1, h'.2.2⟩
      · rename_i h1 h2
        exact (wf_cons d j w _).2 ⟨h'.1, rising_insert (by omega) t h'.2.1, wf_insert d k v hv t h'.2.2⟩

/-- A write keeps the canonical form. -/
theorem wf_set [DecidableEq α] (d : Nat → α) (t : Tab α) (k : Nat) (v : α) (h : wf d t = true) :
    wf d (set d t k v) = true := by
  unfold set
  split
  · exact wf_erase d k t h
  · rename_i hv
    exact wf_insert d k v hv t h

end Tab

namespace Machine

/-! ## The byte memory -/

theorem Memory.read_erase_same (a : Nat) : ∀ m : Memory, Memory.read (Memory.erase a m) a = Memory.empty
  | [] => rfl
  | (k, v) :: t => by
    by_cases h : k = a
    · simp [Memory.erase, h, Memory.read_erase_same a t]
    · simp [Memory.erase, h, Memory.read, Memory.read_erase_same a t]

theorem Memory.read_erase_other {a b : Nat} (h : b ≠ a) : ∀ m : Memory, Memory.read (Memory.erase a m) b = Memory.read m b
  | [] => rfl
  | (k, v) :: t => by
    by_cases hk : k = a
    · subst hk
      simp [Memory.erase, Memory.read, Ne.symm h, Memory.read_erase_other h t]
    · by_cases hb : k = b
      · subst hb
        simp [Memory.erase, hk, Memory.read]
      · simp [Memory.erase, hk, Memory.read, hb, Memory.read_erase_other h t]

theorem Memory.read_insert_same (a : Nat) (x : Byte) : ∀ m : Memory, Memory.read (Memory.insert a x m) a = x
  | [] => by simp [Memory.insert, Memory.read]
  | (k, v) :: t => by
    unfold Memory.insert
    split
    · simp [Memory.read]
    · split
      · simp [Memory.read]
      · rename_i h
        simp [Memory.read, Ne.symm h, Memory.read_insert_same a x t]

theorem Memory.read_insert_other {a b : Nat} (x : Byte) (h : b ≠ a) :
    ∀ m : Memory, Memory.read (Memory.insert a x m) b = Memory.read m b
  | [] => by simp [Memory.insert, Memory.read, Ne.symm h]
  | (k, v) :: t => by
    unfold Memory.insert
    split
    · simp [Memory.read, Ne.symm h]
    · split
      · rename_i hk
        subst hk
        simp [Memory.read, Ne.symm h]
      · simp [Memory.read, Memory.read_insert_other x h t]

/-- A read after a write to the same address gives the byte written. -/
@[simp] theorem Memory.read_write_same (m : Memory) (a : Nat) (x : Byte) : (m.write a x).read a = x := by
  unfold Memory.write
  split
  · rename_i h
    rw [Memory.read_erase_same, h]
  · exact Memory.read_insert_same a x m

/-- A write leaves every other byte as it was. -/
@[simp] theorem Memory.read_write_other (m : Memory) {a b : Nat} (x : Byte) (h : b ≠ a) :
    (m.write a x).read b = m.read b := by
  unfold Memory.write
  split
  · exact Memory.read_erase_other h m
  · exact Memory.read_insert_other x h m

theorem Memory.wfAbove_erase {b a : Nat} : ∀ m : Memory, Memory.wfAbove b m = true →
    Memory.wfAbove b (Memory.erase a m) = true
  | [], _ => rfl
  | (k, v) :: t, h => by
    simp only [Memory.wfAbove, Bool.and_eq_true, decide_eq_true_eq] at h
    by_cases hk : k = a
    · have := Memory.wfAbove_erase (b := k) (a := a) t h.2
      simp only [Memory.erase, hk, ↓reduceIte]
      cases he : Memory.erase a t with
      | nil => rfl
      | cons x r =>
        rw [he] at this
        simp only [Memory.wfAbove, Bool.and_eq_true, decide_eq_true_eq] at this ⊢
        exact ⟨⟨by omega, this.1.2⟩, this.2⟩
    · simp [Memory.erase, hk, Memory.wfAbove, h.1.1, h.1.2, Memory.wfAbove_erase (b := k) (a := a) t h.2]

theorem Memory.wfAbove_insert {b a : Nat} {x : Byte} (ha : b < a) (hx : x ≠ Memory.empty) :
    ∀ m : Memory, Memory.wfAbove b m = true → Memory.wfAbove b (Memory.insert a x m) = true
  | [], _ => by simp [Memory.insert, Memory.wfAbove, ha, hx]
  | (k, v) :: t, h => by
    simp only [Memory.wfAbove, Bool.and_eq_true, decide_eq_true_eq] at h
    unfold Memory.insert
    split
    · rename_i hlt
      simp [Memory.wfAbove, ha, hx, hlt, h.1.2, h.2]
    · split
      · rename_i he
        subst he
        simp [Memory.wfAbove, ha, hx, h.2]
      · rename_i h1 h2
        simp [Memory.wfAbove, h.1.1, h.1.2, Memory.wfAbove_insert (b := k) (a := a) (x := x) (by omega) hx t h.2]

theorem Memory.wf_of_wfAbove {b : Nat} : ∀ m : Memory, Memory.wfAbove b m = true → Memory.wf m = true
  | [], _ => rfl
  | (k, v) :: t, h => by
    simp only [Memory.wfAbove, Bool.and_eq_true, decide_eq_true_eq] at h
    simp [Memory.wf, h.1.2, h.2]

/-- A write keeps the canonical form. -/
theorem Memory.wf_write (m : Memory) (a : Nat) (x : Byte) (h : m.wf = true) : (m.write a x).wf = true := by
  unfold Memory.write
  split
  · cases m with
    | nil => rfl
    | cons c t =>
      obtain ⟨k, v⟩ := c
      simp only [Memory.wf, Bool.and_eq_true, decide_eq_true_eq] at h
      by_cases hk : k = a
      · simpa [Memory.erase, hk] using Memory.wf_of_wfAbove _ (Memory.wfAbove_erase (a := a) t h.2)
      · simp [Memory.erase, hk, Memory.wf, h.1, Memory.wfAbove_erase (a := a) t h.2]
  · rename_i hx
    cases m with
    | nil => simp [Memory.insert, Memory.wf, hx, Memory.wfAbove]
    | cons c t =>
      obtain ⟨k, v⟩ := c
      simp only [Memory.wf, Bool.and_eq_true, decide_eq_true_eq] at h
      unfold Memory.insert
      split
      · rename_i hlt
        simp [Memory.wf, Memory.wfAbove, hx, hlt, h.1, h.2]
      · split
        · rename_i he
          subst he
          simp [Memory.wf, hx, h.2]
        · rename_i h1 h2
          simp [Memory.wf, h.1, Memory.wfAbove_insert (b := k) (a := a) (x := x) (by omega) hx t h.2]

end Machine

end Sys2Proof
end

