-- ==== Sys2Proof/Laws/State.lean ====
section
/-!
SUPPORT. The update laws of the state: what each write to one of its pieces reads back as, and what it leaves as it was.
-/

namespace Sys2Proof.Machine

open Sys2Proof

/-! ## Ethernet ports -/

theorem ethIdx_inj {e f : EthPort} (h : ethIdx e = ethIdx f) : e = f := by
  cases e <;> cases f <;> first | rfl | exact absurd h (by decide)
@[simp] theorem State.ethOf_setEth_same (s : State) (e : EthPort) (v : Eth) : (s.setEth e v).ethOf e = v :=
  Tab.get_set_same ..
@[simp] theorem State.ethOf_setEth_other (s : State) (e : EthPort) (v : Eth) (f : EthPort) (h : f ≠ e) :
    (s.setEth e v).ethOf f = s.ethOf f := Tab.get_set_other _ _ _ fun h' => h (ethIdx_inj h')
@[simp] theorem State.pending_setEth (s : State) (e : EthPort) (v : Eth) : (s.setEth e v).pending = s.pending := rfl
@[simp] theorem State.out_setEth (s : State) (e : EthPort) (v : Eth) : (s.setEth e v).out = s.out := rfl
@[simp] theorem State.fresh_setEth (s : State) (e : EthPort) (v : Eth) : (s.setEth e v).fresh = s.fresh := rfl
@[simp] theorem State.phase_setEth (s : State) (e : EthPort) (v : Eth) : (s.setEth e v).phase = s.phase := rfl
@[simp] theorem State.time_setEth (s : State) (e : EthPort) (v : Eth) : (s.setEth e v).time = s.time := rfl
@[simp] theorem State.straps_setEth (s : State) (e : EthPort) (v : Eth) : (s.setEth e v).straps = s.straps := rfl
@[simp] theorem State.base_setEth (s : State) (e : EthPort) (v : Eth) : (s.setEth e v).base = s.base := rfl
@[simp] theorem State.session_setEth (s : State) (e : EthPort) (v : Eth) : (s.setEth e v).session = s.session := rfl
@[simp] theorem State.resync_setEth (s : State) (e : EthPort) (v : Eth) : (s.setEth e v).resync = s.resync := rfl
@[simp] theorem State.pipes_setEth (s : State) (e : EthPort) (v : Eth) : (s.setEth e v).pipes = s.pipes := rfl
@[simp] theorem State.ports_setEth (s : State) (e : EthPort) (v : Eth) : (s.setEth e v).ports = s.ports := rfl
@[simp] theorem State.herons_setEth (s : State) (e : EthPort) (v : Eth) : (s.setEth e v).herons = s.herons := rfl
@[simp] theorem State.blocks_setEth (s : State) (e : EthPort) (v : Eth) : (s.setEth e v).blocks = s.blocks := rfl
@[simp] theorem State.regions_setEth (s : State) (e : EthPort) (v : Eth) : (s.setEth e v).regions = s.regions := rfl
@[simp] theorem State.channels_setEth (s : State) (e : EthPort) (v : Eth) : (s.setEth e v).channels = s.channels := rfl
@[simp] theorem State.spad_setEth (s : State) (e : EthPort) (v : Eth) : (s.setEth e v).spad = s.spad := rfl
@[simp] theorem State.spadPoison_setEth (s : State) (e : EthPort) (v : Eth) : (s.setEth e v).spadPoison = s.spadPoison := rfl
@[simp] theorem State.pool_setEth (s : State) (e : EthPort) (v : Eth) : (s.setEth e v).pool = s.pool := rfl
@[simp] theorem State.poolPoison_setEth (s : State) (e : EthPort) (v : Eth) : (s.setEth e v).poolPoison = s.poolPoison := rfl
@[simp] theorem State.flushes_setEth (s : State) (e : EthPort) (v : Eth) : (s.setEth e v).flushes = s.flushes := rfl
@[simp] theorem State.jobCollision_setEth (s : State) (e : EthPort) (v : Eth) : (s.setEth e v).jobCollision = s.jobCollision := rfl
@[simp] theorem State.sluiceConfig_setEth (s : State) (e : EthPort) (v : Eth) : (s.setEth e v).sluiceConfig = s.sluiceConfig := rfl
@[simp] theorem State.watchdogWas_setEth (s : State) (e : EthPort) (v : Eth) : (s.setEth e v).watchdogWas = s.watchdogWas := rfl
@[simp] theorem State.mem_setEth (s : State) (e : EthPort) (v : Eth) : (s.setEth e v).mem = s.mem := rfl
@[simp] theorem State.mappings_setEth (s : State) (e : EthPort) (v : Eth) : (s.setEth e v).mappings = s.mappings := rfl
@[simp] theorem State.loads_setEth (s : State) (e : EthPort) (v : Eth) : (s.setEth e v).loads = s.loads := rfl
@[simp] theorem State.placings_setEth (s : State) (e : EthPort) (v : Eth) : (s.setEth e v).placings = s.placings := rfl
@[simp] theorem State.jobs_setEth (s : State) (e : EthPort) (v : Eth) : (s.setEth e v).jobs = s.jobs := rfl
@[simp] theorem State.nextJob_setEth (s : State) (e : EthPort) (v : Eth) : (s.setEth e v).nextJob = s.nextJob := rfl
@[simp] theorem State.faults_setEth (s : State) (e : EthPort) (v : Eth) : (s.setEth e v).faults = s.faults := rfl
@[simp] theorem State.health_setEth (s : State) (e : EthPort) (v : Eth) : (s.setEth e v).health = s.health := rfl
@[simp] theorem State.fovar_setEth (s : State) (e : EthPort) (v : Eth) : (s.setEth e v).fovar = s.fovar := rfl
@[simp] theorem State.fw_setEth (s : State) (e : EthPort) (v : Eth) : (s.setEth e v).fw = s.fw := rfl

/-! ## Pieces with an index -/

@[simp] theorem State.pipe_setPipe_same (s : State) (i : Nat) (v : Pipe) : (s.setPipe i v).pipe i = v := Tab.get_set_same ..
@[simp] theorem State.pipe_setPipe_other (s : State) (i : Nat) (v : Pipe) (j : Nat) (h : j ≠ i) :
    (s.setPipe i v).pipe j = s.pipe j := Tab.get_set_other _ _ _ h
@[simp] theorem State.pending_setPipe (s : State) (i : Nat) (v : Pipe) : (s.setPipe i v).pending = s.pending := rfl
@[simp] theorem State.out_setPipe (s : State) (i : Nat) (v : Pipe) : (s.setPipe i v).out = s.out := rfl
@[simp] theorem State.fresh_setPipe (s : State) (i : Nat) (v : Pipe) : (s.setPipe i v).fresh = s.fresh := rfl
@[simp] theorem State.phase_setPipe (s : State) (i : Nat) (v : Pipe) : (s.setPipe i v).phase = s.phase := rfl
@[simp] theorem State.time_setPipe (s : State) (i : Nat) (v : Pipe) : (s.setPipe i v).time = s.time := rfl
@[simp] theorem State.straps_setPipe (s : State) (i : Nat) (v : Pipe) : (s.setPipe i v).straps = s.straps := rfl
@[simp] theorem State.base_setPipe (s : State) (i : Nat) (v : Pipe) : (s.setPipe i v).base = s.base := rfl
@[simp] theorem State.session_setPipe (s : State) (i : Nat) (v : Pipe) : (s.setPipe i v).session = s.session := rfl
@[simp] theorem State.eth_setPipe (s : State) (i : Nat) (v : Pipe) : (s.setPipe i v).eth = s.eth := rfl
@[simp] theorem State.resync_setPipe (s : State) (i : Nat) (v : Pipe) : (s.setPipe i v).resync = s.resync := rfl
@[simp] theorem State.ports_setPipe (s : State) (i : Nat) (v : Pipe) : (s.setPipe i v).ports = s.ports := rfl
@[simp] theorem State.herons_setPipe (s : State) (i : Nat) (v : Pipe) : (s.setPipe i v).herons = s.herons := rfl
@[simp] theorem State.blocks_setPipe (s : State) (i : Nat) (v : Pipe) : (s.setPipe i v).blocks = s.blocks := rfl
@[simp] theorem State.regions_setPipe (s : State) (i : Nat) (v : Pipe) : (s.setPipe i v).regions = s.regions := rfl
@[simp] theorem State.channels_setPipe (s : State) (i : Nat) (v : Pipe) : (s.setPipe i v).channels = s.channels := rfl
@[simp] theorem State.spad_setPipe (s : State) (i : Nat) (v : Pipe) : (s.setPipe i v).spad = s.spad := rfl
@[simp] theorem State.spadPoison_setPipe (s : State) (i : Nat) (v : Pipe) : (s.setPipe i v).spadPoison = s.spadPoison := rfl
@[simp] theorem State.pool_setPipe (s : State) (i : Nat) (v : Pipe) : (s.setPipe i v).pool = s.pool := rfl
@[simp] theorem State.poolPoison_setPipe (s : State) (i : Nat) (v : Pipe) : (s.setPipe i v).poolPoison = s.poolPoison := rfl
@[simp] theorem State.flushes_setPipe (s : State) (i : Nat) (v : Pipe) : (s.setPipe i v).flushes = s.flushes := rfl
@[simp] theorem State.jobCollision_setPipe (s : State) (i : Nat) (v : Pipe) : (s.setPipe i v).jobCollision = s.jobCollision := rfl
@[simp] theorem State.sluiceConfig_setPipe (s : State) (i : Nat) (v : Pipe) : (s.setPipe i v).sluiceConfig = s.sluiceConfig := rfl
@[simp] theorem State.watchdogWas_setPipe (s : State) (i : Nat) (v : Pipe) : (s.setPipe i v).watchdogWas = s.watchdogWas := rfl
@[simp] theorem State.mem_setPipe (s : State) (i : Nat) (v : Pipe) : (s.setPipe i v).mem = s.mem := rfl
@[simp] theorem State.mappings_setPipe (s : State) (i : Nat) (v : Pipe) : (s.setPipe i v).mappings = s.mappings := rfl
@[simp] theorem State.loads_setPipe (s : State) (i : Nat) (v : Pipe) : (s.setPipe i v).loads = s.loads := rfl
@[simp] theorem State.placings_setPipe (s : State) (i : Nat) (v : Pipe) : (s.setPipe i v).placings = s.placings := rfl
@[simp] theorem State.jobs_setPipe (s : State) (i : Nat) (v : Pipe) : (s.setPipe i v).jobs = s.jobs := rfl
@[simp] theorem State.nextJob_setPipe (s : State) (i : Nat) (v : Pipe) : (s.setPipe i v).nextJob = s.nextJob := rfl
@[simp] theorem State.faults_setPipe (s : State) (i : Nat) (v : Pipe) : (s.setPipe i v).faults = s.faults := rfl
@[simp] theorem State.health_setPipe (s : State) (i : Nat) (v : Pipe) : (s.setPipe i v).health = s.health := rfl
@[simp] theorem State.fovar_setPipe (s : State) (i : Nat) (v : Pipe) : (s.setPipe i v).fovar = s.fovar := rfl
@[simp] theorem State.fw_setPipe (s : State) (i : Nat) (v : Pipe) : (s.setPipe i v).fw = s.fw := rfl
@[simp] theorem State.port_setPort_same (s : State) (i : Nat) (v : Port) : (s.setPort i v).port i = v := Tab.get_set_same ..
@[simp] theorem State.port_setPort_other (s : State) (i : Nat) (v : Port) (j : Nat) (h : j ≠ i) :
    (s.setPort i v).port j = s.port j := Tab.get_set_other _ _ _ h
@[simp] theorem State.pending_setPort (s : State) (i : Nat) (v : Port) : (s.setPort i v).pending = s.pending := rfl
@[simp] theorem State.out_setPort (s : State) (i : Nat) (v : Port) : (s.setPort i v).out = s.out := rfl
@[simp] theorem State.fresh_setPort (s : State) (i : Nat) (v : Port) : (s.setPort i v).fresh = s.fresh := rfl
@[simp] theorem State.phase_setPort (s : State) (i : Nat) (v : Port) : (s.setPort i v).phase = s.phase := rfl
@[simp] theorem State.time_setPort (s : State) (i : Nat) (v : Port) : (s.setPort i v).time = s.time := rfl
@[simp] theorem State.straps_setPort (s : State) (i : Nat) (v : Port) : (s.setPort i v).straps = s.straps := rfl
@[simp] theorem State.base_setPort (s : State) (i : Nat) (v : Port) : (s.setPort i v).base = s.base := rfl
@[simp] theorem State.session_setPort (s : State) (i : Nat) (v : Port) : (s.setPort i v).session = s.session := rfl
@[simp] theorem State.eth_setPort (s : State) (i : Nat) (v : Port) : (s.setPort i v).eth = s.eth := rfl
@[simp] theorem State.resync_setPort (s : State) (i : Nat) (v : Port) : (s.setPort i v).resync = s.resync := rfl
@[simp] theorem State.pipes_setPort (s : State) (i : Nat) (v : Port) : (s.setPort i v).pipes = s.pipes := rfl
@[simp] theorem State.herons_setPort (s : State) (i : Nat) (v : Port) : (s.setPort i v).herons = s.herons := rfl
@[simp] theorem State.blocks_setPort (s : State) (i : Nat) (v : Port) : (s.setPort i v).blocks = s.blocks := rfl
@[simp] theorem State.regions_setPort (s : State) (i : Nat) (v : Port) : (s.setPort i v).regions = s.regions := rfl
@[simp] theorem State.channels_setPort (s : State) (i : Nat) (v : Port) : (s.setPort i v).channels = s.channels := rfl
@[simp] theorem State.spad_setPort (s : State) (i : Nat) (v : Port) : (s.setPort i v).spad = s.spad := rfl
@[simp] theorem State.spadPoison_setPort (s : State) (i : Nat) (v : Port) : (s.setPort i v).spadPoison = s.spadPoison := rfl
@[simp] theorem State.pool_setPort (s : State) (i : Nat) (v : Port) : (s.setPort i v).pool = s.pool := rfl
@[simp] theorem State.poolPoison_setPort (s : State) (i : Nat) (v : Port) : (s.setPort i v).poolPoison = s.poolPoison := rfl
@[simp] theorem State.flushes_setPort (s : State) (i : Nat) (v : Port) : (s.setPort i v).flushes = s.flushes := rfl
@[simp] theorem State.jobCollision_setPort (s : State) (i : Nat) (v : Port) : (s.setPort i v).jobCollision = s.jobCollision := rfl
@[simp] theorem State.sluiceConfig_setPort (s : State) (i : Nat) (v : Port) : (s.setPort i v).sluiceConfig = s.sluiceConfig := rfl
@[simp] theorem State.watchdogWas_setPort (s : State) (i : Nat) (v : Port) : (s.setPort i v).watchdogWas = s.watchdogWas := rfl
@[simp] theorem State.mem_setPort (s : State) (i : Nat) (v : Port) : (s.setPort i v).mem = s.mem := rfl
@[simp] theorem State.mappings_setPort (s : State) (i : Nat) (v : Port) : (s.setPort i v).mappings = s.mappings := rfl
@[simp] theorem State.loads_setPort (s : State) (i : Nat) (v : Port) : (s.setPort i v).loads = s.loads := rfl
@[simp] theorem State.placings_setPort (s : State) (i : Nat) (v : Port) : (s.setPort i v).placings = s.placings := rfl
@[simp] theorem State.jobs_setPort (s : State) (i : Nat) (v : Port) : (s.setPort i v).jobs = s.jobs := rfl
@[simp] theorem State.nextJob_setPort (s : State) (i : Nat) (v : Port) : (s.setPort i v).nextJob = s.nextJob := rfl
@[simp] theorem State.faults_setPort (s : State) (i : Nat) (v : Port) : (s.setPort i v).faults = s.faults := rfl
@[simp] theorem State.health_setPort (s : State) (i : Nat) (v : Port) : (s.setPort i v).health = s.health := rfl
@[simp] theorem State.fovar_setPort (s : State) (i : Nat) (v : Port) : (s.setPort i v).fovar = s.fovar := rfl
@[simp] theorem State.fw_setPort (s : State) (i : Nat) (v : Port) : (s.setPort i v).fw = s.fw := rfl
@[simp] theorem State.heron_setHeron_same (s : State) (i : Nat) (v : Heron) : (s.setHeron i v).heron i = v := Tab.get_set_same ..
@[simp] theorem State.heron_setHeron_other (s : State) (i : Nat) (v : Heron) (j : Nat) (h : j ≠ i) :
    (s.setHeron i v).heron j = s.heron j := Tab.get_set_other _ _ _ h
@[simp] theorem State.pending_setHeron (s : State) (i : Nat) (v : Heron) : (s.setHeron i v).pending = s.pending := rfl
@[simp] theorem State.out_setHeron (s : State) (i : Nat) (v : Heron) : (s.setHeron i v).out = s.out := rfl
@[simp] theorem State.fresh_setHeron (s : State) (i : Nat) (v : Heron) : (s.setHeron i v).fresh = s.fresh := rfl
@[simp] theorem State.phase_setHeron (s : State) (i : Nat) (v : Heron) : (s.setHeron i v).phase = s.phase := rfl
@[simp] theorem State.time_setHeron (s : State) (i : Nat) (v : Heron) : (s.setHeron i v).time = s.time := rfl
@[simp] theorem State.straps_setHeron (s : State) (i : Nat) (v : Heron) : (s.setHeron i v).straps = s.straps := rfl
@[simp] theorem State.base_setHeron (s : State) (i : Nat) (v : Heron) : (s.setHeron i v).base = s.base := rfl
@[simp] theorem State.session_setHeron (s : State) (i : Nat) (v : Heron) : (s.setHeron i v).session = s.session := rfl
@[simp] theorem State.eth_setHeron (s : State) (i : Nat) (v : Heron) : (s.setHeron i v).eth = s.eth := rfl
@[simp] theorem State.resync_setHeron (s : State) (i : Nat) (v : Heron) : (s.setHeron i v).resync = s.resync := rfl
@[simp] theorem State.pipes_setHeron (s : State) (i : Nat) (v : Heron) : (s.setHeron i v).pipes = s.pipes := rfl
@[simp] theorem State.ports_setHeron (s : State) (i : Nat) (v : Heron) : (s.setHeron i v).ports = s.ports := rfl
@[simp] theorem State.blocks_setHeron (s : State) (i : Nat) (v : Heron) : (s.setHeron i v).blocks = s.blocks := rfl
@[simp] theorem State.regions_setHeron (s : State) (i : Nat) (v : Heron) : (s.setHeron i v).regions = s.regions := rfl
@[simp] theorem State.channels_setHeron (s : State) (i : Nat) (v : Heron) : (s.setHeron i v).channels = s.channels := rfl
@[simp] theorem State.spad_setHeron (s : State) (i : Nat) (v : Heron) : (s.setHeron i v).spad = s.spad := rfl
@[simp] theorem State.spadPoison_setHeron (s : State) (i : Nat) (v : Heron) : (s.setHeron i v).spadPoison = s.spadPoison := rfl
@[simp] theorem State.pool_setHeron (s : State) (i : Nat) (v : Heron) : (s.setHeron i v).pool = s.pool := rfl
@[simp] theorem State.poolPoison_setHeron (s : State) (i : Nat) (v : Heron) : (s.setHeron i v).poolPoison = s.poolPoison := rfl
@[simp] theorem State.flushes_setHeron (s : State) (i : Nat) (v : Heron) : (s.setHeron i v).flushes = s.flushes := rfl
@[simp] theorem State.jobCollision_setHeron (s : State) (i : Nat) (v : Heron) : (s.setHeron i v).jobCollision = s.jobCollision := rfl
@[simp] theorem State.sluiceConfig_setHeron (s : State) (i : Nat) (v : Heron) : (s.setHeron i v).sluiceConfig = s.sluiceConfig := rfl
@[simp] theorem State.watchdogWas_setHeron (s : State) (i : Nat) (v : Heron) : (s.setHeron i v).watchdogWas = s.watchdogWas := rfl
@[simp] theorem State.mem_setHeron (s : State) (i : Nat) (v : Heron) : (s.setHeron i v).mem = s.mem := rfl
@[simp] theorem State.mappings_setHeron (s : State) (i : Nat) (v : Heron) : (s.setHeron i v).mappings = s.mappings := rfl
@[simp] theorem State.loads_setHeron (s : State) (i : Nat) (v : Heron) : (s.setHeron i v).loads = s.loads := rfl
@[simp] theorem State.placings_setHeron (s : State) (i : Nat) (v : Heron) : (s.setHeron i v).placings = s.placings := rfl
@[simp] theorem State.jobs_setHeron (s : State) (i : Nat) (v : Heron) : (s.setHeron i v).jobs = s.jobs := rfl
@[simp] theorem State.nextJob_setHeron (s : State) (i : Nat) (v : Heron) : (s.setHeron i v).nextJob = s.nextJob := rfl
@[simp] theorem State.faults_setHeron (s : State) (i : Nat) (v : Heron) : (s.setHeron i v).faults = s.faults := rfl
@[simp] theorem State.health_setHeron (s : State) (i : Nat) (v : Heron) : (s.setHeron i v).health = s.health := rfl
@[simp] theorem State.fovar_setHeron (s : State) (i : Nat) (v : Heron) : (s.setHeron i v).fovar = s.fovar := rfl
@[simp] theorem State.fw_setHeron (s : State) (i : Nat) (v : Heron) : (s.setHeron i v).fw = s.fw := rfl
@[simp] theorem State.block_setBlock_same (s : State) (i : Nat) (v : Block) : (s.setBlock i v).block i = v := Tab.get_set_same ..
@[simp] theorem State.block_setBlock_other (s : State) (i : Nat) (v : Block) (j : Nat) (h : j ≠ i) :
    (s.setBlock i v).block j = s.block j := Tab.get_set_other _ _ _ h
@[simp] theorem State.pending_setBlock (s : State) (i : Nat) (v : Block) : (s.setBlock i v).pending = s.pending := rfl
@[simp] theorem State.out_setBlock (s : State) (i : Nat) (v : Block) : (s.setBlock i v).out = s.out := rfl
@[simp] theorem State.fresh_setBlock (s : State) (i : Nat) (v : Block) : (s.setBlock i v).fresh = s.fresh := rfl
@[simp] theorem State.phase_setBlock (s : State) (i : Nat) (v : Block) : (s.setBlock i v).phase = s.phase := rfl
@[simp] theorem State.time_setBlock (s : State) (i : Nat) (v : Block) : (s.setBlock i v).time = s.time := rfl
@[simp] theorem State.straps_setBlock (s : State) (i : Nat) (v : Block) : (s.setBlock i v).straps = s.straps := rfl
@[simp] theorem State.base_setBlock (s : State) (i : Nat) (v : Block) : (s.setBlock i v).base = s.base := rfl
@[simp] theorem State.session_setBlock (s : State) (i : Nat) (v : Block) : (s.setBlock i v).session = s.session := rfl
@[simp] theorem State.eth_setBlock (s : State) (i : Nat) (v : Block) : (s.setBlock i v).eth = s.eth := rfl
@[simp] theorem State.resync_setBlock (s : State) (i : Nat) (v : Block) : (s.setBlock i v).resync = s.resync := rfl
@[simp] theorem State.pipes_setBlock (s : State) (i : Nat) (v : Block) : (s.setBlock i v).pipes = s.pipes := rfl
@[simp] theorem State.ports_setBlock (s : State) (i : Nat) (v : Block) : (s.setBlock i v).ports = s.ports := rfl
@[simp] theorem State.herons_setBlock (s : State) (i : Nat) (v : Block) : (s.setBlock i v).herons = s.herons := rfl
@[simp] theorem State.regions_setBlock (s : State) (i : Nat) (v : Block) : (s.setBlock i v).regions = s.regions := rfl
@[simp] theorem State.channels_setBlock (s : State) (i : Nat) (v : Block) : (s.setBlock i v).channels = s.channels := rfl
@[simp] theorem State.spad_setBlock (s : State) (i : Nat) (v : Block) : (s.setBlock i v).spad = s.spad := rfl
@[simp] theorem State.spadPoison_setBlock (s : State) (i : Nat) (v : Block) : (s.setBlock i v).spadPoison = s.spadPoison := rfl
@[simp] theorem State.pool_setBlock (s : State) (i : Nat) (v : Block) : (s.setBlock i v).pool = s.pool := rfl
@[simp] theorem State.poolPoison_setBlock (s : State) (i : Nat) (v : Block) : (s.setBlock i v).poolPoison = s.poolPoison := rfl
@[simp] theorem State.flushes_setBlock (s : State) (i : Nat) (v : Block) : (s.setBlock i v).flushes = s.flushes := rfl
@[simp] theorem State.jobCollision_setBlock (s : State) (i : Nat) (v : Block) : (s.setBlock i v).jobCollision = s.jobCollision := rfl
@[simp] theorem State.sluiceConfig_setBlock (s : State) (i : Nat) (v : Block) : (s.setBlock i v).sluiceConfig = s.sluiceConfig := rfl
@[simp] theorem State.watchdogWas_setBlock (s : State) (i : Nat) (v : Block) : (s.setBlock i v).watchdogWas = s.watchdogWas := rfl
@[simp] theorem State.mem_setBlock (s : State) (i : Nat) (v : Block) : (s.setBlock i v).mem = s.mem := rfl
@[simp] theorem State.mappings_setBlock (s : State) (i : Nat) (v : Block) : (s.setBlock i v).mappings = s.mappings := rfl
@[simp] theorem State.loads_setBlock (s : State) (i : Nat) (v : Block) : (s.setBlock i v).loads = s.loads := rfl
@[simp] theorem State.placings_setBlock (s : State) (i : Nat) (v : Block) : (s.setBlock i v).placings = s.placings := rfl
@[simp] theorem State.jobs_setBlock (s : State) (i : Nat) (v : Block) : (s.setBlock i v).jobs = s.jobs := rfl
@[simp] theorem State.nextJob_setBlock (s : State) (i : Nat) (v : Block) : (s.setBlock i v).nextJob = s.nextJob := rfl
@[simp] theorem State.faults_setBlock (s : State) (i : Nat) (v : Block) : (s.setBlock i v).faults = s.faults := rfl
@[simp] theorem State.health_setBlock (s : State) (i : Nat) (v : Block) : (s.setBlock i v).health = s.health := rfl
@[simp] theorem State.fovar_setBlock (s : State) (i : Nat) (v : Block) : (s.setBlock i v).fovar = s.fovar := rfl
@[simp] theorem State.fw_setBlock (s : State) (i : Nat) (v : Block) : (s.setBlock i v).fw = s.fw := rfl
@[simp] theorem State.region_setRegion_same (s : State) (i : Nat) (v : Region) : (s.setRegion i v).region i = v := Tab.get_set_same ..
@[simp] theorem State.region_setRegion_other (s : State) (i : Nat) (v : Region) (j : Nat) (h : j ≠ i) :
    (s.setRegion i v).region j = s.region j := Tab.get_set_other _ _ _ h
@[simp] theorem State.pending_setRegion (s : State) (i : Nat) (v : Region) : (s.setRegion i v).pending = s.pending := rfl
@[simp] theorem State.out_setRegion (s : State) (i : Nat) (v : Region) : (s.setRegion i v).out = s.out := rfl
@[simp] theorem State.fresh_setRegion (s : State) (i : Nat) (v : Region) : (s.setRegion i v).fresh = s.fresh := rfl
@[simp] theorem State.phase_setRegion (s : State) (i : Nat) (v : Region) : (s.setRegion i v).phase = s.phase := rfl
@[simp] theorem State.time_setRegion (s : State) (i : Nat) (v : Region) : (s.setRegion i v).time = s.time := rfl
@[simp] theorem State.straps_setRegion (s : State) (i : Nat) (v : Region) : (s.setRegion i v).straps = s.straps := rfl
@[simp] theorem State.base_setRegion (s : State) (i : Nat) (v : Region) : (s.setRegion i v).base = s.base := rfl
@[simp] theorem State.session_setRegion (s : State) (i : Nat) (v : Region) : (s.setRegion i v).session = s.session := rfl
@[simp] theorem State.eth_setRegion (s : State) (i : Nat) (v : Region) : (s.setRegion i v).eth = s.eth := rfl
@[simp] theorem State.resync_setRegion (s : State) (i : Nat) (v : Region) : (s.setRegion i v).resync = s.resync := rfl
@[simp] theorem State.pipes_setRegion (s : State) (i : Nat) (v : Region) : (s.setRegion i v).pipes = s.pipes := rfl
@[simp] theorem State.ports_setRegion (s : State) (i : Nat) (v : Region) : (s.setRegion i v).ports = s.ports := rfl
@[simp] theorem State.herons_setRegion (s : State) (i : Nat) (v : Region) : (s.setRegion i v).herons = s.herons := rfl
@[simp] theorem State.blocks_setRegion (s : State) (i : Nat) (v : Region) : (s.setRegion i v).blocks = s.blocks := rfl
@[simp] theorem State.channels_setRegion (s : State) (i : Nat) (v : Region) : (s.setRegion i v).channels = s.channels := rfl
@[simp] theorem State.spad_setRegion (s : State) (i : Nat) (v : Region) : (s.setRegion i v).spad = s.spad := rfl
@[simp] theorem State.spadPoison_setRegion (s : State) (i : Nat) (v : Region) : (s.setRegion i v).spadPoison = s.spadPoison := rfl
@[simp] theorem State.pool_setRegion (s : State) (i : Nat) (v : Region) : (s.setRegion i v).pool = s.pool := rfl
@[simp] theorem State.poolPoison_setRegion (s : State) (i : Nat) (v : Region) : (s.setRegion i v).poolPoison = s.poolPoison := rfl
@[simp] theorem State.flushes_setRegion (s : State) (i : Nat) (v : Region) : (s.setRegion i v).flushes = s.flushes := rfl
@[simp] theorem State.jobCollision_setRegion (s : State) (i : Nat) (v : Region) : (s.setRegion i v).jobCollision = s.jobCollision := rfl
@[simp] theorem State.sluiceConfig_setRegion (s : State) (i : Nat) (v : Region) : (s.setRegion i v).sluiceConfig = s.sluiceConfig := rfl
@[simp] theorem State.watchdogWas_setRegion (s : State) (i : Nat) (v : Region) : (s.setRegion i v).watchdogWas = s.watchdogWas := rfl
@[simp] theorem State.mem_setRegion (s : State) (i : Nat) (v : Region) : (s.setRegion i v).mem = s.mem := rfl
@[simp] theorem State.mappings_setRegion (s : State) (i : Nat) (v : Region) : (s.setRegion i v).mappings = s.mappings := rfl
@[simp] theorem State.loads_setRegion (s : State) (i : Nat) (v : Region) : (s.setRegion i v).loads = s.loads := rfl
@[simp] theorem State.placings_setRegion (s : State) (i : Nat) (v : Region) : (s.setRegion i v).placings = s.placings := rfl
@[simp] theorem State.jobs_setRegion (s : State) (i : Nat) (v : Region) : (s.setRegion i v).jobs = s.jobs := rfl
@[simp] theorem State.nextJob_setRegion (s : State) (i : Nat) (v : Region) : (s.setRegion i v).nextJob = s.nextJob := rfl
@[simp] theorem State.faults_setRegion (s : State) (i : Nat) (v : Region) : (s.setRegion i v).faults = s.faults := rfl
@[simp] theorem State.health_setRegion (s : State) (i : Nat) (v : Region) : (s.setRegion i v).health = s.health := rfl
@[simp] theorem State.fovar_setRegion (s : State) (i : Nat) (v : Region) : (s.setRegion i v).fovar = s.fovar := rfl
@[simp] theorem State.fw_setRegion (s : State) (i : Nat) (v : Region) : (s.setRegion i v).fw = s.fw := rfl
@[simp] theorem State.channel_setChannel_same (s : State) (i : Nat) (v : Channel) : (s.setChannel i v).channel i = v := Tab.get_set_same ..
@[simp] theorem State.channel_setChannel_other (s : State) (i : Nat) (v : Channel) (j : Nat) (h : j ≠ i) :
    (s.setChannel i v).channel j = s.channel j := Tab.get_set_other _ _ _ h
@[simp] theorem State.pending_setChannel (s : State) (i : Nat) (v : Channel) : (s.setChannel i v).pending = s.pending := rfl
@[simp] theorem State.out_setChannel (s : State) (i : Nat) (v : Channel) : (s.setChannel i v).out = s.out := rfl
@[simp] theorem State.fresh_setChannel (s : State) (i : Nat) (v : Channel) : (s.setChannel i v).fresh = s.fresh := rfl
@[simp] theorem State.phase_setChannel (s : State) (i : Nat) (v : Channel) : (s.setChannel i v).phase = s.phase := rfl
@[simp] theorem State.time_setChannel (s : State) (i : Nat) (v : Channel) : (s.setChannel i v).time = s.time := rfl
@[simp] theorem State.straps_setChannel (s : State) (i : Nat) (v : Channel) : (s.setChannel i v).straps = s.straps := rfl
@[simp] theorem State.base_setChannel (s : State) (i : Nat) (v : Channel) : (s.setChannel i v).base = s.base := rfl
@[simp] theorem State.session_setChannel (s : State) (i : Nat) (v : Channel) : (s.setChannel i v).session = s.session := rfl
@[simp] theorem State.eth_setChannel (s : State) (i : Nat) (v : Channel) : (s.setChannel i v).eth = s.eth := rfl
@[simp] theorem State.resync_setChannel (s : State) (i : Nat) (v : Channel) : (s.setChannel i v).resync = s.resync := rfl
@[simp] theorem State.pipes_setChannel (s : State) (i : Nat) (v : Channel) : (s.setChannel i v).pipes = s.pipes := rfl
@[simp] theorem State.ports_setChannel (s : State) (i : Nat) (v : Channel) : (s.setChannel i v).ports = s.ports := rfl
@[simp] theorem State.herons_setChannel (s : State) (i : Nat) (v : Channel) : (s.setChannel i v).herons = s.herons := rfl
@[simp] theorem State.blocks_setChannel (s : State) (i : Nat) (v : Channel) : (s.setChannel i v).blocks = s.blocks := rfl
@[simp] theorem State.regions_setChannel (s : State) (i : Nat) (v : Channel) : (s.setChannel i v).regions = s.regions := rfl
@[simp] theorem State.spad_setChannel (s : State) (i : Nat) (v : Channel) : (s.setChannel i v).spad = s.spad := rfl
@[simp] theorem State.spadPoison_setChannel (s : State) (i : Nat) (v : Channel) : (s.setChannel i v).spadPoison = s.spadPoison := rfl
@[simp] theorem State.pool_setChannel (s : State) (i : Nat) (v : Channel) : (s.setChannel i v).pool = s.pool := rfl
@[simp] theorem State.poolPoison_setChannel (s : State) (i : Nat) (v : Channel) : (s.setChannel i v).poolPoison = s.poolPoison := rfl
@[simp] theorem State.flushes_setChannel (s : State) (i : Nat) (v : Channel) : (s.setChannel i v).flushes = s.flushes := rfl
@[simp] theorem State.jobCollision_setChannel (s : State) (i : Nat) (v : Channel) : (s.setChannel i v).jobCollision = s.jobCollision := rfl
@[simp] theorem State.sluiceConfig_setChannel (s : State) (i : Nat) (v : Channel) : (s.setChannel i v).sluiceConfig = s.sluiceConfig := rfl
@[simp] theorem State.watchdogWas_setChannel (s : State) (i : Nat) (v : Channel) : (s.setChannel i v).watchdogWas = s.watchdogWas := rfl
@[simp] theorem State.mem_setChannel (s : State) (i : Nat) (v : Channel) : (s.setChannel i v).mem = s.mem := rfl
@[simp] theorem State.mappings_setChannel (s : State) (i : Nat) (v : Channel) : (s.setChannel i v).mappings = s.mappings := rfl
@[simp] theorem State.loads_setChannel (s : State) (i : Nat) (v : Channel) : (s.setChannel i v).loads = s.loads := rfl
@[simp] theorem State.placings_setChannel (s : State) (i : Nat) (v : Channel) : (s.setChannel i v).placings = s.placings := rfl
@[simp] theorem State.jobs_setChannel (s : State) (i : Nat) (v : Channel) : (s.setChannel i v).jobs = s.jobs := rfl
@[simp] theorem State.nextJob_setChannel (s : State) (i : Nat) (v : Channel) : (s.setChannel i v).nextJob = s.nextJob := rfl
@[simp] theorem State.faults_setChannel (s : State) (i : Nat) (v : Channel) : (s.setChannel i v).faults = s.faults := rfl
@[simp] theorem State.health_setChannel (s : State) (i : Nat) (v : Channel) : (s.setChannel i v).health = s.health := rfl
@[simp] theorem State.fovar_setChannel (s : State) (i : Nat) (v : Channel) : (s.setChannel i v).fovar = s.fovar := rfl
@[simp] theorem State.fw_setChannel (s : State) (i : Nat) (v : Channel) : (s.setChannel i v).fw = s.fw := rfl
@[simp] theorem State.mapping_setMapping_same (s : State) (i : Nat) (v : Mapping) : (s.setMapping i v).mapping i = v := Tab.get_set_same ..
@[simp] theorem State.mapping_setMapping_other (s : State) (i : Nat) (v : Mapping) (j : Nat) (h : j ≠ i) :
    (s.setMapping i v).mapping j = s.mapping j := Tab.get_set_other _ _ _ h
@[simp] theorem State.pending_setMapping (s : State) (i : Nat) (v : Mapping) : (s.setMapping i v).pending = s.pending := rfl
@[simp] theorem State.out_setMapping (s : State) (i : Nat) (v : Mapping) : (s.setMapping i v).out = s.out := rfl
@[simp] theorem State.fresh_setMapping (s : State) (i : Nat) (v : Mapping) : (s.setMapping i v).fresh = s.fresh := rfl
@[simp] theorem State.phase_setMapping (s : State) (i : Nat) (v : Mapping) : (s.setMapping i v).phase = s.phase := rfl
@[simp] theorem State.time_setMapping (s : State) (i : Nat) (v : Mapping) : (s.setMapping i v).time = s.time := rfl
@[simp] theorem State.straps_setMapping (s : State) (i : Nat) (v : Mapping) : (s.setMapping i v).straps = s.straps := rfl
@[simp] theorem State.base_setMapping (s : State) (i : Nat) (v : Mapping) : (s.setMapping i v).base = s.base := rfl
@[simp] theorem State.session_setMapping (s : State) (i : Nat) (v : Mapping) : (s.setMapping i v).session = s.session := rfl
@[simp] theorem State.eth_setMapping (s : State) (i : Nat) (v : Mapping) : (s.setMapping i v).eth = s.eth := rfl
@[simp] theorem State.resync_setMapping (s : State) (i : Nat) (v : Mapping) : (s.setMapping i v).resync = s.resync := rfl
@[simp] theorem State.pipes_setMapping (s : State) (i : Nat) (v : Mapping) : (s.setMapping i v).pipes = s.pipes := rfl
@[simp] theorem State.ports_setMapping (s : State) (i : Nat) (v : Mapping) : (s.setMapping i v).ports = s.ports := rfl
@[simp] theorem State.herons_setMapping (s : State) (i : Nat) (v : Mapping) : (s.setMapping i v).herons = s.herons := rfl
@[simp] theorem State.blocks_setMapping (s : State) (i : Nat) (v : Mapping) : (s.setMapping i v).blocks = s.blocks := rfl
@[simp] theorem State.regions_setMapping (s : State) (i : Nat) (v : Mapping) : (s.setMapping i v).regions = s.regions := rfl
@[simp] theorem State.channels_setMapping (s : State) (i : Nat) (v : Mapping) : (s.setMapping i v).channels = s.channels := rfl
@[simp] theorem State.spad_setMapping (s : State) (i : Nat) (v : Mapping) : (s.setMapping i v).spad = s.spad := rfl
@[simp] theorem State.spadPoison_setMapping (s : State) (i : Nat) (v : Mapping) : (s.setMapping i v).spadPoison = s.spadPoison := rfl
@[simp] theorem State.pool_setMapping (s : State) (i : Nat) (v : Mapping) : (s.setMapping i v).pool = s.pool := rfl
@[simp] theorem State.poolPoison_setMapping (s : State) (i : Nat) (v : Mapping) : (s.setMapping i v).poolPoison = s.poolPoison := rfl
@[simp] theorem State.flushes_setMapping (s : State) (i : Nat) (v : Mapping) : (s.setMapping i v).flushes = s.flushes := rfl
@[simp] theorem State.jobCollision_setMapping (s : State) (i : Nat) (v : Mapping) : (s.setMapping i v).jobCollision = s.jobCollision := rfl
@[simp] theorem State.sluiceConfig_setMapping (s : State) (i : Nat) (v : Mapping) : (s.setMapping i v).sluiceConfig = s.sluiceConfig := rfl
@[simp] theorem State.watchdogWas_setMapping (s : State) (i : Nat) (v : Mapping) : (s.setMapping i v).watchdogWas = s.watchdogWas := rfl
@[simp] theorem State.mem_setMapping (s : State) (i : Nat) (v : Mapping) : (s.setMapping i v).mem = s.mem := rfl
@[simp] theorem State.loads_setMapping (s : State) (i : Nat) (v : Mapping) : (s.setMapping i v).loads = s.loads := rfl
@[simp] theorem State.placings_setMapping (s : State) (i : Nat) (v : Mapping) : (s.setMapping i v).placings = s.placings := rfl
@[simp] theorem State.jobs_setMapping (s : State) (i : Nat) (v : Mapping) : (s.setMapping i v).jobs = s.jobs := rfl
@[simp] theorem State.nextJob_setMapping (s : State) (i : Nat) (v : Mapping) : (s.setMapping i v).nextJob = s.nextJob := rfl
@[simp] theorem State.faults_setMapping (s : State) (i : Nat) (v : Mapping) : (s.setMapping i v).faults = s.faults := rfl
@[simp] theorem State.health_setMapping (s : State) (i : Nat) (v : Mapping) : (s.setMapping i v).health = s.health := rfl
@[simp] theorem State.fovar_setMapping (s : State) (i : Nat) (v : Mapping) : (s.setMapping i v).fovar = s.fovar := rfl
@[simp] theorem State.fw_setMapping (s : State) (i : Nat) (v : Mapping) : (s.setMapping i v).fw = s.fw := rfl
@[simp] theorem State.dramStack_setDramStack_same (s : State) (i : Nat) (v : Stack) : (s.setDramStack i v).dramStack i = v := Tab.get_set_same ..
@[simp] theorem State.dramStack_setDramStack_other (s : State) (i : Nat) (v : Stack) (j : Nat) (h : j ≠ i) :
    (s.setDramStack i v).dramStack j = s.dramStack j := Tab.get_set_other _ _ _ h
@[simp] theorem State.pending_setDramStack (s : State) (i : Nat) (v : Stack) : (s.setDramStack i v).pending = s.pending := rfl
@[simp] theorem State.out_setDramStack (s : State) (i : Nat) (v : Stack) : (s.setDramStack i v).out = s.out := rfl
@[simp] theorem State.fresh_setDramStack (s : State) (i : Nat) (v : Stack) : (s.setDramStack i v).fresh = s.fresh := rfl
@[simp] theorem State.phase_setDramStack (s : State) (i : Nat) (v : Stack) : (s.setDramStack i v).phase = s.phase := rfl
@[simp] theorem State.time_setDramStack (s : State) (i : Nat) (v : Stack) : (s.setDramStack i v).time = s.time := rfl
@[simp] theorem State.straps_setDramStack (s : State) (i : Nat) (v : Stack) : (s.setDramStack i v).straps = s.straps := rfl
@[simp] theorem State.base_setDramStack (s : State) (i : Nat) (v : Stack) : (s.setDramStack i v).base = s.base := rfl
@[simp] theorem State.session_setDramStack (s : State) (i : Nat) (v : Stack) : (s.setDramStack i v).session = s.session := rfl
@[simp] theorem State.eth_setDramStack (s : State) (i : Nat) (v : Stack) : (s.setDramStack i v).eth = s.eth := rfl
@[simp] theorem State.resync_setDramStack (s : State) (i : Nat) (v : Stack) : (s.setDramStack i v).resync = s.resync := rfl
@[simp] theorem State.pipes_setDramStack (s : State) (i : Nat) (v : Stack) : (s.setDramStack i v).pipes = s.pipes := rfl
@[simp] theorem State.ports_setDramStack (s : State) (i : Nat) (v : Stack) : (s.setDramStack i v).ports = s.ports := rfl
@[simp] theorem State.herons_setDramStack (s : State) (i : Nat) (v : Stack) : (s.setDramStack i v).herons = s.herons := rfl
@[simp] theorem State.blocks_setDramStack (s : State) (i : Nat) (v : Stack) : (s.setDramStack i v).blocks = s.blocks := rfl
@[simp] theorem State.regions_setDramStack (s : State) (i : Nat) (v : Stack) : (s.setDramStack i v).regions = s.regions := rfl
@[simp] theorem State.channels_setDramStack (s : State) (i : Nat) (v : Stack) : (s.setDramStack i v).channels = s.channels := rfl
@[simp] theorem State.spad_setDramStack (s : State) (i : Nat) (v : Stack) : (s.setDramStack i v).spad = s.spad := rfl
@[simp] theorem State.spadPoison_setDramStack (s : State) (i : Nat) (v : Stack) : (s.setDramStack i v).spadPoison = s.spadPoison := rfl
@[simp] theorem State.pool_setDramStack (s : State) (i : Nat) (v : Stack) : (s.setDramStack i v).pool = s.pool := rfl
@[simp] theorem State.poolPoison_setDramStack (s : State) (i : Nat) (v : Stack) : (s.setDramStack i v).poolPoison = s.poolPoison := rfl
@[simp] theorem State.flushes_setDramStack (s : State) (i : Nat) (v : Stack) : (s.setDramStack i v).flushes = s.flushes := rfl
@[simp] theorem State.jobCollision_setDramStack (s : State) (i : Nat) (v : Stack) : (s.setDramStack i v).jobCollision = s.jobCollision := rfl
@[simp] theorem State.sluiceConfig_setDramStack (s : State) (i : Nat) (v : Stack) : (s.setDramStack i v).sluiceConfig = s.sluiceConfig := rfl
@[simp] theorem State.watchdogWas_setDramStack (s : State) (i : Nat) (v : Stack) : (s.setDramStack i v).watchdogWas = s.watchdogWas := rfl
@[simp] theorem State.mappings_setDramStack (s : State) (i : Nat) (v : Stack) : (s.setDramStack i v).mappings = s.mappings := rfl
@[simp] theorem State.loads_setDramStack (s : State) (i : Nat) (v : Stack) : (s.setDramStack i v).loads = s.loads := rfl
@[simp] theorem State.placings_setDramStack (s : State) (i : Nat) (v : Stack) : (s.setDramStack i v).placings = s.placings := rfl
@[simp] theorem State.jobs_setDramStack (s : State) (i : Nat) (v : Stack) : (s.setDramStack i v).jobs = s.jobs := rfl
@[simp] theorem State.nextJob_setDramStack (s : State) (i : Nat) (v : Stack) : (s.setDramStack i v).nextJob = s.nextJob := rfl
@[simp] theorem State.faults_setDramStack (s : State) (i : Nat) (v : Stack) : (s.setDramStack i v).faults = s.faults := rfl
@[simp] theorem State.health_setDramStack (s : State) (i : Nat) (v : Stack) : (s.setDramStack i v).health = s.health := rfl
@[simp] theorem State.fovar_setDramStack (s : State) (i : Nat) (v : Stack) : (s.setDramStack i v).fovar = s.fovar := rfl
@[simp] theorem State.fw_setDramStack (s : State) (i : Nat) (v : Stack) : (s.setDramStack i v).fw = s.fw := rfl
@[simp] theorem State.domain_setDomain_same (s : State) (i : Nat) (v : Domain) : (s.setDomain i v).domain i = v := Tab.get_set_same ..
@[simp] theorem State.domain_setDomain_other (s : State) (i : Nat) (v : Domain) (j : Nat) (h : j ≠ i) :
    (s.setDomain i v).domain j = s.domain j := Tab.get_set_other _ _ _ h
@[simp] theorem State.pending_setDomain (s : State) (i : Nat) (v : Domain) : (s.setDomain i v).pending = s.pending := rfl
@[simp] theorem State.out_setDomain (s : State) (i : Nat) (v : Domain) : (s.setDomain i v).out = s.out := rfl
@[simp] theorem State.fresh_setDomain (s : State) (i : Nat) (v : Domain) : (s.setDomain i v).fresh = s.fresh := rfl
@[simp] theorem State.phase_setDomain (s : State) (i : Nat) (v : Domain) : (s.setDomain i v).phase = s.phase := rfl
@[simp] theorem State.time_setDomain (s : State) (i : Nat) (v : Domain) : (s.setDomain i v).time = s.time := rfl
@[simp] theorem State.straps_setDomain (s : State) (i : Nat) (v : Domain) : (s.setDomain i v).straps = s.straps := rfl
@[simp] theorem State.base_setDomain (s : State) (i : Nat) (v : Domain) : (s.setDomain i v).base = s.base := rfl
@[simp] theorem State.session_setDomain (s : State) (i : Nat) (v : Domain) : (s.setDomain i v).session = s.session := rfl
@[simp] theorem State.eth_setDomain (s : State) (i : Nat) (v : Domain) : (s.setDomain i v).eth = s.eth := rfl
@[simp] theorem State.resync_setDomain (s : State) (i : Nat) (v : Domain) : (s.setDomain i v).resync = s.resync := rfl
@[simp] theorem State.pipes_setDomain (s : State) (i : Nat) (v : Domain) : (s.setDomain i v).pipes = s.pipes := rfl
@[simp] theorem State.ports_setDomain (s : State) (i : Nat) (v : Domain) : (s.setDomain i v).ports = s.ports := rfl
@[simp] theorem State.herons_setDomain (s : State) (i : Nat) (v : Domain) : (s.setDomain i v).herons = s.herons := rfl
@[simp] theorem State.blocks_setDomain (s : State) (i : Nat) (v : Domain) : (s.setDomain i v).blocks = s.blocks := rfl
@[simp] theorem State.regions_setDomain (s : State) (i : Nat) (v : Domain) : (s.setDomain i v).regions = s.regions := rfl
@[simp] theorem State.channels_setDomain (s : State) (i : Nat) (v : Domain) : (s.setDomain i v).channels = s.channels := rfl
@[simp] theorem State.spad_setDomain (s : State) (i : Nat) (v : Domain) : (s.setDomain i v).spad = s.spad := rfl
@[simp] theorem State.spadPoison_setDomain (s : State) (i : Nat) (v : Domain) : (s.setDomain i v).spadPoison = s.spadPoison := rfl
@[simp] theorem State.pool_setDomain (s : State) (i : Nat) (v : Domain) : (s.setDomain i v).pool = s.pool := rfl
@[simp] theorem State.poolPoison_setDomain (s : State) (i : Nat) (v : Domain) : (s.setDomain i v).poolPoison = s.poolPoison := rfl
@[simp] theorem State.flushes_setDomain (s : State) (i : Nat) (v : Domain) : (s.setDomain i v).flushes = s.flushes := rfl
@[simp] theorem State.jobCollision_setDomain (s : State) (i : Nat) (v : Domain) : (s.setDomain i v).jobCollision = s.jobCollision := rfl
@[simp] theorem State.sluiceConfig_setDomain (s : State) (i : Nat) (v : Domain) : (s.setDomain i v).sluiceConfig = s.sluiceConfig := rfl
@[simp] theorem State.watchdogWas_setDomain (s : State) (i : Nat) (v : Domain) : (s.setDomain i v).watchdogWas = s.watchdogWas := rfl
@[simp] theorem State.mem_setDomain (s : State) (i : Nat) (v : Domain) : (s.setDomain i v).mem = s.mem := rfl
@[simp] theorem State.mappings_setDomain (s : State) (i : Nat) (v : Domain) : (s.setDomain i v).mappings = s.mappings := rfl
@[simp] theorem State.loads_setDomain (s : State) (i : Nat) (v : Domain) : (s.setDomain i v).loads = s.loads := rfl
@[simp] theorem State.placings_setDomain (s : State) (i : Nat) (v : Domain) : (s.setDomain i v).placings = s.placings := rfl
@[simp] theorem State.jobs_setDomain (s : State) (i : Nat) (v : Domain) : (s.setDomain i v).jobs = s.jobs := rfl
@[simp] theorem State.nextJob_setDomain (s : State) (i : Nat) (v : Domain) : (s.setDomain i v).nextJob = s.nextJob := rfl
@[simp] theorem State.faults_setDomain (s : State) (i : Nat) (v : Domain) : (s.setDomain i v).faults = s.faults := rfl
@[simp] theorem State.fovar_setDomain (s : State) (i : Nat) (v : Domain) : (s.setDomain i v).fovar = s.fovar := rfl
@[simp] theorem State.fw_setDomain (s : State) (i : Nat) (v : Domain) : (s.setDomain i v).fw = s.fw := rfl
@[simp] theorem State.location_setLocation_same (s : State) (i : Nat) (v : Location) : (s.setLocation i v).location i = v := Tab.get_set_same ..
@[simp] theorem State.location_setLocation_other (s : State) (i : Nat) (v : Location) (j : Nat) (h : j ≠ i) :
    (s.setLocation i v).location j = s.location j := Tab.get_set_other _ _ _ h
@[simp] theorem State.pending_setLocation (s : State) (i : Nat) (v : Location) : (s.setLocation i v).pending = s.pending := rfl
@[simp] theorem State.out_setLocation (s : State) (i : Nat) (v : Location) : (s.setLocation i v).out = s.out := rfl
@[simp] theorem State.fresh_setLocation (s : State) (i : Nat) (v : Location) : (s.setLocation i v).fresh = s.fresh := rfl
@[simp] theorem State.phase_setLocation (s : State) (i : Nat) (v : Location) : (s.setLocation i v).phase = s.phase := rfl
@[simp] theorem State.time_setLocation (s : State) (i : Nat) (v : Location) : (s.setLocation i v).time = s.time := rfl
@[simp] theorem State.straps_setLocation (s : State) (i : Nat) (v : Location) : (s.setLocation i v).straps = s.straps := rfl
@[simp] theorem State.base_setLocation (s : State) (i : Nat) (v : Location) : (s.setLocation i v).base = s.base := rfl
@[simp] theorem State.session_setLocation (s : State) (i : Nat) (v : Location) : (s.setLocation i v).session = s.session := rfl
@[simp] theorem State.eth_setLocation (s : State) (i : Nat) (v : Location) : (s.setLocation i v).eth = s.eth := rfl
@[simp] theorem State.resync_setLocation (s : State) (i : Nat) (v : Location) : (s.setLocation i v).resync = s.resync := rfl
@[simp] theorem State.pipes_setLocation (s : State) (i : Nat) (v : Location) : (s.setLocation i v).pipes = s.pipes := rfl
@[simp] theorem State.ports_setLocation (s : State) (i : Nat) (v : Location) : (s.setLocation i v).ports = s.ports := rfl
@[simp] theorem State.herons_setLocation (s : State) (i : Nat) (v : Location) : (s.setLocation i v).herons = s.herons := rfl
@[simp] theorem State.blocks_setLocation (s : State) (i : Nat) (v : Location) : (s.setLocation i v).blocks = s.blocks := rfl
@[simp] theorem State.regions_setLocation (s : State) (i : Nat) (v : Location) : (s.setLocation i v).regions = s.regions := rfl
@[simp] theorem State.channels_setLocation (s : State) (i : Nat) (v : Location) : (s.setLocation i v).channels = s.channels := rfl
@[simp] theorem State.spad_setLocation (s : State) (i : Nat) (v : Location) : (s.setLocation i v).spad = s.spad := rfl
@[simp] theorem State.spadPoison_setLocation (s : State) (i : Nat) (v : Location) : (s.setLocation i v).spadPoison = s.spadPoison := rfl
@[simp] theorem State.pool_setLocation (s : State) (i : Nat) (v : Location) : (s.setLocation i v).pool = s.pool := rfl
@[simp] theorem State.poolPoison_setLocation (s : State) (i : Nat) (v : Location) : (s.setLocation i v).poolPoison = s.poolPoison := rfl
@[simp] theorem State.flushes_setLocation (s : State) (i : Nat) (v : Location) : (s.setLocation i v).flushes = s.flushes := rfl
@[simp] theorem State.jobCollision_setLocation (s : State) (i : Nat) (v : Location) : (s.setLocation i v).jobCollision = s.jobCollision := rfl
@[simp] theorem State.sluiceConfig_setLocation (s : State) (i : Nat) (v : Location) : (s.setLocation i v).sluiceConfig = s.sluiceConfig := rfl
@[simp] theorem State.watchdogWas_setLocation (s : State) (i : Nat) (v : Location) : (s.setLocation i v).watchdogWas = s.watchdogWas := rfl
@[simp] theorem State.mem_setLocation (s : State) (i : Nat) (v : Location) : (s.setLocation i v).mem = s.mem := rfl
@[simp] theorem State.mappings_setLocation (s : State) (i : Nat) (v : Location) : (s.setLocation i v).mappings = s.mappings := rfl
@[simp] theorem State.loads_setLocation (s : State) (i : Nat) (v : Location) : (s.setLocation i v).loads = s.loads := rfl
@[simp] theorem State.placings_setLocation (s : State) (i : Nat) (v : Location) : (s.setLocation i v).placings = s.placings := rfl
@[simp] theorem State.jobs_setLocation (s : State) (i : Nat) (v : Location) : (s.setLocation i v).jobs = s.jobs := rfl
@[simp] theorem State.nextJob_setLocation (s : State) (i : Nat) (v : Location) : (s.setLocation i v).nextJob = s.nextJob := rfl
@[simp] theorem State.faults_setLocation (s : State) (i : Nat) (v : Location) : (s.setLocation i v).faults = s.faults := rfl
@[simp] theorem State.fovar_setLocation (s : State) (i : Nat) (v : Location) : (s.setLocation i v).fovar = s.fovar := rfl
@[simp] theorem State.fw_setLocation (s : State) (i : Nat) (v : Location) : (s.setLocation i v).fw = s.fw := rfl
@[simp] theorem State.fovarPort_setFovarPort_same (s : State) (i : Nat) (v : FovarPort) : (s.setFovarPort i v).fovarPort i = v := Tab.get_set_same ..
@[simp] theorem State.fovarPort_setFovarPort_other (s : State) (i : Nat) (v : FovarPort) (j : Nat) (h : j ≠ i) :
    (s.setFovarPort i v).fovarPort j = s.fovarPort j := Tab.get_set_other _ _ _ h
@[simp] theorem State.pending_setFovarPort (s : State) (i : Nat) (v : FovarPort) : (s.setFovarPort i v).pending = s.pending := rfl
@[simp] theorem State.out_setFovarPort (s : State) (i : Nat) (v : FovarPort) : (s.setFovarPort i v).out = s.out := rfl
@[simp] theorem State.fresh_setFovarPort (s : State) (i : Nat) (v : FovarPort) : (s.setFovarPort i v).fresh = s.fresh := rfl
@[simp] theorem State.phase_setFovarPort (s : State) (i : Nat) (v : FovarPort) : (s.setFovarPort i v).phase = s.phase := rfl
@[simp] theorem State.time_setFovarPort (s : State) (i : Nat) (v : FovarPort) : (s.setFovarPort i v).time = s.time := rfl
@[simp] theorem State.straps_setFovarPort (s : State) (i : Nat) (v : FovarPort) : (s.setFovarPort i v).straps = s.straps := rfl
@[simp] theorem State.base_setFovarPort (s : State) (i : Nat) (v : FovarPort) : (s.setFovarPort i v).base = s.base := rfl
@[simp] theorem State.session_setFovarPort (s : State) (i : Nat) (v : FovarPort) : (s.setFovarPort i v).session = s.session := rfl
@[simp] theorem State.eth_setFovarPort (s : State) (i : Nat) (v : FovarPort) : (s.setFovarPort i v).eth = s.eth := rfl
@[simp] theorem State.resync_setFovarPort (s : State) (i : Nat) (v : FovarPort) : (s.setFovarPort i v).resync = s.resync := rfl
@[simp] theorem State.pipes_setFovarPort (s : State) (i : Nat) (v : FovarPort) : (s.setFovarPort i v).pipes = s.pipes := rfl
@[simp] theorem State.ports_setFovarPort (s : State) (i : Nat) (v : FovarPort) : (s.setFovarPort i v).ports = s.ports := rfl
@[simp] theorem State.herons_setFovarPort (s : State) (i : Nat) (v : FovarPort) : (s.setFovarPort i v).herons = s.herons := rfl
@[simp] theorem State.blocks_setFovarPort (s : State) (i : Nat) (v : FovarPort) : (s.setFovarPort i v).blocks = s.blocks := rfl
@[simp] theorem State.regions_setFovarPort (s : State) (i : Nat) (v : FovarPort) : (s.setFovarPort i v).regions = s.regions := rfl
@[simp] theorem State.channels_setFovarPort (s : State) (i : Nat) (v : FovarPort) : (s.setFovarPort i v).channels = s.channels := rfl
@[simp] theorem State.spad_setFovarPort (s : State) (i : Nat) (v : FovarPort) : (s.setFovarPort i v).spad = s.spad := rfl
@[simp] theorem State.spadPoison_setFovarPort (s : State) (i : Nat) (v : FovarPort) : (s.setFovarPort i v).spadPoison = s.spadPoison := rfl
@[simp] theorem State.pool_setFovarPort (s : State) (i : Nat) (v : FovarPort) : (s.setFovarPort i v).pool = s.pool := rfl
@[simp] theorem State.poolPoison_setFovarPort (s : State) (i : Nat) (v : FovarPort) : (s.setFovarPort i v).poolPoison = s.poolPoison := rfl
@[simp] theorem State.flushes_setFovarPort (s : State) (i : Nat) (v : FovarPort) : (s.setFovarPort i v).flushes = s.flushes := rfl
@[simp] theorem State.jobCollision_setFovarPort (s : State) (i : Nat) (v : FovarPort) : (s.setFovarPort i v).jobCollision = s.jobCollision := rfl
@[simp] theorem State.sluiceConfig_setFovarPort (s : State) (i : Nat) (v : FovarPort) : (s.setFovarPort i v).sluiceConfig = s.sluiceConfig := rfl
@[simp] theorem State.watchdogWas_setFovarPort (s : State) (i : Nat) (v : FovarPort) : (s.setFovarPort i v).watchdogWas = s.watchdogWas := rfl
@[simp] theorem State.mem_setFovarPort (s : State) (i : Nat) (v : FovarPort) : (s.setFovarPort i v).mem = s.mem := rfl
@[simp] theorem State.mappings_setFovarPort (s : State) (i : Nat) (v : FovarPort) : (s.setFovarPort i v).mappings = s.mappings := rfl
@[simp] theorem State.loads_setFovarPort (s : State) (i : Nat) (v : FovarPort) : (s.setFovarPort i v).loads = s.loads := rfl
@[simp] theorem State.placings_setFovarPort (s : State) (i : Nat) (v : FovarPort) : (s.setFovarPort i v).placings = s.placings := rfl
@[simp] theorem State.jobs_setFovarPort (s : State) (i : Nat) (v : FovarPort) : (s.setFovarPort i v).jobs = s.jobs := rfl
@[simp] theorem State.nextJob_setFovarPort (s : State) (i : Nat) (v : FovarPort) : (s.setFovarPort i v).nextJob = s.nextJob := rfl
@[simp] theorem State.faults_setFovarPort (s : State) (i : Nat) (v : FovarPort) : (s.setFovarPort i v).faults = s.faults := rfl
@[simp] theorem State.health_setFovarPort (s : State) (i : Nat) (v : FovarPort) : (s.setFovarPort i v).health = s.health := rfl
@[simp] theorem State.fw_setFovarPort (s : State) (i : Nat) (v : FovarPort) : (s.setFovarPort i v).fw = s.fw := rfl
@[simp] theorem State.window_setWindow_same (s : State) (i : Nat) (v : Window) : (s.setWindow i v).window i = v := Tab.get_set_same ..
@[simp] theorem State.window_setWindow_other (s : State) (i : Nat) (v : Window) (j : Nat) (h : j ≠ i) :
    (s.setWindow i v).window j = s.window j := Tab.get_set_other _ _ _ h
@[simp] theorem State.pending_setWindow (s : State) (i : Nat) (v : Window) : (s.setWindow i v).pending = s.pending := rfl
@[simp] theorem State.out_setWindow (s : State) (i : Nat) (v : Window) : (s.setWindow i v).out = s.out := rfl
@[simp] theorem State.fresh_setWindow (s : State) (i : Nat) (v : Window) : (s.setWindow i v).fresh = s.fresh := rfl
@[simp] theorem State.phase_setWindow (s : State) (i : Nat) (v : Window) : (s.setWindow i v).phase = s.phase := rfl
@[simp] theorem State.time_setWindow (s : State) (i : Nat) (v : Window) : (s.setWindow i v).time = s.time := rfl
@[simp] theorem State.straps_setWindow (s : State) (i : Nat) (v : Window) : (s.setWindow i v).straps = s.straps := rfl
@[simp] theorem State.base_setWindow (s : State) (i : Nat) (v : Window) : (s.setWindow i v).base = s.base := rfl
@[simp] theorem State.session_setWindow (s : State) (i : Nat) (v : Window) : (s.setWindow i v).session = s.session := rfl
@[simp] theorem State.eth_setWindow (s : State) (i : Nat) (v : Window) : (s.setWindow i v).eth = s.eth := rfl
@[simp] theorem State.resync_setWindow (s : State) (i : Nat) (v : Window) : (s.setWindow i v).resync = s.resync := rfl
@[simp] theorem State.pipes_setWindow (s : State) (i : Nat) (v : Window) : (s.setWindow i v).pipes = s.pipes := rfl
@[simp] theorem State.ports_setWindow (s : State) (i : Nat) (v : Window) : (s.setWindow i v).ports = s.ports := rfl
@[simp] theorem State.herons_setWindow (s : State) (i : Nat) (v : Window) : (s.setWindow i v).herons = s.herons := rfl
@[simp] theorem State.blocks_setWindow (s : State) (i : Nat) (v : Window) : (s.setWindow i v).blocks = s.blocks := rfl
@[simp] theorem State.regions_setWindow (s : State) (i : Nat) (v : Window) : (s.setWindow i v).regions = s.regions := rfl
@[simp] theorem State.channels_setWindow (s : State) (i : Nat) (v : Window) : (s.setWindow i v).channels = s.channels := rfl
@[simp] theorem State.spad_setWindow (s : State) (i : Nat) (v : Window) : (s.setWindow i v).spad = s.spad := rfl
@[simp] theorem State.spadPoison_setWindow (s : State) (i : Nat) (v : Window) : (s.setWindow i v).spadPoison = s.spadPoison := rfl
@[simp] theorem State.pool_setWindow (s : State) (i : Nat) (v : Window) : (s.setWindow i v).pool = s.pool := rfl
@[simp] theorem State.poolPoison_setWindow (s : State) (i : Nat) (v : Window) : (s.setWindow i v).poolPoison = s.poolPoison := rfl
@[simp] theorem State.flushes_setWindow (s : State) (i : Nat) (v : Window) : (s.setWindow i v).flushes = s.flushes := rfl
@[simp] theorem State.jobCollision_setWindow (s : State) (i : Nat) (v : Window) : (s.setWindow i v).jobCollision = s.jobCollision := rfl
@[simp] theorem State.sluiceConfig_setWindow (s : State) (i : Nat) (v : Window) : (s.setWindow i v).sluiceConfig = s.sluiceConfig := rfl
@[simp] theorem State.watchdogWas_setWindow (s : State) (i : Nat) (v : Window) : (s.setWindow i v).watchdogWas = s.watchdogWas := rfl
@[simp] theorem State.mem_setWindow (s : State) (i : Nat) (v : Window) : (s.setWindow i v).mem = s.mem := rfl
@[simp] theorem State.mappings_setWindow (s : State) (i : Nat) (v : Window) : (s.setWindow i v).mappings = s.mappings := rfl
@[simp] theorem State.loads_setWindow (s : State) (i : Nat) (v : Window) : (s.setWindow i v).loads = s.loads := rfl
@[simp] theorem State.placings_setWindow (s : State) (i : Nat) (v : Window) : (s.setWindow i v).placings = s.placings := rfl
@[simp] theorem State.jobs_setWindow (s : State) (i : Nat) (v : Window) : (s.setWindow i v).jobs = s.jobs := rfl
@[simp] theorem State.nextJob_setWindow (s : State) (i : Nat) (v : Window) : (s.setWindow i v).nextJob = s.nextJob := rfl
@[simp] theorem State.faults_setWindow (s : State) (i : Nat) (v : Window) : (s.setWindow i v).faults = s.faults := rfl
@[simp] theorem State.health_setWindow (s : State) (i : Nat) (v : Window) : (s.setWindow i v).health = s.health := rfl
@[simp] theorem State.fw_setWindow (s : State) (i : Nat) (v : Window) : (s.setWindow i v).fw = s.fw := rfl
@[simp] theorem State.collSlot_setCollSlot_same (s : State) (i : Nat) (v : Option Collective) : (s.setCollSlot i v).collSlot i = v := Tab.get_set_same ..
@[simp] theorem State.collSlot_setCollSlot_other (s : State) (i : Nat) (v : Option Collective) (j : Nat) (h : j ≠ i) :
    (s.setCollSlot i v).collSlot j = s.collSlot j := Tab.get_set_other _ _ _ h
@[simp] theorem State.pending_setCollSlot (s : State) (i : Nat) (v : Option Collective) : (s.setCollSlot i v).pending = s.pending := rfl
@[simp] theorem State.out_setCollSlot (s : State) (i : Nat) (v : Option Collective) : (s.setCollSlot i v).out = s.out := rfl
@[simp] theorem State.fresh_setCollSlot (s : State) (i : Nat) (v : Option Collective) : (s.setCollSlot i v).fresh = s.fresh := rfl
@[simp] theorem State.phase_setCollSlot (s : State) (i : Nat) (v : Option Collective) : (s.setCollSlot i v).phase = s.phase := rfl
@[simp] theorem State.time_setCollSlot (s : State) (i : Nat) (v : Option Collective) : (s.setCollSlot i v).time = s.time := rfl
@[simp] theorem State.straps_setCollSlot (s : State) (i : Nat) (v : Option Collective) : (s.setCollSlot i v).straps = s.straps := rfl
@[simp] theorem State.base_setCollSlot (s : State) (i : Nat) (v : Option Collective) : (s.setCollSlot i v).base = s.base := rfl
@[simp] theorem State.session_setCollSlot (s : State) (i : Nat) (v : Option Collective) : (s.setCollSlot i v).session = s.session := rfl
@[simp] theorem State.eth_setCollSlot (s : State) (i : Nat) (v : Option Collective) : (s.setCollSlot i v).eth = s.eth := rfl
@[simp] theorem State.resync_setCollSlot (s : State) (i : Nat) (v : Option Collective) : (s.setCollSlot i v).resync = s.resync := rfl
@[simp] theorem State.pipes_setCollSlot (s : State) (i : Nat) (v : Option Collective) : (s.setCollSlot i v).pipes = s.pipes := rfl
@[simp] theorem State.ports_setCollSlot (s : State) (i : Nat) (v : Option Collective) : (s.setCollSlot i v).ports = s.ports := rfl
@[simp] theorem State.herons_setCollSlot (s : State) (i : Nat) (v : Option Collective) : (s.setCollSlot i v).herons = s.herons := rfl
@[simp] theorem State.blocks_setCollSlot (s : State) (i : Nat) (v : Option Collective) : (s.setCollSlot i v).blocks = s.blocks := rfl
@[simp] theorem State.regions_setCollSlot (s : State) (i : Nat) (v : Option Collective) : (s.setCollSlot i v).regions = s.regions := rfl
@[simp] theorem State.channels_setCollSlot (s : State) (i : Nat) (v : Option Collective) : (s.setCollSlot i v).channels = s.channels := rfl
@[simp] theorem State.spad_setCollSlot (s : State) (i : Nat) (v : Option Collective) : (s.setCollSlot i v).spad = s.spad := rfl
@[simp] theorem State.spadPoison_setCollSlot (s : State) (i : Nat) (v : Option Collective) : (s.setCollSlot i v).spadPoison = s.spadPoison := rfl
@[simp] theorem State.pool_setCollSlot (s : State) (i : Nat) (v : Option Collective) : (s.setCollSlot i v).pool = s.pool := rfl
@[simp] theorem State.poolPoison_setCollSlot (s : State) (i : Nat) (v : Option Collective) : (s.setCollSlot i v).poolPoison = s.poolPoison := rfl
@[simp] theorem State.flushes_setCollSlot (s : State) (i : Nat) (v : Option Collective) : (s.setCollSlot i v).flushes = s.flushes := rfl
@[simp] theorem State.jobCollision_setCollSlot (s : State) (i : Nat) (v : Option Collective) : (s.setCollSlot i v).jobCollision = s.jobCollision := rfl
@[simp] theorem State.sluiceConfig_setCollSlot (s : State) (i : Nat) (v : Option Collective) : (s.setCollSlot i v).sluiceConfig = s.sluiceConfig := rfl
@[simp] theorem State.watchdogWas_setCollSlot (s : State) (i : Nat) (v : Option Collective) : (s.setCollSlot i v).watchdogWas = s.watchdogWas := rfl
@[simp] theorem State.mem_setCollSlot (s : State) (i : Nat) (v : Option Collective) : (s.setCollSlot i v).mem = s.mem := rfl
@[simp] theorem State.mappings_setCollSlot (s : State) (i : Nat) (v : Option Collective) : (s.setCollSlot i v).mappings = s.mappings := rfl
@[simp] theorem State.loads_setCollSlot (s : State) (i : Nat) (v : Option Collective) : (s.setCollSlot i v).loads = s.loads := rfl
@[simp] theorem State.placings_setCollSlot (s : State) (i : Nat) (v : Option Collective) : (s.setCollSlot i v).placings = s.placings := rfl
@[simp] theorem State.jobs_setCollSlot (s : State) (i : Nat) (v : Option Collective) : (s.setCollSlot i v).jobs = s.jobs := rfl
@[simp] theorem State.nextJob_setCollSlot (s : State) (i : Nat) (v : Option Collective) : (s.setCollSlot i v).nextJob = s.nextJob := rfl
@[simp] theorem State.faults_setCollSlot (s : State) (i : Nat) (v : Option Collective) : (s.setCollSlot i v).faults = s.faults := rfl
@[simp] theorem State.health_setCollSlot (s : State) (i : Nat) (v : Option Collective) : (s.setCollSlot i v).health = s.health := rfl
@[simp] theorem State.fw_setCollSlot (s : State) (i : Nat) (v : Option Collective) : (s.setCollSlot i v).fw = s.fw := rfl
@[simp] theorem State.fwSlot_setFwSlot_same (s : State) (i : Nat) (v : Slot) : (s.setFwSlot i v).fwSlot i = v := Tab.get_set_same ..
@[simp] theorem State.fwSlot_setFwSlot_other (s : State) (i : Nat) (v : Slot) (j : Nat) (h : j ≠ i) :
    (s.setFwSlot i v).fwSlot j = s.fwSlot j := Tab.get_set_other _ _ _ h
@[simp] theorem State.pending_setFwSlot (s : State) (i : Nat) (v : Slot) : (s.setFwSlot i v).pending = s.pending := rfl
@[simp] theorem State.out_setFwSlot (s : State) (i : Nat) (v : Slot) : (s.setFwSlot i v).out = s.out := rfl
@[simp] theorem State.fresh_setFwSlot (s : State) (i : Nat) (v : Slot) : (s.setFwSlot i v).fresh = s.fresh := rfl
@[simp] theorem State.phase_setFwSlot (s : State) (i : Nat) (v : Slot) : (s.setFwSlot i v).phase = s.phase := rfl
@[simp] theorem State.time_setFwSlot (s : State) (i : Nat) (v : Slot) : (s.setFwSlot i v).time = s.time := rfl
@[simp] theorem State.straps_setFwSlot (s : State) (i : Nat) (v : Slot) : (s.setFwSlot i v).straps = s.straps := rfl
@[simp] theorem State.base_setFwSlot (s : State) (i : Nat) (v : Slot) : (s.setFwSlot i v).base = s.base := rfl
@[simp] theorem State.session_setFwSlot (s : State) (i : Nat) (v : Slot) : (s.setFwSlot i v).session = s.session := rfl
@[simp] theorem State.eth_setFwSlot (s : State) (i : Nat) (v : Slot) : (s.setFwSlot i v).eth = s.eth := rfl
@[simp] theorem State.resync_setFwSlot (s : State) (i : Nat) (v : Slot) : (s.setFwSlot i v).resync = s.resync := rfl
@[simp] theorem State.pipes_setFwSlot (s : State) (i : Nat) (v : Slot) : (s.setFwSlot i v).pipes = s.pipes := rfl
@[simp] theorem State.ports_setFwSlot (s : State) (i : Nat) (v : Slot) : (s.setFwSlot i v).ports = s.ports := rfl
@[simp] theorem State.herons_setFwSlot (s : State) (i : Nat) (v : Slot) : (s.setFwSlot i v).herons = s.herons := rfl
@[simp] theorem State.blocks_setFwSlot (s : State) (i : Nat) (v : Slot) : (s.setFwSlot i v).blocks = s.blocks := rfl
@[simp] theorem State.regions_setFwSlot (s : State) (i : Nat) (v : Slot) : (s.setFwSlot i v).regions = s.regions := rfl
@[simp] theorem State.channels_setFwSlot (s : State) (i : Nat) (v : Slot) : (s.setFwSlot i v).channels = s.channels := rfl
@[simp] theorem State.spad_setFwSlot (s : State) (i : Nat) (v : Slot) : (s.setFwSlot i v).spad = s.spad := rfl
@[simp] theorem State.spadPoison_setFwSlot (s : State) (i : Nat) (v : Slot) : (s.setFwSlot i v).spadPoison = s.spadPoison := rfl
@[simp] theorem State.pool_setFwSlot (s : State) (i : Nat) (v : Slot) : (s.setFwSlot i v).pool = s.pool := rfl
@[simp] theorem State.poolPoison_setFwSlot (s : State) (i : Nat) (v : Slot) : (s.setFwSlot i v).poolPoison = s.poolPoison := rfl
@[simp] theorem State.flushes_setFwSlot (s : State) (i : Nat) (v : Slot) : (s.setFwSlot i v).flushes = s.flushes := rfl
@[simp] theorem State.jobCollision_setFwSlot (s : State) (i : Nat) (v : Slot) : (s.setFwSlot i v).jobCollision = s.jobCollision := rfl
@[simp] theorem State.sluiceConfig_setFwSlot (s : State) (i : Nat) (v : Slot) : (s.setFwSlot i v).sluiceConfig = s.sluiceConfig := rfl
@[simp] theorem State.watchdogWas_setFwSlot (s : State) (i : Nat) (v : Slot) : (s.setFwSlot i v).watchdogWas = s.watchdogWas := rfl
@[simp] theorem State.mem_setFwSlot (s : State) (i : Nat) (v : Slot) : (s.setFwSlot i v).mem = s.mem := rfl
@[simp] theorem State.mappings_setFwSlot (s : State) (i : Nat) (v : Slot) : (s.setFwSlot i v).mappings = s.mappings := rfl
@[simp] theorem State.loads_setFwSlot (s : State) (i : Nat) (v : Slot) : (s.setFwSlot i v).loads = s.loads := rfl
@[simp] theorem State.placings_setFwSlot (s : State) (i : Nat) (v : Slot) : (s.setFwSlot i v).placings = s.placings := rfl
@[simp] theorem State.jobs_setFwSlot (s : State) (i : Nat) (v : Slot) : (s.setFwSlot i v).jobs = s.jobs := rfl
@[simp] theorem State.nextJob_setFwSlot (s : State) (i : Nat) (v : Slot) : (s.setFwSlot i v).nextJob = s.nextJob := rfl
@[simp] theorem State.faults_setFwSlot (s : State) (i : Nat) (v : Slot) : (s.setFwSlot i v).faults = s.faults := rfl
@[simp] theorem State.health_setFwSlot (s : State) (i : Nat) (v : Slot) : (s.setFwSlot i v).health = s.health := rfl
@[simp] theorem State.fovar_setFwSlot (s : State) (i : Nat) (v : Slot) : (s.setFwSlot i v).fovar = s.fovar := rfl
@[simp] theorem State.bank_setBank_same (s : State) (i : Nat) (v : Option Bank) : (s.setBank i v).bank i = v := Tab.get_set_same ..
@[simp] theorem State.bank_setBank_other (s : State) (i : Nat) (v : Option Bank) (j : Nat) (h : j ≠ i) :
    (s.setBank i v).bank j = s.bank j := Tab.get_set_other _ _ _ h
@[simp] theorem State.pending_setBank (s : State) (i : Nat) (v : Option Bank) : (s.setBank i v).pending = s.pending := rfl
@[simp] theorem State.out_setBank (s : State) (i : Nat) (v : Option Bank) : (s.setBank i v).out = s.out := rfl
@[simp] theorem State.fresh_setBank (s : State) (i : Nat) (v : Option Bank) : (s.setBank i v).fresh = s.fresh := rfl
@[simp] theorem State.phase_setBank (s : State) (i : Nat) (v : Option Bank) : (s.setBank i v).phase = s.phase := rfl
@[simp] theorem State.time_setBank (s : State) (i : Nat) (v : Option Bank) : (s.setBank i v).time = s.time := rfl
@[simp] theorem State.straps_setBank (s : State) (i : Nat) (v : Option Bank) : (s.setBank i v).straps = s.straps := rfl
@[simp] theorem State.base_setBank (s : State) (i : Nat) (v : Option Bank) : (s.setBank i v).base = s.base := rfl
@[simp] theorem State.session_setBank (s : State) (i : Nat) (v : Option Bank) : (s.setBank i v).session = s.session := rfl
@[simp] theorem State.eth_setBank (s : State) (i : Nat) (v : Option Bank) : (s.setBank i v).eth = s.eth := rfl
@[simp] theorem State.resync_setBank (s : State) (i : Nat) (v : Option Bank) : (s.setBank i v).resync = s.resync := rfl
@[simp] theorem State.pipes_setBank (s : State) (i : Nat) (v : Option Bank) : (s.setBank i v).pipes = s.pipes := rfl
@[simp] theorem State.ports_setBank (s : State) (i : Nat) (v : Option Bank) : (s.setBank i v).ports = s.ports := rfl
@[simp] theorem State.herons_setBank (s : State) (i : Nat) (v : Option Bank) : (s.setBank i v).herons = s.herons := rfl
@[simp] theorem State.blocks_setBank (s : State) (i : Nat) (v : Option Bank) : (s.setBank i v).blocks = s.blocks := rfl
@[simp] theorem State.regions_setBank (s : State) (i : Nat) (v : Option Bank) : (s.setBank i v).regions = s.regions := rfl
@[simp] theorem State.channels_setBank (s : State) (i : Nat) (v : Option Bank) : (s.setBank i v).channels = s.channels := rfl
@[simp] theorem State.spad_setBank (s : State) (i : Nat) (v : Option Bank) : (s.setBank i v).spad = s.spad := rfl
@[simp] theorem State.spadPoison_setBank (s : State) (i : Nat) (v : Option Bank) : (s.setBank i v).spadPoison = s.spadPoison := rfl
@[simp] theorem State.pool_setBank (s : State) (i : Nat) (v : Option Bank) : (s.setBank i v).pool = s.pool := rfl
@[simp] theorem State.poolPoison_setBank (s : State) (i : Nat) (v : Option Bank) : (s.setBank i v).poolPoison = s.poolPoison := rfl
@[simp] theorem State.flushes_setBank (s : State) (i : Nat) (v : Option Bank) : (s.setBank i v).flushes = s.flushes := rfl
@[simp] theorem State.jobCollision_setBank (s : State) (i : Nat) (v : Option Bank) : (s.setBank i v).jobCollision = s.jobCollision := rfl
@[simp] theorem State.sluiceConfig_setBank (s : State) (i : Nat) (v : Option Bank) : (s.setBank i v).sluiceConfig = s.sluiceConfig := rfl
@[simp] theorem State.watchdogWas_setBank (s : State) (i : Nat) (v : Option Bank) : (s.setBank i v).watchdogWas = s.watchdogWas := rfl
@[simp] theorem State.mem_setBank (s : State) (i : Nat) (v : Option Bank) : (s.setBank i v).mem = s.mem := rfl
@[simp] theorem State.mappings_setBank (s : State) (i : Nat) (v : Option Bank) : (s.setBank i v).mappings = s.mappings := rfl
@[simp] theorem State.loads_setBank (s : State) (i : Nat) (v : Option Bank) : (s.setBank i v).loads = s.loads := rfl
@[simp] theorem State.placings_setBank (s : State) (i : Nat) (v : Option Bank) : (s.setBank i v).placings = s.placings := rfl
@[simp] theorem State.jobs_setBank (s : State) (i : Nat) (v : Option Bank) : (s.setBank i v).jobs = s.jobs := rfl
@[simp] theorem State.nextJob_setBank (s : State) (i : Nat) (v : Option Bank) : (s.setBank i v).nextJob = s.nextJob := rfl
@[simp] theorem State.faults_setBank (s : State) (i : Nat) (v : Option Bank) : (s.setBank i v).faults = s.faults := rfl
@[simp] theorem State.health_setBank (s : State) (i : Nat) (v : Option Bank) : (s.setBank i v).health = s.health := rfl
@[simp] theorem State.fovar_setBank (s : State) (i : Nat) (v : Option Bank) : (s.setBank i v).fovar = s.fovar := rfl

/-! ## The fields beside a nested table -/

@[simp] theorem State.mem_dram_setDramStack (s : State) (i : Nat) (v : Stack) : (s.setDramStack i v).mem.dram = s.mem.dram := rfl
@[simp] theorem State.mem_poison_setDramStack (s : State) (i : Nat) (v : Stack) : (s.setDramStack i v).mem.poison = s.mem.poison := rfl
@[simp] theorem State.mem_config_setDramStack (s : State) (i : Nat) (v : Stack) : (s.setDramStack i v).mem.config = s.mem.config := rfl
@[simp] theorem State.mem_interleaveWait_setDramStack (s : State) (i : Nat) (v : Stack) : (s.setDramStack i v).mem.interleaveWait = s.mem.interleaveWait := rfl
@[simp] theorem State.mem_zeroing_setDramStack (s : State) (i : Nat) (v : Stack) : (s.setDramStack i v).mem.zeroing = s.mem.zeroing := rfl
@[simp] theorem State.mem_passHours_setDramStack (s : State) (i : Nat) (v : Stack) : (s.setDramStack i v).mem.passHours = s.mem.passHours := rfl
@[simp] theorem State.mem_scrubNext_setDramStack (s : State) (i : Nat) (v : Stack) : (s.setDramStack i v).mem.scrubNext = s.mem.scrubNext := rfl
@[simp] theorem State.mem_pageCe_setDramStack (s : State) (i : Nat) (v : Stack) : (s.setDramStack i v).mem.pageCe = s.mem.pageCe := rfl
@[simp] theorem State.mem_carr_setDramStack (s : State) (i : Nat) (v : Stack) : (s.setDramStack i v).mem.carr = s.mem.carr := rfl
@[simp] theorem State.mem_carrBad_setDramStack (s : State) (i : Nat) (v : Stack) : (s.setDramStack i v).mem.carrBad = s.mem.carrBad := rfl
@[simp] theorem State.mem_mapChanges_setDramStack (s : State) (i : Nat) (v : Stack) : (s.setDramStack i v).mem.mapChanges = s.mem.mapChanges := rfl
@[simp] theorem State.mem_pcieLink_setDramStack (s : State) (i : Nat) (v : Stack) : (s.setDramStack i v).mem.pcieLink = s.mem.pcieLink := rfl
@[simp] theorem State.mem_perstLow_setDramStack (s : State) (i : Nat) (v : Stack) : (s.setDramStack i v).mem.perstLow = s.mem.perstLow := rfl
@[simp] theorem State.mem_pcieCounters_setDramStack (s : State) (i : Nat) (v : Stack) : (s.setDramStack i v).mem.pcieCounters = s.mem.pcieCounters := rfl
@[simp] theorem State.mem_msix_setDramStack (s : State) (i : Nat) (v : Stack) : (s.setDramStack i v).mem.msix = s.mem.msix := rfl
@[simp] theorem State.mem_hostReads_setDramStack (s : State) (i : Nat) (v : Stack) : (s.setDramStack i v).mem.hostReads = s.mem.hostReads := rfl
@[simp] theorem State.mem_nextTag_setDramStack (s : State) (i : Nat) (v : Stack) : (s.setDramStack i v).mem.nextTag = s.mem.nextTag := rfl
@[simp] theorem State.mem_waiting_setDramStack (s : State) (i : Nat) (v : Stack) : (s.setDramStack i v).mem.waiting = s.mem.waiting := rfl
@[simp] theorem State.health_lock_setDomain (s : State) (i : Nat) (v : Domain) : (s.setDomain i v).health.lock = s.health.lock := rfl
@[simp] theorem State.health_refOk_setDomain (s : State) (i : Nat) (v : Domain) : (s.setDomain i v).health.refOk = s.health.refOk := rfl
@[simp] theorem State.health_backup_setDomain (s : State) (i : Nat) (v : Domain) : (s.setDomain i v).health.backup = s.health.backup := rfl
@[simp] theorem State.health_voltageConfig_setDomain (s : State) (i : Nat) (v : Domain) : (s.setDomain i v).health.voltageConfig = s.health.voltageConfig := rfl
@[simp] theorem State.health_targetMv_setDomain (s : State) (i : Nat) (v : Domain) : (s.setDomain i v).health.targetMv = s.health.targetMv := rfl
@[simp] theorem State.health_readbackMv_setDomain (s : State) (i : Nat) (v : Domain) : (s.setDomain i v).health.readbackMv = s.health.readbackMv := rfl
@[simp] theorem State.health_senseMv_setDomain (s : State) (i : Nat) (v : Domain) : (s.setDomain i v).health.senseMv = s.health.senseMv := rfl
@[simp] theorem State.health_avsFault_setDomain (s : State) (i : Nat) (v : Domain) : (s.setDomain i v).health.avsFault = s.health.avsFault := rfl
@[simp] theorem State.health_avsFails_setDomain (s : State) (i : Nat) (v : Domain) : (s.setDomain i v).health.avsFails = s.health.avsFails := rfl
@[simp] theorem State.health_thermalConfig_setDomain (s : State) (i : Nat) (v : Domain) : (s.setDomain i v).health.thermalConfig = s.health.thermalConfig := rfl
@[simp] theorem State.health_powerConfig_setDomain (s : State) (i : Nat) (v : Domain) : (s.setDomain i v).health.powerConfig = s.health.powerConfig := rfl
@[simp] theorem State.health_powerConfigWait_setDomain (s : State) (i : Nat) (v : Domain) : (s.setDomain i v).health.powerConfigWait = s.health.powerConfigWait := rfl
@[simp] theorem State.health_clockCounters_setDomain (s : State) (i : Nat) (v : Domain) : (s.setDomain i v).health.clockCounters = s.health.clockCounters := rfl
@[simp] theorem State.health_calConfig_setDomain (s : State) (i : Nat) (v : Domain) : (s.setDomain i v).health.calConfig = s.health.calConfig := rfl
@[simp] theorem State.health_lanes_setDomain (s : State) (i : Nat) (v : Domain) : (s.setDomain i v).health.lanes = s.health.lanes := rfl
@[simp] theorem State.health_laneRuns_setDomain (s : State) (i : Nat) (v : Domain) : (s.setDomain i v).health.laneRuns = s.health.laneRuns := rfl
@[simp] theorem State.health_calCommands_setDomain (s : State) (i : Nat) (v : Domain) : (s.setDomain i v).health.calCommands = s.health.calCommands := rfl
@[simp] theorem State.health_ageConfig_setDomain (s : State) (i : Nat) (v : Domain) : (s.setDomain i v).health.ageConfig = s.health.ageConfig := rfl
@[simp] theorem State.health_locations_setDomain (s : State) (i : Nat) (v : Domain) : (s.setDomain i v).health.locations = s.health.locations := rfl
@[simp] theorem State.health_hours_setDomain (s : State) (i : Nat) (v : Domain) : (s.setDomain i v).health.hours = s.health.hours := rfl
@[simp] theorem State.health_lock_setLocation (s : State) (i : Nat) (v : Location) : (s.setLocation i v).health.lock = s.health.lock := rfl
@[simp] theorem State.health_refOk_setLocation (s : State) (i : Nat) (v : Location) : (s.setLocation i v).health.refOk = s.health.refOk := rfl
@[simp] theorem State.health_backup_setLocation (s : State) (i : Nat) (v : Location) : (s.setLocation i v).health.backup = s.health.backup := rfl
@[simp] theorem State.health_voltageConfig_setLocation (s : State) (i : Nat) (v : Location) : (s.setLocation i v).health.voltageConfig = s.health.voltageConfig := rfl
@[simp] theorem State.health_targetMv_setLocation (s : State) (i : Nat) (v : Location) : (s.setLocation i v).health.targetMv = s.health.targetMv := rfl
@[simp] theorem State.health_readbackMv_setLocation (s : State) (i : Nat) (v : Location) : (s.setLocation i v).health.readbackMv = s.health.readbackMv := rfl
@[simp] theorem State.health_senseMv_setLocation (s : State) (i : Nat) (v : Location) : (s.setLocation i v).health.senseMv = s.health.senseMv := rfl
@[simp] theorem State.health_avsFault_setLocation (s : State) (i : Nat) (v : Location) : (s.setLocation i v).health.avsFault = s.health.avsFault := rfl
@[simp] theorem State.health_avsFails_setLocation (s : State) (i : Nat) (v : Location) : (s.setLocation i v).health.avsFails = s.health.avsFails := rfl
@[simp] theorem State.health_thermalConfig_setLocation (s : State) (i : Nat) (v : Location) : (s.setLocation i v).health.thermalConfig = s.health.thermalConfig := rfl
@[simp] theorem State.health_domains_setLocation (s : State) (i : Nat) (v : Location) : (s.setLocation i v).health.domains = s.health.domains := rfl
@[simp] theorem State.health_powerConfig_setLocation (s : State) (i : Nat) (v : Location) : (s.setLocation i v).health.powerConfig = s.health.powerConfig := rfl
@[simp] theorem State.health_powerConfigWait_setLocation (s : State) (i : Nat) (v : Location) : (s.setLocation i v).health.powerConfigWait = s.health.powerConfigWait := rfl
@[simp] theorem State.health_clockCounters_setLocation (s : State) (i : Nat) (v : Location) : (s.setLocation i v).health.clockCounters = s.health.clockCounters := rfl
@[simp] theorem State.health_calConfig_setLocation (s : State) (i : Nat) (v : Location) : (s.setLocation i v).health.calConfig = s.health.calConfig := rfl
@[simp] theorem State.health_lanes_setLocation (s : State) (i : Nat) (v : Location) : (s.setLocation i v).health.lanes = s.health.lanes := rfl
@[simp] theorem State.health_laneRuns_setLocation (s : State) (i : Nat) (v : Location) : (s.setLocation i v).health.laneRuns = s.health.laneRuns := rfl
@[simp] theorem State.health_calCommands_setLocation (s : State) (i : Nat) (v : Location) : (s.setLocation i v).health.calCommands = s.health.calCommands := rfl
@[simp] theorem State.health_ageConfig_setLocation (s : State) (i : Nat) (v : Location) : (s.setLocation i v).health.ageConfig = s.health.ageConfig := rfl
@[simp] theorem State.health_hours_setLocation (s : State) (i : Nat) (v : Location) : (s.setLocation i v).health.hours = s.health.hours := rfl
@[simp] theorem State.fovar_config_setFovarPort (s : State) (i : Nat) (v : FovarPort) : (s.setFovarPort i v).fovar.config = s.fovar.config := rfl
@[simp] theorem State.fovar_configWait_setFovarPort (s : State) (i : Nat) (v : FovarPort) : (s.setFovarPort i v).fovar.configWait = s.fovar.configWait := rfl
@[simp] theorem State.fovar_windows_setFovarPort (s : State) (i : Nat) (v : FovarPort) : (s.setFovarPort i v).fovar.windows = s.fovar.windows := rfl
@[simp] theorem State.fovar_counters_setFovarPort (s : State) (i : Nat) (v : FovarPort) : (s.setFovarPort i v).fovar.counters = s.fovar.counters := rfl
@[simp] theorem State.fovar_sent_setFovarPort (s : State) (i : Nat) (v : FovarPort) : (s.setFovarPort i v).fovar.sent = s.fovar.sent := rfl
@[simp] theorem State.fovar_e2eTx_setFovarPort (s : State) (i : Nat) (v : FovarPort) : (s.setFovarPort i v).fovar.e2eTx = s.fovar.e2eTx := rfl
@[simp] theorem State.fovar_e2eRx_setFovarPort (s : State) (i : Nat) (v : FovarPort) : (s.setFovarPort i v).fovar.e2eRx = s.fovar.e2eRx := rfl
@[simp] theorem State.fovar_slots_setFovarPort (s : State) (i : Nat) (v : FovarPort) : (s.setFovarPort i v).fovar.slots = s.fovar.slots := rfl
@[simp] theorem State.fovar_joins_setFovarPort (s : State) (i : Nat) (v : FovarPort) : (s.setFovarPort i v).fovar.joins = s.fovar.joins := rfl
@[simp] theorem State.fovar_ahead_setFovarPort (s : State) (i : Nat) (v : FovarPort) : (s.setFovarPort i v).fovar.ahead = s.fovar.ahead := rfl
@[simp] theorem State.fovar_closeAcks_setFovarPort (s : State) (i : Nat) (v : FovarPort) : (s.setFovarPort i v).fovar.closeAcks = s.fovar.closeAcks := rfl
@[simp] theorem State.fovar_config_setWindow (s : State) (i : Nat) (v : Window) : (s.setWindow i v).fovar.config = s.fovar.config := rfl
@[simp] theorem State.fovar_configWait_setWindow (s : State) (i : Nat) (v : Window) : (s.setWindow i v).fovar.configWait = s.fovar.configWait := rfl
@[simp] theorem State.fovar_ports_setWindow (s : State) (i : Nat) (v : Window) : (s.setWindow i v).fovar.ports = s.fovar.ports := rfl
@[simp] theorem State.fovar_counters_setWindow (s : State) (i : Nat) (v : Window) : (s.setWindow i v).fovar.counters = s.fovar.counters := rfl
@[simp] theorem State.fovar_sent_setWindow (s : State) (i : Nat) (v : Window) : (s.setWindow i v).fovar.sent = s.fovar.sent := rfl
@[simp] theorem State.fovar_e2eTx_setWindow (s : State) (i : Nat) (v : Window) : (s.setWindow i v).fovar.e2eTx = s.fovar.e2eTx := rfl
@[simp] theorem State.fovar_e2eRx_setWindow (s : State) (i : Nat) (v : Window) : (s.setWindow i v).fovar.e2eRx = s.fovar.e2eRx := rfl
@[simp] theorem State.fovar_slots_setWindow (s : State) (i : Nat) (v : Window) : (s.setWindow i v).fovar.slots = s.fovar.slots := rfl
@[simp] theorem State.fovar_joins_setWindow (s : State) (i : Nat) (v : Window) : (s.setWindow i v).fovar.joins = s.fovar.joins := rfl
@[simp] theorem State.fovar_ahead_setWindow (s : State) (i : Nat) (v : Window) : (s.setWindow i v).fovar.ahead = s.fovar.ahead := rfl
@[simp] theorem State.fovar_closeAcks_setWindow (s : State) (i : Nat) (v : Window) : (s.setWindow i v).fovar.closeAcks = s.fovar.closeAcks := rfl
@[simp] theorem State.fovar_config_setCollSlot (s : State) (i : Nat) (v : Option Collective) : (s.setCollSlot i v).fovar.config = s.fovar.config := rfl
@[simp] theorem State.fovar_configWait_setCollSlot (s : State) (i : Nat) (v : Option Collective) : (s.setCollSlot i v).fovar.configWait = s.fovar.configWait := rfl
@[simp] theorem State.fovar_ports_setCollSlot (s : State) (i : Nat) (v : Option Collective) : (s.setCollSlot i v).fovar.ports = s.fovar.ports := rfl
@[simp] theorem State.fovar_windows_setCollSlot (s : State) (i : Nat) (v : Option Collective) : (s.setCollSlot i v).fovar.windows = s.fovar.windows := rfl
@[simp] theorem State.fovar_counters_setCollSlot (s : State) (i : Nat) (v : Option Collective) : (s.setCollSlot i v).fovar.counters = s.fovar.counters := rfl
@[simp] theorem State.fovar_sent_setCollSlot (s : State) (i : Nat) (v : Option Collective) : (s.setCollSlot i v).fovar.sent = s.fovar.sent := rfl
@[simp] theorem State.fovar_e2eTx_setCollSlot (s : State) (i : Nat) (v : Option Collective) : (s.setCollSlot i v).fovar.e2eTx = s.fovar.e2eTx := rfl
@[simp] theorem State.fovar_e2eRx_setCollSlot (s : State) (i : Nat) (v : Option Collective) : (s.setCollSlot i v).fovar.e2eRx = s.fovar.e2eRx := rfl
@[simp] theorem State.fovar_joins_setCollSlot (s : State) (i : Nat) (v : Option Collective) : (s.setCollSlot i v).fovar.joins = s.fovar.joins := rfl
@[simp] theorem State.fovar_ahead_setCollSlot (s : State) (i : Nat) (v : Option Collective) : (s.setCollSlot i v).fovar.ahead = s.fovar.ahead := rfl
@[simp] theorem State.fovar_closeAcks_setCollSlot (s : State) (i : Nat) (v : Option Collective) : (s.setCollSlot i v).fovar.closeAcks = s.fovar.closeAcks := rfl
@[simp] theorem State.fw_otp_setFwSlot (s : State) (i : Nat) (v : Slot) : (s.setFwSlot i v).fw.otp = s.fw.otp := rfl
@[simp] theorem State.fw_bootRecords_setFwSlot (s : State) (i : Nat) (v : Slot) : (s.setFwSlot i v).fw.bootRecords = s.fw.bootRecords := rfl
@[simp] theorem State.fw_netBlocks_setFwSlot (s : State) (i : Nat) (v : Slot) : (s.setFwSlot i v).fw.netBlocks = s.fw.netBlocks := rfl
@[simp] theorem State.fw_certificate_setFwSlot (s : State) (i : Nat) (v : Slot) : (s.setFwSlot i v).fw.certificate = s.fw.certificate := rfl
@[simp] theorem State.fw_ageArea_setFwSlot (s : State) (i : Nat) (v : Slot) : (s.setFwSlot i v).fw.ageArea = s.fw.ageArea := rfl
@[simp] theorem State.fw_bootCount_setFwSlot (s : State) (i : Nat) (v : Slot) : (s.setFwSlot i v).fw.bootCount = s.fw.bootCount := rfl
@[simp] theorem State.fw_banks_setFwSlot (s : State) (i : Nat) (v : Slot) : (s.setFwSlot i v).fw.banks = s.fw.banks := rfl
@[simp] theorem State.fw_activeBank_setFwSlot (s : State) (i : Nat) (v : Slot) : (s.setFwSlot i v).fw.activeBank = s.fw.activeBank := rfl
@[simp] theorem State.fw_bootRefusal_setFwSlot (s : State) (i : Nat) (v : Slot) : (s.setFwSlot i v).fw.bootRefusal = s.fw.bootRefusal := rfl
@[simp] theorem State.fw_readyMs_setFwSlot (s : State) (i : Nat) (v : Slot) : (s.setFwSlot i v).fw.readyMs = s.fw.readyMs := rfl
@[simp] theorem State.fw_netSettings_setFwSlot (s : State) (i : Nat) (v : Slot) : (s.setFwSlot i v).fw.netSettings = s.fw.netSettings := rfl
@[simp] theorem State.fw_source_setFwSlot (s : State) (i : Nat) (v : Slot) : (s.setFwSlot i v).fw.source = s.fw.source := rfl
@[simp] theorem State.fw_fallback_setFwSlot (s : State) (i : Nat) (v : Slot) : (s.setFwSlot i v).fw.fallback = s.fw.fallback := rfl
@[simp] theorem State.fw_load_setFwSlot (s : State) (i : Nat) (v : Slot) : (s.setFwSlot i v).fw.load = s.fw.load := rfl
@[simp] theorem State.fw_activate_setFwSlot (s : State) (i : Nat) (v : Slot) : (s.setFwSlot i v).fw.activate = s.fw.activate := rfl
@[simp] theorem State.fw_attests_setFwSlot (s : State) (i : Nat) (v : Slot) : (s.setFwSlot i v).fw.attests = s.fw.attests := rfl
@[simp] theorem State.fw_netImage_setFwSlot (s : State) (i : Nat) (v : Slot) : (s.setFwSlot i v).fw.netImage = s.fw.netImage := rfl
@[simp] theorem State.fw_netLen_setFwSlot (s : State) (i : Nat) (v : Slot) : (s.setFwSlot i v).fw.netLen = s.fw.netLen := rfl
@[simp] theorem State.fw_netTicket_setFwSlot (s : State) (i : Nat) (v : Slot) : (s.setFwSlot i v).fw.netTicket = s.fw.netTicket := rfl
@[simp] theorem State.fw_refusals_setFwSlot (s : State) (i : Nat) (v : Slot) : (s.setFwSlot i v).fw.refusals = s.fw.refusals := rfl
@[simp] theorem State.fw_netInUse_setFwSlot (s : State) (i : Nat) (v : Slot) : (s.setFwSlot i v).fw.netInUse = s.fw.netInUse := rfl
@[simp] theorem State.fw_switchEnd_setFwSlot (s : State) (i : Nat) (v : Slot) : (s.setFwSlot i v).fw.switchEnd = s.fw.switchEnd := rfl
@[simp] theorem State.fw_otp_setBank (s : State) (i : Nat) (v : Option Bank) : (s.setBank i v).fw.otp = s.fw.otp := rfl
@[simp] theorem State.fw_slots_setBank (s : State) (i : Nat) (v : Option Bank) : (s.setBank i v).fw.slots = s.fw.slots := rfl
@[simp] theorem State.fw_bootRecords_setBank (s : State) (i : Nat) (v : Option Bank) : (s.setBank i v).fw.bootRecords = s.fw.bootRecords := rfl
@[simp] theorem State.fw_netBlocks_setBank (s : State) (i : Nat) (v : Option Bank) : (s.setBank i v).fw.netBlocks = s.fw.netBlocks := rfl
@[simp] theorem State.fw_certificate_setBank (s : State) (i : Nat) (v : Option Bank) : (s.setBank i v).fw.certificate = s.fw.certificate := rfl
@[simp] theorem State.fw_ageArea_setBank (s : State) (i : Nat) (v : Option Bank) : (s.setBank i v).fw.ageArea = s.fw.ageArea := rfl
@[simp] theorem State.fw_bootCount_setBank (s : State) (i : Nat) (v : Option Bank) : (s.setBank i v).fw.bootCount = s.fw.bootCount := rfl
@[simp] theorem State.fw_activeBank_setBank (s : State) (i : Nat) (v : Option Bank) : (s.setBank i v).fw.activeBank = s.fw.activeBank := rfl
@[simp] theorem State.fw_bootRefusal_setBank (s : State) (i : Nat) (v : Option Bank) : (s.setBank i v).fw.bootRefusal = s.fw.bootRefusal := rfl
@[simp] theorem State.fw_readyMs_setBank (s : State) (i : Nat) (v : Option Bank) : (s.setBank i v).fw.readyMs = s.fw.readyMs := rfl
@[simp] theorem State.fw_netSettings_setBank (s : State) (i : Nat) (v : Option Bank) : (s.setBank i v).fw.netSettings = s.fw.netSettings := rfl
@[simp] theorem State.fw_source_setBank (s : State) (i : Nat) (v : Option Bank) : (s.setBank i v).fw.source = s.fw.source := rfl
@[simp] theorem State.fw_fallback_setBank (s : State) (i : Nat) (v : Option Bank) : (s.setBank i v).fw.fallback = s.fw.fallback := rfl
@[simp] theorem State.fw_load_setBank (s : State) (i : Nat) (v : Option Bank) : (s.setBank i v).fw.load = s.fw.load := rfl
@[simp] theorem State.fw_activate_setBank (s : State) (i : Nat) (v : Option Bank) : (s.setBank i v).fw.activate = s.fw.activate := rfl
@[simp] theorem State.fw_attests_setBank (s : State) (i : Nat) (v : Option Bank) : (s.setBank i v).fw.attests = s.fw.attests := rfl
@[simp] theorem State.fw_netImage_setBank (s : State) (i : Nat) (v : Option Bank) : (s.setBank i v).fw.netImage = s.fw.netImage := rfl
@[simp] theorem State.fw_netLen_setBank (s : State) (i : Nat) (v : Option Bank) : (s.setBank i v).fw.netLen = s.fw.netLen := rfl
@[simp] theorem State.fw_netTicket_setBank (s : State) (i : Nat) (v : Option Bank) : (s.setBank i v).fw.netTicket = s.fw.netTicket := rfl
@[simp] theorem State.fw_refusals_setBank (s : State) (i : Nat) (v : Option Bank) : (s.setBank i v).fw.refusals = s.fw.refusals := rfl
@[simp] theorem State.fw_netInUse_setBank (s : State) (i : Nat) (v : Option Bank) : (s.setBank i v).fw.netInUse = s.fw.netInUse := rfl
@[simp] theorem State.fw_switchEnd_setBank (s : State) (i : Nat) (v : Option Bank) : (s.setBank i v).fw.switchEnd = s.fw.switchEnd := rfl

/-! ## Updates by a function -/

@[simp] theorem State.pipe_updPipe_same (s : State) (i : Nat) (f : Pipe → Pipe) : (s.updPipe i f).pipe i = f (s.pipe i) :=
  Tab.get_set_same ..
@[simp] theorem State.pipe_updPipe_other (s : State) (i : Nat) (f : Pipe → Pipe) (j : Nat) (h : j ≠ i) :
    (s.updPipe i f).pipe j = s.pipe j := Tab.get_set_other _ _ _ h
@[simp] theorem State.pending_updPipe (s : State) (i : Nat) (f : Pipe → Pipe) : (s.updPipe i f).pending = s.pending := rfl
@[simp] theorem State.out_updPipe (s : State) (i : Nat) (f : Pipe → Pipe) : (s.updPipe i f).out = s.out := rfl
@[simp] theorem State.fresh_updPipe (s : State) (i : Nat) (f : Pipe → Pipe) : (s.updPipe i f).fresh = s.fresh := rfl
@[simp] theorem State.phase_updPipe (s : State) (i : Nat) (f : Pipe → Pipe) : (s.updPipe i f).phase = s.phase := rfl
@[simp] theorem State.time_updPipe (s : State) (i : Nat) (f : Pipe → Pipe) : (s.updPipe i f).time = s.time := rfl
@[simp] theorem State.straps_updPipe (s : State) (i : Nat) (f : Pipe → Pipe) : (s.updPipe i f).straps = s.straps := rfl
@[simp] theorem State.base_updPipe (s : State) (i : Nat) (f : Pipe → Pipe) : (s.updPipe i f).base = s.base := rfl
@[simp] theorem State.session_updPipe (s : State) (i : Nat) (f : Pipe → Pipe) : (s.updPipe i f).session = s.session := rfl
@[simp] theorem State.eth_updPipe (s : State) (i : Nat) (f : Pipe → Pipe) : (s.updPipe i f).eth = s.eth := rfl
@[simp] theorem State.resync_updPipe (s : State) (i : Nat) (f : Pipe → Pipe) : (s.updPipe i f).resync = s.resync := rfl
@[simp] theorem State.ports_updPipe (s : State) (i : Nat) (f : Pipe → Pipe) : (s.updPipe i f).ports = s.ports := rfl
@[simp] theorem State.herons_updPipe (s : State) (i : Nat) (f : Pipe → Pipe) : (s.updPipe i f).herons = s.herons := rfl
@[simp] theorem State.blocks_updPipe (s : State) (i : Nat) (f : Pipe → Pipe) : (s.updPipe i f).blocks = s.blocks := rfl
@[simp] theorem State.regions_updPipe (s : State) (i : Nat) (f : Pipe → Pipe) : (s.updPipe i f).regions = s.regions := rfl
@[simp] theorem State.channels_updPipe (s : State) (i : Nat) (f : Pipe → Pipe) : (s.updPipe i f).channels = s.channels := rfl
@[simp] theorem State.spad_updPipe (s : State) (i : Nat) (f : Pipe → Pipe) : (s.updPipe i f).spad = s.spad := rfl
@[simp] theorem State.spadPoison_updPipe (s : State) (i : Nat) (f : Pipe → Pipe) : (s.updPipe i f).spadPoison = s.spadPoison := rfl
@[simp] theorem State.pool_updPipe (s : State) (i : Nat) (f : Pipe → Pipe) : (s.updPipe i f).pool = s.pool := rfl
@[simp] theorem State.poolPoison_updPipe (s : State) (i : Nat) (f : Pipe → Pipe) : (s.updPipe i f).poolPoison = s.poolPoison := rfl
@[simp] theorem State.flushes_updPipe (s : State) (i : Nat) (f : Pipe → Pipe) : (s.updPipe i f).flushes = s.flushes := rfl
@[simp] theorem State.jobCollision_updPipe (s : State) (i : Nat) (f : Pipe → Pipe) : (s.updPipe i f).jobCollision = s.jobCollision := rfl
@[simp] theorem State.sluiceConfig_updPipe (s : State) (i : Nat) (f : Pipe → Pipe) : (s.updPipe i f).sluiceConfig = s.sluiceConfig := rfl
@[simp] theorem State.watchdogWas_updPipe (s : State) (i : Nat) (f : Pipe → Pipe) : (s.updPipe i f).watchdogWas = s.watchdogWas := rfl
@[simp] theorem State.mem_updPipe (s : State) (i : Nat) (f : Pipe → Pipe) : (s.updPipe i f).mem = s.mem := rfl
@[simp] theorem State.mappings_updPipe (s : State) (i : Nat) (f : Pipe → Pipe) : (s.updPipe i f).mappings = s.mappings := rfl
@[simp] theorem State.loads_updPipe (s : State) (i : Nat) (f : Pipe → Pipe) : (s.updPipe i f).loads = s.loads := rfl
@[simp] theorem State.placings_updPipe (s : State) (i : Nat) (f : Pipe → Pipe) : (s.updPipe i f).placings = s.placings := rfl
@[simp] theorem State.jobs_updPipe (s : State) (i : Nat) (f : Pipe → Pipe) : (s.updPipe i f).jobs = s.jobs := rfl
@[simp] theorem State.nextJob_updPipe (s : State) (i : Nat) (f : Pipe → Pipe) : (s.updPipe i f).nextJob = s.nextJob := rfl
@[simp] theorem State.faults_updPipe (s : State) (i : Nat) (f : Pipe → Pipe) : (s.updPipe i f).faults = s.faults := rfl
@[simp] theorem State.health_updPipe (s : State) (i : Nat) (f : Pipe → Pipe) : (s.updPipe i f).health = s.health := rfl
@[simp] theorem State.fovar_updPipe (s : State) (i : Nat) (f : Pipe → Pipe) : (s.updPipe i f).fovar = s.fovar := rfl
@[simp] theorem State.fw_updPipe (s : State) (i : Nat) (f : Pipe → Pipe) : (s.updPipe i f).fw = s.fw := rfl
@[simp] theorem State.port_updPort_same (s : State) (i : Nat) (f : Port → Port) : (s.updPort i f).port i = f (s.port i) :=
  Tab.get_set_same ..
@[simp] theorem State.port_updPort_other (s : State) (i : Nat) (f : Port → Port) (j : Nat) (h : j ≠ i) :
    (s.updPort i f).port j = s.port j := Tab.get_set_other _ _ _ h
@[simp] theorem State.pending_updPort (s : State) (i : Nat) (f : Port → Port) : (s.updPort i f).pending = s.pending := rfl
@[simp] theorem State.out_updPort (s : State) (i : Nat) (f : Port → Port) : (s.updPort i f).out = s.out := rfl
@[simp] theorem State.fresh_updPort (s : State) (i : Nat) (f : Port → Port) : (s.updPort i f).fresh = s.fresh := rfl
@[simp] theorem State.phase_updPort (s : State) (i : Nat) (f : Port → Port) : (s.updPort i f).phase = s.phase := rfl
@[simp] theorem State.time_updPort (s : State) (i : Nat) (f : Port → Port) : (s.updPort i f).time = s.time := rfl
@[simp] theorem State.straps_updPort (s : State) (i : Nat) (f : Port → Port) : (s.updPort i f).straps = s.straps := rfl
@[simp] theorem State.base_updPort (s : State) (i : Nat) (f : Port → Port) : (s.updPort i f).base = s.base := rfl
@[simp] theorem State.session_updPort (s : State) (i : Nat) (f : Port → Port) : (s.updPort i f).session = s.session := rfl
@[simp] theorem State.eth_updPort (s : State) (i : Nat) (f : Port → Port) : (s.updPort i f).eth = s.eth := rfl
@[simp] theorem State.resync_updPort (s : State) (i : Nat) (f : Port → Port) : (s.updPort i f).resync = s.resync := rfl
@[simp] theorem State.pipes_updPort (s : State) (i : Nat) (f : Port → Port) : (s.updPort i f).pipes = s.pipes := rfl
@[simp] theorem State.herons_updPort (s : State) (i : Nat) (f : Port → Port) : (s.updPort i f).herons = s.herons := rfl
@[simp] theorem State.blocks_updPort (s : State) (i : Nat) (f : Port → Port) : (s.updPort i f).blocks = s.blocks := rfl
@[simp] theorem State.regions_updPort (s : State) (i : Nat) (f : Port → Port) : (s.updPort i f).regions = s.regions := rfl
@[simp] theorem State.channels_updPort (s : State) (i : Nat) (f : Port → Port) : (s.updPort i f).channels = s.channels := rfl
@[simp] theorem State.spad_updPort (s : State) (i : Nat) (f : Port → Port) : (s.updPort i f).spad = s.spad := rfl
@[simp] theorem State.spadPoison_updPort (s : State) (i : Nat) (f : Port → Port) : (s.updPort i f).spadPoison = s.spadPoison := rfl
@[simp] theorem State.pool_updPort (s : State) (i : Nat) (f : Port → Port) : (s.updPort i f).pool = s.pool := rfl
@[simp] theorem State.poolPoison_updPort (s : State) (i : Nat) (f : Port → Port) : (s.updPort i f).poolPoison = s.poolPoison := rfl
@[simp] theorem State.flushes_updPort (s : State) (i : Nat) (f : Port → Port) : (s.updPort i f).flushes = s.flushes := rfl
@[simp] theorem State.jobCollision_updPort (s : State) (i : Nat) (f : Port → Port) : (s.updPort i f).jobCollision = s.jobCollision := rfl
@[simp] theorem State.sluiceConfig_updPort (s : State) (i : Nat) (f : Port → Port) : (s.updPort i f).sluiceConfig = s.sluiceConfig := rfl
@[simp] theorem State.watchdogWas_updPort (s : State) (i : Nat) (f : Port → Port) : (s.updPort i f).watchdogWas = s.watchdogWas := rfl
@[simp] theorem State.mem_updPort (s : State) (i : Nat) (f : Port → Port) : (s.updPort i f).mem = s.mem := rfl
@[simp] theorem State.mappings_updPort (s : State) (i : Nat) (f : Port → Port) : (s.updPort i f).mappings = s.mappings := rfl
@[simp] theorem State.loads_updPort (s : State) (i : Nat) (f : Port → Port) : (s.updPort i f).loads = s.loads := rfl
@[simp] theorem State.placings_updPort (s : State) (i : Nat) (f : Port → Port) : (s.updPort i f).placings = s.placings := rfl
@[simp] theorem State.jobs_updPort (s : State) (i : Nat) (f : Port → Port) : (s.updPort i f).jobs = s.jobs := rfl
@[simp] theorem State.nextJob_updPort (s : State) (i : Nat) (f : Port → Port) : (s.updPort i f).nextJob = s.nextJob := rfl
@[simp] theorem State.faults_updPort (s : State) (i : Nat) (f : Port → Port) : (s.updPort i f).faults = s.faults := rfl
@[simp] theorem State.health_updPort (s : State) (i : Nat) (f : Port → Port) : (s.updPort i f).health = s.health := rfl
@[simp] theorem State.fovar_updPort (s : State) (i : Nat) (f : Port → Port) : (s.updPort i f).fovar = s.fovar := rfl
@[simp] theorem State.fw_updPort (s : State) (i : Nat) (f : Port → Port) : (s.updPort i f).fw = s.fw := rfl
@[simp] theorem State.block_updBlock_same (s : State) (i : Nat) (f : Block → Block) : (s.updBlock i f).block i = f (s.block i) :=
  Tab.get_set_same ..
@[simp] theorem State.block_updBlock_other (s : State) (i : Nat) (f : Block → Block) (j : Nat) (h : j ≠ i) :
    (s.updBlock i f).block j = s.block j := Tab.get_set_other _ _ _ h
@[simp] theorem State.pending_updBlock (s : State) (i : Nat) (f : Block → Block) : (s.updBlock i f).pending = s.pending := rfl
@[simp] theorem State.out_updBlock (s : State) (i : Nat) (f : Block → Block) : (s.updBlock i f).out = s.out := rfl
@[simp] theorem State.fresh_updBlock (s : State) (i : Nat) (f : Block → Block) : (s.updBlock i f).fresh = s.fresh := rfl
@[simp] theorem State.phase_updBlock (s : State) (i : Nat) (f : Block → Block) : (s.updBlock i f).phase = s.phase := rfl
@[simp] theorem State.time_updBlock (s : State) (i : Nat) (f : Block → Block) : (s.updBlock i f).time = s.time := rfl
@[simp] theorem State.straps_updBlock (s : State) (i : Nat) (f : Block → Block) : (s.updBlock i f).straps = s.straps := rfl
@[simp] theorem State.base_updBlock (s : State) (i : Nat) (f : Block → Block) : (s.updBlock i f).base = s.base := rfl
@[simp] theorem State.session_updBlock (s : State) (i : Nat) (f : Block → Block) : (s.updBlock i f).session = s.session := rfl
@[simp] theorem State.eth_updBlock (s : State) (i : Nat) (f : Block → Block) : (s.updBlock i f).eth = s.eth := rfl
@[simp] theorem State.resync_updBlock (s : State) (i : Nat) (f : Block → Block) : (s.updBlock i f).resync = s.resync := rfl
@[simp] theorem State.pipes_updBlock (s : State) (i : Nat) (f : Block → Block) : (s.updBlock i f).pipes = s.pipes := rfl
@[simp] theorem State.ports_updBlock (s : State) (i : Nat) (f : Block → Block) : (s.updBlock i f).ports = s.ports := rfl
@[simp] theorem State.herons_updBlock (s : State) (i : Nat) (f : Block → Block) : (s.updBlock i f).herons = s.herons := rfl
@[simp] theorem State.regions_updBlock (s : State) (i : Nat) (f : Block → Block) : (s.updBlock i f).regions = s.regions := rfl
@[simp] theorem State.channels_updBlock (s : State) (i : Nat) (f : Block → Block) : (s.updBlock i f).channels = s.channels := rfl
@[simp] theorem State.spad_updBlock (s : State) (i : Nat) (f : Block → Block) : (s.updBlock i f).spad = s.spad := rfl
@[simp] theorem State.spadPoison_updBlock (s : State) (i : Nat) (f : Block → Block) : (s.updBlock i f).spadPoison = s.spadPoison := rfl
@[simp] theorem State.pool_updBlock (s : State) (i : Nat) (f : Block → Block) : (s.updBlock i f).pool = s.pool := rfl
@[simp] theorem State.poolPoison_updBlock (s : State) (i : Nat) (f : Block → Block) : (s.updBlock i f).poolPoison = s.poolPoison := rfl
@[simp] theorem State.flushes_updBlock (s : State) (i : Nat) (f : Block → Block) : (s.updBlock i f).flushes = s.flushes := rfl
@[simp] theorem State.jobCollision_updBlock (s : State) (i : Nat) (f : Block → Block) : (s.updBlock i f).jobCollision = s.jobCollision := rfl
@[simp] theorem State.sluiceConfig_updBlock (s : State) (i : Nat) (f : Block → Block) : (s.updBlock i f).sluiceConfig = s.sluiceConfig := rfl
@[simp] theorem State.watchdogWas_updBlock (s : State) (i : Nat) (f : Block → Block) : (s.updBlock i f).watchdogWas = s.watchdogWas := rfl
@[simp] theorem State.mem_updBlock (s : State) (i : Nat) (f : Block → Block) : (s.updBlock i f).mem = s.mem := rfl
@[simp] theorem State.mappings_updBlock (s : State) (i : Nat) (f : Block → Block) : (s.updBlock i f).mappings = s.mappings := rfl
@[simp] theorem State.loads_updBlock (s : State) (i : Nat) (f : Block → Block) : (s.updBlock i f).loads = s.loads := rfl
@[simp] theorem State.placings_updBlock (s : State) (i : Nat) (f : Block → Block) : (s.updBlock i f).placings = s.placings := rfl
@[simp] theorem State.jobs_updBlock (s : State) (i : Nat) (f : Block → Block) : (s.updBlock i f).jobs = s.jobs := rfl
@[simp] theorem State.nextJob_updBlock (s : State) (i : Nat) (f : Block → Block) : (s.updBlock i f).nextJob = s.nextJob := rfl
@[simp] theorem State.faults_updBlock (s : State) (i : Nat) (f : Block → Block) : (s.updBlock i f).faults = s.faults := rfl
@[simp] theorem State.health_updBlock (s : State) (i : Nat) (f : Block → Block) : (s.updBlock i f).health = s.health := rfl
@[simp] theorem State.fovar_updBlock (s : State) (i : Nat) (f : Block → Block) : (s.updBlock i f).fovar = s.fovar := rfl
@[simp] theorem State.fw_updBlock (s : State) (i : Nat) (f : Block → Block) : (s.updBlock i f).fw = s.fw := rfl
@[simp] theorem State.region_updRegion_same (s : State) (i : Nat) (f : Region → Region) : (s.updRegion i f).region i = f (s.region i) :=
  Tab.get_set_same ..
@[simp] theorem State.region_updRegion_other (s : State) (i : Nat) (f : Region → Region) (j : Nat) (h : j ≠ i) :
    (s.updRegion i f).region j = s.region j := Tab.get_set_other _ _ _ h
@[simp] theorem State.pending_updRegion (s : State) (i : Nat) (f : Region → Region) : (s.updRegion i f).pending = s.pending := rfl
@[simp] theorem State.out_updRegion (s : State) (i : Nat) (f : Region → Region) : (s.updRegion i f).out = s.out := rfl
@[simp] theorem State.fresh_updRegion (s : State) (i : Nat) (f : Region → Region) : (s.updRegion i f).fresh = s.fresh := rfl
@[simp] theorem State.phase_updRegion (s : State) (i : Nat) (f : Region → Region) : (s.updRegion i f).phase = s.phase := rfl
@[simp] theorem State.time_updRegion (s : State) (i : Nat) (f : Region → Region) : (s.updRegion i f).time = s.time := rfl
@[simp] theorem State.straps_updRegion (s : State) (i : Nat) (f : Region → Region) : (s.updRegion i f).straps = s.straps := rfl
@[simp] theorem State.base_updRegion (s : State) (i : Nat) (f : Region → Region) : (s.updRegion i f).base = s.base := rfl
@[simp] theorem State.session_updRegion (s : State) (i : Nat) (f : Region → Region) : (s.updRegion i f).session = s.session := rfl
@[simp] theorem State.eth_updRegion (s : State) (i : Nat) (f : Region → Region) : (s.updRegion i f).eth = s.eth := rfl
@[simp] theorem State.resync_updRegion (s : State) (i : Nat) (f : Region → Region) : (s.updRegion i f).resync = s.resync := rfl
@[simp] theorem State.pipes_updRegion (s : State) (i : Nat) (f : Region → Region) : (s.updRegion i f).pipes = s.pipes := rfl
@[simp] theorem State.ports_updRegion (s : State) (i : Nat) (f : Region → Region) : (s.updRegion i f).ports = s.ports := rfl
@[simp] theorem State.herons_updRegion (s : State) (i : Nat) (f : Region → Region) : (s.updRegion i f).herons = s.herons := rfl
@[simp] theorem State.blocks_updRegion (s : State) (i : Nat) (f : Region → Region) : (s.updRegion i f).blocks = s.blocks := rfl
@[simp] theorem State.channels_updRegion (s : State) (i : Nat) (f : Region → Region) : (s.updRegion i f).channels = s.channels := rfl
@[simp] theorem State.spad_updRegion (s : State) (i : Nat) (f : Region → Region) : (s.updRegion i f).spad = s.spad := rfl
@[simp] theorem State.spadPoison_updRegion (s : State) (i : Nat) (f : Region → Region) : (s.updRegion i f).spadPoison = s.spadPoison := rfl
@[simp] theorem State.pool_updRegion (s : State) (i : Nat) (f : Region → Region) : (s.updRegion i f).pool = s.pool := rfl
@[simp] theorem State.poolPoison_updRegion (s : State) (i : Nat) (f : Region → Region) : (s.updRegion i f).poolPoison = s.poolPoison := rfl
@[simp] theorem State.flushes_updRegion (s : State) (i : Nat) (f : Region → Region) : (s.updRegion i f).flushes = s.flushes := rfl
@[simp] theorem State.jobCollision_updRegion (s : State) (i : Nat) (f : Region → Region) : (s.updRegion i f).jobCollision = s.jobCollision := rfl
@[simp] theorem State.sluiceConfig_updRegion (s : State) (i : Nat) (f : Region → Region) : (s.updRegion i f).sluiceConfig = s.sluiceConfig := rfl
@[simp] theorem State.watchdogWas_updRegion (s : State) (i : Nat) (f : Region → Region) : (s.updRegion i f).watchdogWas = s.watchdogWas := rfl
@[simp] theorem State.mem_updRegion (s : State) (i : Nat) (f : Region → Region) : (s.updRegion i f).mem = s.mem := rfl
@[simp] theorem State.mappings_updRegion (s : State) (i : Nat) (f : Region → Region) : (s.updRegion i f).mappings = s.mappings := rfl
@[simp] theorem State.loads_updRegion (s : State) (i : Nat) (f : Region → Region) : (s.updRegion i f).loads = s.loads := rfl
@[simp] theorem State.placings_updRegion (s : State) (i : Nat) (f : Region → Region) : (s.updRegion i f).placings = s.placings := rfl
@[simp] theorem State.jobs_updRegion (s : State) (i : Nat) (f : Region → Region) : (s.updRegion i f).jobs = s.jobs := rfl
@[simp] theorem State.nextJob_updRegion (s : State) (i : Nat) (f : Region → Region) : (s.updRegion i f).nextJob = s.nextJob := rfl
@[simp] theorem State.faults_updRegion (s : State) (i : Nat) (f : Region → Region) : (s.updRegion i f).faults = s.faults := rfl
@[simp] theorem State.health_updRegion (s : State) (i : Nat) (f : Region → Region) : (s.updRegion i f).health = s.health := rfl
@[simp] theorem State.fovar_updRegion (s : State) (i : Nat) (f : Region → Region) : (s.updRegion i f).fovar = s.fovar := rfl
@[simp] theorem State.fw_updRegion (s : State) (i : Nat) (f : Region → Region) : (s.updRegion i f).fw = s.fw := rfl
@[simp] theorem State.channel_updChannel_same (s : State) (i : Nat) (f : Channel → Channel) : (s.updChannel i f).channel i = f (s.channel i) :=
  Tab.get_set_same ..
@[simp] theorem State.channel_updChannel_other (s : State) (i : Nat) (f : Channel → Channel) (j : Nat) (h : j ≠ i) :
    (s.updChannel i f).channel j = s.channel j := Tab.get_set_other _ _ _ h
@[simp] theorem State.pending_updChannel (s : State) (i : Nat) (f : Channel → Channel) : (s.updChannel i f).pending = s.pending := rfl
@[simp] theorem State.out_updChannel (s : State) (i : Nat) (f : Channel → Channel) : (s.updChannel i f).out = s.out := rfl
@[simp] theorem State.fresh_updChannel (s : State) (i : Nat) (f : Channel → Channel) : (s.updChannel i f).fresh = s.fresh := rfl
@[simp] theorem State.phase_updChannel (s : State) (i : Nat) (f : Channel → Channel) : (s.updChannel i f).phase = s.phase := rfl
@[simp] theorem State.time_updChannel (s : State) (i : Nat) (f : Channel → Channel) : (s.updChannel i f).time = s.time := rfl
@[simp] theorem State.straps_updChannel (s : State) (i : Nat) (f : Channel → Channel) : (s.updChannel i f).straps = s.straps := rfl
@[simp] theorem State.base_updChannel (s : State) (i : Nat) (f : Channel → Channel) : (s.updChannel i f).base = s.base := rfl
@[simp] theorem State.session_updChannel (s : State) (i : Nat) (f : Channel → Channel) : (s.updChannel i f).session = s.session := rfl
@[simp] theorem State.eth_updChannel (s : State) (i : Nat) (f : Channel → Channel) : (s.updChannel i f).eth = s.eth := rfl
@[simp] theorem State.resync_updChannel (s : State) (i : Nat) (f : Channel → Channel) : (s.updChannel i f).resync = s.resync := rfl
@[simp] theorem State.pipes_updChannel (s : State) (i : Nat) (f : Channel → Channel) : (s.updChannel i f).pipes = s.pipes := rfl
@[simp] theorem State.ports_updChannel (s : State) (i : Nat) (f : Channel → Channel) : (s.updChannel i f).ports = s.ports := rfl
@[simp] theorem State.herons_updChannel (s : State) (i : Nat) (f : Channel → Channel) : (s.updChannel i f).herons = s.herons := rfl
@[simp] theorem State.blocks_updChannel (s : State) (i : Nat) (f : Channel → Channel) : (s.updChannel i f).blocks = s.blocks := rfl
@[simp] theorem State.regions_updChannel (s : State) (i : Nat) (f : Channel → Channel) : (s.updChannel i f).regions = s.regions := rfl
@[simp] theorem State.spad_updChannel (s : State) (i : Nat) (f : Channel → Channel) : (s.updChannel i f).spad = s.spad := rfl
@[simp] theorem State.spadPoison_updChannel (s : State) (i : Nat) (f : Channel → Channel) : (s.updChannel i f).spadPoison = s.spadPoison := rfl
@[simp] theorem State.pool_updChannel (s : State) (i : Nat) (f : Channel → Channel) : (s.updChannel i f).pool = s.pool := rfl
@[simp] theorem State.poolPoison_updChannel (s : State) (i : Nat) (f : Channel → Channel) : (s.updChannel i f).poolPoison = s.poolPoison := rfl
@[simp] theorem State.flushes_updChannel (s : State) (i : Nat) (f : Channel → Channel) : (s.updChannel i f).flushes = s.flushes := rfl
@[simp] theorem State.jobCollision_updChannel (s : State) (i : Nat) (f : Channel → Channel) : (s.updChannel i f).jobCollision = s.jobCollision := rfl
@[simp] theorem State.sluiceConfig_updChannel (s : State) (i : Nat) (f : Channel → Channel) : (s.updChannel i f).sluiceConfig = s.sluiceConfig := rfl
@[simp] theorem State.watchdogWas_updChannel (s : State) (i : Nat) (f : Channel → Channel) : (s.updChannel i f).watchdogWas = s.watchdogWas := rfl
@[simp] theorem State.mem_updChannel (s : State) (i : Nat) (f : Channel → Channel) : (s.updChannel i f).mem = s.mem := rfl
@[simp] theorem State.mappings_updChannel (s : State) (i : Nat) (f : Channel → Channel) : (s.updChannel i f).mappings = s.mappings := rfl
@[simp] theorem State.loads_updChannel (s : State) (i : Nat) (f : Channel → Channel) : (s.updChannel i f).loads = s.loads := rfl
@[simp] theorem State.placings_updChannel (s : State) (i : Nat) (f : Channel → Channel) : (s.updChannel i f).placings = s.placings := rfl
@[simp] theorem State.jobs_updChannel (s : State) (i : Nat) (f : Channel → Channel) : (s.updChannel i f).jobs = s.jobs := rfl
@[simp] theorem State.nextJob_updChannel (s : State) (i : Nat) (f : Channel → Channel) : (s.updChannel i f).nextJob = s.nextJob := rfl
@[simp] theorem State.faults_updChannel (s : State) (i : Nat) (f : Channel → Channel) : (s.updChannel i f).faults = s.faults := rfl
@[simp] theorem State.health_updChannel (s : State) (i : Nat) (f : Channel → Channel) : (s.updChannel i f).health = s.health := rfl
@[simp] theorem State.fovar_updChannel (s : State) (i : Nat) (f : Channel → Channel) : (s.updChannel i f).fovar = s.fovar := rfl
@[simp] theorem State.fw_updChannel (s : State) (i : Nat) (f : Channel → Channel) : (s.updChannel i f).fw = s.fw := rfl

/-! ## Time and interfaces -/

@[simp] theorem State.pending_begin (s : State) (t : Time) : (s.begin t).pending = s.pending := rfl
@[simp] theorem State.phase_begin (s : State) (t : Time) : (s.begin t).phase = s.phase := rfl
@[simp] theorem State.straps_begin (s : State) (t : Time) : (s.begin t).straps = s.straps := rfl
@[simp] theorem State.base_begin (s : State) (t : Time) : (s.begin t).base = s.base := rfl
@[simp] theorem State.session_begin (s : State) (t : Time) : (s.begin t).session = s.session := rfl
@[simp] theorem State.eth_begin (s : State) (t : Time) : (s.begin t).eth = s.eth := rfl
@[simp] theorem State.resync_begin (s : State) (t : Time) : (s.begin t).resync = s.resync := rfl
@[simp] theorem State.pipes_begin (s : State) (t : Time) : (s.begin t).pipes = s.pipes := rfl
@[simp] theorem State.ports_begin (s : State) (t : Time) : (s.begin t).ports = s.ports := rfl
@[simp] theorem State.herons_begin (s : State) (t : Time) : (s.begin t).herons = s.herons := rfl
@[simp] theorem State.blocks_begin (s : State) (t : Time) : (s.begin t).blocks = s.blocks := rfl
@[simp] theorem State.regions_begin (s : State) (t : Time) : (s.begin t).regions = s.regions := rfl
@[simp] theorem State.channels_begin (s : State) (t : Time) : (s.begin t).channels = s.channels := rfl
@[simp] theorem State.spad_begin (s : State) (t : Time) : (s.begin t).spad = s.spad := rfl
@[simp] theorem State.spadPoison_begin (s : State) (t : Time) : (s.begin t).spadPoison = s.spadPoison := rfl
@[simp] theorem State.pool_begin (s : State) (t : Time) : (s.begin t).pool = s.pool := rfl
@[simp] theorem State.poolPoison_begin (s : State) (t : Time) : (s.begin t).poolPoison = s.poolPoison := rfl
@[simp] theorem State.flushes_begin (s : State) (t : Time) : (s.begin t).flushes = s.flushes := rfl
@[simp] theorem State.jobCollision_begin (s : State) (t : Time) : (s.begin t).jobCollision = s.jobCollision := rfl
@[simp] theorem State.sluiceConfig_begin (s : State) (t : Time) : (s.begin t).sluiceConfig = s.sluiceConfig := rfl
@[simp] theorem State.watchdogWas_begin (s : State) (t : Time) : (s.begin t).watchdogWas = s.watchdogWas := rfl
@[simp] theorem State.mem_begin (s : State) (t : Time) : (s.begin t).mem = s.mem := rfl
@[simp] theorem State.mappings_begin (s : State) (t : Time) : (s.begin t).mappings = s.mappings := rfl
@[simp] theorem State.loads_begin (s : State) (t : Time) : (s.begin t).loads = s.loads := rfl
@[simp] theorem State.placings_begin (s : State) (t : Time) : (s.begin t).placings = s.placings := rfl
@[simp] theorem State.jobs_begin (s : State) (t : Time) : (s.begin t).jobs = s.jobs := rfl
@[simp] theorem State.nextJob_begin (s : State) (t : Time) : (s.begin t).nextJob = s.nextJob := rfl
@[simp] theorem State.faults_begin (s : State) (t : Time) : (s.begin t).faults = s.faults := rfl
@[simp] theorem State.health_begin (s : State) (t : Time) : (s.begin t).health = s.health := rfl
@[simp] theorem State.fovar_begin (s : State) (t : Time) : (s.begin t).fovar = s.fovar := rfl
@[simp] theorem State.fw_begin (s : State) (t : Time) : (s.begin t).fw = s.fw := rfl
@[simp] theorem State.out_begin (s : State) (t : Time) : (s.begin t).out = [] := rfl
@[simp] theorem State.pending_send (s : State) (o : Output) : (s.send o).pending = s.pending := rfl
@[simp] theorem State.fresh_send (s : State) (o : Output) : (s.send o).fresh = s.fresh := rfl
@[simp] theorem State.phase_send (s : State) (o : Output) : (s.send o).phase = s.phase := rfl
@[simp] theorem State.time_send (s : State) (o : Output) : (s.send o).time = s.time := rfl
@[simp] theorem State.straps_send (s : State) (o : Output) : (s.send o).straps = s.straps := rfl
@[simp] theorem State.base_send (s : State) (o : Output) : (s.send o).base = s.base := rfl
@[simp] theorem State.session_send (s : State) (o : Output) : (s.send o).session = s.session := rfl
@[simp] theorem State.eth_send (s : State) (o : Output) : (s.send o).eth = s.eth := rfl
@[simp] theorem State.resync_send (s : State) (o : Output) : (s.send o).resync = s.resync := rfl
@[simp] theorem State.pipes_send (s : State) (o : Output) : (s.send o).pipes = s.pipes := rfl
@[simp] theorem State.ports_send (s : State) (o : Output) : (s.send o).ports = s.ports := rfl
@[simp] theorem State.herons_send (s : State) (o : Output) : (s.send o).herons = s.herons := rfl
@[simp] theorem State.blocks_send (s : State) (o : Output) : (s.send o).blocks = s.blocks := rfl
@[simp] theorem State.regions_send (s : State) (o : Output) : (s.send o).regions = s.regions := rfl
@[simp] theorem State.channels_send (s : State) (o : Output) : (s.send o).channels = s.channels := rfl
@[simp] theorem State.spad_send (s : State) (o : Output) : (s.send o).spad = s.spad := rfl
@[simp] theorem State.spadPoison_send (s : State) (o : Output) : (s.send o).spadPoison = s.spadPoison := rfl
@[simp] theorem State.pool_send (s : State) (o : Output) : (s.send o).pool = s.pool := rfl
@[simp] theorem State.poolPoison_send (s : State) (o : Output) : (s.send o).poolPoison = s.poolPoison := rfl
@[simp] theorem State.flushes_send (s : State) (o : Output) : (s.send o).flushes = s.flushes := rfl
@[simp] theorem State.jobCollision_send (s : State) (o : Output) : (s.send o).jobCollision = s.jobCollision := rfl
@[simp] theorem State.sluiceConfig_send (s : State) (o : Output) : (s.send o).sluiceConfig = s.sluiceConfig := rfl
@[simp] theorem State.watchdogWas_send (s : State) (o : Output) : (s.send o).watchdogWas = s.watchdogWas := rfl
@[simp] theorem State.mem_send (s : State) (o : Output) : (s.send o).mem = s.mem := rfl
@[simp] theorem State.mappings_send (s : State) (o : Output) : (s.send o).mappings = s.mappings := rfl
@[simp] theorem State.loads_send (s : State) (o : Output) : (s.send o).loads = s.loads := rfl
@[simp] theorem State.placings_send (s : State) (o : Output) : (s.send o).placings = s.placings := rfl
@[simp] theorem State.jobs_send (s : State) (o : Output) : (s.send o).jobs = s.jobs := rfl
@[simp] theorem State.nextJob_send (s : State) (o : Output) : (s.send o).nextJob = s.nextJob := rfl
@[simp] theorem State.faults_send (s : State) (o : Output) : (s.send o).faults = s.faults := rfl
@[simp] theorem State.health_send (s : State) (o : Output) : (s.send o).health = s.health := rfl
@[simp] theorem State.fovar_send (s : State) (o : Output) : (s.send o).fovar = s.fovar := rfl
@[simp] theorem State.fw_send (s : State) (o : Output) : (s.send o).fw = s.fw := rfl
@[simp] theorem State.out_send (s : State) (o : Output) : (s.send o).out = s.out ++ [o] := rfl
@[simp] theorem State.pending_free (s : State) : s.free.2.pending = s.pending := rfl
@[simp] theorem State.out_free (s : State) : s.free.2.out = s.out := rfl
@[simp] theorem State.phase_free (s : State) : s.free.2.phase = s.phase := rfl
@[simp] theorem State.time_free (s : State) : s.free.2.time = s.time := rfl
@[simp] theorem State.straps_free (s : State) : s.free.2.straps = s.straps := rfl
@[simp] theorem State.base_free (s : State) : s.free.2.base = s.base := rfl
@[simp] theorem State.session_free (s : State) : s.free.2.session = s.session := rfl
@[simp] theorem State.eth_free (s : State) : s.free.2.eth = s.eth := rfl
@[simp] theorem State.resync_free (s : State) : s.free.2.resync = s.resync := rfl
@[simp] theorem State.pipes_free (s : State) : s.free.2.pipes = s.pipes := rfl
@[simp] theorem State.ports_free (s : State) : s.free.2.ports = s.ports := rfl
@[simp] theorem State.herons_free (s : State) : s.free.2.herons = s.herons := rfl
@[simp] theorem State.blocks_free (s : State) : s.free.2.blocks = s.blocks := rfl
@[simp] theorem State.regions_free (s : State) : s.free.2.regions = s.regions := rfl
@[simp] theorem State.channels_free (s : State) : s.free.2.channels = s.channels := rfl
@[simp] theorem State.spad_free (s : State) : s.free.2.spad = s.spad := rfl
@[simp] theorem State.spadPoison_free (s : State) : s.free.2.spadPoison = s.spadPoison := rfl
@[simp] theorem State.pool_free (s : State) : s.free.2.pool = s.pool := rfl
@[simp] theorem State.poolPoison_free (s : State) : s.free.2.poolPoison = s.poolPoison := rfl
@[simp] theorem State.flushes_free (s : State) : s.free.2.flushes = s.flushes := rfl
@[simp] theorem State.jobCollision_free (s : State) : s.free.2.jobCollision = s.jobCollision := rfl
@[simp] theorem State.sluiceConfig_free (s : State) : s.free.2.sluiceConfig = s.sluiceConfig := rfl
@[simp] theorem State.watchdogWas_free (s : State) : s.free.2.watchdogWas = s.watchdogWas := rfl
@[simp] theorem State.mem_free (s : State) : s.free.2.mem = s.mem := rfl
@[simp] theorem State.mappings_free (s : State) : s.free.2.mappings = s.mappings := rfl
@[simp] theorem State.loads_free (s : State) : s.free.2.loads = s.loads := rfl
@[simp] theorem State.placings_free (s : State) : s.free.2.placings = s.placings := rfl
@[simp] theorem State.jobs_free (s : State) : s.free.2.jobs = s.jobs := rfl
@[simp] theorem State.nextJob_free (s : State) : s.free.2.nextJob = s.nextJob := rfl
@[simp] theorem State.faults_free (s : State) : s.free.2.faults = s.faults := rfl
@[simp] theorem State.health_free (s : State) : s.free.2.health = s.health := rfl
@[simp] theorem State.fovar_free (s : State) : s.free.2.fovar = s.fovar := rfl
@[simp] theorem State.fw_free (s : State) : s.free.2.fw = s.fw := rfl
@[simp] theorem State.fresh_free (s : State) : s.free.2.fresh = s.fresh + 1 := rfl

/-- Device time never goes backward as a command begins (R314). -/
theorem State.time_begin_le (s : State) (t : Time) : s.time.toNat ≤ (s.begin t).time.toNat := by
  simp only [State.begin]
  split <;> omega

/-! ## Counters -/

@[simp] theorem Counters.get_add_same (c : Counters) (w n : Nat) :
    (c.add w n).get w = BitVec.ofNat 32 (min (2 ^ 32 - 1) ((c.get w).toNat + n)) := Tab.get_set_same ..
@[simp] theorem Counters.get_add_other (c : Counters) (w n : Nat) (v : Nat) (h : v ≠ w) : (c.add w n).get v = c.get v :=
  Tab.get_set_other _ _ _ h

/-- A counter never runs back (R53). -/
theorem Counters.get_le_add (c : Counters) (w n v : Nat) : (c.get v).toNat ≤ ((c.add w n).get v).toNat := by
  by_cases h : v = w
  · subst h
    have := (c.get v).isLt
    simp only [Counters.get_add_same, BitVec.toNat_ofNat]
    omega
  · simp [h]

end Sys2Proof.Machine
end

