-- ==== Sys2Proof/Laws/Memory.lean ====
section
/-!
SUPPORT. The laws of the shared operations: what every write of a memory keeps and leaves alone, and when an event acts.
-/

namespace Sys2Proof.Machine

open Sys2Proof

/-! ## Memories -/

/-- A run of bytes keeps the canonical form. -/
theorem Memory.wf_put : ∀ (d : List Byte) (m : Memory) (a : Nat), m.wf = true → (m.put a d).wf = true
  | [], _, _, h => h
  | x :: t, m, a, h => Memory.wf_put t (m.write a x) (a + 1) (Memory.wf_write m a x h)

/-- A byte outside the run reads as before. -/
theorem Memory.read_put_other : ∀ (d : List Byte) (m : Memory) (a b : Nat), b < a ∨ a + d.length ≤ b →
    (m.put a d).read b = m.read b
  | [], _, _, _, _ => rfl
  | x :: t, m, a, b, h => by
    have hb : b ≠ a := by simp only [List.length_cons] at h; omega
    have ht : b < a + 1 ∨ a + 1 + t.length ≤ b := by simp only [List.length_cons] at h; omega
    rw [Memory.put, Memory.read_put_other t (m.write a x) (a + 1) b ht]
    unfold Memory.write
    split
    · exact Memory.read_erase_other hb m
    · exact Memory.read_insert_other x hb m

/-- What lies above an address lies above a lower one. -/
theorem Memory.wfAbove_lower {b k : Nat} (h : b ≤ k) : ∀ m : Memory, Memory.wfAbove k m = true → Memory.wfAbove b m = true
  | [], _ => rfl
  | (j, v) :: t, hm => by
    simp only [Memory.wfAbove, Bool.and_eq_true, decide_eq_true_eq] at hm ⊢
    exact ⟨⟨by omega, hm.1.2⟩, hm.2⟩

/-- A filter keeps the addresses rising. -/
theorem Memory.wfAbove_filter (p : Host.Cell → Bool) : ∀ (m : Memory) (b : Nat), Memory.wfAbove b m = true →
    Memory.wfAbove b (m.filter p) = true
  | [], _, _ => rfl
  | (k, v) :: t, b, h => by
    simp only [Memory.wfAbove, Bool.and_eq_true, decide_eq_true_eq] at h
    have ih := Memory.wfAbove_filter p t
    by_cases hp : p (k, v) = true
    · simp [List.filter, hp, Memory.wfAbove, h.1.1, h.1.2, ih k h.2]
    · simp only [List.filter, hp]
      exact ih b (Memory.wfAbove_lower (Nat.le_of_lt h.1.1) t h.2)

/-- Zeroing a range keeps the canonical form. -/
theorem Memory.wf_clear (m : Memory) (lo hi : Nat) (h : m.wf = true) : (m.clear lo hi).wf = true := by
  cases m with
  | nil => rfl
  | cons c t =>
    obtain ⟨k, v⟩ := c
    simp only [Memory.wf, Bool.and_eq_true, decide_eq_true_eq] at h
    unfold Memory.clear
    by_cases hp : (decide (k < lo) || decide (hi ≤ k)) = true
    · simp [List.filter, hp, Memory.wf, h.1, Memory.wfAbove_filter _ t k h.2]
    · simp only [List.filter, hp]
      exact Memory.wf_of_wfAbove _ (Memory.wfAbove_filter _ t k h.2)

/-- An update run for each of a list keeps what each of its runs keeps. -/
theorem forEach_keeps {α : Type} (P : State → Prop) (f : α → State → State) (hf : ∀ x s, P s → P (f x s))  (l : List α)
    (s : State) (h : P s) : P (forEach l f s) := by
  induction l generalizing s with
  | nil => exact h
  | cons x t ih => exact ih (f x s) (hf x s h)

/-- The counters of DRAM are no bytes of it. -/
@[simp] theorem State.dram_countMem (s : State) (k w : Nat) : (s.countMem k w).mem.dram = s.mem.dram := rfl

/-- A write of a granule puts its bytes into DRAM. -/
theorem State.dram_writeGranule (s : State) (g o : Nat) (d : List Byte) (p : Bool) :
    (s.writeGranule g o d p).mem.dram = s.mem.dram.put (64 * g + o) d := by
  unfold State.writeGranule
  dsimp only
  split <;> rfl

/-- It keeps the canonical form. -/
theorem State.wf_writeGranule (s : State) (g o : Nat) (d : List Byte) (p : Bool) (h : s.mem.dram.wf = true) :
    (s.writeGranule g o d p).mem.dram.wf = true := by
  rw [State.dram_writeGranule]
  exact Memory.wf_put d _ _ h

/-- So does a write of a scratchpad, -/
theorem State.wf_writeSpad (s : State) (b a : Nat) (d : List Byte) (p : Bool) (h : s.spad.wf = true) :
    (s.writeSpad b a d p).spad.wf = true :=
  forEach_keeps (fun s => s.spad.wf = true) _ (fun _ _ h => Memory.wf_put _ _ _ h) _ s h

/-- and of a pool. -/
theorem State.wf_writePool (s : State) (r a : Nat) (d : List Byte) (p : Bool) (h : s.pool.wf = true) :
    (s.writePool r a d p).pool.wf = true :=
  forEach_keeps (fun s => s.pool.wf = true) _ (fun _ _ h => Memory.wf_put _ _ _ h) _ s h

/-- A write of one memory is no write of the others. -/
@[simp] theorem State.spad_writeGranule (s : State) (g o : Nat) (d : List Byte) (p : Bool) :
    (s.writeGranule g o d p).spad = s.spad := by
  unfold State.writeGranule; dsimp only; split <;> rfl
@[simp] theorem State.pool_writeGranule (s : State) (g o : Nat) (d : List Byte) (p : Bool) :
    (s.writeGranule g o d p).pool = s.pool := by
  unfold State.writeGranule; dsimp only; split <;> rfl
@[simp] theorem State.mem_writeSpad (s : State) (b a : Nat) (d : List Byte) (p : Bool) : (s.writeSpad b a d p).mem = s.mem := by
  unfold State.writeSpad
  apply forEach_keeps (P := fun t => t.mem = s.mem) (h := rfl)
  exact fun _ _ h => h
@[simp] theorem State.pool_writeSpad (s : State) (b a : Nat) (d : List Byte) (p : Bool) : (s.writeSpad b a d p).pool = s.pool := by
  unfold State.writeSpad
  apply forEach_keeps (P := fun t => t.pool = s.pool) (h := rfl)
  exact fun _ _ h => h
@[simp] theorem State.mem_writePool (s : State) (r a : Nat) (d : List Byte) (p : Bool) : (s.writePool r a d p).mem = s.mem := by
  unfold State.writePool
  apply forEach_keeps (P := fun t => t.mem = s.mem) (h := rfl)
  exact fun _ _ h => h
@[simp] theorem State.spad_writePool (s : State) (r a : Nat) (d : List Byte) (p : Bool) : (s.writePool r a d p).spad = s.spad := by
  unfold State.writePool
  apply forEach_keeps (P := fun t => t.spad = s.spad) (h := rfl)
  exact fun _ _ h => h

/-! ## When an event acts -/

@[simp] theorem State.onlyIf_true (s : State) (f : State → State) : s.onlyIf true f = f s := rfl
@[simp] theorem State.onlyIf_false (s : State) (f : State → State) : s.onlyIf false f = s := rfl

/-- An event under a condition keeps what its effect keeps. -/
theorem State.onlyIf_keeps (P : State → Prop) (s : State) (c : Bool) (f : State → State) (h : P s) (hf : P (f s)) :
    P (s.onlyIf c f) := by
  cases c
  · exact h
  · exact hf

/-- An event of the running device always answers a next state: its effect at command-ready, else the passing of time. -/
theorem whenReady_ready (t : Time) (f : State → State) (s : State) (h : s.phase = .ready) :
    whenReady t f s = .next (f (s.begin t)) := by simp [whenReady, h]
theorem whenReady_other (t : Time) (f : State → State) (s : State) (h : s.phase ≠ .ready) :
    whenReady t f s = .next (s.begin t) := by simp [whenReady, h]

/-- A monitor's event likewise, from the release of PORST_N on. -/
theorem whenPowered_reset (t : Time) (f : State → State) (s : State) (h : s.phase = .reset) :
    whenPowered t f s = .next (s.begin t) := by simp [whenPowered, State.onlyIf, h]
theorem whenPowered_other (t : Time) (f : State → State) (s : State) (h : s.phase ≠ .reset) :
    whenPowered t f s = .next (f (s.begin t)) := by simp [whenPowered, State.onlyIf, h]

end Sys2Proof.Machine
end

