-- ==== Sys2Proof/Laws/Fault.lean ====
section
/-!
SUPPORT. What making a fault record can change: the collector and the status words of blocks and regions, and nothing else; and
what the accesses to memory that find errors keep.
-/

namespace Sys2Proof.Machine

open Sys2Proof

/-- A fold keeps what each of its steps keeps. -/
theorem foldl_keeps {α : Type} (P : State → Prop) (f : State → α → State) (hf : ∀ s x, P s → P (f s x)) (l : List α)
    (s : State) (h : P s) : P (l.foldl f s) := by
  induction l generalizing s with
  | nil => exact h
  | cons x t ih => exact ih (f s x) (hf s x h)

section
variable (P : State → Prop) (hc : ∀ s x, P s → P { s with faults := x }) (hb : ∀ s i v, P s → P (s.setBlock i v))
  (hr : ∀ s i v, P s → P (s.setRegion i v))
include hc

theorem State.setChip_keeps (s : State) (i : Nat) (h : P s) : P (s.setChip i) := hc s _ h

include hr
theorem State.setRegionBit_keeps (s : State) (r i : Nat) (h : P s) : P (s.setRegionBit r i) := by
  unfold State.setRegionBit
  dsimp only
  split
  · exact hr s _ _ h
  · exact State.setChip_keeps P hc _ _ (hr s _ _ h)

include hb
theorem State.setBlockBit_keeps (s : State) (b i : Nat) (h : P s) : P (s.setBlockBit b i) := by
  unfold State.setBlockBit
  dsimp only
  split
  · exact hb s _ _ h
  · exact State.setRegionBit_keeps P hc hr _ _ _ (hb s _ _ h)

theorem State.setStatusFor_keeps (s : State) (f : FaultInfo) (cls : BitVec 8) (h : P s) : P (s.setStatusFor f cls) := by
  unfold State.setStatusFor
  split
  · exact h
  · have hk := fun b => foldl_keeps P (fun s i => s.setBlockBit b i) (fun s i => State.setBlockBit_keeps P hc hb hr s b i)
    have hl := fun r => foldl_keeps P (fun s i => s.setRegionBit r i) (fun s i => State.setRegionBit_keeps P hc hr s r i)
    dsimp only
    apply foldl_keeps P _ (fun s i => State.setChip_keeps P hc s i)
    split
    · exact hk _ _ s h
    · exact hk _ _ s h
    · exact hl _ _ s h
    · exact State.setChip_keeps P hc s _ h

/-- A fault record keeps whatever does not speak of the collector and of the status words. -/
theorem State.fault_keeps (s : State) (f : FaultInfo) (h : P s) : P (s.fault f) := by
  unfold State.fault
  split
  · exact hc _ _ (State.setStatusFor_keeps P hc hb hr s f _ h)
  · exact h
end

@[simp] theorem State.pending_fault (s : State) (f : FaultInfo) : (s.fault f).pending = s.pending :=
  State.fault_keeps (fun t => t.pending = s.pending) (fun _ _ h => h) (fun _ _ _ h => h) (fun _ _ _ h => h) s f rfl
@[simp] theorem State.out_fault (s : State) (f : FaultInfo) : (s.fault f).out = s.out :=
  State.fault_keeps (fun t => t.out = s.out) (fun _ _ h => h) (fun _ _ _ h => h) (fun _ _ _ h => h) s f rfl
@[simp] theorem State.fresh_fault (s : State) (f : FaultInfo) : (s.fault f).fresh = s.fresh :=
  State.fault_keeps (fun t => t.fresh = s.fresh) (fun _ _ h => h) (fun _ _ _ h => h) (fun _ _ _ h => h) s f rfl
@[simp] theorem State.phase_fault (s : State) (f : FaultInfo) : (s.fault f).phase = s.phase :=
  State.fault_keeps (fun t => t.phase = s.phase) (fun _ _ h => h) (fun _ _ _ h => h) (fun _ _ _ h => h) s f rfl
@[simp] theorem State.time_fault (s : State) (f : FaultInfo) : (s.fault f).time = s.time :=
  State.fault_keeps (fun t => t.time = s.time) (fun _ _ h => h) (fun _ _ _ h => h) (fun _ _ _ h => h) s f rfl
@[simp] theorem State.straps_fault (s : State) (f : FaultInfo) : (s.fault f).straps = s.straps :=
  State.fault_keeps (fun t => t.straps = s.straps) (fun _ _ h => h) (fun _ _ _ h => h) (fun _ _ _ h => h) s f rfl
@[simp] theorem State.base_fault (s : State) (f : FaultInfo) : (s.fault f).base = s.base :=
  State.fault_keeps (fun t => t.base = s.base) (fun _ _ h => h) (fun _ _ _ h => h) (fun _ _ _ h => h) s f rfl
@[simp] theorem State.session_fault (s : State) (f : FaultInfo) : (s.fault f).session = s.session :=
  State.fault_keeps (fun t => t.session = s.session) (fun _ _ h => h) (fun _ _ _ h => h) (fun _ _ _ h => h) s f rfl
@[simp] theorem State.eth_fault (s : State) (f : FaultInfo) : (s.fault f).eth = s.eth :=
  State.fault_keeps (fun t => t.eth = s.eth) (fun _ _ h => h) (fun _ _ _ h => h) (fun _ _ _ h => h) s f rfl
@[simp] theorem State.resync_fault (s : State) (f : FaultInfo) : (s.fault f).resync = s.resync :=
  State.fault_keeps (fun t => t.resync = s.resync) (fun _ _ h => h) (fun _ _ _ h => h) (fun _ _ _ h => h) s f rfl
@[simp] theorem State.pipes_fault (s : State) (f : FaultInfo) : (s.fault f).pipes = s.pipes :=
  State.fault_keeps (fun t => t.pipes = s.pipes) (fun _ _ h => h) (fun _ _ _ h => h) (fun _ _ _ h => h) s f rfl
@[simp] theorem State.ports_fault (s : State) (f : FaultInfo) : (s.fault f).ports = s.ports :=
  State.fault_keeps (fun t => t.ports = s.ports) (fun _ _ h => h) (fun _ _ _ h => h) (fun _ _ _ h => h) s f rfl
@[simp] theorem State.herons_fault (s : State) (f : FaultInfo) : (s.fault f).herons = s.herons :=
  State.fault_keeps (fun t => t.herons = s.herons) (fun _ _ h => h) (fun _ _ _ h => h) (fun _ _ _ h => h) s f rfl
@[simp] theorem State.channels_fault (s : State) (f : FaultInfo) : (s.fault f).channels = s.channels :=
  State.fault_keeps (fun t => t.channels = s.channels) (fun _ _ h => h) (fun _ _ _ h => h) (fun _ _ _ h => h) s f rfl
@[simp] theorem State.spad_fault (s : State) (f : FaultInfo) : (s.fault f).spad = s.spad :=
  State.fault_keeps (fun t => t.spad = s.spad) (fun _ _ h => h) (fun _ _ _ h => h) (fun _ _ _ h => h) s f rfl
@[simp] theorem State.spadPoison_fault (s : State) (f : FaultInfo) : (s.fault f).spadPoison = s.spadPoison :=
  State.fault_keeps (fun t => t.spadPoison = s.spadPoison) (fun _ _ h => h) (fun _ _ _ h => h) (fun _ _ _ h => h) s f rfl
@[simp] theorem State.pool_fault (s : State) (f : FaultInfo) : (s.fault f).pool = s.pool :=
  State.fault_keeps (fun t => t.pool = s.pool) (fun _ _ h => h) (fun _ _ _ h => h) (fun _ _ _ h => h) s f rfl
@[simp] theorem State.poolPoison_fault (s : State) (f : FaultInfo) : (s.fault f).poolPoison = s.poolPoison :=
  State.fault_keeps (fun t => t.poolPoison = s.poolPoison) (fun _ _ h => h) (fun _ _ _ h => h) (fun _ _ _ h => h) s f rfl
@[simp] theorem State.flushes_fault (s : State) (f : FaultInfo) : (s.fault f).flushes = s.flushes :=
  State.fault_keeps (fun t => t.flushes = s.flushes) (fun _ _ h => h) (fun _ _ _ h => h) (fun _ _ _ h => h) s f rfl
@[simp] theorem State.jobCollision_fault (s : State) (f : FaultInfo) : (s.fault f).jobCollision = s.jobCollision :=
  State.fault_keeps (fun t => t.jobCollision = s.jobCollision) (fun _ _ h => h) (fun _ _ _ h => h) (fun _ _ _ h => h) s f rfl
@[simp] theorem State.sluiceConfig_fault (s : State) (f : FaultInfo) : (s.fault f).sluiceConfig = s.sluiceConfig :=
  State.fault_keeps (fun t => t.sluiceConfig = s.sluiceConfig) (fun _ _ h => h) (fun _ _ _ h => h) (fun _ _ _ h => h) s f rfl
@[simp] theorem State.watchdogWas_fault (s : State) (f : FaultInfo) : (s.fault f).watchdogWas = s.watchdogWas :=
  State.fault_keeps (fun t => t.watchdogWas = s.watchdogWas) (fun _ _ h => h) (fun _ _ _ h => h) (fun _ _ _ h => h) s f rfl
@[simp] theorem State.mem_fault (s : State) (f : FaultInfo) : (s.fault f).mem = s.mem :=
  State.fault_keeps (fun t => t.mem = s.mem) (fun _ _ h => h) (fun _ _ _ h => h) (fun _ _ _ h => h) s f rfl
@[simp] theorem State.mappings_fault (s : State) (f : FaultInfo) : (s.fault f).mappings = s.mappings :=
  State.fault_keeps (fun t => t.mappings = s.mappings) (fun _ _ h => h) (fun _ _ _ h => h) (fun _ _ _ h => h) s f rfl
@[simp] theorem State.loads_fault (s : State) (f : FaultInfo) : (s.fault f).loads = s.loads :=
  State.fault_keeps (fun t => t.loads = s.loads) (fun _ _ h => h) (fun _ _ _ h => h) (fun _ _ _ h => h) s f rfl
@[simp] theorem State.placings_fault (s : State) (f : FaultInfo) : (s.fault f).placings = s.placings :=
  State.fault_keeps (fun t => t.placings = s.placings) (fun _ _ h => h) (fun _ _ _ h => h) (fun _ _ _ h => h) s f rfl
@[simp] theorem State.jobs_fault (s : State) (f : FaultInfo) : (s.fault f).jobs = s.jobs :=
  State.fault_keeps (fun t => t.jobs = s.jobs) (fun _ _ h => h) (fun _ _ _ h => h) (fun _ _ _ h => h) s f rfl
@[simp] theorem State.nextJob_fault (s : State) (f : FaultInfo) : (s.fault f).nextJob = s.nextJob :=
  State.fault_keeps (fun t => t.nextJob = s.nextJob) (fun _ _ h => h) (fun _ _ _ h => h) (fun _ _ _ h => h) s f rfl
@[simp] theorem State.health_fault (s : State) (f : FaultInfo) : (s.fault f).health = s.health :=
  State.fault_keeps (fun t => t.health = s.health) (fun _ _ h => h) (fun _ _ _ h => h) (fun _ _ _ h => h) s f rfl
@[simp] theorem State.fovar_fault (s : State) (f : FaultInfo) : (s.fault f).fovar = s.fovar :=
  State.fault_keeps (fun t => t.fovar = s.fovar) (fun _ _ h => h) (fun _ _ _ h => h) (fun _ _ _ h => h) s f rfl
@[simp] theorem State.fw_fault (s : State) (f : FaultInfo) : (s.fault f).fw = s.fw :=
  State.fault_keeps (fun t => t.fw = s.fw) (fun _ _ h => h) (fun _ _ _ h => h) (fun _ _ _ h => h) s f rfl

/-! ## Reads that find errors -/

/-- A read of DRAM keeps the canonical form of DRAM. -/
theorem State.wf_readGranule (s : State) (g : Nat) (f : MemFindings) (r : Reader) (h : s.mem.dram.wf = true) :
    (s.readGranule g f r).2.mem.dram.wf = true := by
  have hc : ∀ (s : State) (r : Reader), (s.correctGranule g r).mem.dram = s.mem.dram := by
    intro s r
    unfold State.correctGranule
    dsimp only
    split <;> split <;> simp
  have hp : ∀ (s : State) (r : Reader), (s.poisonGranule g r).mem.dram = s.mem.dram := by
    intro s r
    unfold State.poisonGranule
    dsimp only
    simp only [State.mem_fault]
    rfl
  have hw : ∀ w : List Byte, (s.wrongGranule g w).mem.dram.wf = true := fun w => Memory.wf_put _ _ _ h
  unfold State.readGranule
  dsimp only
  split
  · simpa using h
  · split
    · simpa [hp] using h
    · cases f.wrong.find? fun w => w.1 == g with
      | none => split <;> simpa [hc] using h
      | some w => split <;> simpa [hc] using hw w.2

/-- A read of a scratchpad changes no byte. -/
@[simp] theorem State.spad_readLine (s : State) (b line : Nat) (f : MemFindings) (r : Reader) :
    (s.readLine b line f r).2.spad = s.spad := by
  unfold State.readLine
  dsimp only
  split
  · rfl
  · split
    · simp
    · apply forEach_keeps (P := fun t => t.spad = s.spad) (h := rfl)
      intro k t ht
      simpa using ht

end Sys2Proof.Machine
end

