-- ==== Sys2Proof/Tests/Slice0.lean ====
section
/-!
SUPPORT. The model's own tests: the well-formedness checks with a term that each refuses; for every statement with hypotheses a
state and operands that meet them; and a few commands, each run once.
-/

namespace Sys2Proof.Tests

set_option Elab.async false

open Sys2Proof Sys2Proof.Machine

/-! ## A device at command-ready -/

/-- A domain that is on. -/
def on_ : Domain := { mode := 0, modeWait := none, isOn := true, switches := 0, idleTicks := 0 }

/-- An Ethernet port with its link up. -/
def eth : Eth := { Eth.reset with up := true, link := true }

/-- The device at command-ready: port A has a session peer, the PLLs are locked, region 0 with its blocks 0 to 2, region 1, the
front ends of pipelines 0 to 2, both DRAM interfaces, the PCIe endpoint and every Fovar port are on. -/
def dev : State := { State.reset with
  phase := .ready
  session := some ⟨7, 9, 0, 0, false⟩
  eth := [(0, eth), (1, eth)]
  faults := { Collector.reset with up := true, pinLow := false }
  health := { Health.reset with lock := 15, refOk := true
                                domains := [0, 1, 2, 64, 65, 68, 69, 70, 92, 93, 94, 95, 96, 97, 98].map fun d => (d, on_) } }

/-- A request of the session's peer in queue 0 with its CRC. -/
def ask (code : BitVec 16) (p : List Byte) (seq : BitVec 32 := 0) : Req :=
  let q : Req :=
    { time := 0, port := .a, intact := true, vid := none, secured := true, frameLen := 100, arrival := .whole, srcAddr := 7
      srcPort := 9, dstPort := 0, len := 36 + p.length, magic := 0x4151, version := 1, queue := 0, seq := seq, flags := 0
      paramLen := BitVec.ofNat 16 p.length, status := 0, tag := 5, expiry := 0, eventSeq := 0, params := p, crc := 0, unacked := 0 }
  { q with crc := reqCrc q code }

/-- The state after a command; the reset state if it stopped. -/
def after (c : Instr) (s : State) : State :=
  match exec c s with
  | .next u => u
  | _ => State.reset

/-- The next state of an outcome, if it has one. -/
def nextOf (r : Result) : Option State :=
  match r with
  | .next u => some u
  | _ => none

/-- The statuses of the packets that a command sends. -/
def answers (c : Instr) (s : State) : List (BitVec 16) :=
  (after c s).out.filterMap fun
    | .packet _ p _ => some p.status
    | _ => none

/-- What the checks of Table 12-3 ask of the state for a request of `ask`, the CRC and the parameter length apart. -/
def opens (s : State) (o : OpRow) : Bool :=
  let r := s.begin 0
  let q := ask o.code []
  let e := r.ethOf .a
  e.up && e.link && e.filterPasses q && r.sourcePasses q o.code && !r.resync && !r.bankSwitching && (((e.queue 0).sequenceGate q o.code) == none)
    && knownOpcodes.contains o.code && r.phase == .ready && !(o.long && decide (64 ≤ (e.queue 0).outstanding))
    && !(r.fw.activate.isSome && heldBack o.code)

/-- A request of `ask` passes every check when its parameters have their length. -/
theorem takes_ask (s : State) (o : OpRow) (p : List Byte) (h : opens s o = true) (hl : o.lenOk p = true)
    (hn : p.length ≤ 8000) : s.takes o (ask o.code p) := by
  have hc : (ask o.code p).crc = reqCrc (ask o.code p) o.code := rfl
  have hp : (ask o.code p).paramLen.toNat = p.length := by
    show p.length % 2 ^ 16 = p.length
    omega
  simp only [opens, Bool.and_eq_true, Bool.not_eq_true', beq_iff_eq] at h
  obtain ⟨⟨⟨⟨⟨⟨⟨⟨⟨⟨h1, h2⟩, h3⟩, h4⟩, h5⟩, hb⟩, h6⟩, h7⟩, h8⟩, h9⟩, ha⟩ := h
  have h3' : ((s.begin 0).ethOf .a).filterPasses (ask o.code p) = true := by
    revert h3
    simp only [Eth.filterPasses, ask, Bool.and_eq_true]
    rintro ⟨⟨a, b⟩, c⟩
    exact ⟨⟨a, decide_eq_true (show 36 + p.length ≤ 8192 by omega)⟩, c⟩
  have h4' : (s.begin 0).sourcePasses (ask o.code p) o.code = true := h4
  have h6' : (((s.begin 0).ethOf .a).queue 0).sequenceGate (ask o.code p) o.code = none := h6
  have f1 : (ask o.code p).port = .a := rfl
  have f2 : (ask o.code p).arrival = .whole := rfl
  have f3 : (ask o.code p).magic = 0x4151 := rfl
  have f4 : (ask o.code p).flags = 0 := rfl
  have f5 : (ask o.code p).version = 1 := rfl
  have f6 : (ask o.code p).queue = 0 := rfl
  have f7 : (ask o.code p).unacked = 0 := rfl
  have f8 : (ask o.code p).expiry = 0 := rfl
  have f9 : (ask o.code p).len = 36 + p.length := rfl
  have fb : (ask o.code p).time = 0 := rfl
  have fa : (ask o.code p).params = p := rfl
  unfold State.takes
  rw [fb]
  clear h3 h4 h6 fb
  generalize ask o.code p = q at *
  generalize s.begin 0 = r at *
  simp [State.gate, State.gateReply, State.gateRest, f1, f2, f3, f4, f5, f6, f7, f8, f9, fa, hp, ← hc, h1, h2, h3', h4', h5, hb, h6',
    List.contains_iff_mem.mp h7, h8, h9, ha, hl, portAccepts]

/-- A request of `ask` is taken by a device that opens to its row. -/
theorem takes_dev {s : State} {o : OpRow} {p : List Byte}
    (h : (opens s o && o.lenOk p && decide (p.length ≤ 8000)) = true) : s.takes o (ask o.code p) := by
  simp only [Bool.and_eq_true, decide_eq_true_eq] at h
  exact takes_ask s o p h.1.1 h.1.2 h.2
/-! ## Well-formedness: a term that each check refuses -/

theorem test_wf_good : (Instr.nop (ask 1 []) 1 .clean).wellFormed = true := by decide +kernel
theorem test_wf_request_cut : (Instr.commit { ask 4 [] with params := [0] }).wellFormed = false := by decide +kernel
theorem test_wf_nop_other_row : (Instr.nop (ask 4 []) 4 .clean).wellFormed = false := by decide +kernel
theorem test_wf_fetch : (Instr.instructionFetch 0 0 true { MemFindings.none with wrong := [(0, [0])] }).wellFormed = false := by decide +kernel
theorem test_wf_deadlock : (Instr.streamDeadlock 0 []).wellFormed = false := by decide +kernel
theorem test_wf_tile : (Instr.stagingComplete 0 0 (.job 1) 0 0 .a [1] .none).wellFormed = false := by decide +kernel
theorem test_wf_bar0_empty : (Instr.bar0Write 0 0 [] false false .none).wellFormed = false := by decide +kernel
theorem test_wf_bar0_end : (Instr.bar0Read 0 0xF_FFFF_FFFF 2 .none).wellFormed = false := by decide +kernel

/-! ## The queue and the step -/

theorem test_step_front : dev.pending = [] ∧ nextOf (step { dev with pending := [.sclkRecovered 3] }) = nextOf (exec (.sclkRecovered 3) dev) := by
  decide +kernel
theorem test_step_idle : nextOf (step dev) = some dev := by decide +kernel
theorem test_not_ready : readyTime (.scrubRead 3 .clean) = some 3 ∧ State.reset.phase ≠ .ready ∧
    nextOf (exec (.scrubRead 3 .clean) State.reset) = some (State.reset.begin 3) := by decide +kernel
theorem test_other_row : nextOf (exec (.nop (ask 4 []) 4 .clean) dev) = none := by decide +kernel
theorem test_memory_wf : (after (.bar0Write 0 4 [1, 0, 2] false false .none) { dev with mem := { dev.mem with
    pcieLink := true, carr := [(0, 1), (1, 1)] } }).memoryWf = true := by decide +kernel

/-! ## Sedge ports -/

/-- Port settings of 4 by 2 pixels, one exposure, enabled. -/
def sets : PortSettings := { PortSettings.reset with mode := 0x800, geometry := 0x0000_0000_0002_0004 }

/-- A port in WAIT_FRAME. -/
def port : Port := { Port.reset with state := .waitFrame, live := sets, shadow := sets }

/-- A display copy of 2 by 2. -/
def small : PipeSettings := { PipeSettings.reset with output := 0x0020_0200_0200_0000 }

/-- Pipeline 0 streams from port 0 on blocks 0 and 1, with mapping 0. -/
def pipe : Pipe := { Pipe.reset 0 with live := small, shadow := small, stream := .streaming, source := 0xFFFF_FF00, set := 0x0003_0000_0400, blocks := 3 }

/-- The device with port 0 in WAIT_FRAME and pipeline 0 streaming from it. -/
def cam : State := { dev with ports := [(0, port)], pipes := [(0, pipe)] }

/-- The same, a frame started at 100 ns. -/
def shot : State := after (.frameStart 100 { port := 0 }) cam

theorem test_frame_discarded : dev.phase = .ready ∧ ({ dev with ports := [(0, port)] }.port 0).state = .waitFrame ∧
    { dev with ports := [(0, port)] }.streamOf 0 = none ∧
    (after (.frameStart 100 { port := 0 }) { dev with ports := [(0, port)] }).pipes = [] := by decide +kernel
theorem test_frame_starts : cam.streamOf 0 = some 0 ∧ (shot.port 0).state = .inFrame ∧
    (shot.started 0).map (fun x => x.2) = some (0, 0) ∧ (shot.pipe 0).nextFrame = 1 ∧ (shot.pipe 0).frames.length = 1 := by
  decide +kernel
theorem test_frame_end_flags : ((after (.frameEnd 200 0) shot).pipe 0).frames.map (fun j => j.flags.map BitVec.toNat) =
    [some 1] := by decide +kernel
theorem test_cut_lines_needs : (shot.started 0).isSome = true ∧ ((after (.lineReceived 102 0 [1, 2, 3, 4] false)
    (after (.lineReceived 101 0 [5, 6, 7] false) shot)).started 0).any (fun f => f.1.complete) = true := by decide +kernel
theorem test_cut_lines : ((after (.lineReceived 103 0 [1] false) (after (.lineReceived 102 0 [1, 2, 3, 4] false)
    (after (.lineReceived 101 0 [5, 6, 7] false) shot))).pipe 0).frames.map (fun j => j.flags.map BitVec.toNat) =
    [some (256 + 4 + 2)] := by decide +kernel
theorem test_line_short : ((after (.lineReceived 101 0 [5, 6, 7] false) shot).port 0).frame.map (fun f => (f.lineShort, f.rows[0])) =
    some (true, 1) := by decide +kernel
theorem test_cut_time : (after (.frameEnd 0 0) shot).overTime (newFrame none sets 0) = false ∧
    ({ shot with time := 200_000_000 }.overTime (newFrame none sets 0)) = true := by decide +kernel
theorem test_clock_fault : shot.frontOn 0 = true ∧ (shot.begin 101).isSuppressed (.sedge 0) = false ∧
    ((after (.portClockFault 101 0 421) shot).port 0).state = .disabled ∧
    ((after (.portClockFault 101 0 421) shot).port 0).clockFault = true ∧
    ((after (.portClockFault 101 0 420) shot).port 0).clockFault = false := by decide +kernel
theorem test_recover : (dev.takes (opRow 0x0211 4) (ask 0x0211 [0, 0, 0, 0])) := (by decide +kernel : _ = Gate.run)
theorem test_recover_idle : ((after (.portRecover (ask 0x0211 [0, 0, 0, 0])) { cam with ports := [(0, { port with
    clockFault := true, state := .disabled })] }).port 0).state = .idle := by decide +kernel
theorem test_recover_range : answers (.portRecover (ask 0x0211 [24, 0, 0, 0])) dev = [Code.notPermitted] ∧
    answers (.portRecover (ask 0x0211 [23, 0, 0, 0])) dev = [Code.ok] := by decide +kernel
theorem test_glitch : ((after (.syncGlitch 101 0) shot).port 0).frame.map (fun f => f.glitches) = some 1 := by decide +kernel
theorem test_resumed : ({ dev with ports := [(0, { port with state := .idle })] }.port 0).state = .idle ∧
    ((after (.pclkResumed 5 0) { dev with ports := [(0, { port with state := .idle })] }).port 0).state = .waitFrame := by
  decide +kernel
theorem test_wait_long : 2 * cam.nominalNum (cam.port 0).live < ((cam.begin 90_000_000).now - 0) * cam.base.den ∧
    ((after (.waitFrameTimeout 90_000_000 0) cam).port 0).waitLong = true := by decide +kernel
/-- FSYNC of every third tick, 10 us wide. -/
def syncPort : Port := { port with live := { sets with mode := 0xC00, fsync := 0x000A_0000_0000_0000 } }
theorem test_fsync : ({ dev with ports := [(0, syncPort)] }.begin 0).fsyncRuns 0 = true ∧
    ({ dev with ports := [(0, syncPort)] }.begin 0).fsyncDue 0 = true ∧
    ({ dev with ports := [(0, syncPort)] }.begin 0).fsyncOmitted 0 = false ∧
    ((after (.fsyncAssert 0 0) { dev with ports := [(0, syncPort)] }).port 0).fsyncEnd = 10_000 ∧
    ((after (.fsyncDeassert 10_000 0) (after (.fsyncAssert 0 0) { dev with ports := [(0, syncPort)] })).port 0).fsync = false := by
  decide +kernel
theorem test_i2c_takes : dev.takes i2cRow (ask 0x0210 [0x10, 1, 2, 0, 0xAA]) := (by decide +kernel : _ = Gate.run)
theorem test_i2c_bad_length : answers (.i2cTransfer (ask 0x0210 [0x10, 2, 2, 0, 0xAA])) dev = [Code.badLength] := by decide +kernel
/-- A transaction of the host that is queued on port 0. -/
def txn : I2cTxn := { host := some (i2cRow.ticket (ask 0x0210 [])), pipe := none, target := 0x10, data := [0xAA], readLen := 2 }
/-- The device with that transaction queued. -/
def bus : State := { dev with ports := [(0, { port with i2cQueue := [txn] })] }
theorem test_i2c_starts : ((bus.port 0).nextTxn.map Prod.fst) = some txn ∧ bus.frontOn 0 = true ∧
    ((after (.i2cTransactionStart 5 0 false false) bus).port 0).i2cBus = some txn := by decide +kernel
theorem test_i2c_done : (after (.i2cTransactionEnd 9 0 (.done [1, 2])) (after (.i2cTransactionStart 5 0 false false) bus)).out.filterMap
    (fun | .packet _ p _ => some p.data | _ => none) = [[0, 0, 0, 0, 1, 2]] := by decide +kernel
theorem test_i2c_timeout : (after (.i2cTimeout 9 0) (after (.i2cTransactionStart 5 0 false false) bus)).out.filterMap
    (fun | .packet _ p _ => some (p.data.take 4) | _ => none) = [[3, 0, 0, 0]] := by decide +kernel

/-! ## The front end -/

theorem test_curve : dev.takes loadCurveRow (ask 0x0310 (zeros 1032)) ∧ nonDecreasing [0, 0, 5, 5] = true ∧
    nonDecreasing [1, 0] = false := ⟨takes_dev (o := loadCurveRow) (by decide +kernel), by decide +kernel⟩
theorem test_curve_last : dev.takes loadCurveRow (ask 0x0310 ([23, 4, 0, 0] ++ zeros 546)) ∧
    dev.takes loadCurveRow (ask 0x0310 ([23, 5, 0, 0] ++ zeros 546)) ∧ dev.takes loadCurveRow (ask 0x0310 ([24, 4, 0, 0] ++ zeros 546)) ∧
    dev.takes loadCurveRow (ask 0x0310 ([0, 0, 0, 0, 1, 0, 0, 0] ++ zeros 1024)) :=
  ⟨takes_dev (o := loadCurveRow) (by decide +kernel), takes_dev (o := loadCurveRow) (by decide +kernel),
    takes_dev (o := loadCurveRow) (by decide +kernel), takes_dev (o := loadCurveRow) (by decide +kernel)⟩
/-- One defect at row `y`, column `x`, from START 0 on. -/
def defect (p x y : Nat) : List Byte := [BitVec.ofNat 8 p, 0, 0, 0, 1, 0, 0, 0] ++ leBytes 4 (x + 4096 * y)
theorem test_defects : cam.takes loadDefectsRow (ask 0x0311 (defect 0 3 1)) := (by decide +kernel : _ = Gate.run)
theorem test_defects_load : ((after (.loadDefects (ask 0x0311 (defect 0 3 1))) cam).pipe 0).shadow.defects = [4099] := by decide +kernel
theorem test_defects_outside : answers (.loadDefects (ask 0x0311 (defect 0 4 1))) cam = [Code.notPermitted] ∧
    answers (.loadDefects (ask 0x0311 (defect 24 3 1))) cam = [Code.notPermitted] := by decide +kernel

/-- SET_EXPOSURE of pipeline 0 with one write of one byte, and a target. -/
def expose (has : Bool) (t : Nat) : List Byte := [0, 1, 0x20, if has then 1 else 0] ++ leBytes 4 t ++ [1, 0xAB]
/-- Heron unit 0, of latency 1, serves pipeline 0. -/
def heron : State := { cam with herons := [(0, { Heron.reset with assign := 0x100 })] }
theorem test_exposure_plain : cam.takes setExposureRow (ask 0x0320 (expose false 0)) ∧ cam.streams 0 = true ∧ cam.heronOf 0 = none ∧
    dev.streams 0 = false ∧ dev.takes setExposureRow (ask 0x0320 (expose false 0)) :=
  ⟨(by decide +kernel : _ = Gate.run), by decide +kernel, by decide +kernel, by decide +kernel, (by decide +kernel : _ = Gate.run)⟩
theorem test_exposure_heron : heron.takes setExposureRow (ask 0x0320 (expose true 1)) ∧ heron.heronOf 0 = some 0 ∧
    (heron.heron 0).latency = 1 ∧ (heron.pipe 0).lastEnded = none :=
  ⟨(by decide +kernel : _ = Gate.run), by decide +kernel, by decide +kernel, by decide +kernel⟩
/-- A is frame 1 before any frame: a target of 0 is late, 1 is met, 255 is the last one taken. -/
theorem test_exposure_targets : ([(true, 0), (true, 1), (true, 255), (false, 0)].map fun x =>
    ((after (.setExposure (ask 0x0320 (expose x.1 x.2))) heron).pipe 0).exposures.map fun e => (e.frame.toNat, e.late)) =
    [[(1, true)], [(1, false)], [(255, false)], [(1, false)]] := by decide +kernel
theorem test_exposure_far : answers (.setExposure (ask 0x0320 (expose true 256))) heron = [Code.notPermitted] := by decide +kernel
/-- A command that waits for frame 1. -/
def planned : ExposureCmd :=
  { ticket := setExposureRow.ticket (ask 0x0320 []), target := 0, frame := 1, late := false, uncertain := false, unit := some 0
    txns := [], sent := 0, due := false, failed := none, lastStop := none }
theorem test_exposure_full : answers (.setExposure (ask 0x0320 (expose true 1)))
    (heron.updPipe 0 fun x => { x with exposures := List.replicate 8 planned }) = [Code.queueFull] := by decide +kernel

/-- The frame of `shot` ended: both rows are pad rows. -/
def ended : State := after (.frameEnd 200 0) shot
theorem test_row_ready : ((ended.pipe 0).frames.find? fun j => decide (j.feRow < j.port.height)).any (fun j => !j.delivered &&
    (ended.pipe 0).fe.hasRows j.port j.frame (j.feRow - 5) (j.settings.lastNeeded j.port j.feRow)) = true := by decide +kernel
/-- Row 0 of it is encoded. -/
def row0 : State := after (.encodedRowFinal 210 0 false) ended
theorem test_row_encoded : (row0.pipe 0).fe.encoded.map (fun e => (e.row, e.codes.length, e.pad)) = [(0, 4, true)] := by decide +kernel
theorem test_row_fallback : (((row0.pipe 0).frames.find? fun j => !j.delivered && decide (j.fbRow < j.port.height)).any fun j =>
    ((row0.pipe 0).fe.encoded.find? fun e => e.frame == j.frame && e.row == j.fbRow).isSome) = true ∧
    ((row0.pipe 0).frames.all fun j => !(row0.begin 220).deviceWaits j.settings.fbBase) = true ∧
    ((after (.fallbackRowWrite 220 0 false .none) row0).pipe 0).frames.map (fun j => j.fbRow) = [1] := by decide +kernel
theorem test_row_stripe : ((((row0.pipe 0).frames.filter fun j => !j.idle && !j.delivered).findSome? fun j =>
    (j.nextWrite (row0.mapping (row0.pipe 0).mappingId).image).map fun w => (j.frame, w)) = some (0, (0, 0))) ∧
    ((after (.stripeRowWrite 220 0 .none) row0).pipe 0).frames.map (fun j => j.write) = [(0, 1)] := by decide +kernel
/-- Both rows are encoded. -/
def rows2 : State := after (.encodedRowFinal 230 0 false) row0
theorem test_stats : ((rows2.pipe 0).frames.find? fun j => !j.statsDone).any (fun j => j.endTime.isSome &&
    decide (j.port.height ≤ j.feRow)) = true ∧ (rows2.begin 240).deviceWaits (rows2.pipe 0).live.statsBase = false ∧
    ((after (.statsPacketWrite 240 0 false .none) rows2).pipe 0).statsSeq = 1 := by decide +kernel
theorem test_stats_full :
    let s := rows2.updPipe 0 fun x => { x with statsProducer := 1, live := { x.live with statsRing := 0x1000_0000_0000 } }
    (s.pipe 0).live.statsSlotsM1 = 1 ∧ (s.pipe 0).statsFull = true ∧
    ((after (.statsPacketWrite 240 0 false .none) s).pipe 0).statsDropped = 1 := by decide +kernel

/-! ## A mapping: one MATMUL of a token row of 128 features by 8 outputs, all in the scratchpad -/

/-- A field of a table, from its lowest bit on. -/
def at_ (lo v : Nat) : Nat := v * 2 ^ lo

/-- A level of Table 06-8: MEM, and the extents in the order of Table 06-7; the order of dimensions 0 to 5 above level 0. -/
def levelBytes (mem : Nat) (ext : List Nat) : List Byte :=
  leBytes 32 (at_ 190 mem + at_ 170 (if mem = 0 then 0 else 0 + 8 * 1 + 64 * 2 + 512 * 3 + 4096 * 4 + 32768 * 5)
    + at_ 40 (ext.getD 0 0) + at_ 20 (ext.getD 1 0) + ext.getD 2 0 + at_ 104 (ext.getD 3 0) + at_ 84 (ext.getD 4 0)
    + at_ 64 (ext.getD 5 0))

/-- A tensor of Table 06-2 without folds: location, layout, REF, base, C, H, W, W_ALLOC, row pitch, block pitch, shift base. -/
def tensorBytes (loc layout ref base c h w alloc pitch block shift : Nat) : List Byte :=
  leBytes 1 loc ++ leBytes 1 layout ++ zeros 2 ++ leBytes 4 ref ++ leBytes 8 base ++ leBytes 4 1 ++ leBytes 4 c ++ leBytes 4 h
    ++ leBytes 4 w ++ leBytes 4 alloc ++ leBytes 4 pitch ++ leBytes 4 block ++ leBytes 4 0 ++ leBytes 8 shift ++ zeros 8

/-- An operator of Table 06-3 on tensors 0, 1 and 2: kind, segment, window, and where its two levels, its 64 bytes of channel
entries and its bank plan begin, one after the other. -/
def opBytes (kind seg window base : Nat) : List Byte :=
  leBytes 1 kind ++ leBytes 1 2 ++ leBytes 2 seg ++ leBytes 4 0 ++ leBytes 4 0 ++ leBytes 2 0 ++ leBytes 2 1
    ++ leBytes 2 2 ++ leBytes 2 0 ++ leBytes 4 base ++ leBytes 4 (base + 64) ++ leBytes 4 (base + 192) ++ leBytes 8 window
    ++ leBytes 8 0 ++ zeros 80

/-- An image of some operators of one kind, one for each segment listed, with two levels of the given extents, up to 16 channel
entries, a bank plan that claims COMPUTE everywhere, three tensors, rings and residencies of 32 bytes each, and CHECK1536130550. -/
def imageWith (kind window : Nat) (segs : List Nat) (ext0 ext1 : List Nat) (tensors rings resids : List (List Byte)) (sum : Nat) :
    List Byte :=
  let loop := 64 + 128 * segs.length
  let off := loop + 448
  leBytes 4 0x4D51_4150 ++ leBytes 2 1 ++ leBytes 2 segs.length ++ leBytes 4 (off + 64 * (rings.length + resids.length)) ++ leBytes 4 sum
    ++ leBytes 2 3 ++ leBytes 2 rings.length ++ leBytes 2 resids.length ++ leBytes 2 0 ++ leBytes 4 64 ++ leBytes 4 (loop + 256)
    ++ leBytes 4 (if rings.isEmpty then 0 else off) ++ leBytes 4 (if resids.isEmpty then 0 else off + 64 * rings.length)
    ++ leBytes 4 32 ++ leBytes 20 0
    ++ segs.flatMap (fun g => opBytes kind g window loop)
    ++ levelBytes 0 ext0 ++ levelBytes 1 ext1 ++ zeros 128 ++ List.replicate 64 0x55
    ++ tensors.flatten ++ (rings ++ resids).flatMap fun r => r ++ zeros 32

/-- The MATMUL's tensors, A at a location and base. -/
def tokens (loc base : Nat) : List (List Byte) :=
  [tensorBytes loc 2 0 base 128 1 1 128 64 0 (base + 64), tensorBytes 2 3 0 128 8 128 1 16 0 1024 0,
   tensorBytes 2 2 0 1152 8 1 1 128 64 0 1216]
/-- MATMULs with given segments, A's place, and residencies. -/
def imageOf (segs : List Nat) (loc base : Nat) (resids : List (List Byte)) (sum : Nat) : List Byte :=
  imageWith 0 0x0001_0101_0101_0100 segs [1, 8, 64, 1, 1, 1] [1, 8, 128, 1, 1, 1] (tokens loc base) [] resids sum
/-- One MATMUL, all in the scratchpad. -/
def image : List Byte := imageOf [0] 2 0 [] 1536130550
/-- A residency of one line at line 64 whose source lies at address 0x1_0000, of 64 bytes 0. -/
def residBytes (digest : Nat) : List Byte :=
  leBytes 4 9 ++ leBytes 4 64 ++ leBytes 4 1 ++ zeros 4 ++ leBytes 8 0x1_0000 ++ leBytes 8 digest

/-! Its checksum, piece by piece. -/

/-- A run of the CRC over two pieces. -/
theorem crcRun_append {w : Nat} (p : BitVec w) (l m : List Byte) : ∀ c, crcRun p c (l ++ m) = crcRun p (crcRun p c l) m := by
  induction l with
  | nil => intro c; rfl
  | cons b t ih => intro c; exact ih _

/-- The image with CHECKSUM 0, over which the checksum is taken. -/
def rawImage : List Byte := imageOf [0] 2 0 [] 0
theorem test_crc_0 : crcRun 0x82F6_3B78#32 (BitVec.allOnes 32) (slice rawImage 0 64) = 2510411546#32 := by decide +kernel
theorem test_crc_1 : crcRun 0x82F6_3B78#32 2510411546#32 (slice rawImage 64 64) = 3510858873#32 := by decide +kernel
theorem test_crc_2 : crcRun 0x82F6_3B78#32 3510858873#32 (slice rawImage 128 64) = 1465436932#32 := by decide +kernel
theorem test_crc_3 : crcRun 0x82F6_3B78#32 1465436932#32 (slice rawImage 192 64) = 165280131#32 := by decide +kernel
theorem test_crc_4 : crcRun 0x82F6_3B78#32 165280131#32 (slice rawImage 256 64) = 2886233494#32 := by decide +kernel
theorem test_crc_5 : crcRun 0x82F6_3B78#32 2886233494#32 (slice rawImage 320 64) = 2364758727#32 := by decide +kernel
theorem test_crc_6 : crcRun 0x82F6_3B78#32 2364758727#32 (slice rawImage 384 64) = 4141999511#32 := by decide +kernel
theorem test_crc_7 : crcRun 0x82F6_3B78#32 4141999511#32 (slice rawImage 448 64) = 3789768623#32 := by decide +kernel
theorem test_crc_8 : crcRun 0x82F6_3B78#32 3789768623#32 (slice rawImage 512 64) = 2770595543#32 := by decide +kernel
theorem test_crc_9 : crcRun 0x82F6_3B78#32 2770595543#32 (slice rawImage 576 64) = 2758836745#32 := by decide +kernel
theorem test_image_pieces : rawImage =
    slice rawImage 0 64 ++ (slice rawImage 64 64 ++ (slice rawImage 128 64 ++ (slice rawImage 192 64 ++
    (slice rawImage 256 64 ++ (slice rawImage 320 64 ++ (slice rawImage 384 64 ++ (slice rawImage 448 64 ++
    (slice rawImage 512 64 ++ (slice rawImage 576 64))))))))) := by decide +kernel
theorem test_checksum : imgChecksum image = 1536130550 := by
  have e : image.take 12 ++ zeros 4 ++ image.drop 16 = rawImage := by decide +kernel
  have h : imgChecksum image =
      (~~~ crcRun 0x82F6_3B78#32 (BitVec.allOnes 32) (image.take 12 ++ zeros 4 ++ image.drop 16)).toNat := rfl
  rw [h, e, test_image_pieces]
  simp only [crcRun_append, test_crc_0, test_crc_1, test_crc_2, test_crc_3, test_crc_4, test_crc_5, test_crc_6, test_crc_7, test_crc_8, test_crc_9]
  decide
theorem test_image_header : checkHeader image 640 = none := by decide +kernel
theorem test_image_checks : checkEncoding image = none ∧ checkAlignment image = none ∧ checkLoops image = none ∧
    checkTiles image = none ∧ checkFilter image = none ∧ checkShape image = none ∧
    checkEmpty image = none ∧ checkStraddle image = none ∧ checkSegments image = none ∧
    checkRingGraph image = none ∧ checkRingSlots image = none ∧ checkBuffers image = none ∧
    checkAcc image = none ∧ checkCarry image = none ∧ checkBankPlan image = none := by
  refine ⟨?_, ?_, ?_, ?_, ?_, ?_, ?_, ?_, ?_, ?_, ?_, ?_, ?_, ?_, ?_⟩ <;> decide +kernel
theorem test_image_sum : chkH ((imgHeader image).checksum == imgChecksum image) 0x03 Code.notPermitted (imgHeader image).checksum
    (imgChecksum image) = none := by
  rw [test_checksum]
  decide +kernel
/-- The image passes every load check of a device with room in its store and no quarter in CACHE mode (R168). -/
theorem test_image_loads (s : State) (h : 640 ≤ s.storeFree) (hp : s.checkPoolMode image 1 0xFF = none) :
    s.loadChecks image 640 1 = none := by
  have room : chkH (decide (640 ≤ s.storeFree)) 0x04 Code.bufferOvercommit 640 s.storeFree = none := by
    rw [decide_eq_true h]
    rfl
  unfold State.loadChecks
  rw [test_image_header]
  simp only [test_image_sum, room, hp, test_image_checks]
  rfl

/-! ## A job of one block -/

/-- An image loaded as mapping 0, for region 0. -/
def mapped (l : List Byte) : State := { dev with mappings := [(0, { Mapping.reset with
  state := .loaded, image := l, regionMask := 1, accElems := 256, carryEntries := 0 })] }
/-- LAUNCH_JOB of mapping 0 on block 0 of region 0. -/
def launch : Req := ask 0x04A0 [0, 0, 0, 0, 1, 0, 0, 0]
/-- The job is placed, and takes its first segment. -/
def launched (l : List Byte) : State := after (.launchJob launch) (mapped l)
def placed (l : List Byte) : State := after (.placement 10 (.job 1)) (launched l)
def segmented (l : List Byte) : State := after (.segmentStart 20 0 (.job 1)) (placed l)
/-- Its first step runs. -/
def stepping : State := after (.stepStart 30 0 .none) (segmented image)
/-- Its two steps have ended. -/
def step1 : State := after (.stepEnd 1000 0 .clean) stepping
def step2 : State := after (.stepEnd 2000 0 .clean) (after (.stepStart 1000 0 .none) step1)

theorem test_launch : (mapped image).takes (opRow 0x04A0 8 true) launch ∧ answers (.launchJob launch) (mapped image) = [Code.accepted] ∧
    (launched image).jobs.map (fun j => j.id.toNat) = [1] :=
  ⟨(by decide +kernel : _ = Gate.run), by decide +kernel, by decide +kernel⟩
theorem test_launch_last : (after (.launchJob launch) { mapped image with nextJob := 0xFFFF_FFFF }).nextJob = 1 := by decide +kernel
theorem test_place : ((launched image).begin 10).wantsPlace (.job 1) = true ∧ ((launched image).begin 10).domainsOn (.job 1) = true ∧
    ((launched image).begin 10).placeBusy (.job 1) = false ∧ ((launched image).begin 10).slotsShort 1 = false ∧
    ((launched image).begin 10).placeReport (.job 1) = none ∧ ((launched image).begin 10).toCopy (.job 1) = [] ∧
    ((placed image).block 0).threads.length = 1 ∧ (placed image).jobs.map (fun j => j.state) = [.running] := by decide +kernel
theorem test_segment : ((placed image).begin 20).wantsPlace (.job 1) = false ∧
    (((segmented image).block 0).threadOf (.job 1)).any (fun t => t.unit.isSome) = true := by decide +kernel
theorem test_step_next : ((segmented image).block 0).fenced = false ∧ ((segmented image).block 0).resetting = false ∧
    ((segmented image).block 0).testing = false ∧ (stepping.block 0).lookahead.length = 0 ∧
    ((after (.stepStart 40 0 .none) stepping).block 0).lookahead.length = 1 := by decide +kernel
theorem test_step : (stepping.block 0).running.map (fun w => (w.kind, w.step.op, w.index)) = some (.normal, 0, 0) := by decide +kernel
theorem test_step_early : (stepping.block 0).running.any (fun w => decide ((stepping.begin 30).now * 8 < w.start.toNat * 8 + w.cycles * w.divider)
    && decide (w.start.toNat * 8 + w.cycles * w.divider ≤ 1000 * 8)) = true ∧
    ((after (.stepEnd 30 0 .clean) stepping).block 0).running.isSome = true := by decide +kernel
theorem test_step2 : (step2.block 0).running = none ∧ ((step2.block 0).threadOf (.job 1)).map (fun t => t.unit.map fun u =>
    (u.groups.map fun g => (g.emitted.isSome, g.retired, g.replaying))) = some (some [(true, false, false)]) := by decide +kernel

/-! ## Residencies, flushes and mappings -/

/-- One MATMUL with a residency of 64 bytes 0 from DRAM. -/
def residImage : List Byte := imageOf [0] 2 0 [residBytes 16020564623924143106] 0
/-- DRAM with a run of bytes at an address; unlisted bytes read 0. -/
def dramAt (a : Nat) (l : List Byte) (s : State) : State :=
  { s with mem := { s.mem with dram := l.mapIdx fun i x => (a + i, x) } }
/-- The same device with its queues at sequence 0 again. -/
def fresh (s : State) : State := { s with eth := [(0, eth), (1, eth)] }
/-- RELEASE_RESIDENT of ID 9 on block 0. -/
def release : Req := ask 0x0430 (leBytes 4 9 ++ leBytes 8 1)
theorem test_release : dev.takes (opRow 0x0430 12) release ∧ answers (.releaseResident release) dev = [Code.ok] :=
  ⟨(by decide +kernel : _ = Gate.run), by decide +kernel⟩
/-- Block 0 has a thread of mapping 0, whose image is now the one with the residency. -/
def bound : State := { fresh (placed image) with mappings := [(0, { Mapping.reset with
  state := .loaded, image := residImage, regionMask := 1, accElems := 256, carryEntries := 0 })] }
theorem test_release_bound : ((bound.block 0).threads.any fun t => bound.binds t 9) = true ∧
    answers (.releaseResident release) bound = [Code.notPermitted] := by decide +kernel
theorem test_flush : dev.takes (opRow 0x0431 4 true) (ask 0x0431 [3, 0, 0, 0]) ∧ dev.takes (opRow 0x0431 4 true) (ask 0x0431 [255, 0, 0, 0]) ∧
    dev.takes (opRow 0x0431 4 true) (ask 0x0431 [4, 0, 0, 0]) :=
  ⟨(by decide +kernel : _ = Gate.run), (by decide +kernel : _ = Gate.run), (by decide +kernel : _ = Gate.run)⟩
/-- Region 0 holds a dirty line of address 640. -/
def dirty : State := { dev with regions := [(0, { Region.reset with
  poolLive := 1, cache := [⟨10, List.replicate 64 7, true, false, 0⟩] })] }
/-- DRAM is being zeroed. -/
def withZeroing (s : State) : State := { s with mem := { s.mem with zeroing := true } }
/-- A flush has noted it. -/
def flushing : State := after (.poolFlush (ask 0x0431 [0, 0, 0, 0])) dirty
theorem test_flush_done : flushing.flushes.map (fun f => f.lines) = [[(0, 10)]] ∧
    ((after (.poolFlushDone 5) flushing).mem.dram.bytes 640 64) = List.replicate 64 7 ∧
    ((after (.poolFlushDone 5) flushing).region 0).cache.map (fun l => l.dirty) = [false] := by decide +kernel
theorem test_flush_serves : (flushing.begin 5).dramServes = true ∧ (flushing.begin 5).writeBackWaits 0 = false ∧
    ((withZeroing flushing).begin 5).writeBackWaits 0 = true := by decide +kernel
theorem test_switch : let s := { dev with regions := [(0, { Region.reset with poolLive := 1, switching := some 0 })], pool := [(5, 1)] }
    (s.region 0).switching = some 0 ∧ (after (.quarterSwitchLive 5 0) s).pool = [] ∧
    ((after (.quarterSwitchLive 5 0) s).region 0).poolLive = 0 := by decide +kernel

/-- LOAD_MAPPING of mapping `id` from an address for the regions of a mask. -/
def loadReq (id addr mask : Nat) : Req := ask 0x0450 (leBytes 2 id ++ leBytes 1 mask ++ [0] ++ leBytes 8 addr ++ leBytes 4 640)
theorem test_load_takes : dev.takes (opRow 0x0450 16 true) (loadReq 0 0x1_0000 1) ∧ (dev.mapping 0).state = .empty :=
  ⟨(by decide +kernel : _ = Gate.run), by decide +kernel⟩
theorem test_load_answers : ([(0, 0x1_0000, 1), (1023, 0x1_0000, 15), (1024, 0x1_0000, 1), (0, 0x1_0000, 16), (0, 0x1_0001, 1)].map fun x =>
    answers (.loadMapping (loadReq x.1 x.2.1 x.2.2) .none) dev) =
    [[Code.accepted], [Code.accepted], [Code.notPermitted], [Code.notPermitted], [Code.sluiceMisaligned]] := by decide +kernel
theorem test_load_used : ((mapped image).mapping 0).state ≠ .empty ∧ (mapped image).takes (opRow 0x0450 16 true) (loadReq 0 0x1_0000 1) ∧
    answers (.loadMapping (loadReq 0 0x1_0000 1) .none) (mapped image) = [Code.notPermitted] :=
  ⟨by decide +kernel, (by decide +kernel : _ = Gate.run), by decide +kernel⟩
/-- What host pages answer from an address on: whole granules. -/
def hostHas (a : Nat) (l : List Byte) : MemFindings :=
  { MemFindings.none with remote := (List.range (l.length / 64)).map fun i => ⟨a / 64 + i, slice l (64 * i) 64, false, false, false⟩ }
/-- Page 0 of the device is mapped to host memory. -/
def hosted (s : State) : State := { s with mem := { s.mem with pcieLink := true, carr := [(0, 0x1B)] } }
/-- A load of mapping 0 from it is accepted, and its image copied. -/
def loading (l : List Byte) : State := after (.loadMapping (loadReq 0 0x1_0000 1) (hostHas 0x1_0000 l)) (hosted dev)
def load0 (l : Option (List Byte)) : MapLoad := ⟨(opRow 0x0450 16 true).ticket (loadReq 0 0x1_0000 1), 0, 1, 0x1_0000, 640, true, l⟩
theorem test_load_copies : (loading image).loads = [load0 (some image)] ∧ (loading (zeros 640)).loads = [load0 (some (zeros 640))] ∧
    (loading (zeros 576)).loads = [load0 none] ∧ (loading image).phase = .ready := by decide +kernel
/-- While DRAM does not serve, the copy of an image in it waits. -/
theorem test_load_waits : let s := { dev with mem := { dev.mem with zeroing := true, carr := [(0, 0x19)] } }
    s.takes (opRow 0x0450 16 true) (loadReq 0 0x1_0000 1) ∧ (s.begin 0).deviceWaits 0x1_0000 = true :=
  ⟨(by decide +kernel : _ = Gate.run), by decide +kernel⟩
theorem test_load_passes : (((loading image).begin 5).copyImage (load0 (some image)) .none).2.loadChecks image 640 1 = none :=
  test_image_loads _ (by decide +kernel) (by decide +kernel)
/-- The load completes with a report of check 0x02: MAGIC was 0. -/
theorem test_load_fails : (after (.loadMappingDone 5 .none) (loading (zeros 640))).out.filterMap (fun | .packet _ p _ => some p.data | _ => none) =
    [[5, 1, 2, 0xFF, 0, 0, 0xFF, 1, 0, 0, 0, 0, 0x50, 0x41, 0x51, 0x4D]] := by decide +kernel
/-- UNLOAD_MAPPING of mapping 0. -/
def unload : Req := ask 0x0451 [0, 0, 0, 0]
theorem test_unload : (mapped image).takes (opRow 0x0451 4) unload ∧ (mapped image).mappingUsed 0 = false ∧
    (fresh (placed image)).takes (opRow 0x0451 4) unload ∧ (placed image).mappingUsed 0 = true :=
  ⟨(by decide +kernel : _ = Gate.run), by decide +kernel, (by decide +kernel : _ = Gate.run), by decide +kernel⟩
theorem test_unloads : answers (.unloadMapping unload) (mapped image) = [Code.ok] ∧
    answers (.unloadMapping unload) (fresh (placed image)) = [Code.notPermitted] := by decide +kernel

/-! ## Placement -/

/-- Block 0 holds 256 threads: the job lacks a slot. -/
def full : State := (launched image).updBlock 0 fun x => { x with
  threads := ((placed image).block 0).threads.flatMap (List.replicate 256) }
theorem test_place_held : (full.begin 10).wantsPlace (.job 1) = true ∧ (full.begin 10).domainsOn (.job 1) = true ∧
    (full.begin 10).placeBusy (.job 1) = false ∧ (full.begin 10).slotsShort 1 = true ∧
    ((full.begin 10).targets (.job 1)).all (fun b => !((full.begin 10).block b).fenced) = true ∧
    (after (.placement 10 (.job 1)) full).jobs.map (fun j => j.state) = [.held] := by decide +kernel
/-- The mapping is not for region 0: check 0x20. -/
def misplaced : State := { launched image with mappings := [(0, { Mapping.reset with state := .loaded, image := image, regionMask := 2 })] }
theorem test_place_fails : (misplaced.begin 10).wantsPlace (.job 1) = true ∧ (misplaced.begin 10).slotsShort 1 = false ∧
    ((misplaced.begin 10).placeReport (.job 1)).map (fun r => r.check) = some 0x20 ∧
    (after (.placement 10 (.job 1)) misplaced).jobs = [] := by decide +kernel
/-- A residency is to be copied first. -/
def copying : State := after (.placement 10 (.job 1)) (launched residImage)
theorem test_place_copies : ((launched residImage).begin 10).wantsPlace (.job 1) = true ∧
    ((launched residImage).begin 10).domainsOn (.job 1) = true ∧ ((launched residImage).begin 10).placeBusy (.job 1) = false ∧
    ((launched residImage).begin 10).slotsShort 1 = false ∧ ((launched residImage).begin 10).placeReport (.job 1) = none ∧
    ((launched residImage).begin 10).toCopy (.job 1) = [9] ∧ copying.placings = [⟨.job 1, [9]⟩] := by decide +kernel

/-- Pipeline 0 of `cam` starts, with mapping 0. -/
def starting (l : List Byte) : State := { cam with
  mappings := (mapped l).mappings, pipes := [(0, { pipe with
    stream := .starting, set := 0x0001_0000_0400, blocks := 0, live := { pipe.live with fbBuffer := 0x1_0000_0000_0000, output := 0x0040_0200_0200_0000 }, resultRing := 0x1_0000_0000_0000_0000_0000, ticket := some ((opRow 0x0490 4 true).ticket (ask 0x0490 [])) })] }
theorem test_start_fails : ((starting image).begin 10).wantsPlace (.pipeline 0) = true ∧
    ((starting image).begin 10).domainsOn (.pipeline 0) = true ∧ ((starting image).begin 10).placeBusy (.pipeline 0) = false ∧
    (((starting image).begin 10).placeReport (.pipeline 0)).map (fun r => r.check) = some 0x30 ∧
    ((after (.placement 10 (.pipeline 0)) (starting image)).pipe 0).stream = .stopped := by decide +kernel
/-- A 1 by 1 convolution of the three channel blocks of 4 by 2 pixels that a STRIPE_IN ring of 3 slots holds. -/
def streamImage : List Byte := imageWith 1 0x0001_0101_0101_0100 [0] [1, 16, 16, 1, 4, 1] [1, 16, 48, 2, 4, 1]
  [tensorBytes 3 0 0 0 48 2 4 8 64 128 0, tensorBytes 2 3 0 0 16 48 1 16 0 384 0, tensorBytes 2 0 0 384 16 2 4 8 64 128 512]
  [leBytes 2 0 ++ [1, 3] ++ leBytes 2 1 ++ leBytes 2 1 ++ leBytes 2 0xFFFF ++ leBytes 2 0 ++ leBytes 4 64 ++ zeros 16] [] 0
theorem test_start_streams : ((starting streamImage).begin 10).wantsPlace (.pipeline 0) = true ∧
    ((starting streamImage).begin 10).domainsOn (.pipeline 0) = true ∧ ((starting streamImage).begin 10).placeBusy (.pipeline 0) = false ∧
    ((starting streamImage).begin 10).placeReport (.pipeline 0) = none ∧ ((starting streamImage).begin 10).toCopy (.pipeline 0) = [] ∧
    ((after (.placement 10 (.pipeline 0)) (starting streamImage)).pipe 0).stream = .streaming := by decide +kernel

/-! ## Residencies -/

/-- The page of the residency's source is host memory. -/
def copyHost : State := hosted copying
/-- The residency's entry. -/
def resid9 : ImgResid := ⟨9, 64, 1, 0x1_0000, 16020564623924143106, true⟩
theorem test_copy_needs : (copyHost.placings.any fun p => p.owner == .job 1 && p.copies.contains 9) = true ∧
    (imgResids (copyHost.mapping (copyHost.ownerMapping (.job 1))).image).find? (fun r => r.id == (9 : BitVec 32).toNat) = some resid9 ∧
    64 * (resid9.line + resid9.lines) ≤ 0x30_0000 ∧ (copyHost.begin 20).deviceWaits resid9.source = false := by decide +kernel
/-- 64 bytes 0 meet the digest; 64 bytes 1 do not. -/
theorem test_copy_good : ([0, 1].map fun x => ((copyHost.begin 20).readVa resid9.source (64 * resid9.lines)
    (hostHas 0x1_0000 (List.replicate 64 x)) (ownerReader (.job 1) 0)).1.any fun v =>
    !v.2 && v.1.length == 64 && (crc64 v.1).toNat == resid9.digest) = [true, false] := by decide +kernel
/-- Two residencies are outstanding: one copy lands, the other is still to come. -/
def copyTwo : State := { copyHost with placings := [⟨.job 1, [9, 10]⟩] }
theorem test_copy_lands : (copyTwo.placings.all fun p => p.owner != .job 1 || p.copies.any fun c => c != 9) = true ∧
    (after (.residencyCopy 20 (.job 1) 9 (hostHas 0x1_0000 (zeros 64))) copyTwo).placings = [⟨.job 1, [10]⟩] := by decide +kernel
theorem test_copy_fails : (after (.residencyCopy 20 (.job 1) 9 .none) copyHost).jobs = [] := by decide +kernel
/-- Block 0 refills residency 9, whose line is bad. -/
def refilling : State := hosted { dev with blocks := [(0, { Block.reset with residents := [⟨9, 64, 1, 0x1_0000, 0, true, []⟩] })], spadPoison := [64] }
theorem test_refill : ((refilling.block 0).residents.find? fun r => r.id == 9 && r.refilling).isSome = true ∧ refilling.lineBad 0 64 = true ∧
    (((after (.residencyRefill 5 0 9 (hostHas 0x1_0000 (zeros 64))) refilling).block 0).residents.map fun r => (r.refilling, r.failed)) = [(false, [])] := by decide +kernel

/-! ## Segments and staging -/

/-- The job of two operators, in segments 0 and 1; segment 0 is done. -/
def seg0 : State := (segmented (imageOf [0, 1] 2 0 [] 0)).updBlock 0 fun x => x.updThread (.job 1) fun t => { t with
  unit := t.unit.map fun u => { u with segmentDone := true } }
theorem test_segment_next : ((after (.segmentStart 30 0 (.job 1)) seg0).block 0).threads.map (fun t => t.unit.map fun u =>
    (u.segment, u.segmentDone)) = [some (1, false)] := by decide +kernel
/-- The job whose A operand lies in DRAM and is staged at level 1. -/
def staging : State := segmented (imageOf [0] 0 0x1_0000 [] 0)
theorem test_stage : ((staging.begin 30).ctx 0 (.job 1)).any (fun c => (staging.begin 30).threadRuns c && stagedAt c.image (c.op 0) 1 .a
    && (segmentOps c.image c.run.segment).contains 0 && c.wanted 0 1 == [[0, 0, 0, 0, 0, 0]] && c.sourceReady 0 1 .a [0, 0, 0, 0, 0, 0]
    && (c.stagedTile 0 1 .a [0, 0, 0, 0, 0, 0]).isNone && c.inSlot 0 1 .a == some 0) = true ∧ (staging.block 0).holdsFor (.job 1) = false ∧
    (((after (.stagingComplete 40 0 (.job 1) 0 1 .a [0, 0, 0, 0, 0, 0] .none) staging).ctx 0 (.job 1)).map fun c =>
      c.run.staged.map fun e => (e.op, e.level, e.line)) = some [(0, 1, 0)] := by decide +kernel
theorem test_segment_first : let s := (placed image).begin 20
    ((placed image).block 0).threads.map (fun t => (t.unit, s.nextUnit 0 t)) = [(none, some (1, 0))] ∧
    (s.unitPlace 0 (.job 1) (1, 0)).any (fun p => !p.idleIn ((segments p.image).headD 0)) = true := by decide +kernel
theorem test_segment_over : let s := seg0.begin 30
    (s.unitPlace 0 (.job 1) (1, 0)).any (fun p => (segments p.image).find? (fun g => decide (0 < g)) == some 1 && !p.idleIn 1) = true ∧
    (s.unitBlocks (.job 1) (1, 0)).all (fun c => s.segmentOver c (.job 1) (1, 0) 0) = true := by decide +kernel

/-! ## Steps -/

/-- What a block chooses: nothing, a check replay, a referee's step, a scale replay, a step of one operator. -/
def chosen : Option Choice → Nat
  | none => 0
  | some (.checkReplay _) => 1
  | some (.referee _ _) => 2
  | some (.scale _ _ _ _) => 3
  | some (.step _ ops) => if ops = [0] then 4 else 5
/-- What holds of the context of a chosen step. -/
def ofStep (f : Ctx → Bool) : Option Choice → Bool
  | some (.step c _) => f c
  | _ => false
theorem test_choose : chosen ((segmented image).choose 0) = 4 ∧ ((segmented image).block 0).running = none ∧
    ((segmented image).domain 0).isOn = true ∧ ofStep (fun c => ((c.walk 0)[c.startedOf 0]?).any (fun st => st.first
      && (c.op 0).isMultiplier && (((segmented image).begin 30).countTile c st |>.ctx c.b c.o).any fun d =>
        ((d.walk 0)[d.startedOf 0]?).isSome)) ((segmented image).choose 0) = true := by decide +kernel
theorem test_store : ((after (.stepStart 30 0 { MemFindings.none with store := true }) (segmented image)).mapping 0).unusable = true := by
  decide +kernel
/-- The running step of `stepping` is checked, and its comparison fails. -/
def checkedStep : State := stepping.updBlock 0 fun x => { x with running := x.running.map fun w => { w with checked := true } }
def owing : State := after (.stepEnd 1000 0 (.lanes [⟨some 0, 0, 0, 1⟩])) checkedStep
theorem test_check_fails : (checkedStep.block 0).running.any (fun w => w.kind == .normal && w.checked) = true ∧
    (owing.block 0).owed.any (fun w => !w.referee && w.cells == 1) = true ∧
    chosen (owing.choose 0) = 1 := by decide +kernel
theorem test_check_replay : (after (.stepStart 1010 0 .none) owing |>.block 0).running.map (fun w => w.kind) = some .checkReplay := by
  decide +kernel
/-- The replay has failed too: the step goes to the referee, block 1. -/
def refer : State := owing.updBlock 0 fun x => { x with owed := x.owed.map fun w => { w with referee := true } }
theorem test_referee : refer.refereeOf 0 = some 1 ∧ chosen (refer.choose 1) = 2 ∧
    (after (.stepStart 1010 1 .none) refer |>.block 1).running.map (fun w => w.kind) = some (.refereeFor 0) := by decide +kernel
theorem test_step_end : (stepping.block 0).running.any (fun w => w.kind == .normal && w.group.isNone && !w.poisoned
    && w.sums.all (fun a => a.1.op == w.step.op) && w.sums.length == 8
    && (((stepping.begin 1000).ctx 0 w.owner).any fun c => c.run.id == w.unit && (c.op w.step.op).isMatmul)) = true := by decide +kernel
/-- The scale group of the finished tile. -/
def group0 : Option GroupKey := ((step2.block 0).threadOf (.job 1)).bind fun t => t.unit.bind fun u => u.groups.head?.map fun g => g.key
theorem test_group : group0.any (fun k => ((step2.begin 3000).ctx 0 (.job 1)).any fun c => (c.group k).any fun g =>
    !g.retired && g.emitted.isSome && !g.replaying && !(c.op k.op).carried) = true := by decide +kernel
theorem test_group_retires : (group0.map fun k => (((after (.groupRetire 3000 0 (.job 1) k) step2).block 0).arith.get 0).toNat) = some 1 := by
  decide +kernel
/-- Its scale replay is owed. -/
def replaying : State := step2.updBlock 0 fun x => x.updThread (.job 1) fun t => { t with
  unit := t.unit.map fun u => { u with groups := u.groups.map fun g => { g with replaying := true, replayStep := 0 } } }
theorem test_scale : chosen (replaying.choose 0) = 3 ∧
    (after (.stepStart 3000 0 .none) replaying |>.block 0).running.map (fun w => w.kind) = some .scaleReplay := by decide +kernel

/-! ## Streams, deadlines, jobs -/

/-- Pipeline 0 is stopped and ready to start. -/
def stoppedCam : State := { starting streamImage with pipes := [(0, { (starting streamImage).pipe 0 with stream := .stopped, ticket := none })] }
/-- A request on pipeline 0. -/
def onPipe (code : BitVec 16) : Req := ask code [0, 0, 0, 0]
theorem test_start : stoppedCam.takes (opRow 0x0490 4 true) (onPipe 0x0490) ∧ dev.takes (opRow 0x0490 4 true) (onPipe 0x0490) ∧
    answers (.startStream (onPipe 0x0490)) stoppedCam = [Code.accepted] ∧
    answers (.startStream (onPipe 0x0490)) dev = [Code.notPermitted] :=
  ⟨(by decide +kernel : _ = Gate.run), (by decide +kernel : _ = Gate.run), by decide +kernel, by decide +kernel⟩
theorem test_stop : cam.takes (opRow 0x0491 4 true) (onPipe 0x0491) ∧ (fresh shot).takes (opRow 0x0491 4 true) (onPipe 0x0491) ∧
    ((shot.pipe 0).frames.any fun j => !j.delivered) = true ∧ (cam.pipe 0).frames = [] :=
  ⟨(by decide +kernel : _ = Gate.run), (by decide +kernel : _ = Gate.run), by decide +kernel, by decide +kernel⟩
theorem test_stops : (([cam, shot].map fun s => ((after (.stopStream (onPipe 0x0491)) s).pipe 0).stream)) = [.stopped, .stopping] ∧
    answers (.stopStream (onPipe 0x0491)) dev = [Code.notPermitted] := by decide +kernel
theorem test_stopped : ((starting image).pipe 0).ticket.isSome = true ∧ (((starting image).stopped 0).pipe 0).stream = .stopped := by
  decide +kernel
/-- The deadline of stripe 0 of the frame. -/
def due : Nat := (((shot.pipe 0).job 0).bind fun j => (j.stripe 0).map fun x => x.deadline).getD 0
theorem test_deadline : (((rows2.pipe 0).job 0).bind fun j => (j.stripe 0).map fun x => (x.final, x.waiting, j.fallbackReady 0)) =
    some (none, false, false) ∧ (rows2.begin (BitVec.ofNat 64 (due - 1))).now < due ∧ due ≤ (rows2.begin (BitVec.ofNat 64 due)).now := by
  decide +kernel
/-- With both fallback rows final. -/
def fallen : State := after (.fallbackRowWrite 250 0 false .none) (after (.fallbackRowWrite 240 0 false .none) rows2)
/-- The stripe is final. -/
def final0 : State := after (.stripeDeadline (BitVec.ofNat 64 due) 0 0 0) fallen
/-- What a stripe's end shows. -/
def ends (s : State) : Option (Option Provenance × Bool) :=
  ((s.pipe 0).job 0).bind fun j => (j.stripe 0).map fun x => (x.final, x.waiting)
theorem test_deadlines : [ends (after (.stripeDeadline (BitVec.ofNat 64 (due - 1)) 0 0 0) fallen), ends final0,
    ends (after (.stripeDeadline (BitVec.ofNat 64 due) 0 0 0) rows2)] =
    [some (none, false), some (some .late, false), some (none, true)] := by decide +kernel
/-- A stripe waits for its last fallback row, which is final. -/
def waited : State := fallen.updStripe 0 0 0 fun x => { x with waiting := true }
theorem test_waited : ((waited.pipe 0).job 0).any (fun j => j.fallbackReady 0 && (j.stripe 0).any fun x => x.waiting) = true ∧
    ends (waited.fallbackFinal 0 0 0) = some (some .late, false) := by decide +kernel

/-- The job is held, with free slots again. -/
def held1 : State := { launched image with jobs := (launched image).jobs.map fun j => { j with state := .held } }
theorem test_held_starts : held1.jobs.map (fun j => (j.state, j.endStatus)) = [(.held, none)] ∧ (held1.begin 10).slotsShort 1 = false ∧
    (held1.begin 10).domainsOn (.job 1) = true ∧ (held1.begin 10).placeBusy (.job 1) = false ∧
    (held1.jobs.any fun j => held1.jobs.any fun b => (held1.begin 10).blocksHeld j b) = false ∧
    ((held1.begin 10).updJob 1 fun j => { j with state := .placing }).placeReport (.job 1) = none ∧
    ((held1.begin 10).updJob 1 fun j => { j with state := .placing }).toCopy (.job 1) = [] ∧
    (after (.heldJobStart 10 1) held1).jobs.map (fun j => j.state) = [.running] := by decide +kernel
/-- Job 2 of higher priority is held too, on the same block. -/
def held2 : State := { held1 with jobs := held1.jobs ++ held1.jobs.map fun j => { j with id := 2, priority := j.priority + 1 } }
theorem test_held_outranked : (held2.jobs.head?.any fun j => held2.jobs.any fun b => (held2.begin 10).blocksHeld j b) = true ∧
    (after (.heldJobStart 10 1) held2).jobs.map (fun j => j.state) = [.held, .held] := by decide +kernel
theorem test_cancel : (fresh (placed image)).takes (opRow 0x04A1 4) (ask 0x04A1 [1, 0, 0, 0]) ∧
    dev.takes (opRow 0x04A1 4) (ask 0x04A1 [1, 0, 0, 0]) ∧ dev.jobOf 1 = none ∧
    (after (.cancelJob (ask 0x04A1 [1, 0, 0, 0])) (fresh (placed image))).jobs.map (fun j => j.endStatus) = [some Code.jobCancelled] :=
  ⟨(by decide +kernel : _ = Gate.run), (by decide +kernel : _ = Gate.run), by decide +kernel, by decide +kernel⟩
/-- Its write-back waits while DRAM is being zeroed. -/
theorem test_job_waits : let s := withZeroing { after (.cancelJob (ask 0x04A1 [1, 0, 0, 0])) (fresh (placed image)) with regions := dirty.regions }
    (s.jobs.all fun j => (s.begin 30).jobOver j && decide (j.state = .running)) = true ∧ (s.begin 30).writeBackWaits 0 = true ∧
    (after (.jobEnd 30 1) s).jobs.length = 1 := by decide +kernel
theorem test_job_over : (after (.cancelJob (ask 0x04A1 [1, 0, 0, 0])) (fresh (placed image)) |>.jobs.all fun j =>
    ((after (.cancelJob (ask 0x04A1 [1, 0, 0, 0])) (fresh (placed image))).begin 30).jobOver j) = true ∧
    (after (.jobEnd 30 1) (after (.cancelJob (ask 0x04A1 [1, 0, 0, 0])) (fresh (placed image)))).jobs = [] := by decide +kernel

/-! ## Outputs -/

/-- A scaler table whose every phase sums to 256, and one that does not. -/
def scaler (x : Nat) : List Byte := [0, 0, 0, 0] ++ (List.replicate 64 (leBytes 2 x ++ leBytes 2 0 ++ leBytes 2 0 ++ leBytes 2 0)).flatten
theorem test_scaler : dev.takes (opRow 0x0B10 516) (ask 0x0B10 (scaler 256)) ∧ dev.takes (opRow 0x0B10 516) (ask 0x0B10 (scaler 255)) :=
  ⟨takes_dev (o := opRow 0x0B10 516) (by decide +kernel), takes_dev (o := opRow 0x0B10 516) (by decide +kernel)⟩
theorem test_scaler_sums : ([256, 255].map fun x => (List.range 64).all fun f => (((slice ((List.range 256).map fun k =>
    le (scaler x) (4 + 2 * k) 2) (4 * f) 4).map (toSigned 16)).sum : Int) == 256) = [true, false] := by decide +kernel
/-- The stripe's outputs are written. -/
def written0 : State := after (.outputStripeWrite (BitVec.ofNat 64 due) 0 0 0 false .none) final0
theorem test_output : (((final0.pipe 0).job 0).bind fun j => (j.stripe 0).map fun x => (x.written, x.final.isSome)) = some (false, true) ∧
    (((final0.pipe 0).job 0).all fun j => ((final0.begin 0).stripeVas 0 j 0 false).all fun a => !(final0.begin 0).deviceWaits a) = true ∧
    (((written0.pipe 0).job 0).bind fun j => (j.stripe 0).map fun x => x.written) = some true := by decide +kernel
/-- A NEURAL stripe of a frame with detections enabled. -/
def neural0 : State := (fallen.updStripe 0 0 0 fun x => { x with final := some .neural }).updPipe 0 fun x => x.updFrame 0 fun j =>
  { j with settings := { j.settings with output := j.settings.output ||| 0x80 } }
def heads0 : State := after (.headRowsRead 260 0 0 0 .none) neural0
theorem test_heads : ((neural0.pipe 0).job 0).any (fun j => j.settings.detEn && (j.stripe 0).any fun x => !x.headsRead && x.final == some .neural) = true ∧
    ((neural0.begin 260).headVas 0).any (neural0.begin 260).deviceWaits = false ∧
    ((heads0.pipe 0).job 0).any (fun j => (j.stripe 0).any fun x => x.headsRead) = true := by decide +kernel
theorem test_detections : (bestRanked (heads0.detectionQueue 0)).any (fun x => x.1 == 0 && x.2.headsDone && !x.2.delivered &&
      !(heads0.begin 270).deviceWaits (((heads0.begin 270).pipe 0).slotAt x.2 3)) = true ∧
    [false, true].map (fun e => ((after (.detectionPostprocess 270 0 ⟨e, .none⟩) heads0).pipe 0).frames.map fun j => (j.detDone, j.detValid, j.checkError)) =
    [[(true, true, false)], [(true, false, true)]] := by decide +kernel
theorem test_result : (written0.pipe 0).nextResult.any (fun j => written0.resultReady 0 j && !j.mapSent && !j.recordSent) = true ∧
    (written0.pipe 0).recordVas.any (written0.begin (BitVec.ofNat 64 due)).deviceWaits = false ∧
    (written0.begin (BitVec.ofNat 64 due)).writeBackWaits (written0.pipe 0).setRegion = false ∧
    (after (.completionRecordWrite (BitVec.ofNat 64 due) 0 .none) written0).outputsLanded 0 0 = true ∧
    ((after (.completionRecordWrite (BitVec.ofNat 64 due) 0 .none) written0).pipe 0).outProducer = 1 := by decide +kernel
/-- The completion ring lies in host memory. -/
def hostRing : State := hosted written0
theorem test_result_host : (hostRing.pipe 0).nextResult.any (fun j => hostRing.resultReady 0 j) = true ∧
    hostRing.mem.pcieLink = true ∧ ((hostRing.begin (BitVec.ofNat 64 due)).translate ((hostRing.pipe 0).compBase) true) = .host 0 ∧
    (hostRing.pipe 0).compBase % 64 = 0 := by decide +kernel

/-! ## Sluice programs -/

/-- SLUICE_START of a block's channel, with an owner, an MSI-X vector and a program address. -/
def sluice (b c kind owner vector program : Nat) : Req :=
  ask 0x0510 ([BitVec.ofNat 8 b, BitVec.ofNat 8 c, BitVec.ofNat 8 kind, 0] ++ leBytes 4 owner ++ leBytes 4 0 ++ leBytes 2 vector
    ++ leBytes 2 0 ++ leBytes 8 program ++ leBytes 8 64)
def sluiceRow : OpRow := opRow 0x0510 32 true
theorem test_sluice_start : dev.takes sluiceRow (sluice 63 15 0 0 2047 256) ∧ (fresh (placed image)).takes sluiceRow (sluice 0 0 2 1 0xFFFF 0) ∧
    dev.takes sluiceRow (sluice 0 0 0 0 2048 0) :=
  ⟨(by decide +kernel : _ = Gate.run), (by decide +kernel : _ = Gate.run), (by decide +kernel : _ = Gate.run)⟩
theorem test_sluice_starts : answers (.sluiceStart (sluice 63 15 0 0 2047 256)) dev ++
    answers (.sluiceStart (sluice 0 0 2 1 0xFFFF 0)) (fresh (placed image)) = [Code.accepted, Code.accepted] ∧
    [sluice 64 0 0 0 0 0, sluice 0 16 0 0 0 0, sluice 0 0 0 0 2048 0, sluice 0 0 0 0 0 255, sluice 0 0 1 0 0 0, sluice 0 0 2 1 0 0].flatMap
      (fun q => answers (.sluiceStart q) dev) = List.replicate 6 Code.notPermitted := by decide +kernel
/-- Channel 0 runs, with a burst of instructions that begins so. -/
def prog (i : List Byte) (s : State := dev) : State := { s with channels := [(0, { Channel.reset with
  state := .running, bursts := [(0, i)], ticket := some (sluiceRow.ticket (sluice 0 0 0 0 2047 0)) })] }
def halt (b c : Byte) : Req := ask 0x0511 [b, c, 0, 0]
theorem test_sluice_halt : dev.takes (opRow 0x0511 4) (halt 63 15) ∧ dev.takes (opRow 0x0511 4) (halt 64 0) ∧
    dev.takes (opRow 0x0511 4) (halt 0 16) ∧ (prog []).takes (opRow 0x0511 4) (halt 0 0) ∧ (dev.channel 1023).state = .idle ∧
    ((after (.sluiceHalt (halt 0 0)) (prog [])).channel 0).state = .halted :=
  ⟨(by decide +kernel : _ = Gate.run), (by decide +kernel : _ = Gate.run), (by decide +kernel : _ = Gate.run),
    (by decide +kernel : _ = Gate.run), by decide +kernel, by decide +kernel⟩
/-- Channel 0 has fetched nothing; DRAM with a poisoned granule; entry 0 names an unreachable peer; entry 0 is not valid. -/
def bare : State := { dev with channels := [(0, { Channel.reset with state := .running })] }
def withMem (f : MemSys → MemSys) (s : State) : State := { s with mem := f s.mem }
def carr0 (e : BitVec 64) : State → State := withMem fun m => { m with carr := [(0, e)] }
theorem test_fetch : (bare.begin 5).blockOn 0 = true ∧ (bare.block 0).fenced = false ∧ (bare.channel 0).wantBurst = some 0 ∧
    ([carr0 0x19 bare, withMem (fun m => { m with poison := [2] }) (carr0 0x19 bare), carr0 (2 ^ 39 + 0x1D) bare, carr0 0 bare].map fun s =>
      (((s.begin 5).countSluice 0 (grantClass [0] false) 1).readBurst 0 0 .none).1) =
    [.data (zeros 256) false, .data (zeros 256) true, .refused, .fault 0] := by decide +kernel
theorem test_fetch_waits : let s := withZeroing (carr0 0x19 bare)
    (s.begin 5).deviceWaits 0 = true ∧ ((after (.instructionFetch 5 0 false .none) s).channel 0).bursts = [] := by decide +kernel
theorem test_fetch_ends : ([carr0 0x19 bare, withMem (fun m => { m with poison := [2] }) (carr0 0x19 bare), carr0 (2 ^ 39 + 0x1D) bare,
    carr0 0 bare].map fun s => let x := (after (.instructionFetch 5 0 false .none) s).channel 0; (x.state, x.status, x.bursts.length)) =
    [(.running, 0, 1), (.halted, Code.poisonConsumed, 0), (.halted, Code.windowClosed, 0), (.faulted, 0, 0)] := by decide +kernel

/-- Channel 0 is ready to run the instruction at PC. -/
def atPc (i : List Byte) (s : State) : Bool :=
  s.phase == .ready && !(s.block 0).fenced && (s.channel 0).state == .running && !(s.channel 0).faultDue && (s.channel 0).instr == some i
/-- What becomes of channel 0. -/
def went (c : Instr) (s : State) : ChannelState × BitVec 16 × Nat × Nat :=
  let x := (after c s).channel 0
  (x.state, x.status, x.pc, x.loops.length)
/-- LOOP of a count with a source stride; ENDLOOP; END. -/
def loopI (n stride : Nat) : List Byte := [2, 0, 0, 0] ++ leBytes 4 n ++ leBytes 4 stride ++ zeros 4
def endLoopI : List Byte := 3 :: zeros 15
def endI : List Byte := zeros 16
/-- The same program with a loop open at index `k` of `n` passes. -/
def inLoop (i : List Byte) (n k : Nat) : State := (prog i).updChannel 0 fun x => { x with
  loops := [⟨0, BitVec.ofNat 32 n, BitVec.ofNat 32 k, 0, 0⟩] }
theorem test_loop : ([loopI 2 64, loopI 2 32, [2, 1] ++ zeros 14].all fun i => atPc i (prog i) && opOf i == 2) = true ∧
    [loopI 2 64, loopI 2 32, [2, 1] ++ zeros 14].map (fun i => went (.loop 1 0) (prog i)) =
    [(.running, 0, 1, 1), (.halted, Code.sluiceMisaligned, 0, 0), (.halted, Code.notPermitted, 0, 0)] := by decide +kernel
theorem test_end_loop : ([(2, 0), (2, 1), (0, 0)].all fun n => atPc endLoopI (inLoop endLoopI n.1 n.2)) = true ∧
    (prog endLoopI :: [(2, 0), (2, 1), (0, 0)].map fun n => inLoop endLoopI n.1 n.2).map (went (.endLoop 1 0)) =
    [(.halted, Code.notPermitted, 0, 0), (.running, 0, 0, 1), (.running, 0, 1, 0), (.running, 0, 0, 1)] := by decide +kernel
/-- A MOVE of channel 0 that is issued, with `k` writes to acknowledge. -/
def busyMove (k : Nat) : MoveRun := { serial := 0, pc := 0, units := [], unacked := k, issued := true, dims := [1, 1, 1, 1], ended := false }
def moving (k : Nat) (s : State) : State := s.updChannel 0 fun x => { x with moves := [busyMove k] }
theorem test_end : (atPc endI (prog endI) && atPc endI (moving 1 (prog endI)) && atPc (6 :: zeros 15) (prog (6 :: zeros 15))) = true ∧
    [went (.endProgram 1 0) (prog endI), went (.endProgram 1 0) (moving 1 (prog endI)), went (.endProgram 1 0) (prog (6 :: zeros 15)),
      went (.endProgram 1 0) (prog (16 :: zeros 15))] =
    [(.halted, 0, 0, 0), (.running, 0, 0, 0), (.halted, Code.notPermitted, 0, 0), (.halted, Code.notPermitted, 0, 0)] := by decide +kernel

/-- A ring of block 0 of a kind with four slots and a fill; the job's thread names it 5, and channel 0 is the job's. -/
def ring0 (kind fill : Nat) : Ring := { owner := .job 1, image := 5, kind := kind, slots := 4, slot4k := 1, baseLine := 0, rate := 0
                                        rowsPerSlot := 1, head := BitVec.ofNat 16 fill, tail := 0, units := [], moved := 0
                                        next := 0, fed := none, channel := none }
def ringed (kind fill : Nat) (i : List Byte) : State :=
  let s := (prog i (placed image)).updBlock 0 fun x => (x.setRing 0 (some (ring0 kind fill))).updThread (.job 1) fun t => { t with rings := [(5, 0)] }
  s.updChannel 0 fun x => { x with ownerKind := 2, owner := 1 }
/-- A unit of two slots that passes a SLUICE_IN ring leaves its first slot, which is filled, and its second, which comes later (R272). -/
theorem test_pass : (let r := (ring0 2 1).pass (0, 0) [0, 1] 9
    [(r.tail.toNat, r.owes), ((r.advance 0 1 10).tail.toNat, (r.advance 0 1 10).owes)]) = [(1, 1), (2, 0)] := by decide
/-- SIGNAL and WAIT of a kind with an argument and a number. -/
def signalI (kind : Byte) (a n : Nat) : List Byte := [5, kind] ++ leBytes 2 a ++ leBytes 4 n ++ zeros 8
def waitI (kind : Byte) (a n till : Nat) : List Byte := [4, kind] ++ leBytes 2 a ++ leBytes 4 n ++ leBytes 8 till
theorem test_ring_advance : ([(2, 0), (2, 3), (3, 1)].all fun k => atPc (signalI 0 5 1) (ringed k.1 k.2 (signalI 0 5 1)) &&
      ((ringed k.1 k.2 (signalI 0 5 1)).begin 1).advanceLegal 0 (signalI 0 5 1)) = true ∧
    ((ringed 2 0 (signalI 0 5 1)).begin 1).contextRing 0 0 5 = some (0, ring0 2 0) ∧
    [(2, 0), (2, 3), (3, 1), (2, 4), (3, 0)].map (fun k => (((after (.ringAdvance 1 0) (ringed k.1 k.2 (signalI 0 5 1))).block 0).ring 0).map
      fun r => (r.head.toNat, r.tail.toNat)) = [some (1, 0), some (4, 0), some (1, 1), some (4, 0), some (0, 0)] := by decide +kernel
theorem test_signal_event : atPc (signalI 1 (63 + 256 * 15) 0) (prog (signalI 1 (63 + 256 * 15) 0)) = true ∧
    ((after (.signalEvent 1 0) (prog (signalI 1 (63 + 256 * 15) 0))).block 15).events = 2 ^ 63 ∧
    ((after (.signalEvent 1 0) (prog (signalI 1 (256 * 0xFF) 0))).block 0).events = 1 ∧
    went (.signalEvent 1 0) (prog (signalI 1 64 0)) = (.halted, Code.notPermitted, 0, 0) := by decide +kernel
theorem test_signal_completion : let s := withMem (fun m => { m with pcieLink := true }) (prog (signalI 2 0 9))
    atPc (signalI 2 0 9) s = true ∧ (after (.signalCompletion 1 0) s).out.length = 2 ∧ went (.signalCompletion 1 0) s = (.running, 0, 1, 0) := by
  decide +kernel

/-- WAITs of every kind whose condition holds, and does not. -/
theorem test_waits : ([(waitI 0 5 1 0, ringed 2 3 (waitI 0 5 1 0)), (waitI 1 5 4 0, ringed 3 4 (waitI 1 5 4 0)),
      (waitI 2 63 0 0, prog (waitI 2 63 0 0)), (waitI 3 0 0 9, prog (waitI 3 0 0 9)), (waitI 4 0 0 9, prog (waitI 4 0 0 9))].all fun x =>
      atPc x.1 x.2 && (x.2.channel 0).moves.isEmpty) = true ∧
    ((ringed 2 3 (waitI 0 5 1 0)).begin 1).ringLegal 0 2 (waitI 0 5 1 0) = true ∧
    ((ringed 3 4 (waitI 1 5 4 0)).begin 1).ringLegal 0 3 (waitI 1 5 4 0) = true ∧
    [went (.ringSpace 1 0) (ringed 2 3 (waitI 0 5 1 0)), went (.ringSpace 1 0) (ringed 2 4 (waitI 0 5 1 0)),
      went (.ringData 1 0) (ringed 3 4 (waitI 1 5 4 0)), went (.ringData 1 0) (ringed 3 3 (waitI 1 5 4 0)),
      went (.waitEvent 1 0) ((prog (waitI 2 63 0 0)).updBlock 0 fun x => { x with events := 2 ^ 63 }),
      went (.waitEvent 1 0) (prog (waitI 2 63 0 0)), went (.timeAbs 9 0) (prog (waitI 3 0 0 9)), went (.timeAbs 8 0) (prog (waitI 3 0 0 9)),
      went (.timeRel 8 0) (prog (waitI 4 0 0 9)), went (.timeRel 8 0) (prog (waitI 4 0 0 0))] =
    [(.running, 0, 1, 0), (.waiting, 0, 0, 0), (.running, 0, 1, 0), (.waiting, 0, 0, 0), (.running, 0, 1, 0), (.waiting, 0, 0, 0),
      (.running, 0, 1, 0), (.waiting, 0, 0, 0), (.waiting, 0, 0, 0), (.running, 0, 1, 0)] := by decide +kernel
/-- Channel 0 waits so. -/
def waiting (kind arg till : Nat) (s : State) : State := s.updChannel 0 fun x => { x with
  state := .waiting, waitKind := BitVec.ofNat 8 kind, waitArg := BitVec.ofNat 32 arg, waitUntil := BitVec.ofNat 64 till }
theorem test_wait_met : let s := waiting 2 7 0 (prog [])
    let u := s.updBlock 0 fun x => { x with events := 128 }
    (s.channel 0).state = .waiting ∧ (s.begin 1).waitHolds 0 (s.channel 0) = false ∧ (u.begin 1).waitHolds 0 (u.channel 0) = true ∧
    went (.waitConditionMet 1 0) s = (.waiting, 0, 0, 0) ∧ went (.waitConditionMet 1 0) u = (.running, 0, 1, 0) := by decide +kernel
theorem test_wait_time : let s := waiting 4 0 9 (prog [])
    (s.channel 0).waitUntil.toNat ≤ (s.begin 9).now ∧ (s.begin 8).now < (s.channel 0).waitUntil.toNat ∧
    went (.waitTimeReached 9 0) s = (.running, 0, 1, 0) ∧ went (.waitTimeReached 8 0) s = (.waiting, 0, 0, 0) := by decide +kernel
/-- Channel 0 is FAULTED until 9 ns. -/
def faulted0 : State := bare.updChannel 0 fun x => { x with state := .faulted, faultUntil := 9 }
theorem test_fault_timeout : (faulted0.channel 0).faultUntil ≤ (faulted0.begin 9).now ∧
    went (.pageFaultTimeout 9 0) faulted0 = (.halted, Code.pageFaultTimeout, 0, 0) ∧
    went (.pageFaultTimeout 8 0) faulted0 = (.faulted, 0, 0, 0) := by decide +kernel

/-- A shape of one granule, and a MOVE with spaces and addresses. -/
def shape1 : List Byte := leBytes 4 64 ++ zeros 4 ++ leBytes 2 1 ++ leBytes 2 1 ++ leBytes 2 1 ++ zeros 50
def moveI (spaces : Byte) (src dst : Nat) (index : Byte := 0) : List Byte := [1, spaces, index] ++ leBytes 5 src ++ leBytes 5 dst ++ zeros 3
def shaped (s : State) (sh : List Byte := shape1) : State := s.updChannel 0 fun x => { x with shapeCache := [(0, sh)] }
/-- Within the scratchpad: SRC 64, DST 128, byte 64 is 7. -/
def copyMove : State := { shaped (prog (moveI 0xA0 64 128)) with spad := [(64, 7)] }
theorem test_move : let s := copyMove
    let i := moveI 0xA0 64 128
    atPc i s = true ∧ opOf i = 1 ∧ (s.begin 1).moveCheck 0 (s.channel 0) i shape1 = none ∧ (s.begin 1).moveReady 0 i = true ∧
    (s.begin 1).moveServed i = true ∧ s.lineBad 0 1 = false ∧
    (let m := moveOf i shape1
     (m.codec, m.len0, m.counts, m.src.space, m.dst.space, m.mask) = (0, 64, [1, 1, 1], 2, 2, 0) ∧
     (m.src.rowAt m.counts ((s.channel 0).loopShift false) 0, m.dst.rowAt m.counts ((s.channel 0).loopShift true) 0) = (64, 128)) ∧
    went (.move 1 0 .none) s = (.running, 0, 1, 0) ∧ (after (.move 1 0 .none) s).spad.read 128 = 7 := by decide +kernel
theorem test_move_halts : let bad := moveI 0xA0 64 96
    let wide := moveI 0xA0 64 128 64
    atPc bad (shaped (prog bad)) = true ∧ atPc wide (shaped (prog wide)) = true ∧
    ((shaped (prog bad)).begin 1).moveCheck 0 ((shaped (prog bad)).channel 0) bad shape1 = some Code.sluiceMisaligned ∧
    went (.move 1 0 .none) (shaped (prog bad)) = (.halted, Code.sluiceMisaligned, 0, 0) ∧
    went (.move 1 0 .none) (shaped (prog wide)) = (.halted, Code.notPermitted, 0, 0) := by decide +kernel
/-- A MOVE into slot HEAD of ring 5, of a given fill. -/
def ringMove (fill : Nat) : State := shaped (ringed 2 fill (moveI 0xB0 0 (5 * 2 ^ 30)))
theorem test_move_waits : atPc (moveI 0xB0 0 (5 * 2 ^ 30)) (ringMove 4) = true ∧
    ((ringMove 4).begin 1).moveCheck 0 ((ringMove 4).channel 0) (moveI 0xB0 0 (5 * 2 ^ 30)) shape1 = none ∧
    [3, 4].map (fun k => ((ringMove k).begin 1).moveReady 0 (moveI 0xB0 0 (5 * 2 ^ 30))) = [true, false] ∧
    [3, 4].map (fun k => went (.move 1 0 .none) (ringMove k)) = [(.running, 0, 1, 0), (.waiting, 0, 0, 0)] := by decide +kernel
theorem test_move_ready_again : let s := waiting 5 5 0 (ringMove 3)
    (s.channel 0).instr = some (moveI 0xB0 0 (5 * 2 ^ 30)) ∧ went (.waitConditionMet 1 0) s = (.running, 0, 0, 0) := by decide +kernel
theorem test_move_complete : (moving 0 bare).channel 0 |>.moves.find? (fun m => m.issued && m.units.isEmpty && m.unacked == 0) |>.isSome := by
  decide +kernel
theorem test_move_completes : [0, 1].map (fun k => ((after (.moveComplete 1 0) (moving k bare)).channel 0).moves.length) = [0, 1] := by
  decide +kernel
/-- A granule of channel 0 is on its way to a peer. -/
def leaving (s : State) : State := { s with fovar := { s.fovar with sent := [{
  device := 1, window := 0, offset := 0, isRead := false, use := .move 0 0 0 0, via := (0, 0), sentAt := 0, hit := false }] } }
/-- Channel 0 waits for flag 0, without an owner; for pipeline 0; for job 1. -/
def stuck (s : State) (kind owner : Nat) : State := leaving (waiting 2 0 0 ({ s with channels := [(0, { Channel.reset with
  ownerKind := BitVec.ofNat 8 kind, owner := BitVec.ofNat 32 owner })] }))
theorem test_deadlock : ([stuck dev 0 0, stuck shot 1 0, stuck (placed image) 2 1].all fun s => (s.begin 60000000).stalled [.channel 0]) = true ∧
    ((stuck dev 0 0).begin 500).stalled [.channel 0] = false ∧
    ([stuck dev 0 0, stuck shot 1 0, stuck (placed image) 2 1].map fun s => lastRanked ([WaitNode.channel 0].filterMap (s.begin 60000000).nodeJob)) =
      [none, some (.pipeline 0, 0), some (.job 1, 1)] := by decide +kernel
theorem test_deadlock_ends : ((after (.streamDeadlock 60000000 [.channel 0]) (stuck dev 0 0)).channel 0).state = .halted ∧
    ((after (.streamDeadlock 60000000 [.channel 0]) (stuck shot 1 0)).pipe 0).frames.map (fun j => j.jobStatus) = [Code.streamDeadlock] ∧
    (after (.streamDeadlock 60000000 [.channel 0]) (stuck (placed image) 2 1)).jobs.map (fun j => j.endStatus) = [some Code.streamDeadlock] := by
  decide +kernel

/-! ## Memory -/

/-- MAP_PAGES of entries from `i` on. -/
def mapPages (i : Nat) (l : List Nat) : Req := ask 0x0610 (leBytes 4 i ++ leBytes 2 l.length ++ zeros 2 ++ l.flatMap (leBytes 8))
theorem test_map_pages : dev.takes mapPagesRow (mapPages 131071 [0x19]) ∧
    dev.takes mapPagesRow (ask 0x0610 (leBytes 4 261888 ++ leBytes 2 256 ++ zeros 2 ++ (List.replicate 256 (leBytes 8 0x1B)).flatten)) ∧
    dev.takes mapPagesRow (mapPages 262144 [0]) :=
  ⟨(by decide +kernel : _ = Gate.run), takes_dev (o := mapPagesRow) (by decide +kernel), (by decide +kernel : _ = Gate.run)⟩
theorem test_map_pages_legal : [mapPages 131071 [0x19], mapPages 131072 [0x19], mapPages 131072 [0x1B], mapPages 262144 [0],
    mapPages 0 [], mapPages 0 [7]].flatMap (fun q => answers (.mapPages q) dev) =
    [Code.accepted, Code.notPermitted, Code.accepted, Code.notPermitted, Code.notPermitted, Code.notPermitted] := by decide +kernel
/-- A change of entry 0 waits; a read that entry 0 translated is under way. -/
def mapping0 : State := after (.mapPages (mapPages 0 [0x40019])) dev
def outdated : State := withMem (fun m => { m with pcieLink := true, hostReads := [⟨0, 0, 0, 0, 0, (0, carrReset 0), false⟩] }) mapping0
theorem test_map_done : mapping0.mem.mapChanges.map (fun m => (m.first, m.entries, mapping0.mapSettled m, outdated.mapSettled m)) =
    [(0, [0x40019], true, false)] ∧ (after (.mapPagesDone 9) mapping0).mem.carr = [(0, 0x40019)] ∧
    (after (.mapPagesDone 9) outdated).mem.carr = [] := by decide +kernel
/-- A page of a dirty line is remapped while DRAM is being zeroed. -/
theorem test_map_waits : let s := withZeroing (carr0 0x39 { mapping0 with regions := dirty.regions })
    (s.mem.mapChanges.all fun m => s.mapSettled m && (s.begin 9).mapWaits m) = true ∧
    (mapping0.mem.mapChanges.all fun m => !(mapping0.begin 9).mapWaits m) = true ∧
    (after (.mapPagesDone 9) s).mem.mapChanges.length = 1 := by decide +kernel
/-- A FAULTED channel whose address the change maps, and one whose address it does not. -/
theorem test_map_done_resumes : let s := mapping0.setChannel 3 { Channel.reset with state := .faulted }
    let u := s.setChannel 4 { Channel.reset with state := .faulted, faultAddr := 0x8_0000_0000 }
    [3, 4, 5].map (fun c => ((after (.mapPagesDone 9) u).channel c).state) = [.running, .faulted, .idle] := by decide +kernel

/-- The scrubber is at a granule. -/
def scrubAt (g : Nat) (bad : List Nat) : State := withMem (fun m => { m with scrubNext := g, poison := bad }) dev
theorem test_scrub : dev.dramServes = true ∧ (scrubAt 7 [7]).mem.poison.contains 7 = true ∧
    [(scrubAt 7 [], ScrubFinding.uncorrectable), (scrubAt (2 ^ 29 - 1) [], .correctable), (scrubAt 7 [7], .uncorrectable)].map (fun x =>
      let u := after (.scrubRead 5 x.2) x.1
      (u.mem.scrubNext, u.mem.poison)) = [(8, [7]), (0, []), (8, [7])] := by decide +kernel
theorem test_temperatures : [84, 85].map (fun t => ((after (.stackTemperatureRead 5 t 0) dev).dramStack 0).refresh2x) = [false, true] := by
  decide +kernel
theorem test_zeroed : let s := withMem (fun m => { m with zeroing := true, dram := [(5, 1)], poison := [3] }) dev
    s.mem.zeroing = true ∧ (after (.interleaveZeroed 5) s).mem.dram = [] ∧ (after (.interleaveZeroed 5) s).mem.poison = [] := by decide +kernel

/-! ## The PCIe endpoint -/

/-- The link is up; entry 1 is not valid; granule 1 is poisoned. -/
def linked : State := withMem (fun m => { m with pcieLink := true, carr := [(1, 0)], poison := [1] }) dev
theorem test_bar0 : linked.mem.pcieLink = true ∧ linked.dramServes = true ∧
    [(0 : Nat), 64, 0x4_0000].map (fun a => ((linked.begin 5).translate a true, (linked.begin 5).translate a false)) =
      [(.local_ 0 false, .local_ 0 false), (.local_ 64 false, .local_ 64 false), (.fault, .fault)] ∧
    linked.mem.poison.contains 0 = false ∧ linked.mem.poison.contains 1 = true ∧
    (after (.bar0Write 5 60 [1, 2, 3, 4] true false .none) linked).mem.dram.bytes 60 4 = [1, 2, 3, 4] ∧
    (after (.bar0Write 5 60 [1, 2, 3, 4] true false .none) linked).mem.poison = [0, 1] ∧
    (after (.bar0Write 5 0x40000 [1] false false .none) linked).mem.pcieCounters.get 0 = 1 := by decide +kernel
theorem test_bar0_reads : [(0 : BitVec 36), 64, 0x4_0000].map (fun o => (after (.bar0Read 5 o 4 .none) linked).out) =
    [[.barCompletion (some [0, 0, 0, 0]) false], [.barCompletion (some [0xFF, 0xFF, 0xFF, 0xFF]) true], [.barCompletion none false]] := by
  decide +kernel
/-- While DRAM does not serve, an access waits; then it goes on. -/
theorem test_bar0_waits : let s := withZeroing linked
    s.dramServes = false ∧ (after (.bar0Write 5 60 [1] false false .none) s).mem.waiting.length = 1 ∧
    (after (.interleaveZeroed 6) (after (.bar0Write 5 60 [1] false false .none) s)).mem.dram.read 60 = 1 := by decide +kernel
theorem test_bar2 : ((after (.bar2Access 5 (.read 0x7FF8 5)) (after (.bar2Access 5 (.write 0x7FF8 [1, 2, 3, 4, 0])) linked)).out) =
    [.barCompletion (some [1, 2, 3, 4, 0]) false] ∧ [0x8000, 0x80FC, 0x8100].map (fun o =>
      (after (.bar2Access 5 (.write o [1])) linked).mem.msix) = [[], [], []] := by decide +kernel
/-- An MSI-X message of vector 0 leaves once its mask bit, set at reset, is cleared; until then it is pending. -/
theorem test_msix_mask : let u := after (.bar2Access 5 (.write 12 [0])) linked
    (linked.interrupt 0).out = [] ∧ (linked.interrupt 0).mem.isPending 0 = true ∧ (u.interrupt 0).out.getLast? = some (.msix 0) ∧
    (after (.bar2Access 5 (.write 12 [0])) (linked.interrupt 0)).out.contains (.msix 0) = true := by decide +kernel
theorem test_config_request : [linked, { linked with phase := .starting }].map (fun s => (after (.configurationRequest 5) s).out) =
    [[.configAnswer false], [.configAnswer true]] := by decide +kernel
/-- A read of channel 0's MOVE is under way; a second granule of its row is still to come. -/
def reading (need : Nat) : State := { bare.updChannel 0 fun x => { x with moves := [{ busyMove 0 with
  units := [⟨0, need, [], 0, 16, 64, [[.spad 0 128]]⟩] }] } with mem := { linked.mem with hostReads := [⟨9, 0, 0, 0, 0, (0, 0), false⟩] } }
theorem test_host_completion : (reading 2).mem.hostReads.find? (fun x => x.tag == 9) = some ⟨9, 0, 0, 0, 0, (0, 0), false⟩ ∧
    ((reading 2).channel 0).faultDue = false ∧
    [1, 2].map (fun n => let u := after (.hostReadCompletion 5 9 [8] false false false) (reading n)
      (u.mem.hostReads.length, (u.channel 0).underWay, u.spad.read 128)) = [(0, 0, 8), (0, 1, 0)] := by decide +kernel
theorem test_link_up : [19999999, 20000000].map (fun t => (after (.pcieLinkUp t) { dev with health := { dev.health with lock := 4 } }).mem.pcieLink) =
    [false, true] ∧ (dev.domain 94).isOn = true := by decide +kernel

/-! ## Lysil -/

/-- NOP, with a change. -/
def nop (g : Req → Req) : Req := g (ask 0x0001 [])
def nopRow : OpRow := opRow 0x0001 0 false true
/-- A change of a NOP whose CRC stays right. -/
def sealed (g : Req → Req) : Req := { g (ask 0x0001 []) with crc := reqCrc (g (ask 0x0001 [])) 0x0001 }
/-- NOPs that each fail one check of Table 12-3, in its order; the twelfth, thirteenth and fifteenth fail for other rows only. -/
def badNops : List Req := [nop fun q => { q with dstPort := 1 }, nop fun q => { q with srcPort := 8 }, nop fun q => { q with flags := 1 },
  nop fun q => { q with len := 35 }, nop fun q => { q with crc := 0 }, sealed fun q => { q with version := 2 }, sealed fun q => { q with queue := 16 },
  sealed fun q => { q with seq := -1 }, sealed fun q => { q with seq := 2 }, nop fun q => { q with unacked := 32 },
  sealed fun q => { q with time := 6, expiry := 5 }, ask 0x0001 [1]]
theorem test_checks : badNops.map (fun q => (requestChecks (dev.begin q.time) nopRow q).findIdx? fun r => r.1) =
    [0, 1, 2, 3, 4, 5, 6, 7, 8, 9, 10, 13].map some ∧
    (badNops.all fun q => (Instr.nop q 0x0001 .clean).wellFormed && (checksOutcome (dev.begin q.time) nopRow q).isSome) = true := by decide +kernel
theorem test_checks_answers : badNops.map (fun q => answers (.nop q 0x0001 .clean) dev) = [[], [], [], [Code.badLength], [Code.badCrc], [Code.badOpcode],
    [Code.notPermitted], [Code.staleSequence], [Code.staleSequence], [Code.queueFull], [Code.tooLate], [Code.badLength]] := by decide +kernel
/-- A short command on port B; a long one with 64 outstanding; an opcode of no row. -/
def fullQueue : State := dev.setEth .a { eth with queues := [(0, ⟨0, none, 64⟩)] }
theorem test_checks_rest : let b := { ask 0x0004 (zeros 8) with port := EthPort.b }
    (requestChecks (dev.begin 0) (opRow 0x0004 8) b).findIdx? (fun r => r.1) = some 12 ∧ (Instr.commit b).wellFormed = true ∧
    (requestChecks (fullQueue.begin 0) (opRow 0x0431 4 true) (ask 0x0431 (zeros 4))).findIdx? (fun r => r.1) = some 14 ∧
    (requestChecks (dev.begin 0) { code := 0x0FFF, lenOk := fun _ => true } (ask 0x0FFF [])).findIdx? (fun r => r.1) = some 11 ∧
    knownOpcodes.contains 0x0FFF = false ∧ answers (.nop (ask 0x0FFF []) 0x0FFF .clean) dev = [Code.badOpcode] := by decide +kernel
/-- The ACK of SEQUENCE 0 is sent again. -/
theorem test_resend : ((after (.nop (ask 0x0001 []) 0x0001 .clean) (after (.nop (ask 0x0001 []) 0x0001 .clean) dev)).out.map fun
    | .packet _ p _ => (p.flags, p.status)
    | _ => (0, 0)) = [(5, Code.ok)] := by decide +kernel
theorem test_checks_pass : ((requestChecks (dev.begin 0) nopRow (ask 0x0001 [])).all fun r => !r.1) = true ∧
    answers (.nop (ask 0x0001 []) 0x0001 .clean) dev = [Code.ok] := by decide +kernel
theorem test_nop : dev.takes nopRow (ask 0x0001 []) := (by decide +kernel : _ = Gate.run)

/-- ATTR_READ of `n` values from index `i` on; ATTR_WRITE. -/
def getAttr (id i n : Nat) : Req := ask 0x0002 (leBytes 2 id ++ [0, BitVec.ofNat 8 n] ++ leBytes 4 i)
def setAttr (id i : Nat) (v : List Byte) : Req := ask 0x0003 (leBytes 2 id ++ zeros 2 ++ leBytes 4 i ++ v)
theorem test_attr_read : dev.takes attrReadRow (getAttr 0x0201 23 1) ∧ dev.takes attrReadRow (getAttr 0x0FFF 0 1) ∧
    dev.takes attrReadRow (getAttr 0x0201 0 64) :=
  ⟨(by decide +kernel : _ = Gate.run), (by decide +kernel : _ = Gate.run), (by decide +kernel : _ = Gate.run)⟩
theorem test_attr_reads : [getAttr 0x0201 23 1, getAttr 0x0201 23 2, getAttr 0x0201 0 0, getAttr 0x0201 0 65, getAttr 0x0FFF 0 1].flatMap
    (fun q => answers (.attrRead q []) dev) = [Code.ok, Code.notPermitted, Code.notPermitted, Code.notPermitted, Code.notPermitted] ∧
    (attrSpec 0x0201).map (fun a => a.count) = some 24 ∧ attrSpec 0x0FFF = none := by decide +kernel
/-- BAND_EYE, or another attribute, of more than 8,156 bytes in 64 values. -/
theorem test_attr_read_long : ((List.range 4096).findSome? fun id => (attrSpec id).bind fun a =>
    if 8156 < 4 * a.words * min 64 a.count then some id else none).isSome = false := by decide +kernel
theorem test_attr_write : dev.takes attrWriteRow (setAttr 0x0808 0 (leBytes 4 80)) ∧ dev.takes attrWriteRow (setAttr 0x0808 0 [1]) ∧
    dev.takes attrWriteRow (setAttr 0x0000 0 (leBytes 8 0)) :=
  ⟨(by decide +kernel : _ = Gate.run), (by decide +kernel : _ = Gate.run), (by decide +kernel : _ = Gate.run)⟩
theorem test_attr_writes : [setAttr 0x0808 0 (leBytes 4 80), setAttr 0x0808 0 (leBytes 4 101), setAttr 0x0808 0 [1], setAttr 0x0808 1 (leBytes 4 80),
    setAttr 0x0000 0 (leBytes 8 0), setAttr 0x0FFF 0 []].flatMap (fun q => answers (.attrWrite q) dev) =
    [Code.ok, Code.notPermitted, Code.badLength, Code.notPermitted, Code.notPermitted, Code.notPermitted] := by decide +kernel
/-- COMMIT and SHADOW_REVERT of pipeline 0. -/
def only0 (code : BitVec 16) : Req := ask code (leBytes 4 1 ++ zeros 4)
theorem test_commit : cam.takes (opRow 0x0004 8) (only0 0x0004) ∧ dev.takes (opRow 0x0004 8) (only0 0x0004) ∧
    cam.takes (opRow 0x0005 8) (only0 0x0005) ∧ le (only0 0x0004).params 0 4 = 2 ^ (0 : Fin 24).val :=
  ⟨(by decide +kernel : _ = Gate.run), (by decide +kernel : _ = Gate.run), (by decide +kernel : _ = Gate.run), by decide +kernel⟩
/-- The shadow has another display size; it has a fallback buffer of 0 pages. -/
def edited (c : PipeSettings) (s : State) : State := s.updPipe 0 fun x => { x with shadow := c, shadowChanged := true }
def wider : PipeSettings := { small with output := 0x0040_0200_0200_0000, fbBuffer := 0x1_0000_0000_0000 }
theorem test_commits : [starting streamImage, stoppedCam].map (fun s => let u := fresh (edited wider s)
    (((u.received (only0 0x0004)).commitCheck 0).map fun c => c.check, u.streams 0,
      ((after (.commit (only0 0x0004)) u).pipe 0).live == wider, ((after (.commit (only0 0x0004)) u).pipe 0).pending.isSome)) =
    [(none, false, true, false), (none, false, true, false)] := by decide +kernel
/-- EVENT_READ, SESSION_OPEN. -/
theorem test_event_read : dev.takes (opRow 0x0006 8 false true) (ask 0x0006 (leBytes 4 0 ++ [8, 0, 0, 0])) ∧
    dev.takes (opRow 0x0006 8 false true) (ask 0x0006 (zeros 8)) ∧ dev.takes (opRow 0x0007 0) (ask 0x0007 []) :=
  ⟨(by decide +kernel : _ = Gate.run), (by decide +kernel : _ = Gate.run), (by decide +kernel : _ = Gate.run)⟩
theorem test_event_reads : ([1, 8, 0, 9].flatMap fun n => answers (.eventRead (ask 0x0006 (leBytes 4 0 ++ [n, 0, 0, 0]))) dev) =
    [Code.ok, Code.ok, Code.notPermitted, Code.notPermitted] := by decide +kernel
theorem test_session : (after (.sessionOpen (ask 0x0007 [])) { dev with session := none }).session.map (fun x => (x.addr, x.port)) = some (7, 9) ∧
    ((dev.sourcePasses { ask 0x0007 [] with srcAddr := 8 } Opc.sessionOpen) = false) := by decide +kernel
/-- A UCC record has been counted. -/
def counted : State := dev.fault { cls := Cls.ucc, detector := Det.stripeFallback, site := .block 3 }
/-- The clear commands at the last index that each has, and one beyond. -/
theorem test_clears : ([(0x0212, 23), (0x0410, 63), (0x0470, 63), (0x0492, 23), (0x0B11, 23), (0x0512, 3), (0x0611, 2)] : List (BitVec 16 × Byte)).all
    (fun x => (dev.begin 0).gate (opRow x.1 4) (ask x.1 [x.2, 0, 0, 0]) == .run) = true ∧
    dev.takes (opRow 0x0212 4) (ask 0x0212 [24, 0, 0, 0]) ∧ dev.takes (opRow 0x0813 4 false true) (ask 0x0813 [255, 0, 0, 0]) ∧
    dev.takes (opRow 0x0813 4 false true) (ask 0x0813 [0, 0, 0, 0]) :=
  ⟨by decide +kernel, (by decide +kernel : _ = Gate.run), (by decide +kernel : _ = Gate.run), (by decide +kernel : _ = Gate.run)⟩
theorem test_fault_clear : [255, 0].map (fun b => (answers (.faultClearCounters (ask 0x0813 [b, 0, 0, 0])) counted,
    (after (.faultClearCounters (ask 0x0813 [b, 0, 0, 0])) counted).faults.counters.get 1)) =
    [([Code.ok], 0), ([Code.notPermitted], 1)] := by decide +kernel
/-- Port A with an address, gPTP and MACsec. -/
def netted : State := dev.setEth .a { eth with macsecUp := true, net := #v[5 * 2 ^ 32, 0, 0x28, 0] }
def untagged : FrameHead := { vid := none, len := 64, fcsOk := true }
theorem test_ethernet : (netted.ethOf .a).up = true ∧ (netted.ethOf .a).link = true ∧ (netted.ethOf .a).ipv4 = 5 ∧ (netted.ethOf .a).macsecEn = true ∧
    ((after (.eapol 3 .a true) netted).ethOf .a).macsecUp = true ∧ (let u := after (.eapol 3 .a false) netted; (u.ethOf .a).macsecDrops true) = true ∧ (netted.ethOf .a).vlanFits none = true ∧
    [true, false].map (netted.ethOf .a).macsecDrops = [false, true] ∧
    (after (.arp 3 .a untagged true true 1 2 5) netted).out = [.arp .a (netted.ethOf .a).tag true 2 1] ∧
    (after (.icmpEcho 3 .a untagged true 2 5 [1]) netted).out = [.icmpReply .a (netted.ethOf .a).tag 2 [1]] ∧
    (after (.icmpEcho 3 .a untagged false 2 5 [1]) netted).out = [] ∧
    [{ untagged with len := 1523 }, { untagged with fcsOk := false }].map (fun h => let u := after (.icmpEcho 3 .a h true 2 5 [1]) netted
      (u.out, u.faults.status.getLsbD 16)) = [([], false), ([], true)] ∧
    netted.session.any (fun x => decide (x.lastValid.toNat + (netted.ethOf .a).leaseMs * 1000000 ≤ (netted.begin 0).now)) = true := by decide +kernel
theorem test_link_b : let s := { dev with health := { dev.health with domains := dev.health.domains ++ [(99, on_)] } }
    (s.domain 99).isOn = true ∧ ((after (.linkUp 3 .b) (after (.linkDown 2 .b) s)).ethOf .b).link = true := by decide +kernel
/-- The offset of a Sync: behind by more than 1 ms, it steps; a microsecond it does not; 100 ns need no correction. -/
theorem test_sync : (netted.ethOf .a).gptp = true ∧ netted.base.domain = 0 ∧ netted.mayStep = true ∧ cam.mayStep = false ∧
    [2000000, 1001, 101].map (fun g => let u := after (.sync 1 .a (BitVec.ofNat 64 g) 0 9) netted; (u.time.toNat, u.base.state)) =
    [(2000000, .synced), (1, .synced), (1, .synced)] := by decide +kernel
theorem test_holdover : let s := { netted with base := { netted.base with state := .synced, lastSync := 4, syncInterval := 2 } }
    s.base.lastSync.toNat + 3 * s.base.syncInterval.toNat ≤ (s.begin 10).now ∧ (after (.holdover 10) s).base.state = .holdover ∧
    (after (.holdover 9) s).base.state = .synced := by decide +kernel

/-- The attribute writes with rows of their own, in the order of the statement. -/
theorem test_own_rows : ([(0x0208, 23, 4), (0x0800, 0, 8), (0x0801, 3, 4), (0x0802, 63, 4), (0x0809, 0, 4), (0x0600, 0, 4), (0x0181, 0, 16),
    (0x0904, 0, 4)].all fun x => (dev.begin 0).gate attrWriteRow (setAttr x.1 x.2.1 (zeros x.2.2)) == .run) = true := by decide +kernel
/-- Their values at the ends of the ranges. -/
theorem test_own_row_values : [(Instr.memConfigWrite (setAttr 0x0600 0 [1, 168, 0, 1])), .memConfigWrite (setAttr 0x0600 0 [1, 169, 0, 1]),
    .memConfigWrite (setAttr 0x0600 0 [1, 1, 0, 255]), .fenConfigWrite (setAttr 0x0181 0 (leBytes 4 1 ++ leBytes 4 2000000 ++ leBytes 4 1999999 ++ zeros 4)),
    .fenConfigWrite (setAttr 0x0181 0 (leBytes 4 1 ++ leBytes 4 1999999 ++ zeros 8)), .ageConfigWrite (setAttr 0x0904 0 [60, 0, 0, 0]),
    .ageConfigWrite (setAttr 0x0904 0 [5, 0, 0, 0]), .ageConfigWrite (setAttr 0x0904 0 [4, 0, 0, 0])].flatMap (fun c => answers c dev) =
    [Code.ok, Code.notPermitted, Code.ok, Code.ok, Code.notPermitted, Code.ok, Code.ok, Code.notPermitted] ∧ fenLegal (1999999 * 2 ^ 64 + 2000000 * 2 ^ 32 + 1) = true ∧
    dev.interleaveFree = true := by decide +kernel

/-! ## The Fovar link -/

/-- Port 0 is UP towards device 1; window 5 of epoch 3 is open for device 1 at address 0; granule 1 is poisoned. -/
def pair : State := { linked with fovar := { Fovar.reset with
  ports := [(0, { FovarPort.reset with state := .up, neighbour := 1, neighbourPort := 2, boot := some 1 })]
  windows := [(5, ⟨3, 2, 3, true, 0, 0⟩)] } }
/-- A frame of device 1 for window 5, in order. -/
def frame1 (epoch : BitVec 16) (offset : BitVec 27) (poison : Bool := false) : LinkFrame :=
  { vc := false, poison := poison, src := 1, dst := 0, linkSeq := 0, linkAck := 0, e2eSeq := 0, epoch := epoch, window := 5, offset := offset
    payload := List.replicate 64 7, crcOk := true, nak := false }
/-- WINDOW_OPEN of a window, its base and pages; WINDOW_CLOSE. -/
def openWindow (w base pages : Nat) : Req :=
  ask 0x0710 ([BitVec.ofNat 8 w, 3, 2, 0] ++ leBytes 2 9 ++ zeros 2 ++ leBytes 8 base ++ leBytes 4 pages ++ zeros 4)
def closeWindow (w : Byte) : Req := ask 0x0711 [w, 0, 0, 0]
theorem test_window : pair.takes (opRow 0x0710 24) (openWindow 63 (2 ^ 34 + 2 ^ 33 + 2 ^ 32 + 2 ^ 31 + 2 ^ 30) 1) ∧ pair.takes (opRow 0x0710 24) (openWindow 64 0 1) ∧
    pair.takes (opRow 0x0711 4) (closeWindow 5) ∧ pair.takes (opRow 0x0711 4) (closeWindow 64) :=
  ⟨(by decide +kernel : _ = Gate.run), (by decide +kernel : _ = Gate.run), (by decide +kernel : _ = Gate.run), (by decide +kernel : _ = Gate.run)⟩
theorem test_windows : [(63, 0, 32768), (0, 2 ^ 35 - 2 ^ 18, 1), (64, 0, 1), (5, 0, 1), (0, 2 ^ 17, 1), (0, 0, 0), (0, 0, 32769), (0, 2 ^ 35 - 2 ^ 18, 2)].flatMap
      (fun x => answers (.windowOpen (openWindow x.1 x.2.1 x.2.2)) pair) =
    [Code.ok, Code.ok] ++ List.replicate 6 Code.notPermitted ∧
    [5, 4, 64].flatMap (fun w => answers (.windowClose (closeWindow w)) pair) = [Code.ok, Code.notPermitted, Code.notPermitted] := by decide +kernel
theorem test_window_checks : (pair.fovarPort 0).state = .up ∧ pair.dramServes = true ∧
    [frame1 3 4095, frame1 3 4096, frame1 2 0].map (fun f => match (pair.begin 5).windowCheck f true with
      | .ok g => (g, 0)
      | .error e => (0, e.1)) = [(4095, 0), (0, Code.notPermitted), (0, Code.windowClosed)] ∧ (pair.begin 5).reachable 1 = true := by decide +kernel
/-- The type, EPOCH and POISON of the frames that a command sends. -/
def sent (c : Instr) (s : State) : List (Nat × BitVec 16 × Bool) := (after c s).out.filterMap fun
  | .fovar _ y _ _ => some (y.type.toNat, y.epoch, y.poison)
  | _ => none
theorem test_peer_write : [frame1 3 0 true, frame1 3 4096, frame1 2 0].map (fun f => (sent (.write 5 0 f .none) pair, (after (.write 5 0 f .none) pair).mem.dram.read 0)) =
    [([(3, 0, false)], 7), ([(4, Code.notPermitted, false)], 0), ([(4, Code.windowClosed, false)], 0)] := by decide +kernel
theorem test_peer_read : [frame1 3 0, frame1 3 1, frame1 2 0].map (fun f => sent (.readReq 5 0 f .none) pair) =
    [[(2, 0, false)], [(2, 0, true)], [(4, Code.windowClosed, false)]] := by decide +kernel
theorem test_peer_order : let f := { frame1 3 0 with linkSeq := 1 }
    f.linkSeq ≠ (pair.fovarPort 0).rxSeq ∧ sent (.write 5 0 f .none) pair = [] ∧
    (after (.readReq 5 0 { frame1 3 0 with crcOk := false } .none) pair).out = [.fovarNak 0 (-1)] := by
  decide +kernel
/-- A frame that the neighbour has not acknowledged; it asks for it again, the ninth time in vain. -/
def unacked (k : Nat) : State := { pair with fovar := { pair.fovar with ports := [(0, { pair.fovarPort 0 with
  resends := k, replay := [{ linkSeq := 0, e2eSeq := 0, type := 0, vc := false, src := 0, dst := 1, epoch := 3, window := 5, offset := 0
                             poison := false, payload := zeros 64, coll := none }] })] } }
theorem test_asked_again : let f := { frame1 3 0 with linkSeq := 1, linkAck := -1, nak := true }
    ((pair.fovarPort 0).acked 0).replay = [] ∧ (((unacked 7).fovarPort 0).acked f.linkAck).replay ≠ [] ∧
    [7, 8].map (fun k => let u := after (.write 5 0 f .none) (unacked k)
      ((u.fovarPort 0).state, (u.fovarPort 0).resends, u.fovar.counters.get 0)) = [(.up, 8, 1), (.down, 0, 0)] := by decide +kernel
/-- While DRAM does not serve, what the window admits waits. -/
theorem test_peer_waits : let s := withMem (fun m => { m with zeroing := true }) pair
    s.dramServes = false ∧ (after (.write 5 0 (frame1 3 0) .none) s).mem.waiting = [.peerWrite 0 (frame1 3 0) .none ((s.begin 5).via (s.windowVa (frame1 3 0)))] ∧
    (after (.interleaveZeroed 6) (after (.write 5 0 (frame1 3 0) .none) s)).mem.dram.read 0 = 7 := by decide +kernel

/-- A granule of channel 0's MOVE 0, or of pipeline 0's frame 0, was sent to window 5 of device 1. -/
def asked (isRead : Bool) (use : PeerUse) (s : State) : State := { s with fovar := { pair.fovar with
  sent := [⟨1, 5, 0, isRead, use, (0, 0), 0, false⟩] } }
/-- Channel 0 has a MOVE of two source granules, and one write to acknowledge. -/
def askedMove (isRead : Bool) : State := asked isRead (.move 0 0 0 0) ((reading 2).updChannel 0 fun x => { x with
  moves := x.moves.map fun m => { m with unacked := 1 } })
theorem test_read_data : ((askedMove true).fovar.sent.find? fun g => answersTo (frame1 3 0) g && g.isRead).map (fun g => g.use) = some (.move 0 0 0 0) ∧
    ((after (.readData 5 0 (frame1 3 0)) (askedMove true)).channel 0).moves.map (fun m => m.units.map fun u => u.got.length) = [[1]] ∧
    ((after (.ack 5 0 (frame1 3 0)) (askedMove false)).channel 0).moves.map (fun m => m.unacked) = [0] := by decide +kernel
theorem test_refuse : ((askedMove false).channel 0).moves.map (fun m => (m.serial, m.ended)) = [(0, false)] ∧
    went (.refuse 5 0 (frame1 Code.windowClosed 0)) (askedMove false) = (.halted, Code.windowClosed, 0, 0) ∧
    ((after (.refuse 5 0 (frame1 Code.windowClosed 0)) (asked false (.output 0 0 none false) shot)).pipe 0).frames.map (fun j => j.writeFault) = [true] := by
  decide +kernel
/-- Port 0 trains: device 0 of two reaches port 2 of device 1. -/
def training : State := { pair with fovar := { pair.fovar with ports := [(0, { FovarPort.reset with state := .training })] } }
theorem test_port_up : (training.domain 95).isOn = true ∧ training.fovar.wiring 0 0 = (1, 2) ∧
    [(2 : BitVec 2), 1].map (fun p => ((after (.portUp 5 0 1 p 7) training).fovarPort 0).state) = [.up, .miswired] := by decide +kernel
theorem test_port_down : ((after (.portDown 5 0) pair).fovarPort 0).state = .down ∧ pair.faults.up = true ∧
    (after (.portDown 5 0) pair).faults.held.length = 1 := by decide +kernel

/-- COLLECTIVE 4 of devices 0 and 1: SUM of one word. -/
def collect (g : List Byte → List Byte) : Req := ask 0x0712 (g (leBytes 4 4 ++ [0, 3, 0, 0] ++ leBytes 4 1 ++ leBytes 4 100 ++ leBytes 8 2 ++ leBytes 8 0 ++ leBytes 8 64))
def collectRow : OpRow := opRow 0x0712 40 true
/-- The device's own COLLECTIVE stands; all have joined. -/
def coll1 : State := after (.collective (collect id)) pair
def coll2 : State := after (.collectiveFrame 5 0 { frame1 4 0 with payload := zeros 64 } (.join 4 0 3 0 1 2) []) { coll1 with
  eth := pair.eth, fovar := { coll1.fovar with ports := pair.fovar.ports } }
theorem test_collective : pair.takes collectRow (collect id) ∧ pair.takes collectRow (collect fun l => l.set 24 32) :=
  ⟨(by decide +kernel : _ = Gate.run), (by decide +kernel : _ = Gate.run)⟩
theorem test_collectives : [id, fun (l : List Byte) => l.set 24 32, fun l => l.set 12 99, fun l => l.set 5 6].flatMap
      (fun g => answers (.collective (collect g)) pair) = [Code.accepted, Code.sluiceMisaligned, Code.notPermitted, Code.notPermitted] ∧
    answers (.collective (collect id)) { pair with fovar := { pair.fovar with slots := (List.range 4).map fun k => (k, coll1.collSlot 0) } } = [Code.queueFull] := by
  decide +kernel
theorem test_joins : (coll1.collSlot 0).map (fun c => (c.joined, c.joinFields)) = some (1, .join 4 0 3 0 1 2) ∧ coll1.slotFor (frame1 4 0) (.join 4 0 3 0 1 2) = some 0 ∧
    (coll2.collSlot 0).map (fun c => (c.joined, c.started)) = some (3, false) ∧
    [CollContent.join 4 1 3 0 1 2, .abort Code.streamDeadlock 0 0 1 0].map (fun x => ((after (.collectiveFrame 5 0 (frame1 4 0) x []) coll1).collSlot 0).isNone) =
      [true, true] ∧ pair.slotFor (frame1 4 0) (.join 4 0 3 0 1 2) = none ∧
    (after (.collectiveFrame 5 0 (frame1 4 0) (.join 4 0 3 0 1 2) []) pair).fovar.joins.length = 1 := by decide +kernel
/-- A join of a device that is no member; a frame while DRAM does not serve. -/
theorem test_join_stranger : let s := withMem (fun m => { m with zeroing := true }) coll1
    (coll1.collSlot 0).any (fun c => !c.members.getLsbD 2) = true ∧
    ((after (.collectiveFrame 5 0 { frame1 4 0 with src := 2 } (.join 4 0 3 0 1 2) []) coll1).collSlot 0).isNone = true ∧
    s.dramServes = false ∧ (after (.collectiveFrame 5 0 (frame1 4 0) (.join 4 0 3 0 1 2) []) s).mem.waiting.length = 1 := by decide +kernel
theorem test_collective_start : [coll2, withMem (fun m => { m with poison := [0] }) coll2, coll1].map (fun s =>
      (((s.begin 6).readContribution ((s.collSlot 0).getD (collOf ⟨.a, 0, 0, 0, 0, 0, 0⟩ [] 0 0)) .none).2.1.isSome,
        ((after (.collectiveStart 6 0 .none []) s).collSlot 0).map fun c => c.started)) = [(false, some true), (true, none), (false, some false)] := by
  decide +kernel
theorem test_collective_timeout : [100000, 99999].map (fun t => ((after (.collectiveTimeout t 0) coll1).collSlot 0).isSome) = [false, true] := by
  decide +kernel

/-! ## Faults -/

/-- A UCC record of block 3 with a status bit, in suppression, of class INFO. -/
def info0 : FaultInfo := { cls := Cls.ucc, detector := Det.stripeFallback, site := .block 3, blockBits := [2], block := some 3 }
/-- A report whose block is being suppressed; one that is INFO. -/
def hushed : State := { dev with faults := { dev.faults with suppressed := [⟨.block 3, none⟩] } }
theorem test_collector : dev.faults.up = true ∧ State.reset.faults.up = false ∧
    [info0, { info0 with suppressed := some (.block 3) }, { info0 with cls := Cls.info }, { info0 with cls := Cls.saf }].map (fun f =>
      let u := hushed.fault f
      (u.faults.held.map fun r => (r.cls, r.pin), (u.block 3).status, (u.region 0).status, u.faults.status.getLsbD 0, u.faults.hold)) =
    [([(Cls.ucc, false)], 4, 0, false, false), ([(Cls.fence, false)], 0, 0, false, false), ([(Cls.info, false)], 0, 0, false, false),
      ([(Cls.saf, true)], 4, 0, false, true)] := by decide +kernel
theorem test_collector_bits : ((dev.fault info0).region 0).status = 8 ∧ (dev.fault info0).faults.status.getLsbD 0 = true ∧
    (dev.fault { info0 with site := .chip 63 0 }).faults.status.getLsbD 63 = true := by decide +kernel
/-- Two records wait, from times 0 and `d`. -/
def held (d : Time) : State :=
  let s := dev.fault { info0 with cls := Cls.ucf }
  { s with time := d }.fault info0
/-- What is released at a time, and how many stay. -/
def released (t : Time) (s : State) : List (Nat × BitVec 32 × Bool) × Nat :=
  let u := after (.recordRelease t) s
  (u.faults.ring.map fun r => (r.time.toNat, r.seq, r.concurrent), u.faults.held.length)
theorem test_release_order : released 1999 (held 8) = ([], 2) ∧ released 2000 (held 8) = ([(0, 0, false)], 1) ∧
    released 2006 (held 7) = ([], 2) ∧ released 2007 (held 7) = ([(0, 0, true), (7, 1, true)], 0) ∧ (held 8).faults.ring.length ≤ 4096 := by
  decide +kernel
/-- One record waits, of a class that port A sends. -/
def oneHeld : State := { dev with faults := { dev.faults with alarmConfig := 0x2F2F_0004 } }.fault info0
theorem test_release_one : oneHeld.faults.held.map (fun r => (r.toA, decide (r.time.toNat + 2000 ≤ (oneHeld.begin 2000).now))) = [(true, true)] ∧
    ((after (.recordRelease 2000) oneHeld).ethOf .a).ring.map (fun p => p.opcode) = [0x08F0] := by decide +kernel
def tussock (n : Byte) : Req := ask 0x0810 [0, 0, 0, 0, n, 0, 0, 0]
theorem test_tussock : dev.takes (opRow 0x0810 8 false true) (tussock 32) ∧ dev.takes (opRow 0x0810 8 false true) (tussock 0) :=
  ⟨(by decide +kernel : _ = Gate.run), (by decide +kernel : _ = Gate.run)⟩
theorem test_tussock_reads : ([1, 32, 0, 33].flatMap fun n => answers (.tussockRead (tussock n)) dev) =
    [Code.ok, Code.ok, Code.notPermitted, Code.notPermitted] := by decide +kernel
/-- A SAF record drove the pin low at 0. -/
def alarmed : State := dev.fault { info0 with cls := Cls.saf }
theorem test_alarm : alarmed.takes (opRow 0x0812 0 false true) (ask 0x0812 []) := (by decide +kernel : _ = Gate.run)
theorem test_alarm_pin : [false, true].map (fun b => (after (.alarmRelease (ask 0x0812 []) b) alarmed).faults.hold) = [false, true] ∧
    [19999, 20000].map (fun t => (after (.alarmMinLowEnd t) (after (.alarmRelease (ask 0x0812 []) false) alarmed)).faults.pinLow) = [true, false] := by
  decide +kernel
theorem test_ext_fault : let s := after (.extFault 5) dev
    s.faults.held.map (fun r => (r.cls, r.source)) = [(3, 0x3240)] ∧ (after (.extFault 6) s).faults.held.length = 1 ∧
    (after (.extFault 7) (after (.extFaultNRelease 6) s)).faults.held.length = 2 ∧
    (after (.extFault 5) { State.reset with phase := .starting }).faults.extHeld = some 5 := by decide +kernel
/-- Two assertions before stage 4 make one record, at the time of the first. -/
theorem test_ext_held : let s : State := { dev with phase := .starting, faults := { dev.faults with startsAt := 50 } }
    let u := after (.extFault 9) (after (.extFaultNRelease 7) (after (.extFault 5) s))
    u.faults.held = [] ∧ (after (.commandReady 49) u).phase = .starting ∧ (after (.recordRelease 49) u) = u.begin 49 ∧
    (after (.commandReady 50) u).faults.held.map (fun r => (r.cls, r.time)) = [(3, 5)] ∧ dev.pins.xspiDriven = true ∧
    dev.pins.pullDown.take 3 = [true, true, true] := by decide +kernel

/-- RUN_BLOCK_TEST of a block with patterns; the test of block 0 waits; it runs. -/
def test0 (b pat : Byte) : Req := ask 0x0811 [b, pat, 0, 0]
def testRow : OpRow := opRow 0x0811 4 true true
def testDue : State := after (.remapComplete 4 0) (after (.runBlockTest (test0 0 3)) dev)
def testing : State := after (.blockTestBegin 5 0) { testDue with spad := [(7, 1)] }
def untested : State := after (.blockResetComplete 6 0) testing
theorem test_block_test : dev.takes testRow (test0 63 1) ∧ dev.takes testRow (test0 64 3) :=
  ⟨(by decide +kernel : _ = Gate.run), (by decide +kernel : _ = Gate.run)⟩
theorem test_block_tests : [test0 63 1, test0 64 3, test0 0 4].flatMap (fun q => answers (.runBlockTest q) dev) =
    [Code.accepted, Code.notPermitted, Code.notPermitted] ∧
    answers (.runBlockTest (test0 0 3)) (fresh (placed image)) = [Code.notPermitted] := by decide +kernel
theorem test_block_test_begins : (testDue.block 0).testDue.isSome = true ∧ (testDue.block 0).testing = false ∧ (testDue.block 0).resetting = false ∧
    testDue.testFree 0 = true ∧ (dev.block 0).testDue = none ∧ (testing.block 0).testing = true ∧ testing.spad = [] := by decide +kernel
theorem test_block_test_ends : (untested.block 0).testing = true ∧ (untested.block 0).resetting = false ∧ (untested.block 0).testDue.isSome = true ∧
    [none, some 0].map (fun f => let x := (after (.blockTestEnd 7 0 ⟨1, f⟩) untested).block 0; (x.fenced, x.resetting, x.testing)) =
    [(false, true, false), (true, false, false)] := by decide +kernel
theorem test_block_reset : (testing.block 0).resetting = true ∧ (untested.faults.suppressed.map fun y => (y.unit, y.ends)) = [(.block 0, some 1006)] ∧
    (dev.block 0).resetting = false := by decide +kernel
theorem test_suppression_end : [1005, 1006].map (fun t => (after (.suppressionEnd t (.block 0)) untested).faults.suppressed.length) = [1, 0] := by
  decide +kernel
/-- Block 1 is to be taken out of the carrying sets of region 0. -/
def remapping : State := cam.updRegion 0 fun x => { x with remapDue := [⟨1, 0, 90, [], []⟩] }
theorem test_remap : (remapping.region 0).remapDue.length = 1 ∧ (cam.region 0).remapDue = [] ∧ (cam.pipe 0).carrying = true ∧
    (cam.pipe 0).setRegion = 0 ∧ ((after (.remapComplete 5 0) remapping).pipe 0).blocks = 1 := by decide +kernel
/-- A NOP was executing. -/
theorem test_lockstep : (dev.begin 5).isSuppressed .sequencers = false ∧
    (dev.begin 5).gate { code := 0x0001, portB := true, lenOk := fun _ => true } (ask 0x0001 []) = Gate.run ∧
    answers (.lockstep 5 (some (ask 0x0001 [], 0x0001))) dev = [Code.queueFull] ∧
    (after (.lockstep 5 none) { dev with resync := true }).out = [] ∧
    (after (.sequencerResyncDone 6) (after (.lockstep 5 none) dev)).resync = false := by decide +kernel

/-! ## Calibration, monitors, ageing -/

/-- RUN_CALIBRATION of a target and index. -/
def calibrate (a b : Byte) : Req := ask 0x0910 [a, b, 0, 0]
theorem test_calibrate : dev.takes (opRow 0x0910 4 true) (calibrate 0 2) ∧ dev.takes (opRow 0x0910 4 true) (calibrate 3 0) :=
  ⟨(by decide +kernel : _ = Gate.run), (by decide +kernel : _ = Gate.run)⟩
theorem test_calibrates : [(0, 2), (1, 0), (2, 255), (0, 3), (0, 24), (1, 1), (2, 4), (3, 0)].flatMap (fun x => answers (.runCalibration (calibrate x.1 x.2)) dev) =
    [Code.accepted, Code.accepted, Code.accepted] ++ List.replicate 5 Code.notPermitted := by decide +kernel
/-- Port 0 after a run. -/
def ranOnce : State := { dev with ports := [(0, { Port.reset with calValid := true })] }
/-- The run of port 0 that the command waits for; the one that started of itself. -/
def running0 : State := after (.runCalibration (calibrate 0 0)) ranOnce
def warmed (i : Nat) (s : State) : State := s.setLocation i { s.location i with temp := 81 }
def selfRun : State := after (.calibrationRunStart 5 (.sedge 0) .temperature) (warmed 68 ranOnce)
/-- The domain of port 0 has switched on. -/
def powered0 : State := { dev with ports := [(0, { Port.reset with calCause := some .powerOn })] }
theorem test_run_start : (dev.domain (calDomain (.sedge 0))).isOn = true ∧ powered0.causeHolds (.sedge 0) .powerOn = true ∧
    dev.causeHolds .pcie .modeChange = false ∧ (selfRun.port 0).calCause = some .temperature ∧
    [80, 81].map (fun v => (dev.setLocation 68 { dev.location 68 with temp := v }).causeHolds (.sedge 0) .temperature) = [false, true] := by decide +kernel
/-- An input with an eye of nine positions from 30 on, and some transitions at every other. -/
def scan (n : Nat) : EyeScan := List.replicate 30 n ++ List.replicate 9 0 ++ List.replicate 25 n
theorem test_eye : [1192, 1191].map (fun n => (eyeOf (scan n), enoughSeen (scan n))) = [((30, 9), true), ((30, 9), false)] := by decide +kernel
theorem test_apply : (running0.port 0).calRunning = true ∧ (running0.port 0).frame = none ∧ running0.health.calCommands.map (fun k => (k.target, k.waiting)) = [(0, [0])] ∧
    running0.hasBoundary 0 = false ∧
    (let u := (after (.calibrationApply 9 (.sedge 0) [scan 1192, scan 1191] [] true) running0).port 0
     (u.tap 0, u.tap 1, u.eye 1, u.calRuns, u.calValid)) = (34, (running0.port 0).tap 1, 9, 1, true) ∧
    selfRun.health.calCommands = [] ∧ ((after (.calibrationApply 9 (.sedge 0) [] [] true) selfRun).ethOf .a).ring.map (fun p => p.opcode) = [0x09F0] := by
  decide +kernel
/-- The first run after power-on waits for every input of the mode; with TRACK_EN a tap moves by one towards its eye. -/
theorem test_first_run : [11, 12].map (fun n => let p := { Port.reset with calRunning := true }
    p.runReady (List.replicate n (scan 1192) ++ List.replicate (24 - n) [] ++ [scan 1192, scan 1192])) = [false, true] := by decide +kernel
theorem test_track : (let s := { ranOnce with ports := [(0, { Port.reset with calValid := true, state := .waitFrame })] }
    let u := after (.frameStart 100 { port := 0, scans := [scan 1192, scan 1191] }) { s with health := { s.health with calConfig := 1 } }
    [(u.port 0).tap 0, (u.port 0).tap 1]) = [(ranOnce.port 0).tap 0 + 1, (ranOnce.port 0).tap 1] := by decide +kernel
/-- On a port that a pipeline streams from, at its frame boundary and after it. -/
theorem test_apply_waits : shot.hasBoundary 0 = true ∧ [100, 150].map (fun t =>
    ((after (.calibrationApply t (.sedge 0) [] [] true) { shot with ports := [(0, { shot.port 0 with calRunning := true, calValid := true })] }).port 0).calRunning) =
    [false, true] := by decide +kernel
/-- The Fovar port's run. -/
def laneRun : State := after (.calibrationRunStart 5 (.fovar 0) .temperature) (warmed 95 pair)
theorem test_lanes : (laneRun.domain (calDomain (.fovar 0))).isOn = true ∧ (laneRun.laneRun (laneKey (.fovar 0))).running = true ∧
    (laneRun.fovarPort 0).state = .up ∧ ((after (.calibrationApply 9 (.fovar 0) [] [] true) laneRun).laneRun (laneKey (.fovar 0))).running = false := by
  decide +kernel

/-- The counts of trips and records after a monitor's event. -/
def trip (c : Instr) (s : State := dev) : BitVec 32 × List (BitVec 8) :=
  let u := after c s
  (u.health.clockCounters.get 6, u.faults.held.map fun r => r.detector)
theorem test_monitors : dev.phase ≠ .reset ∧ dev.health.lock = 15 ∧ dev.health.refOk = true ∧
    [trip (.rootPllUnlock 5), trip (.referenceLoss 5), trip (.derivedClockFault 5 .sclk), trip (.interfacePllUnlock 5 .dram),
      trip (.voltageMonitor 5 .coreLow), trip (.temperatureRead 5 [(0, 1000)])] =
    [(1, [Det.clockMonitor]), (1, [Det.clockMonitor]), (1, [Det.clockMonitor]), (1, [Det.clockMonitor]), (1, [Det.voltageMonitor]), (1, [Det.thermal])] := by
  decide +kernel
theorem test_monitors_again : let s := after (.temperatureRead 5 [(0, 1000)]) (after (.referenceLoss 4) (after (.rootPllUnlock 3) dev))
    s.health.lock = 14 ∧ s.health.refOk = false ∧ s.faults.thermalFired = [0] ∧ (trip (.rootPllUnlock 6) s).1 = 3 ∧
    (trip (.referenceLoss 6) s).1 = 3 ∧ (trip (.temperatureRead 6 [(0, 1000)]) s).1 = 3 ∧ (trip (.temperatureRead 5 [(0, 999)])).1 = 0 := by decide +kernel
/-- AVS_LOOP with one slack for every region, its transfers good or not. -/
def avs (slack : Nat) (good : Bool) (s : State := dev) : State :=
  after (.avsLoop 5 ([64, 65, 66, 67].map fun i => (i, BitVec.ofNat 16 slack)) good 700 700) s
theorem test_avs : [19, 20, 35, 36].map (fun n => (avs n true).health.targetMv) = [755, 750, 750, 745] ∧
    (let s := avs 36 false (avs 36 false dev)
     (s.health.avsFails, s.health.avsFault, (avs 36 false s).health.avsFault, (avs 20 true (avs 36 false s)).health.avsFault,
      (avs 19 true (avs 36 false s)).health.avsFault)) = (2, false, true, false, true) ∧ dev.health.guardPs = 20 := by decide +kernel
theorem test_droop : [4, 5].map (fun x => ((after (.droopClamp 5 0 x) dev).region 0).droopClamped) = [true, false] ∧
    [10004, 10005].map (fun t => ((after (.clampRelease t 0) (avs 20 true (after (.droopClamp 5 0 4) dev))).region 0).droopClamped) =
      [true, false] ∧ ((after (.clampRelease 20000 0) (after (.droopClamp 5 0 4) dev)).region 0).droopClamped = true ∧ (dev.domain 66).isOn = false ∧
    ((after (.droopClamp 5 2 4) dev).region 2).droopClamped = false := by decide +kernel
/-- The first fen tick is at 0, the second at 16,666,666 ns. -/
theorem test_tick : [16666665, 16666666].map (fun t => let r := dev.begin t; let n := r.base.tickNumber r.now
    decide (r.base.phase ≤ r.now ∧ n * r.base.num / r.base.den + r.base.phase = r.now)) = [false, true] ∧
    ((after (.fenTick 16666666 {}) (dev.updRegion 0 fun x => { x with policyWait := some 7 })).region 0).policy = 7 := by decide +kernel
theorem test_age : (after (.ageMeasure 5 [⟨3, 7⟩]) dev).health.hours = 1 ∧ ((after (.ageMeasure 5 [⟨3, 7⟩]) dev).location 3).firstDelay.isSome = true ∧
    ((after (.ageMeasure 5 [⟨100, 7⟩]) dev).location 100).eol = 0xFFFF_FFFF ∧
    ((after (.ageMeasure 6 []) (after (.ageMeasure 5 [⟨3, 7⟩]) { dev with phase := .starting })).fw.ageArea.hours) = 2 := by decide +kernel
/-- R421: at 105 degrees and 0.70 V one second adds 1/3,600 h. -/
theorem test_stress_step : stressFloor (8 * 105) 700 = 2 ^ 40 / 3600 ∧ stressFloor (8 * 125) 700 = 2 ^ 42 / 3600 := by decide +kernel
theorem test_stress : (after (.stressAccumulate 5) dev).mem = dev.mem := by decide +kernel

/-! ## Firmware and start-up -/

/-- FIRMWARE_LOAD of a target and slot, of a length. -/
def fwLoad (target slot : Byte) (len : Nat) : Req := ask 0x0A10 ([target, 0, slot, 0] ++ leBytes 4 len ++ leBytes 4 0 ++ zeros 4 ++ leBytes 8 0)
theorem test_fw_load : dev.takes firmwareLoadRow (fwLoad 0 1 64) ∧ dev.takes firmwareLoadRow (fwLoad 0 2 64) :=
  ⟨(by decide +kernel : _ = Gate.run), (by decide +kernel : _ = Gate.run)⟩
theorem test_fw_loads : [fwLoad 0 1 (4 * 2 ^ 20), fwLoad 1 0 1024, fwLoad 0 1 (4 * 2 ^ 20 + 1), fwLoad 0 2 64, fwLoad 1 0 1023].flatMap
    (fun q => answers (.firmwareLoad q) dev) = [Code.accepted, Code.accepted, Code.notPermitted, Code.notPermitted, Code.notPermitted] := by decide +kernel
/-- The ROM waits for an image of 8 bytes. -/
def rom : State := { State.reset with phase := .rom true, eth := [(0, eth), (1, eth)], session := dev.session }
def chunk : Req := ask 0x0A10 ([0, 1, 0, 0] ++ leBytes 4 8 ++ leBytes 4 0 ++ zeros 4 ++ List.replicate 8 7)
theorem test_rom_load : rom.takes firmwareLoadRow chunk ∧ chunk.params.length - 16 = le chunk.params 4 4 := 
  ⟨(by decide +kernel : _ = Gate.run), by decide +kernel⟩
/-- A slot's load is under way. -/
def loadingFw : State := after (.firmwareLoad (fwLoad 0 1 64)) dev
theorem test_fw_load_done : loadingFw.fw.load.isSome = true ∧ loadingFw.dramServes = true ∧
    [(loadingFw, 1), (carr0 0 loadingFw, 0)].map (fun x => ((after (.firmwareLoadDone 9 .none) x.1).fw.load.isSome, ((after (.firmwareLoadDone 9 .none) x.1).fwSlot 1).state)) =
    [(false, .empty), (false, .empty)] := by decide +kernel
/-- Slot 0 runs; slot 1 holds an image that is not one. -/
def runs0 : State := { dev with fw := { dev.fw with
  banks := [(0, some ⟨.slot 0, ⟨0, 0, 0, 0, 0, 0⟩, []⟩)], slots := [(0, { dev.fwSlot 0 with state := .valid }), (1, { dev.fwSlot 1 with state := .valid })] } }
def activate (slot adv : Byte) : Req := ask 0x0A11 [slot, adv, 0, 0]
theorem test_activate : runs0.takes (opRow 0x0A11 4 true) (activate 1 0) ∧ runs0.takes (opRow 0x0A11 4 true) (activate 0 1) ∧
    runs0.takes (opRow 0x0A11 4 true) (activate 2 0) :=
  ⟨(by decide +kernel : _ = Gate.run), (by decide +kernel : _ = Gate.run), (by decide +kernel : _ = Gate.run)⟩
theorem test_activates : runs0.slotRunning 0 = true ∧ runs0.slotRunning 1 = false ∧ runs0.standbyHolds 1 = false ∧
    [activate 1 0, activate 0 1, activate 0 0, activate 2 0].flatMap (fun q => answers (.firmwareActivate q none) runs0) =
    [Code.accepted, Code.accepted, Code.ok, Code.notPermitted, Code.notPermitted] := by decide +kernel
/-- The activation of slot 1 is to be verified. -/
def verifying : State := after (.firmwareActivate (activate 1 0) none) runs0
theorem test_slot_verified : verifying.fw.activate.map (fun a => (a.slot, a.armed)) = some (1, false) ∧
    ((after (.slotVerified 9) verifying).fwSlot 1).lastStatus = Code.imageCorrupt ∧ (after (.slotVerified 9) verifying).fw.activate = none := by decide +kernel
/-- An image whose header fits is good once its keys and signatures are, which are opaque functions. -/
theorem test_image_good (o : Otp) (img : List Byte) (h : imageFits img = true) (h1 : ed25519Good o img (imageInfo img) = true)
    (h2 : mldsaGood o img (imageInfo img) = true) (h3 : o.rollback ≤ (imageInfo img).secVersion) :
    verifyImage o img = .ok (imageInfo img) := by
  simp [verifyImage, h, h1, h2, Nat.not_lt.mpr h3]
def attest (dest : Nat) : Req := ask 0x0A12 (zeros 32 ++ leBytes 8 dest ++ zeros 8)
theorem test_attest : dev.takes (opRow 0x0A12 48 true) (attest 64) ∧ dev.takes (opRow 0x0A12 48 true) (attest 32) ∧ dev.mem.mapChanges = [] :=
  ⟨takes_dev (o := opRow 0x0A12 48 true) (by decide +kernel), takes_dev (o := opRow 0x0A12 48 true) (by decide +kernel), rfl⟩
theorem test_attest_writable : dev.writable 64 5760 = true := by decide +kernel
/-- A report is to be written. -/
def attesting : State := { dev with fw := { dev.fw with attests := [⟨(opRow 0x0A12 48 true).ticket (attest 64), [], 64, false⟩] } }
theorem test_attest_done : attesting.phase = .ready ∧ attesting.dramServes = true ∧ attesting.fw.attests.map (fun a => a.dest.toNat) = [64] := by
  decide +kernel

/-- Straps of device 0 with a boot source. -/
def straps (src : BitVec 2) : Straps := { State.reset.straps with bootSrc := src }
theorem test_boot : State.reset.phase = .reset ∧ [0, 1, 2, 3].map (fun b => (after (.porstNRelease ⟨straps b, 0⟩) State.reset).phase) =
    [.rom false, .rom true, .rom true, .rom false] ∧ (after (.porstNRelease ⟨straps 0, 0⟩) dev).phase = .ready ∧
    (after (.porstNAssert 9) dev).phase = .reset := by decide +kernel
theorem test_boot_refused : (match verifyImage State.reset.fw.otp (State.reset.fwSlot State.reset.bootSlot).image with
    | .error e => e
    | .ok _ => 0) = Code.imageCorrupt ∧ (after (.porstNRelease ⟨straps 1, 0⟩) State.reset).fw.bootRefusal = Code.imageCorrupt := by decide +kernel
/-- PORST_N falls while a slot is being written. -/
theorem test_cut_load : loadingFw.fw.load.map (fun l => (l.target.toNat, l.slot)) = some (0, 1) ∧
    (loadingFw.cutLoad.fwSlot 1).state = .refused ∧ ((after (.porstNAssert 9) loadingFw).fwSlot 1).state = .refused := by decide +kernel
theorem test_command_ready : let s := { dev with phase := .starting }
    (after (.commandReady 9) s).phase = .ready ∧ (after (.commandReady 9) s).fw.bootCount = 1 ∧
    [3, 0].map (fun n => ((after (.commandReady 9) { s with eth := [], fw := { s.fw with netSettings := n } }).ethOf .b).up) = [false, true] := by decide +kernel

/-! ## Values that the manual prints -/

/-- The check values of R466, over "123456789". -/
theorem test_crc_values : let l : List Byte := (List.range 9).map fun i => BitVec.ofNat 8 (0x31 + i)
    crc32c l = 0xE306_9283#32 ∧ crc64 l = 0x995D_C9BB_DF19_39FA#64 := by decide +kernel
/-- The example of R8: frame 1 is later than frame 0xFFFF_FFFE. -/
theorem test_frame_wrap : frameLater 1 0xFFFF_FFFE = true ∧ frameLater 0xFFFF_FFFE 1 = false := by decide
/-- R366: an uncorrectable microcode word makes a UCF record, a corrected one a CE record; the NOP is answered OK. -/
theorem test_bank : [BankFinding.uncorrectable, .corrected, .clean].map (fun b =>
      ((after (.nop (ask 0x0001 []) 0x0001 b) dev).faults.held.map (fun r => (r.cls, r.detector)), answers (.nop (ask 0x0001 []) 0x0001 b) dev)) =
    [([(Cls.ucf, Det.mappingStore)], [Code.ok]), ([(Cls.ce, Det.memoryEcc)], [Code.ok]), ([], [Code.ok])] := by decide +kernel
/-- Table 14-1: errors of the line buffer as a row is sent. -/
theorem test_line_buffer : (after (.stripeRowWrite 220 0 { MemFindings.none with lineCorrected := [0], lineUncorrectable := [1] }) row0).faults.held.map
    (fun r => (r.cls, r.detector, r.address)) = [(Cls.ce, Det.memoryEcc, some 0), (Cls.ucc, Det.memoryEcc, some 1)] := by decide +kernel
/-- The first bytes of the standards' examples: SHA-512 of "abc" (FIPS 180-4), SHAKE128 of nothing (FIPS 202), SubBytes and the key
schedule's example of FIPS 197. -/
theorem test_sha : (digestBytes (sha512 (ascii "abc"))).take 4 = [0xDD, 0xAF, 0x35, 0xA1] := by decide +kernel
theorem test_shake : shake128 4 [] = [0x7F, 0x9C, 0x2B, 0xA4] := by decide +kernel
theorem test_aes : [0x00, 0x53, 0xFF].map aesSub = [0x63, 0xED, 0x16] := by decide +kernel
/-- The base point of Ed25519 has the bytes of RFC 8032: 0x58, then 0x66. -/
theorem test_ed_base : edBase.bytes = 0x58 :: List.replicate 31 0x66 := by decide +kernel
/-- The transform of FIPS 204 and its inverse undo each other on the polynomial 3 + x. -/
theorem test_ntt : ofNtt (toNtt ([3, 1] ++ List.replicate 254 0)) = [3, 1] ++ List.replicate 254 0 := by decide +kernel
/-- "Three constant rows" (chapter 04): shift, FLAT, code and shift entry of each row. -/
theorem test_constant_rows : [(0, (⟨0, 0⟩ : Isauri40)), (0, ⟨1536, -12⟩), (8, ⟨-1536, -12⟩)].map (fun p =>
      let x := onlineShift 4 p.1 [p.2] false
      (x, (requant 4 p.1 p.2 x.1).1, shiftEntry x.1 x.2 false)) =
    [((-32, true), 0, 0xA0), ((-5, false), 12, 0x3B), ((-4, false), 2, 0x3C)] := by decide +kernel
/-- "One transformed value" (chapter 07): the digits of -46, the group shift and the requantised value. -/
theorem test_transformed_value : winoDigits (-46) = (2, -3) ∧ winoShift [-46] = 2 ∧ rneShift (-46) 2 = -12 := by decide +kernel

/-! ## Further cases of the statements -/

/-- COMMIT of a streaming and a stopped pipeline at once: one waits for a boundary, one is live, and the port that streams waits too. -/
def roomy (c : PipeSettings) : PipeSettings := { c with fbBuffer := 0xF_FFF0_0000_0000, black := #v[1, 2, 3, 4] }
def twoPipes : State := fresh (((after (.placement 10 (.pipeline 0)) (starting streamImage)).updPipe 0 fun x =>
  { x with shadow := roomy x.live, shadowChanged := true }).updPipe 1 fun x => { x with shadow := roomy x.shadow })
def both : Req := ask 0x0004 (leBytes 4 3 ++ zeros 4)
theorem test_commit_two : (twoPipes.takes (opRow 0x0004 8) both) := (by decide +kernel : _ = Gate.run)
theorem test_commit_two_live : [0, 1].map (fun p => [((twoPipes.received both).commitCheck p).isNone, twoPipes.streams p, twoPipes.hasBoundary p,
    ((after (.commit both) twoPipes).pipe p).pending.isSome, ((after (.commit both) twoPipes).port p).pending.isSome,
    ((after (.commit both) twoPipes).pipe p).live.black.toList == [1, 2, 3, 4]]) =
    [[true, true, true, true, true, false], [true, false, false, false, false, true]] := by decide +kernel
/-- Two exposures in turn, the second with one placeholder line: row 0, the placeholder, row 1, row 0 of the second, and a line too many. -/
def hdrSets : PortSettings := { sets with hdr := BitVec.ofNat 64 (at_ 36 1 + at_ 32 1 + at_ 2 1 + at_ 44 1) }
def hdrShot : State := after (.frameStart 100 { port := 0 }) { cam with ports := [(0, { port with live := hdrSets, shadow := hdrSets })] }
theorem test_line_exposures : (hdrShot.started 0).any (fun x => x.1.cfg.exposures == 2 && !x.1.complete) = true ∧
    (let u := [101, 102, 103, 104, 105].foldl (fun s t => after (.lineReceived t 0 [1, 2, 3, 4] false) s) hdrShot
     ((u.port 0).frame.map fun f => (f.lines, f.rows.toList, f.skipped.toList), (u.pipe 0).fe.lines.map fun l => (l.exposure, l.row))) =
    (some (5, [2, 1, 0], [0, 1, 0]), [(0, 0), (0, 1), (1, 0)]) := by decide +kernel
/-- A bit that hardware sets in the cycle of the write that clears it is set; the other bit of the write is cleared (R6). -/
theorem test_same_cycle : (after (.faultStatusClear (setAttr 0x0800 0 (leBytes 8 0x30)) 0x10)
      { dev with faults := { dev.faults with status := 0x31 } }).faults.status = 0x11 ∧
    ((after (.regionStatusClear (setAttr 0x0801 3 (leBytes 4 3)) 2) (dev.updRegion 3 fun x => { x with status := 7 })).region 3).status = 6 ∧
    ((after (.blockStatusClear (setAttr 0x0802 5 (leBytes 4 3)) 2) (dev.updBlock 5 fun x => { x with status := 7 })).block 5).status = 6 ∧
    (after (.remapStatusWrite (setAttr 0x0809 0 (leBytes 4 3)) 2) { dev with faults := { dev.faults with remapStatus := 7 } }).faults.remapStatus = 6 ∧
    ((after (.portStatusClear (setAttr 0x0208 0 (leBytes 4 16)) true) dev).port 0).pclkStopped = true := by decide +kernel
/-- Of two channels without a job the lower halts. -/
theorem test_deadlock_lowest : let s := waiting 2 0 0 (dev.setChannel 1 { Channel.reset with state := .waiting })
    lastRanked ([WaitNode.channel 1, .channel 0].filterMap s.nodeJob) = none ∧
    [0, 1].map (fun n => ((s.breakDeadlock [.channel 1, .channel 0]).channel n).state) = [.halted, .waiting] := by decide +kernel
/-- The last residency to come is there: the job runs. -/
theorem test_copy_last : (let u := after (.residencyCopy 20 (.job 1) 9 (hostHas 0x1_0000 (zeros 64))) copyHost
    (u.placings.length, (u.block 0).threads.map fun t => t.mapping, u.jobs.map fun j => j.state)) = (0, [0], [.running]) := by decide +kernel
/-- A FOVAR_CONFIG that enables port 1 alone is live at the tick. -/
theorem test_tick_fovar : (let u := after (.fenTick 16666666 {}) { pair with fovar := { pair.fovar with configWait := some 0x802 } }
    ([0, 1].map fun n => (u.fovarPort n).state, u.fovar.config, u.fovar.configWait)) = ([.disabled, .training], 0x802, none) := by decide +kernel
/-- The MATMUL's output is staged at level 1 on its way to DRAM: its tile and group are done, shift 3. -/
def outImage : List Byte := imageWith 0 0x0001_0101_0101_0100 [0] [1, 8, 64, 1, 1, 1] [1, 8, 128, 1, 1, 1]
  [tensorBytes 2 2 0 0 128 1 1 128 64 0 64, tensorBytes 2 3 0 128 8 128 1 16 0 1024 0, tensorBytes 0 2 0 0x1_0000 8 1 1 128 64 0 0x1_0040] [] [] 0
def outTile : List Nat := [0, 0, 0, 0, 0, 0]
def outSeg : State := { (segmented outImage).updBlock 0 fun x => x.updThread (.job 1) fun t => { t with
    unit := t.unit.map fun u => { u with
      staged := [⟨0, 1, .out, outTile, 0, []⟩]
      groups := [{ key := ⟨0, 0, 0, 0, 0⟩, start := 0, ended := 0, carried := none, measured := some 3, flat := false
                   sent := (List.range 8).map fun k => ⟨0, 0, k, 0, 0⟩, emitted := some 0, flagged := false, declined := false
                   replaying := false, replayStep := 0, replayed := false, poisoned := false, clipped := 0, retired := true }] } } with
  spad := [(spadAddr 0 0, 0x21), (spadAddr 0 0 + 3, 0x43)], mem := { (segmented outImage).mem with carr := [(0, 0x19)] } }
theorem test_stage_out_needs : ((outSeg.begin 30).ctx 0 (.job 1)).any (fun c => c.tileRetired 0 (c.tileElems 0 1 outTile) && c.innerDone 0 1 outTile
    && (c.stagedTile 0 1 .out outTile).isSome && (c.srcLevel 0 .out 2).isNone && (outSeg.begin 30).threadRuns c
    && (c.tensor 0 .out).peat == 0) = true ∧ outSeg.mem.mapChanges = [] := by decide +kernel
theorem test_stage_out : (after (.stagingComplete 40 0 (.job 1) 0 1 .out outTile .none) outSeg).mem.dram =
    [(0x1_0000, 0x21), (0x1_0003, 0x43), (0x1_0040, 3)] := by decide +kernel
/-- A substituted stripe with the coding form on, its slot in DRAM at 0: mid-grey luma of two rows of 4 pixels in the first granules. -/
def formed : State := { (final0.updPipe 0 fun x => x.updFrame 0 fun j => { j with settings := { j.settings with output := j.settings.output ||| 1 } }) with
  mem := { final0.mem with carr := [(0, 0x19)] } }
theorem test_output_form : ((formed.pipe 0).job 0).any (fun j => j.settings.codingEn && (j.stripe 0).any fun x => !x.written && x.final.isSome) = true ∧
    ((after (.outputStripeWrite (BitVec.ofNat 64 due) 0 0 0 false .none) formed).mem.dram.read 257) = 128 := by decide +kernel

end Sys2Proof.Tests
end

section
/-!
PROOFS. O48: the attribute writes with rows of their own. First what the reception and the ACK of a taken request leave of
the state, then what an accepted ATTR_WRITE does, then the bits that a W1C write clears and hardware sets again.
-/

namespace Sys2Proof.Machine

open Sys2Proof

/-! ## The reception and the answer of a taken request (R317 to R321) -/

/-- A taken request runs its command's body on the state that reception leaves, and is answered. -/
theorem lysil_of_takes {s : State} {o : OpRow} {q : Req} (taken : s.takes o q) (body : Body) :
    lysil o q body s = .next ((body (reqTicket q o.code) q.params (s.received q)).1.acked o q
      (body (reqTicket q o.code) q.params (s.received q)).2) := by
  have gate : (s.begin q.time).gate o q = .run := taken
  simp only [lysil, State.lysil, gate]
  rfl

theorem State.noteArrival_eq (s : State) (q : Req) : s.noteArrival q = { s with eth := (s.noteArrival q).eth } := by
  unfold State.noteArrival State.onlyIf
  dsimp only
  split
  · split
    · rfl
    · split <;> rfl
    · rfl
  · rfl

theorem State.noteRequest_eq (s : State) (q : Req) :
    s.noteRequest q = { s with eth := (s.noteRequest q).eth, session := (s.noteRequest q).session } := by
  unfold State.noteRequest
  dsimp only
  split <;> rfl

/-- Reception notes the time, the port's reassembly and counters and the peer's lease, and nothing else. -/
theorem State.received_eq (s : State) (q : Req) : s.received q =
    { s.begin q.time with eth := (s.received q).eth, session := (s.received q).session } := by
  unfold State.received
  rw [State.noteRequest_eq, State.noteArrival_eq]

@[simp] theorem State.time_received (s : State) (q : Req) : (s.received q).time = (s.begin q.time).time :=
  (congrArg State.time (s.received_eq q) :)
@[simp] theorem State.base_received (s : State) (q : Req) : (s.received q).base = s.base :=
  (congrArg State.base (s.received_eq q) :)
@[simp] theorem State.pipes_received (s : State) (q : Req) : (s.received q).pipes = s.pipes :=
  (congrArg State.pipes (s.received_eq q) :)
@[simp] theorem State.blocks_received (s : State) (q : Req) : (s.received q).blocks = s.blocks :=
  (congrArg State.blocks (s.received_eq q) :)
@[simp] theorem State.regions_received (s : State) (q : Req) : (s.received q).regions = s.regions :=
  (congrArg State.regions (s.received_eq q) :)
@[simp] theorem State.mem_received (s : State) (q : Req) : (s.received q).mem = s.mem :=
  (congrArg State.mem (s.received_eq q) :)
@[simp] theorem State.faults_received (s : State) (q : Req) : (s.received q).faults = s.faults :=
  (congrArg State.faults (s.received_eq q) :)
@[simp] theorem State.health_received (s : State) (q : Req) : (s.received q).health = s.health :=
  (congrArg State.health (s.received_eq q) :)
@[simp] theorem State.pipe_received (s : State) (q : Req) (p : Nat) : (s.received q).pipe p = s.pipe p := by
  simp [State.pipe]
@[simp] theorem State.block_received (s : State) (q : Req) (b : Nat) : (s.received q).block b = s.block b := by
  simp [State.block]
@[simp] theorem State.region_received (s : State) (q : Req) (r : Nat) : (s.received q).region r = s.region r := by
  simp [State.region]

/-- An ACK that leaves at once and reports no bad CRC changes its port and what is sent; both depend on the time, the ports
and what was sent before alone. -/
theorem State.acked_agree {s u : State} {o : OpRow} {q : Req} {a : Ack} (sent : a.held = false) (crc : a.status ≠ Code.badCrc)
    (time : u.time = s.time) (eth : u.eth = s.eth) (out : u.out = s.out) :
    u.acked o q a = { u with eth := (s.acked o q a).eth, out := (s.acked o q a).out } := by
  have good : (a.status != Code.badCrc) = true := by simpa using crc
  simp only [State.acked, State.noteLong, State.answer, State.linkError, good, sent]
  -- A counted status, an outstanding long command and a consumed sequence each write the port and nothing else.
  cases replyCounter a.status <;> cases o.long && a.status == Code.accepted <;> cases o.code != Opc.sessionOpen <;>
    simp [State.countEth, State.setEth, State.ethOf, State.send, time, eth, out]

/-- The ACK of a request that is answered OK. -/
theorem State.acked_ok_agree {s u : State} (o : OpRow) (q : Req) (time : u.time = s.time) (eth : u.eth = s.eth)
    (out : u.out = s.out) : u.acked o q .ok = { u with eth := (s.acked o q .ok).eth, out := (s.acked o q .ok).out } :=
  State.acked_agree rfl (by decide) time eth out

theorem State.acked_ok_eq (s : State) (o : OpRow) (q : Req) :
    s.acked o q .ok = { s with eth := (s.acked o q .ok).eth, out := (s.acked o q .ok).out } :=
  State.acked_ok_agree o q rfl rfl rfl

/-- An update of what the ACK does not speak of may as well come after it. -/
theorem State.acked_ok_update {s : State} (o : OpRow) (q : Req) (g : State → State) (time : (g s).time = s.time := by rfl)
    (eth : (g s).eth = s.eth := by rfl) (out : (g s).out = s.out := by rfl)
    (apart : ∀ e l, { g s with eth := e, out := l } = g { s with eth := e, out := l } := by intros; rfl) :
    (g s).acked o q .ok = g (s.acked o q .ok) := by
  rw [State.acked_ok_agree o q time eth out, apart, ← State.acked_ok_eq]

@[simp] theorem State.base_acked_ok (s : State) (o : OpRow) (q : Req) : (s.acked o q .ok).base = s.base :=
  (congrArg State.base (s.acked_ok_eq o q) :)
@[simp] theorem State.pipes_acked_ok (s : State) (o : OpRow) (q : Req) : (s.acked o q .ok).pipes = s.pipes :=
  (congrArg State.pipes (s.acked_ok_eq o q) :)
@[simp] theorem State.blocks_acked_ok (s : State) (o : OpRow) (q : Req) : (s.acked o q .ok).blocks = s.blocks :=
  (congrArg State.blocks (s.acked_ok_eq o q) :)
@[simp] theorem State.regions_acked_ok (s : State) (o : OpRow) (q : Req) : (s.acked o q .ok).regions = s.regions :=
  (congrArg State.regions (s.acked_ok_eq o q) :)
@[simp] theorem State.mem_acked_ok (s : State) (o : OpRow) (q : Req) : (s.acked o q .ok).mem = s.mem :=
  (congrArg State.mem (s.acked_ok_eq o q) :)
@[simp] theorem State.faults_acked_ok (s : State) (o : OpRow) (q : Req) : (s.acked o q .ok).faults = s.faults :=
  (congrArg State.faults (s.acked_ok_eq o q) :)
@[simp] theorem State.health_acked_ok (s : State) (o : OpRow) (q : Req) : (s.acked o q .ok).health = s.health :=
  (congrArg State.health (s.acked_ok_eq o q) :)
@[simp] theorem State.pipe_acked_ok (s : State) (o : OpRow) (q : Req) (p : Nat) : (s.acked o q .ok).pipe p = s.pipe p := by
  simp [State.pipe]
@[simp] theorem State.block_acked_ok (s : State) (o : OpRow) (q : Req) (b : Nat) : (s.acked o q .ok).block b = s.block b := by
  simp [State.block]
@[simp] theorem State.region_acked_ok (s : State) (o : OpRow) (q : Req) (r : Nat) : (s.acked o q .ok).region r = s.region r := by
  simp [State.region]

/-! ## An accepted ATTR_WRITE (R332) -/

/-- A taken ATTR_WRITE of a value `v` of `words` words of 32 bits to index `i` of attribute `id`. -/
structure State.WritesAttr (s : State) (q : Req) (id words i v : Nat) : Prop where
  taken : s.takes attrWriteRow q
  attr : le q.params 0 2 = id
  index : le q.params 4 4 = i
  value : ofLe (q.params.drop 8) = v
  size : q.params.length = 8 + 4 * words

/-- A write of an RW attribute within its index range that the chapter's rules accept is answered OK in the state which they
give. -/
theorem ownRow_accepted {s u : State} {q : Req} {id words count i v again : Nat} (w : s.WritesAttr q id words i v)
    (spec : attrSpec id = rw words count) (range : i < count) (put : (s.received q).attrPut id i v again = .ok u) :
    lysil attrWriteRow q (ownRowBody id again) s = .next (u.acked attrWriteRow q .ok) := by
  have body : ∀ k, ownRowBody id again k q.params (s.received q) = (u, .ok) := fun k => by
    simp [ownRowBody, attrWriteBody, w.attr, w.index, w.value, w.size, spec, rw, range, put]
  rw [lysil_of_takes w.taken, body]

/-! ## W1C words (R6, R381) -/

/-- A status word after hardware has set the bits of a list. -/
def latched {w : Nat} (x : BitVec w) (l : List Nat) : BitVec w := l.foldl (fun x k => x ||| BitVec.ofNat w (2 ^ k)) x

theorem getLsbD_latched {w : Nat} (l : List Nat) (x : BitVec w) {k : Nat} (hk : k < w) :
    (latched x l).getLsbD k = (x.getLsbD k || decide (k ∈ l)) := by
  induction l generalizing x with
  | nil => simp [latched]
  | cons i l ih =>
    have step : latched x (i :: l) = latched (x ||| BitVec.ofNat w (2 ^ i)) l := rfl
    rw [step, ih, BitVec.getLsbD_or, BitVec.getLsbD_ofNat, Nat.testBit_two_pow]
    simp [hk, Bool.or_assoc, eq_comm (a := k)]

theorem getLsbD_clearBits {w : Nat} (x : BitVec w) (v : Nat) {k : Nat} (hk : k < w) :
    (clearBits x v).getLsbD k = (x.getLsbD k && !v.testBit k) := by
  rw [clearBits, BitVec.getLsbD_and, BitVec.getLsbD_not, BitVec.getLsbD_ofNat]
  simp [hk]

theorem mem_indices {n k : Nat} {p : Nat → Bool} : k ∈ indices n p ↔ k < n ∧ p k = true := by
  simp [indices]

/-- A bit of a W1C word that is written while hardware sets bits of it: one that hardware sets is set afterwards. -/
theorem getLsbD_clearBits_latched {w : Nat} (x : BitVec w) (v n : Nat) (p : Nat → Bool) {k : Nat} (hk : k < w) :
    (latched (clearBits x v) (indices n p)).getLsbD k = (x.getLsbD k && !v.testBit k || decide (k < n) && p k) := by
  rw [getLsbD_latched _ _ hk, getLsbD_clearBits _ _ hk]
  simp [mem_indices]

/-- No bit is set where hardware sets none. -/
theorem indices_none {n : Nat} {p : Nat → Bool} (h : ∀ k, p k = false) : indices n p = [] := by
  simp [indices, h]

/-! ## The chip's, a region's and a block's bits set one after another (R381) -/

/-- FAULT_TIMES after the bits of a list were set at one time. -/
def stamped (now : Time) (times : Tab (BitVec 64)) (l : List Nat) : Tab (BitVec 64) :=
  l.foldl (fun t k => Tab.set (fun _ => 0) t k now) times

theorem get_stamped (now : Time) (l : List Nat) (times : Tab (BitVec 64)) (k : Nat) :
    Tab.get (fun _ => 0) (stamped now times l) k = if k ∈ l then now else Tab.get (fun _ => 0) times k := by
  induction l generalizing times with
  | nil => simp [stamped]
  | cons i l ih =>
    have step : stamped now times (i :: l) = stamped now (Tab.set (fun _ => 0) times i now) l := rfl
    rw [step, ih, Tab.get_set]
    by_cases h : k = i <;> simp [h]

theorem State.foldl_setChip (l : List Nat) (s : State) : l.foldl State.setChip s =
    { s with faults := { s.faults with
        status := latched s.faults.status l, times := stamped s.time s.faults.times l } } := by
  induction l generalizing s with
  | nil => rfl
  | cons i l ih => rw [List.foldl_cons, ih]; rfl

@[simp] theorem State.region_setChip (s : State) (i n : Nat) : (s.setChip i).region n = s.region n := rfl

theorem State.region_setRegionBit_same (s : State) (r i : Nat) : (s.setRegionBit r i).region r =
    { s.region r with status := (s.region r).status ||| BitVec.ofNat 32 (2 ^ i) } := by
  unfold State.setRegionBit
  dsimp only
  split <;> simp

theorem State.region_setRegionBit_other (s : State) (r i : Nat) {n : Nat} (h : n ≠ r) :
    (s.setRegionBit r i).region n = s.region n := by
  unfold State.setRegionBit
  dsimp only
  split <;> simp [h]

theorem State.region_setRegionBits_same (r : Nat) (l : List Nat) (s : State) :
    (l.foldl (fun s k => s.setRegionBit r k) s).region r = { s.region r with status := latched (s.region r).status l } := by
  induction l generalizing s with
  | nil => rfl
  | cons i l ih => rw [List.foldl_cons, ih, State.region_setRegionBit_same]; rfl

theorem State.region_setRegionBits_other (r : Nat) (l : List Nat) (s : State) {n : Nat} (h : n ≠ r) :
    (l.foldl (fun s k => s.setRegionBit r k) s).region n = s.region n :=
  foldl_keeps (fun t => t.region n = s.region n) _ (fun t k ht => (t.region_setRegionBit_other r k h).trans ht) l s rfl

/-- From `s` to `t` region words and the collector's have changed, and nothing else. -/
def State.RegionWordsOnly (s t : State) : Prop := t = { s with regions := t.regions, faults := t.faults }

theorem State.updRegion_words (s : State) (r : Nat) (f : Region → Region) : s.RegionWordsOnly (s.updRegion r f) := rfl

theorem State.setRegionBits_words (r : Nat) (l : List Nat) {s t : State} (h : s.RegionWordsOnly t) :
    s.RegionWordsOnly (l.foldl (fun s k => s.setRegionBit r k) t) :=
  foldl_keeps s.RegionWordsOnly _ (fun t k => State.setRegionBit_keeps s.RegionWordsOnly
    (fun _ x h => (congrArg (fun u : State => { u with faults := x }) h :))
    (fun _ i v h => congrArg (fun u : State => u.setRegion i v) h) t r k) l t h

theorem State.RegionWordsOnly.acked_ok {s t : State} (h : s.RegionWordsOnly t) (o : OpRow) (q : Req) :
    (s.acked o q .ok).RegionWordsOnly (t.acked o q .ok) := by
  unfold State.RegionWordsOnly
  rw [State.regions_acked_ok, State.faults_acked_ok]
  exact (congrArg (State.acked · o q .ok) h).trans
    (State.acked_ok_update o q fun u => { u with regions := t.regions, faults := t.faults })

@[simp] theorem State.block_setRegionBit (s : State) (r i n : Nat) : (s.setRegionBit r i).block n = s.block n :=
  State.setRegionBit_keeps (fun t => t.block n = s.block n) (fun _ _ h => h) (fun _ _ _ h => h) s r i rfl

theorem State.block_setBlockBit_same (s : State) (b i : Nat) : (s.setBlockBit b i).block b =
    { s.block b with status := (s.block b).status ||| BitVec.ofNat 32 (2 ^ i) } := by
  unfold State.setBlockBit
  dsimp only
  split <;> simp

theorem State.block_setBlockBit_other (s : State) (b i : Nat) {n : Nat} (h : n ≠ b) :
    (s.setBlockBit b i).block n = s.block n := by
  unfold State.setBlockBit
  dsimp only
  split <;> simp [h]

theorem State.block_setBlockBits_same (b : Nat) (l : List Nat) (s : State) :
    (l.foldl (fun s k => s.setBlockBit b k) s).block b = { s.block b with status := latched (s.block b).status l } := by
  induction l generalizing s with
  | nil => rfl
  | cons i l ih => rw [List.foldl_cons, ih, State.block_setBlockBit_same]; rfl

theorem State.block_setBlockBits_other (b : Nat) (l : List Nat) (s : State) {n : Nat} (h : n ≠ b) :
    (l.foldl (fun s k => s.setBlockBit b k) s).block n = s.block n :=
  foldl_keeps (fun t => t.block n = s.block n) _ (fun t k ht => (t.block_setBlockBit_other b k h).trans ht) l s rfl

/-- From `s` to `t` block words, region words and the collector's have changed, and nothing else. -/
def State.BlockWordsOnly (s t : State) : Prop := t = { s with blocks := t.blocks, regions := t.regions, faults := t.faults }

theorem State.updBlock_words (s : State) (b : Nat) (f : Block → Block) : s.BlockWordsOnly (s.updBlock b f) := rfl

theorem State.setBlockBits_words (b : Nat) (l : List Nat) {s t : State} (h : s.BlockWordsOnly t) :
    s.BlockWordsOnly (l.foldl (fun s k => s.setBlockBit b k) t) :=
  foldl_keeps s.BlockWordsOnly _ (fun t k => State.setBlockBit_keeps s.BlockWordsOnly
    (fun _ x h => (congrArg (fun u : State => { u with faults := x }) h :))
    (fun _ i v h => congrArg (fun u : State => u.setBlock i v) h)
    (fun _ i v h => congrArg (fun u : State => u.setRegion i v) h) t b k) l t h

theorem State.BlockWordsOnly.acked_ok {s t : State} (h : s.BlockWordsOnly t) (o : OpRow) (q : Req) :
    (s.acked o q .ok).BlockWordsOnly (t.acked o q .ok) := by
  unfold State.BlockWordsOnly
  rw [State.blocks_acked_ok, State.regions_acked_ok, State.faults_acked_ok]
  exact (congrArg (State.acked · o q .ok) h).trans
    (State.acked_ok_update o q fun u => { u with blocks := t.blocks, regions := t.regions, faults := t.faults })

/-! ## REMAP_STATUS (R378) -/

/-- The same update of each pipeline of a list, where a second one changes nothing more. -/
theorem State.pipe_forEach_updPipe {f : Pipe → Pipe} (once : ∀ x, f (f x) = f x) (l : List Nat) (s : State) (p : Nat) :
    (forEach l (fun n s => s.updPipe n f) s).pipe p = if p ∈ l then f (s.pipe p) else s.pipe p := by
  induction l generalizing s with
  | nil => simp [forEach]
  | cons n l ih =>
    have step : forEach (n :: l) (fun n s => s.updPipe n f) s = forEach l (fun n s => s.updPipe n f) (s.updPipe n f) := rfl
    rw [step, ih]
    by_cases h : p = n
    · subst h
      simp [once]
    · simp [h]

/-- A pipeline whose shedding is to end at its next boundary, or not. -/
def Pipe.unshed (due : Bool) (x : Pipe) : Pipe := { x with unshedDue := due }

theorem State.remapWrite_eq (s : State) (v again : Nat) : s.remapWrite v again =
    let t := forEach (indices 24 again.testBit) (fun p s => s.updPipe p (Pipe.unshed false))
      (forEach (indices 24 fun p => s.faults.remapStatus.getLsbD p && v.testBit p)
        (fun p s => s.updPipe p (Pipe.unshed true)) s)
    { t with faults := { t.faults with
        remapStatus := clearBits s.faults.remapStatus v ||| BitVec.ofNat 32 (again % 2 ^ 24) } } := rfl

theorem State.pipe_remapWrite (s : State) (v again p : Nat) : (s.remapWrite v again).pipe p =
    if p < 24 ∧ again.testBit p = true then { s.pipe p with unshedDue := false }
    else if p < 24 ∧ s.faults.remapStatus.getLsbD p = true ∧ v.testBit p = true then { s.pipe p with unshedDue := true }
    else s.pipe p := by
  have once : ∀ b x, Pipe.unshed b (Pipe.unshed b x) = Pipe.unshed b x := fun _ _ => rfl
  have marked := (congrArg (State.pipe · p) (s.remapWrite_eq v again)).trans
    (State.pipe_forEach_updPipe (once false) (indices 24 again.testBit) _ p)
  rw [marked, State.pipe_forEach_updPipe (once true)]
  simp only [mem_indices, Bool.and_eq_true]
  split <;> split <;> rfl

theorem State.faults_remapWrite (s : State) (v again : Nat) : (s.remapWrite v again).faults =
    { s.faults with remapStatus := clearBits s.faults.remapStatus v ||| BitVec.ofNat 32 (again % 2 ^ 24) } := by
  have kept : ∀ (f : Pipe → Pipe) (l : List Nat) (u : State), (forEach l (fun p s => s.updPipe p f) u).faults = u.faults :=
    fun f l u => forEach_keeps (fun t => t.faults = u.faults) (fun p s => s.updPipe p f) (fun _ _ h => h) l u rfl
  rw [State.remapWrite_eq]
  dsimp only
  rw [kept, kept]

/-! ## MEM_CONFIG and FEN_CONFIG (R288, R315) -/

theorem fld_eq_of_testBit {hi lo a b : Nat} (same : ∀ k < hi + 1 - lo, a.testBit (lo + k) = b.testBit (lo + k)) :
    fld hi lo a = fld hi lo b := by
  refine Nat.eq_of_testBit_eq fun k => ?_
  simp only [fld, Nat.testBit_mod_two_pow, Nat.testBit_div_two_pow]
  by_cases h : k < hi + 1 - lo
  · simpa [h, Nat.add_comm] using same k h
  · simp [h]

/-- MEM_CONFIG after a write of `v` over `x`: CE_LIMIT and SCRUB_HOURS as written, INTERLEAVE as it is live. -/
def memConfigTaken (x : BitVec 32) (v : Nat) : BitVec 32 := keep 32 0xFF00_FF00 v ||| BitVec.ofNat 32 (bits 1 0 x)

theorem testBit_memConfigTaken (x : BitVec 32) (v : Nat) {j : Nat} (hj : j < 32) : (memConfigTaken x v).toNat.testBit j =
    (v.testBit j && Nat.testBit 0xFF00_FF00 j || decide (j < 2) && x.toNat.testBit j) := by
  simp only [memConfigTaken, keep, bits, fld, BitVec.toNat_or, BitVec.toNat_ofNat, Nat.testBit_or, Nat.testBit_and,
    Nat.testBit_mod_two_pow, Nat.testBit_div_two_pow]
  simp [hj]

theorem memConfigTaken_ceLimit (x : BitVec 32) (v : Nat) : bits 31 24 (memConfigTaken x v) = fld 31 24 v :=
  fld_eq_of_testBit fun k hk => by
    have written : ∀ k < 8, Nat.testBit 0xFF00_FF00 (24 + k) = true := by decide
    rw [testBit_memConfigTaken x v (by omega), written k hk]
    simp [show ¬ 24 + k < 2 by omega]

theorem memConfigTaken_scrubHours (x : BitVec 32) (v : Nat) : bits 15 8 (memConfigTaken x v) = fld 15 8 v :=
  fld_eq_of_testBit fun k hk => by
    have written : ∀ k < 8, Nat.testBit 0xFF00_FF00 (8 + k) = true := by decide
    rw [testBit_memConfigTaken x v (by omega), written k hk]
    simp [show ¬ 8 + k < 2 by omega]

theorem memConfigTaken_interleave (x : BitVec 32) (v : Nat) : bits 1 0 (memConfigTaken x v) = bits 1 0 x :=
  fld_eq_of_testBit fun k hk => by
    have reserved : ∀ k < 2, Nat.testBit 0xFF00_FF00 (0 + k) = false := by decide
    rw [testBit_memConfigTaken x v (by omega), reserved k hk]
    simp [show k < 2 by omega]

theorem toNat_keep_phase (v : Nat) : (keep 64 0xFFFF_FFFF (word64 v 1)).toNat = v / 2 ^ 64 % 2 ^ 32 := by
  have mask : 0xFFFF_FFFF = 2 ^ 32 - 1 := rfl
  rw [keep, word64, mask, Nat.and_two_pow_sub_one_eq_mod, BitVec.toNat_ofNat]
  omega

/-! ## The eight writes -/

/-- The bits of FAULT_STATUS and of BLOCK_STATUS that hardware can set in the cycle of a write: those that their tables
make W1C. -/
def chipBitsSet (a : BitVec 64) : List Nat := indices 28 fun k => k != 23 && a.getLsbD k
def blockBitsSet (a : BitVec 32) : List Nat := indices 26 fun k => !(k == 22 || k == 23 || k == 24) && a.getLsbD k

section
variable {s : State} {q : Req} {i v : Nat}

theorem exec_portStatusClear {b : Bool} (w : s.WritesAttr q 0x0208 1 i v) (range : i < 24) :
    exec (.portStatusClear q b) s = .next (((s.received q).updPort i fun x =>
      { x with pclkStopped := (x.pclkStopped && !v.testBit 4) || b }).acked attrWriteRow q .ok) :=
  ownRow_accepted w (count := 24) rfl range (by cases b <;> rfl)

theorem exec_faultStatusClear {a : BitVec 64} (w : s.WritesAttr q 0x0800 2 0 v) :
    exec (.faultStatusClear q a) s = .next (State.acked { s.received q with faults := { s.faults with
      status := latched (clearBits s.faults.status v) (chipBitsSet a)
      times := stamped (s.begin q.time).time s.faults.times (chipBitsSet a) } } attrWriteRow q .ok) := by
  rw [← s.faults_received q, ← s.time_received q]
  exact ownRow_accepted w (count := 1) rfl Nat.one_pos (congrArg Except.ok (State.foldl_setChip (chipBitsSet a) _))

theorem exec_regionStatusClear {a : BitVec 32} (w : s.WritesAttr q 0x0801 1 i v) (range : i < 4) :
    exec (.regionStatusClear q a) s = .next (((indices 26 a.getLsbD).foldl (fun s k => s.setRegionBit i k)
      ((s.received q).updRegion i fun x => { x with status := clearBits x.status v })).acked attrWriteRow q .ok) :=
  ownRow_accepted w (count := 4) rfl range rfl

theorem exec_blockStatusClear {a : BitVec 32} (w : s.WritesAttr q 0x0802 1 i v) (range : i < 64) :
    exec (.blockStatusClear q a) s = .next
      (((blockBitsSet a).foldl (fun s k => s.setBlockBit i k)
        ((s.received q).updBlock i fun x => { x with status := clearBits x.status v })).acked attrWriteRow q .ok) :=
  ownRow_accepted w (count := 64) rfl range rfl

theorem exec_remapStatusWrite {a : BitVec 32} (w : s.WritesAttr q 0x0809 1 0 v) :
    exec (.remapStatusWrite q a) s = .next (((s.received q).remapWrite v a.toNat).acked attrWriteRow q .ok) :=
  ownRow_accepted w (count := 1) rfl Nat.one_pos rfl

theorem exec_memConfigWrite (w : s.WritesAttr q 0x0600 1 0 v) (ce : 1 ≤ fld 31 24 v) (low : 1 ≤ fld 15 8 v)
    (high : fld 15 8 v ≤ 168) (free : fld 1 0 v = bits 1 0 s.mem.config ∨ (s.received q).interleaveFree = true) :
    exec (.memConfigWrite q) s = .next (State.acked { s.received q with mem := { s.mem with
      config := memConfigTaken s.mem.config v
      interleaveWait := if fld 1 0 v = bits 1 0 s.mem.config then none else some (BitVec.ofNat 2 v) } } attrWriteRow q .ok) := by
  have put : (s.received q).attrPut 0x0600 0 v 0 = (s.received q).memConfigWrite v := rfl
  refine ownRow_accepted w (count := 1) rfl Nat.one_pos (put.trans ?_)
  simp [State.memConfigWrite, permit, require, ce, low, high, free, memConfigTaken]

theorem exec_fenConfigWrite (w : s.WritesAttr q 0x0181 4 0 v) (stopped : ∀ p < 24, (s.pipe p).stream = .stopped)
    (legal : fenLegal v = true) : exec (.fenConfigWrite q) s = .next (State.acked { s.received q with base := { s.base with
      fen0 := BitVec.ofNat 64 v, fen1 := keep 64 0xFFFF_FFFF (word64 v 1) } } attrWriteRow q .ok) := by
  have put : (s.received q).attrPut 0x0181 0 v 0 = (s.received q).fenWrite v := rfl
  refine ownRow_accepted w (count := 1) rfl Nat.one_pos (put.trans ?_)
  have all : (List.range 24).all (fun p => (s.pipe p).stream == .stopped) = true := by simpa using stopped
  simp only [State.fenWrite, permit, require, State.pipe_received, all, legal, State.base_received, ↓reduceIte]

theorem exec_ageConfigWrite (w : s.WritesAttr q 0x0904 1 0 v) (low : 5 ≤ fld 7 0 v) (high : fld 7 0 v ≤ 60) :
    exec (.ageConfigWrite q) s = .next (State.acked { s.received q with health := { s.health with
      ageConfig := keep 32 0xFFFF_00FF v
      locations := (s.health.locations.map fun l => (l.1, { l.2 with warned := false })).filter
        fun l => l.2 != Location.reset } } attrWriteRow q .ok) := by
  have put : (s.received q).attrPut 0x0904 0 v 0 = (s.received q).ageWrite v := rfl
  refine ownRow_accepted w (count := 1) rfl Nat.one_pos (put.trans ?_)
  simp [State.ageWrite, permit, require, low, high]

end

/-- Settles O48: each write is the accepted ATTR_WRITE of its row, and hardware's bits are set after the written ones are
cleared. -/
theorem rowOwnedAttributeWrites : Obligations.RowOwnedAttributeWrites := by
  unfold Obligations.RowOwnedAttributeWrites
  intro q s taken i v
  refine ⟨fun id range size => ?portStatus, fun id index size => ?faultStatus, fun id range size => ?regionStatus,
    fun id range size => ?blockStatus, fun id index size => ?remapStatus, fun id index size ce low high free => ?memConfig,
    fun id index size stopped legal => ?fenConfig, fun id index size low high => ?ageConfig,
    fun id range size => ?portStatusAgain, fun a id index size => ?faultStatusAgain, fun a id range size => ?regionStatusAgain,
    fun a id range size => ?blockStatusAgain, fun a id index size => ?remapStatusAgain⟩
  case portStatus =>
    have w : s.WritesAttr q 0x0208 1 i v := ⟨taken, id, rfl, rfl, size⟩
    rw [exec_portStatusClear w range]
    simp only [Bool.or_false]
  case faultStatus =>
    have w : s.WritesAttr q 0x0800 2 0 v := ⟨taken, id, index, rfl, size⟩
    have none_set : chipBitsSet 0 = [] := indices_none (by simp)
    rw [exec_faultStatusClear w, none_set]
    rfl
  case regionStatus =>
    have w : s.WritesAttr q 0x0801 1 i v := ⟨taken, id, rfl, rfl, size⟩
    rw [exec_regionStatusClear w range, indices_none (by simp)]
    rfl
  case blockStatus =>
    have w : s.WritesAttr q 0x0802 1 i v := ⟨taken, id, rfl, rfl, size⟩
    have none_set : blockBitsSet 0 = [] := indices_none (by simp)
    rw [exec_blockStatusClear w range, none_set]
    rfl
  case remapStatus =>
    have w : s.WritesAttr q 0x0809 1 0 v := ⟨taken, id, index, rfl, size⟩
    refine ⟨_, exec_remapStatusWrite w, ?_, fun p => ?_⟩
    · simp [State.faults_remapWrite, clearBits]
    · simp [State.pipe_remapWrite]
  case memConfig =>
    have w : s.WritesAttr q 0x0600 1 0 v := ⟨taken, id, index, rfl, size⟩
    refine ⟨_, exec_memConfigWrite w ce low high free, ?_⟩
    rw [State.acked_ok_update attrWriteRow q (s := s.received q) fun u => { u with mem := _ }]
    exact ⟨rfl, memConfigTaken_ceLimit .., memConfigTaken_scrubHours .., memConfigTaken_interleave .., rfl⟩
  case fenConfig =>
    have w : s.WritesAttr q 0x0181 4 0 v := ⟨taken, id, index, rfl, size⟩
    refine ⟨_, exec_fenConfigWrite w stopped legal, ?_⟩
    rw [State.acked_ok_update attrWriteRow q (s := s.received q) fun u => { u with base := _ }]
    exact ⟨rfl, toNat_keep_phase v⟩
  case ageConfig =>
    have w : s.WritesAttr q 0x0904 1 0 v := ⟨taken, id, index, rfl, size⟩
    refine ⟨_, exec_ageConfigWrite w low high, ?_⟩
    rw [State.acked_ok_update attrWriteRow q (s := s.received q) fun u => { u with health := _ }]
    exact ⟨rfl, rfl⟩
  case portStatusAgain =>
    have w : s.WritesAttr q 0x0208 1 i v := ⟨taken, id, rfl, rfl, size⟩
    rw [exec_portStatusClear w range]
    simp only [Bool.or_true]
  case faultStatusAgain =>
    have w : s.WritesAttr q 0x0800 2 0 v := ⟨taken, id, index, rfl, size⟩
    refine ⟨_, exec_faultStatusClear w, ?_⟩
    rw [State.acked_ok_update attrWriteRow q (s := s.received q) fun u => { u with faults := _ }]
    refine ⟨rfl, fun k hk => ?_, fun k => (get_stamped _ _ _ k).trans ?_⟩
    · exact (getLsbD_clearBits_latched _ v 28 _ hk).trans (by simp [Bool.and_assoc])
    · simp [chipBitsSet, mem_indices]
  case regionStatusAgain =>
    have w : s.WritesAttr q 0x0801 1 i v := ⟨taken, id, rfl, rfl, size⟩
    refine ⟨_, exec_regionStatusClear w range,
      (State.setRegionBits_words i _ (State.updRegion_words ..)).acked_ok attrWriteRow q, fun n hn => ?_, ?_⟩
    · simp [State.region_setRegionBits_other i _ _ hn, hn]
    · rw [State.region_acked_ok, State.region_setRegionBits_same, State.region_updRegion_same, State.region_received]
      refine ⟨rfl, fun k hk => getLsbD_clearBits_latched _ v 26 _ hk, fun zero => ?_⟩
      subst zero
      rw [indices_none (by simp)]
      simp
  case blockStatusAgain =>
    have w : s.WritesAttr q 0x0802 1 i v := ⟨taken, id, rfl, rfl, size⟩
    refine ⟨_, exec_blockStatusClear w range,
      (State.setBlockBits_words i _ (State.updBlock_words ..)).acked_ok attrWriteRow q, fun n hn => ?_, ?_⟩
    · simp [State.block_setBlockBits_other i _ _ hn, hn]
    · rw [State.block_acked_ok, State.block_setBlockBits_same, State.block_updBlock_same, State.block_received]
      refine ⟨rfl, fun k hk => ?_⟩
      exact (getLsbD_clearBits_latched _ v 26 _ hk).trans (by simp [Bool.and_assoc])
  case remapStatusAgain =>
    have w : s.WritesAttr q 0x0809 1 0 v := ⟨taken, id, index, rfl, size⟩
    refine ⟨_, exec_remapStatusWrite w, fun k hk => ?_, fun p hp shed => ?_⟩
    · rw [State.faults_acked_ok, State.faults_remapWrite, State.faults_received, BitVec.getLsbD_or, getLsbD_clearBits _ _ hk,
        BitVec.getLsbD_ofNat, Nat.testBit_mod_two_pow, BitVec.testBit_toNat]
      simp [hk]
    · have set : a.toNat.testBit p = true := shed
      simp [State.pipe_remapWrite, hp, set]

end Sys2Proof.Machine
end

section
/-!
PROOFS. O28 fails: where a picture's row goes to the coding marker's own eight bytes, and its eight bytes are zeros, the row's piece is
equal to the piece that stands for the marker in the statement, so no other byte counts as going there; but the marker is written
last, and it holds the frame's number.
-/

namespace Sys2Proof.Machine

open Sys2Proof

/-- Frame 1 with the coding form on, of one row of eight pixels: its one stripe is late, and its fallback slot, at address 0, is
whole. -/
def blackFrame : FrameJob :=
  { frame := 1, createdAt := 0, startTime := 0, endTime := none, flags := none
    settings := { PipeSettings.reset with output := PipeSettings.reset.output ||| 1 }
    port := { PortSettings.reset with geometry := 0x0001_0008 }, mask := 0, idle := false
    stripes := [{ newStripe 0 with final := some .late, fbSlot := some 0, fbRows := 1 }]
    begun := false, overrun := false, mapSent := false, recordSent := false, recordLost := false, writeFault := false
    checkError := false, done := 0, candidates := [], candCount := 0, candTruncated := false, detDone := false, detCount := 0
    detTruncated := false, detValid := false, jobStatus := 0, statusEvents := 0, feRow := 0, write := (0, 0), fbRow := 0
    stats := .empty, statsDone := false, delivered := false }

/-- The device at command-ready with that frame on pipeline 0, whose output areas, pitches and offsets are 0; DRAM is zero. -/
def blackRowAtMarker : State :=
  { State.reset with phase := .ready, pipes := [(0, { Pipe.reset 0 with frames := [blackFrame] })]
                     health := { Health.reset with lock := 2 } }

/-- The row's only granule: eight black samples from address 0 on. The coding marker's granule with zeros for its bytes is the same. -/
def blackPiece : OutPiece := (0, 0, zeros 8, false)

/-- The pieces of the stripe's pictures, as the statement computes them. -/
def blackPieces : List OutPiece :=
  let r := blackRowAtMarker.begin 0
  let rows := (((r.beginResult (0 : Fin 24) 1).writeMarker (0 : Fin 24) blackFrame 0 .none).stripeRuns (0 : Fin 24) blackFrame 0 false .none).1
  outPieces rows.1 ++ outPieces rows.2

theorem blackPieces_eq : blackPieces = [blackPiece] := by decide +kernel

/-- The byte that DRAM holds at address 0 once the stripe is written: the low byte of the frame's number. -/
theorem outputStripeWrite_leaves_marker {u : State}
    (next : exec (.outputStripeWrite 0 0 1 0 false .none) blackRowAtMarker = .next u) : u.mem.dram.read 0 = 1 := by
  have run : (match exec (.outputStripeWrite 0 0 1 0 false .none) blackRowAtMarker with
    | .next u => u.mem.dram.read 0
    | _ => 0) = 1 := by decide +kernel
  rwa [next] at run

/-- Refutes O28: a black row of eight pixels at the coding marker's address is overwritten by the marker. -/
theorem not_outputsAreWritten : ¬ Obligations.OutputsAreWritten := by
  unfold Obligations.OutputsAreWritten
  intro ⟨_, stripes, _⟩
  obtain ⟨_, bytes, _⟩ := stripes blackRowAtMarker 0 0 1 0 blackFrame _ rfl (by decide +kernel) rfl
  obtain ⟨u, next, _, holds⟩ := bytes .late rfl rfl (by decide +kernel) rfl
  have marker : u.mem.dram.read 0 = 1 := outputStripeWrite_leaves_marker next
  have black : u.mem.dram.read 0 = 0 := by
    refine holds blackPiece ?_ 0 false 0 (by decide +kernel) (by decide) fun z hz _ => ?_
    · show blackPiece ∈ blackPieces
      simp [blackPieces_eq]
    · have same : z ∈ blackPieces ++ [blackPiece] := hz
      simpa [blackPieces_eq] using same
  exact absurd (marker.symm.trans black) (by decide)

end Sys2Proof.Machine
end

section
/-!
PROOFS. O9: the VSYNC active edge. What a frame boundary makes of its port and of its pipeline, how the taps follow their eyes, and
that the edge touches nothing beyond one port, one pipeline and the heron units.
-/

namespace Sys2Proof.Machine

open Sys2Proof

@[simp] theorem State.pipe_updPort (s : State) (n p : Nat) (f : Port → Port) : (s.updPort n f).pipe p = s.pipe p := rfl
@[simp] theorem State.port_updPipe (s : State) (q m : Nat) (f : Pipe → Pipe) : (s.updPipe q f).port m = s.port m := rfl

/-! ## What a frame boundary may touch -/

/-- From `s` to `u` nothing changes but pipeline `q`, port `n`, the heron units and the count of free values. -/
structure State.BoundaryTouches (q n : Nat) (s u : State) : Prop where
  rest : u = { s with pipes := u.pipes, ports := u.ports, herons := u.herons, fresh := u.fresh }
  pipes : ∀ p, p ≠ q → u.pipe p = s.pipe p
  ports : ∀ m, m ≠ n → u.port m = s.port m

namespace State.BoundaryTouches

variable {q n : Nat} {s u v : State}

theorem refl : State.BoundaryTouches q n s s := ⟨rfl, fun _ _ => rfl, fun _ _ => rfl⟩

theorem trans (a : State.BoundaryTouches q n s u) (b : State.BoundaryTouches q n u v) : State.BoundaryTouches q n s v where
  rest := b.rest.trans (congrArg (fun w : State => { w with
    pipes := v.pipes, ports := v.ports, herons := v.herons, fresh := v.fresh }) a.rest :)
  pipes p h := (b.pipes p h).trans (a.pipes p h)
  ports m h := (b.ports m h).trans (a.ports m h)

theorem setPort (x : Port) : State.BoundaryTouches q n s (s.setPort n x) :=
  ⟨rfl, fun _ _ => rfl, fun _ h => State.port_setPort_other s n x _ h⟩

theorem updPort (f : Port → Port) : State.BoundaryTouches q n s (s.updPort n f) := setPort _

theorem updPipe (f : Pipe → Pipe) : State.BoundaryTouches q n s (s.updPipe q f) :=
  ⟨rfl, fun _ h => State.pipe_updPipe_other s q f _ h, fun _ _ => rfl⟩

theorem of_herons (rest : u = { s with herons := u.herons }) : State.BoundaryTouches q n s u where
  rest := rest.trans (by rw [rest])
  pipes _ _ := by rw [rest]; rfl
  ports _ _ := by rw [rest]; rfl

end State.BoundaryTouches

/-! ## Heron units and exposure commands -/

/-- An update that writes only heron units, run for each of a list, writes only heron units. -/
theorem forEach_herons {α : Type} {f : α → State → State} (each : ∀ x s, f x s = { s with herons := (f x s).herons })
    (l : List α) (s : State) : forEach l f s = { s with herons := (forEach l f s).herons } := by
  refine forEach_keeps (fun u => u = { s with herons := u.herons }) f (fun x u ih => ?_) l s rfl
  exact (each x u).trans (congrArg (fun w : State => { w with herons := (f x u).herons }) ih :)

theorem State.markUncertain_touches (s : State) (q n : Nat) : State.BoundaryTouches q n s (s.markUncertain q) := by
  unfold State.markUncertain
  refine .trans (.updPipe _) (.of_herons (forEach_herons (fun e s => ?_) _ _))
  split <;> rfl

theorem State.exposuresDue_touches (s : State) (q n : Nat) (sel : ExposureCmd → Bool) :
    State.BoundaryTouches q n s (s.exposuresDue q n sel) := by
  unfold State.exposuresDue
  refine .trans (.updPipe _) (.trans (.updPort _) (.of_herons (forEach_herons (fun e s => ?_) _ _)))
  split <;> rfl

/-- Such an update leaves every pipeline and every port. -/
theorem forEach_herons_pipe {α : Type} {f : α → State → State} (each : ∀ x s, f x s = { s with herons := (f x s).herons })
    (l : List α) (s : State) (p : Nat) : (forEach l f s).pipe p = s.pipe p :=
  (congrArg (State.pipe · p) (forEach_herons each l s) :)

theorem forEach_herons_port {α : Type} {f : α → State → State} (each : ∀ x s, f x s = { s with herons := (f x s).herons })
    (l : List α) (s : State) (m : Nat) : (forEach l f s).port m = s.port m :=
  (congrArg (State.port · m) (forEach_herons each l s) :)

/-- Of its pipeline it writes the exposure commands. -/
theorem State.pipe_markUncertain (s : State) (q : Nat) :
    ∃ l, (s.markUncertain q).pipe q = { s.pipe q with exposures := l } := by
  refine ⟨?_, (forEach_herons_pipe (fun e s => by dsimp only; split <;> rfl) _ _ q).trans ?eq⟩
  case eq => rw [State.pipe_updPipe_same]

theorem State.port_markUncertain (s : State) (q m : Nat) : (s.markUncertain q).port m = s.port m :=
  forEach_herons_port (fun e s => by dsimp only; split <;> rfl) _ _ m

theorem State.pipe_exposuresDue (s : State) (q n : Nat) (sel : ExposureCmd → Bool) :
    ∃ l, (s.exposuresDue q n sel).pipe q = { s.pipe q with exposures := l } := by
  refine ⟨?_, (forEach_herons_pipe (fun e s => by dsimp only; split <;> rfl) _ _ q).trans ?eq⟩
  case eq => rw [State.pipe_updPort, State.pipe_updPipe_same]

/-- Of its port it writes the transactions that are due. -/
theorem State.port_exposuresDue (s : State) (q n : Nat) (sel : ExposureCmd → Bool) :
    ∃ l, (s.exposuresDue q n sel).port n = { s.port n with i2cDue := l } := by
  refine ⟨?_, (forEach_herons_port (fun e s => by dsimp only; split <;> rfl) _ _ n).trans ?eq⟩
  case eq => rw [State.port_updPort_same, State.port_updPipe]

/-! ## Settings that go live (R36, R471) -/

/-- A port that carries a started frame. -/
def Port.carries (p : Port) : Prop :=
  p.state = .inFrame ∧ (p.frame.any fun f => f.job.isSome && !f.ended) = true

/-- `p'` is `p` after its frame boundary at `now`: what was committed before is live, and the frame goes on. -/
structure Port.Bounded (now : Nat) (p p' : Port) : Prop where
  state : p'.state = p.state
  counters : p'.counters = p.counters
  frame : p'.frame = p.frame
  settings : if p.pendingAt.toNat < now then p'.live = p.pending.getD p.live ∧ p'.pending = none
    else p'.live = p.live ∧ p'.pending = p.pending

/-- `x'` is `x` after its frame boundary at `now`. -/
structure Pipe.Bounded (now : Nat) (x x' : Pipe) : Prop where
  nextFrame : x'.nextFrame = x.nextFrame
  frames : x'.frames = x.frames
  blocks : x'.blocks = x.blocks
  settings : if x.pendingAt.toNat < now then x'.live = x.pending.getD x.live ∧ x'.pending = none
    else x'.live = x.live ∧ x'.pending = x.pending

theorem Port.Bounded.i2cDue {now : Nat} {p p' : Port} (b : Port.Bounded now p p') (l : List I2cTxn) :
    Port.Bounded now p { p' with i2cDue := l } := ⟨b.state, b.counters, b.frame, b.settings⟩

theorem Port.Bounded.boundaryAt {now : Nat} {p p' : Port} (b : Port.Bounded now p p') (t : Option Time) :
    Port.Bounded now p { p' with boundaryAt := t } := ⟨b.state, b.counters, b.frame, b.settings⟩

theorem Port.Bounded.tracked {now : Nat} {p p' : Port} (b : Port.Bounded now p p') (taps centres : Tab (BitVec 6)) :
    Port.Bounded now p { p' with taps := taps, centres := centres } := ⟨b.state, b.counters, b.frame, b.settings⟩

theorem Pipe.Bounded.exposures {now : Nat} {x x' : Pipe} (b : Pipe.Bounded now x x') (l : List ExposureCmd) :
    Pipe.Bounded now x { x' with exposures := l } := ⟨b.nextFrame, b.frames, b.blocks, b.settings⟩

theorem Pipe.Bounded.unshedDue {now : Nat} {x x' : Pipe} (b : Pipe.Bounded now x x') (d : Bool) :
    Pipe.Bounded now x { x' with unshedDue := d } := ⟨b.nextFrame, b.frames, b.blocks, b.settings⟩

/-- Settings that go live on a port that carries a frame: the frame goes on under its own (R471). -/
theorem Port.goLive_carries {p : Port} (h : p.carries) (c : PortSettings) (on : Bool) :
    (p.goLive c on).state = p.state ∧ (p.goLive c on).counters = p.counters ∧ (p.goLive c on).frame = p.frame ∧
      (p.goLive c on).live = c ∧ (p.goLive c on).pending = none := by
  obtain ⟨state, frame⟩ := h
  have calibrated : ∀ p : Port, (p.recalibrate c on).state = p.state ∧ (p.recalibrate c on).counters = p.counters ∧
      (p.recalibrate c on).frame = p.frame := by
    intro p
    unfold Port.recalibrate
    split <;> exact ⟨rfl, rfl, rfl⟩
  obtain ⟨hs, hc, hf⟩ := calibrated p
  unfold Port.goLive Port.rephase
  dsimp only
  rw [hf]
  by_cases en : c.enable = true
  · rw [if_pos en]
    exact ⟨by simp [hs, state], hc, rfl, rfl, rfl⟩
  · rw [if_neg en, if_pos frame]
    exact ⟨hs, hc, rfl, rfl, rfl⟩

/-- A port that carries a frame stays in IN_FRAME, so its change ends no suppression. -/
theorem State.portGoLive_eq (s : State) {n : Nat} (h : (s.port n).carries) : s.portGoLive n =
    match (s.port n).pending with
    | some c => s.setPort n ((s.port n).goLive c (s.frontOn n))
    | none => s := by
  unfold State.portGoLive State.portChange
  cases (s.port n).pending with
  | some c => simp [h.1]
  | none => rfl

theorem State.portGoLive_touches (s : State) {q n : Nat} (h : (s.port n).carries) :
    State.BoundaryTouches q n s (s.portGoLive n) := by
  rw [s.portGoLive_eq h]
  split
  · exact .setPort _
  · exact .refl

theorem State.pipes_portGoLive (s : State) {n : Nat} (h : (s.port n).carries) : (s.portGoLive n).pipes = s.pipes := by
  rw [s.portGoLive_eq h]
  split <;> rfl

theorem State.port_portGoLive (s : State) {n : Nat} (h : (s.port n).carries) :
    ((s.portGoLive n).port n).state = (s.port n).state ∧ ((s.portGoLive n).port n).counters = (s.port n).counters ∧
      ((s.portGoLive n).port n).frame = (s.port n).frame ∧
      ((s.portGoLive n).port n).live = (s.port n).pending.getD (s.port n).live ∧ ((s.portGoLive n).port n).pending = none := by
  rw [s.portGoLive_eq h]
  cases waiting : (s.port n).pending with
  | some c =>
    simp only [State.port_setPort_same, Option.getD_some]
    exact Port.goLive_carries h c _
  | none => exact ⟨rfl, rfl, rfl, rfl, waiting⟩

theorem State.pipeGoLive_touches (s : State) (q n : Nat) (f : BitVec 32) :
    State.BoundaryTouches q n s (s.pipeGoLive q f) := by
  unfold State.pipeGoLive
  split
  · exact .updPipe _
  · exact .refl

theorem State.ports_pipeGoLive (s : State) (q : Nat) (f : BitVec 32) : (s.pipeGoLive q f).ports = s.ports := by
  unfold State.pipeGoLive
  split <;> rfl

theorem State.pipe_pipeGoLive (s : State) (q : Nat) (f : BitVec 32) :
    ((s.pipeGoLive q f).pipe q).nextFrame = (s.pipe q).nextFrame ∧ ((s.pipeGoLive q f).pipe q).frames = (s.pipe q).frames ∧
      ((s.pipeGoLive q f).pipe q).blocks = (s.pipe q).blocks ∧
      ((s.pipeGoLive q f).pipe q).live = (s.pipe q).pending.getD (s.pipe q).live ∧ ((s.pipeGoLive q f).pipe q).pending = none := by
  unfold State.pipeGoLive
  cases waiting : (s.pipe q).pending with
  | some c => simp
  | none => exact ⟨rfl, rfl, rfl, rfl, waiting⟩

/-! ## The boundary (R36) -/

/-- The port's settings that were committed before this time go live. -/
def State.portLiveIfDue (s : State) (n : Nat) : State :=
  if (s.port n).pendingAt.toNat < s.now then s.portGoLive n else s

/-- Those of the port and then those of the pipeline do. -/
def State.goLiveBoth (s : State) (q n : Nat) : State :=
  let s := s.portLiveIfDue n
  if (s.pipe q).pendingAt.toNat < s.now then s.pipeGoLive q (s.pipe q).nextFrame else s

theorem State.boundary_eq (s : State) (q n : Nat) : s.boundary q n =
    (((s.goLiveBoth q n).updPort n fun p => { p with boundaryAt := some (s.goLiveBoth q n).time }).updPipe q fun x =>
      { x with unshedDue := false }).exposuresDue q n fun e => e.unit.isNone := rfl

section
variable {s : State} {q n : Nat} (h : (s.port n).carries)
include h

theorem State.goLiveBoth_touches : State.BoundaryTouches q n s (s.goLiveBoth q n) := by
  have port : State.BoundaryTouches q n s (s.portLiveIfDue n) := by
    unfold State.portLiveIfDue
    split
    · exact s.portGoLive_touches h
    · exact .refl
  refine port.trans ?_
  unfold State.goLiveBoth
  dsimp only
  split
  · exact State.pipeGoLive_touches ..
  · exact .refl

theorem State.boundary_touches : State.BoundaryTouches q n s (s.boundary q n) := by
  rw [State.boundary_eq]
  exact (State.goLiveBoth_touches h).trans (.trans (.updPort _) (.trans (.updPipe _) (State.exposuresDue_touches ..)))

theorem State.port_boundary : Port.Bounded s.now (s.port n) ((s.boundary q n).port n) := by
  have live : Port.Bounded s.now (s.port n) ((s.goLiveBoth q n).port n) := by
    have same : (s.goLiveBoth q n).port n = (s.portLiveIfDue n).port n := by
      unfold State.goLiveBoth State.port
      dsimp only
      split
      · rw [State.ports_pipeGoLive]
      · rfl
    rw [same, State.portLiveIfDue]
    by_cases due : (s.port n).pendingAt.toNat < s.now
    · obtain ⟨state, counters, frame, now, none⟩ := s.port_portGoLive h
      rw [if_pos due]
      exact ⟨state, counters, frame, by rw [if_pos due]; exact ⟨now, none⟩⟩
    · rw [if_neg due]
      exact ⟨rfl, rfl, rfl, by rw [if_neg due]; exact ⟨rfl, rfl⟩⟩
  obtain ⟨l, port⟩ := State.port_exposuresDue (((s.goLiveBoth q n).updPort n fun p =>
    { p with boundaryAt := some (s.goLiveBoth q n).time }).updPipe q fun x => { x with unshedDue := false }) q n
    fun e => e.unit.isNone
  rw [State.boundary_eq, port]
  refine .i2cDue ?_ l
  rw [State.port_updPipe, State.port_updPort_same]
  exact live.boundaryAt _

theorem State.pipe_boundary : Pipe.Bounded s.now (s.pipe q) ((s.boundary q n).pipe q) := by
  have live : Pipe.Bounded s.now (s.pipe q) ((s.goLiveBoth q n).pipe q) := by
    have pipes : (s.portLiveIfDue n).pipe q = s.pipe q := by
      unfold State.portLiveIfDue
      split
      · exact congrArg (Tab.get Pipe.reset · q) (s.pipes_portGoLive h)
      · rfl
    have now : (s.portLiveIfDue n).now = s.now := by
      unfold State.portLiveIfDue
      split
      · rw [(s.portGoLive_touches (q := q) h).rest]
        rfl
      · rfl
    unfold State.goLiveBoth
    dsimp only
    rw [pipes, now]
    by_cases due : (s.pipe q).pendingAt.toNat < s.now
    · rw [if_pos due]
      obtain ⟨next, frames, blocks, settings, none⟩ :=
        State.pipe_pipeGoLive (s.portLiveIfDue n) q (s.pipe q).nextFrame
      rw [pipes] at next frames blocks settings
      exact ⟨next, frames, blocks, by rw [if_pos due]; exact ⟨settings, none⟩⟩
    · rw [if_neg due, pipes]
      exact ⟨rfl, rfl, rfl, by rw [if_neg due]; exact ⟨rfl, rfl⟩⟩
  obtain ⟨l, pipe⟩ := State.pipe_exposuresDue (((s.goLiveBoth q n).updPort n fun p =>
    { p with boundaryAt := some (s.goLiveBoth q n).time }).updPipe q fun x => { x with unshedDue := false }) q n
    fun e => e.unit.isNone
  rw [State.boundary_eq, pipe]
  refine .exposures ?_ l
  rw [State.pipe_updPipe_same]
  exact live.unshedDue _

end

/-! ## Taps that follow their eyes (R413, R414) -/

/-- The longest run without a transition ends within the positions looked at. -/
theorem eye_fold_within (scan : EyeScan) (n : Nat) :
    let a := (List.range n).foldl (fun (a : Nat × Nat × Nat) i =>
      if scan.getD i 0 = 0 then (a.1 + 1, if a.2.2 < a.1 + 1 then (i + 1 - (a.1 + 1), a.1 + 1) else a.2)
      else (0, a.2)) (0, 0, 0)
    a.1 ≤ n ∧ a.2.1 + a.2.2 ≤ n := by
  induction n with
  | zero => simp
  | succ n ih =>
    rw [List.range_succ, List.foldl_append]
    dsimp only [List.foldl_cons, List.foldl_nil] at ih ⊢
    obtain ⟨run, best⟩ := ih
    split
    · refine ⟨by dsimp only; omega, ?_⟩
      split <;> dsimp only <;> omega
    · exact ⟨Nat.zero_le _, by dsimp only; omega⟩

theorem eyeOf_within (scan : EyeScan) : (eyeOf scan).1 + (eyeOf scan).2 ≤ 64 := (eye_fold_within scan 64).2

/-- An eye of some width has its centre at a tap position. -/
theorem eyeCentre_lt {scan : EyeScan} (wide : (eyeOf scan).2 ≠ 0) : eyeCentre (eyeOf scan) < 64 := by
  have := eyeOf_within scan
  unfold eyeCentre
  omega

/-- A table after the entries of some keys were written one after another, each with its own value. -/
theorem Tab.get_foldl_set {α : Type} [DecidableEq α] (d : Nat → α) (v : Nat → α) (l : List Nat) (t : Tab α) (k : Nat) :
    Tab.get d (l.foldl (fun t i => Tab.set d t i (v i)) t) k = if k ∈ l then v k else Tab.get d t k := by
  induction l generalizing t with
  | nil => simp
  | cons i l ih =>
    rw [List.foldl_cons, ih, Tab.get_set]
    by_cases h : k = i <;> simp [h]

/-- The condition under which the taps of a port are tracked. -/
def State.tracksTaps (s : State) (n : Nat) : Prop :=
  s.health.calConfig.getLsbD 0 = true ∧ (s.port n).calValid = true ∧ (s.port n).calRunning = false

theorem State.trackTaps_idle {s : State} {n : Nat} (scans : List EyeScan) (h : ¬ s.tracksTaps n) : s.trackTaps n scans = s :=
  if_neg h

/-- Of a port it writes the taps and the centres. -/
theorem State.port_trackTaps (s : State) (n : Nat) (scans : List EyeScan) : (s.trackTaps n scans).port n =
    { s.port n with taps := ((s.trackTaps n scans).port n).taps, centres := ((s.trackTaps n scans).port n).centres } := by
  unfold State.trackTaps
  dsimp only
  split
  · rw [State.port_setPort_same]
  · rfl

theorem State.trackTaps_touches (s : State) (q n : Nat) (scans : List EyeScan) :
    State.BoundaryTouches q n s (s.trackTaps n scans) := by
  unfold State.trackTaps
  dsimp only
  split
  · exact .trans (u := s.free.2) ⟨rfl, fun _ _ => rfl, fun _ _ => rfl⟩ (.setPort _)
  · exact .refl

theorem State.pipe_trackTaps (s : State) (n p : Nat) (scans : List EyeScan) : (s.trackTaps n scans).pipe p = s.pipe p := by
  unfold State.trackTaps
  dsimp only
  split <;> rfl

/-- It writes the ports and takes a free value. -/
theorem State.trackTaps_eq (s : State) (n : Nat) (scans : List EyeScan) : s.trackTaps n scans =
    { s with ports := (s.trackTaps n scans).ports, fresh := (s.trackTaps n scans).fresh } := by
  unfold State.trackTaps
  dsimp only
  split <;> rfl

/-- The tap of an input that has seen enough moves by one towards its centre; the other taps stay. -/
theorem State.tap_trackTaps {s : State} {n : Nat} (scans : List EyeScan) (h : s.tracksTaps n) (i : Nat) :
    ((s.trackTaps n scans).port n).tap i = if i < 26 ∧ enoughSeen (scans.getD i []) = true
      then (moveTap ((s.port n).tap i) (scanCentre s.free.1 (scans.getD i []) i).toNat).toNat else (s.port n).tap i := by
  have on : s.trackTaps n scans = s.free.2.setPort n { s.port n with
      centres := (indices 26 fun i => enoughSeen (scans.getD i [])).foldl (fun t i =>
        Tab.set (fun _ => 0) t i (scanCentre s.free.1 (scans.getD i []) i)) (s.port n).centres
      taps := (indices 26 fun i => enoughSeen (scans.getD i [])).foldl (fun t i =>
        Tab.set (fun _ => 0) t i (moveTap ((s.port n).tap i) (scanCentre s.free.1 (scans.getD i []) i).toNat)) (s.port n).taps } :=
    if_pos h
  rw [on, State.port_setPort_same, Port.tap]
  dsimp only
  rw [Tab.get_foldl_set (fun _ => 0) fun i => moveTap ((s.port n).tap i) (scanCentre s.free.1 (scans.getD i []) i).toNat]
  simp only [mem_indices]
  split <;> rfl

theorem scanCentre_toNat {scan : EyeScan} (wide : (eyeOf scan).2 ≠ 0) (v : BitVec 512) (i : Nat) :
    (scanCentre v scan i).toNat = eyeCentre (eyeOf scan) := by
  rw [scanCentre, if_neg wide, BitVec.toNat_ofNat]
  exact Nat.mod_eq_of_lt (eyeCentre_lt wide)

/-! ## The two ways of an edge (R36, R37) -/

/-- The port as the active edge makes it IN_FRAME. -/
def Port.opened (p : Port) : Port := { p with state := .inFrame, waitLong := false }

/-- Without a streaming pipeline the frame is discarded; then the taps are tracked. -/
def State.discarding (s : State) (n : Nat) : State :=
  ((s.updPort n Port.opened).updPort n fun p => { p with frame := some (newFrame none p.live s.time) }).countPort n 1

/-- A started frame stands on the port. -/
def Port.start (job : Nat × BitVec 32) (t : Time) (p : Port) : Port :=
  { p with frame := some (newFrame (some job) p.live t), waitSince := t }

/-- The frame runs under the settings that are live. -/
def Port.settle (p : Port) : Port := { p with frame := p.frame.map fun x => { x with cfg := p.live } }

/-- With streaming pipeline `q` its frame stands on the port. -/
def State.edgeOf (s : State) (n q : Nat) : State :=
  ((s.updPort n Port.opened).markUncertain q).updPort n (Port.start (q, (s.pipe q).nextFrame) s.time)

/-- After the boundary it runs under the settings that are live. -/
def State.opening (s : State) (n q : Nat) (scans : List EyeScan) : State :=
  (((s.edgeOf n q).boundary q n).trackTaps n scans).updPort n Port.settle

/-- Then its frame job is created and the frame is counted. -/
def State.starting (s : State) (n q : Nat) (scans : List EyeScan) : State :=
  ((s.opening n q scans).updPipe q fun x => { x with
    nextFrame := (s.pipe q).nextFrame + 1
    frames := x.frames ++ [(s.opening n q scans).newJob q n (s.pipe q).nextFrame] }).countPort n 0

theorem State.time_edgeOf (s : State) (n q : Nat) : (s.edgeOf n q).time = s.time := by
  unfold State.edgeOf
  rw [State.time_updPort, (State.markUncertain_touches _ q n).rest]
  rfl

theorem State.frameStart_discards {s : State} {n : Nat} (scans : List EyeScan) (h : s.streamOf n = none) :
    s.frameStart n scans = (s.discarding n).trackTaps n scans := by
  have same : (s.updPort n Port.opened).streamOf n = none := h
  unfold State.frameStart
  dsimp only
  split
  · rfl
  · next q some => exact absurd (same.symm.trans some) (by simp)

theorem State.frameStart_starts {s : State} {n q : Nat} (scans : List EyeScan) (h : s.streamOf n = some q) :
    s.frameStart n scans = s.starting n q scans := by
  have same : (s.updPort n Port.opened).streamOf n = some q := h
  have marked : ((s.updPort n Port.opened).markUncertain q).time = s.time := by
    rw [(State.markUncertain_touches _ q n).rest]
    rfl
  unfold State.frameStart
  dsimp only
  split
  · next none => exact absurd (same.symm.trans none) (by simp)
  · next q' some =>
    obtain rfl : q = q' := Option.some.inj (same.symm.trans some)
    unfold State.starting State.opening State.edgeOf
    rw [← marked]
    rfl

theorem State.port_discarding (s : State) (n : Nat) : (s.discarding n).port n =
    { s.port n with state := .inFrame, waitLong := false, counters := (s.port n).counters.bump 1
                    frame := some (newFrame none (s.port n).live s.time) } := by
  simp [State.discarding, State.countPort, Port.opened]

theorem State.port_discarding_other (s : State) {n m : Nat} (h : m ≠ n) : (s.discarding n).port m = s.port m := by
  simp [State.discarding, State.countPort, h]

/-! ## The edge that starts a frame -/

theorem State.edgeOf_touches (s : State) (n q : Nat) : State.BoundaryTouches q n s (s.edgeOf n q) :=
  .trans (.updPort _) (.trans (State.markUncertain_touches ..) (.updPort _))

theorem State.port_edgeOf (s : State) (n q : Nat) :
    (s.edgeOf n q).port n = (s.port n).opened.start (q, (s.pipe q).nextFrame) s.time := by
  rw [State.edgeOf, State.port_updPort_same, State.port_markUncertain, State.port_updPort_same]

theorem State.carries_edgeOf (s : State) (n q : Nat) : ((s.edgeOf n q).port n).carries := by
  rw [State.port_edgeOf]
  exact ⟨rfl, rfl⟩

theorem State.pipe_edgeOf (s : State) (n q : Nat) : ∃ l, (s.edgeOf n q).pipe q = { s.pipe q with exposures := l } := by
  obtain ⟨l, marked⟩ := State.pipe_markUncertain (s.updPort n Port.opened) q
  exact ⟨l, marked⟩

theorem State.opening_touches (s : State) (n q : Nat) (scans : List EyeScan) :
    State.BoundaryTouches q n s (s.opening n q scans) :=
  .trans (State.edgeOf_touches ..) (.trans (State.boundary_touches (State.carries_edgeOf ..))
    (.trans (State.trackTaps_touches ..) (.updPort _)))

theorem State.starting_touches (s : State) (n q : Nat) (scans : List EyeScan) :
    State.BoundaryTouches q n s (s.starting n q scans) := by
  unfold State.starting State.countPort
  exact .trans (State.opening_touches ..) (.trans (.updPipe _) (.updPort _))

/-- The port after the boundary of its started frame. -/
theorem State.bounded_trackTaps (s : State) (n q : Nat) (scans : List EyeScan) :
    Port.Bounded s.now ((s.port n).opened.start (q, (s.pipe q).nextFrame) s.time)
      ((((s.edgeOf n q).boundary q n).trackTaps n scans).port n) := by
  have now : (s.edgeOf n q).now = s.now := congrArg BitVec.toNat (s.time_edgeOf n q)
  have bound := State.port_boundary (q := q) (s.carries_edgeOf n q)
  rw [now, State.port_edgeOf] at bound
  rw [State.port_trackTaps]
  exact bound.tracked _ _

/-- The started frame on its port, under the settings that the boundary has made live. -/
theorem State.port_opening (s : State) (n q : Nat) (scans : List EyeScan) :
    let p := s.port n
    let p' := (s.opening n q scans).port n
    p'.state = .inFrame ∧ p'.counters = p.counters ∧
      p'.frame = some (newFrame (some (q, (s.pipe q).nextFrame)) p'.live s.time) ∧
      if p.pendingAt.toNat < s.now then p'.live = p.pending.getD p.live ∧ p'.pending = none
      else p'.live = p.live ∧ p'.pending = p.pending := by
  obtain ⟨state, counters, frame, settings⟩ := s.bounded_trackTaps n q scans
  dsimp only
  rw [State.opening, State.port_updPort_same]
  refine ⟨state, counters, ?_, settings⟩
  rw [Port.settle]
  dsimp only
  rw [frame]
  rfl

theorem State.pipe_opening (s : State) (n q : Nat) (scans : List EyeScan) :
    Pipe.Bounded s.now (s.pipe q) ((s.opening n q scans).pipe q) := by
  have now : (s.edgeOf n q).now = s.now := congrArg BitVec.toNat (s.time_edgeOf n q)
  obtain ⟨l, edge⟩ := s.pipe_edgeOf n q
  have bound := State.pipe_boundary (q := q) (s.carries_edgeOf n q)
  rw [now, edge] at bound
  rw [State.opening, State.pipe_updPort, State.pipe_trackTaps]
  exact ⟨bound.nextFrame, bound.frames, bound.blocks, bound.settings⟩

/-- Settles O9: the edge is taken apart into the discarded and the started frame, and the started one into its edge, its boundary and
its frame job. -/
theorem frameStartsOrIsDiscarded : Obligations.FrameStartsOrIsDiscarded := by
  unfold Obligations.FrameStartsOrIsDiscarded
  intro s t n scans ready wait
  have edge : exec (.frameStart t ⟨n, scans⟩) s = .next ((s.begin t).frameStart n scans) := by
    have waits : ((s.begin t).port n).state = .waitFrame := wait
    refine (whenReady_ready t _ s ready).trans ?_
    simp [waits]
  refine ⟨fun none => ?discarded, fun q some => ?started⟩
  case discarded =>
    refine ⟨_, edge.trans (congrArg _ (State.frameStart_discards scans none)), ?_, ?_, ?_, ?_, ?_⟩
    · exact State.trackTaps_eq ((s.begin t).discarding n) n scans
    · rw [State.port_trackTaps, State.port_discarding]
      rfl
    · intro idle
      rw [State.trackTaps_idle scans fun h => idle ?_, State.port_discarding]
      · exact ⟨rfl, rfl⟩
      · obtain ⟨on, valid, running⟩ := h
        rw [State.port_discarding] at valid running
        exact ⟨valid, running, on⟩
    · intro ⟨valid, running, on⟩ i
      have tracks : ((s.begin t).discarding n).tracksTaps n := by
        refine ⟨on, ?_, ?_⟩ <;> rw [State.port_discarding]
        · exact valid
        · exact running
      have tap : (((s.begin t).discarding n).port n).tap i = (s.port n).tap i := by
        rw [State.port_discarding]
        rfl
      rw [State.tap_trackTaps scans tracks, tap]
      refine ⟨fun lt seen wide => ?_, fun still => ?_⟩
      · rw [if_pos ⟨lt, seen⟩, scanCentre_toNat wide]
        rfl
      · refine if_neg fun ⟨lt, seen⟩ => ?_
        rcases still with ge | unseen
        · omega
        · exact absurd (seen.symm.trans unseen) (by decide)
    · intro m other
      rw [(State.trackTaps_touches _ 0 n scans).ports m other, State.port_discarding_other _ other]
      rfl
  case started =>
    have touches := (s.begin t).starting_touches n q scans
    obtain ⟨state, counters, frame, port⟩ := (s.begin t).port_opening n q scans
    have pipe := (s.begin t).pipe_opening n q scans
    have portN : ((s.begin t).starting n q scans).port n = { ((s.begin t).opening n q scans).port n with
        counters := (((s.begin t).opening n q scans).port n).counters.bump 0 } := by
      rw [State.starting, State.countPort, State.port_updPort_same, State.port_updPipe]
    have pipeQ : ((s.begin t).starting n q scans).pipe q = { ((s.begin t).opening n q scans).pipe q with
        nextFrame := ((s.begin t).pipe q).nextFrame + 1
        frames := (((s.begin t).opening n q scans).pipe q).frames ++
          [((s.begin t).opening n q scans).newJob q n ((s.begin t).pipe q).nextFrame] } := by
      rw [State.starting, State.countPort, State.pipe_updPort, State.pipe_updPipe_same]
    have time : ((s.begin t).opening n q scans).time = (s.begin t).time := by
      rw [((s.begin t).opening_touches n q scans).rest]
    refine ⟨_, edge.trans (congrArg _ (State.frameStart_starts scans some)), ?_, ?_, ?_, ?_, ?_, ?_, ?_,
      touches.ports, touches.pipes, ?_⟩
    · rw [portN]
      exact state
    · rw [portN]
      exact congrArg (Counters.bump · 0) counters
    · rw [portN]
      exact port
    · rw [portN]
      exact ⟨_, frame, rfl, rfl, rfl, rfl, rfl⟩
    · rw [pipeQ]
      rfl
    · rw [pipeQ]
      exact pipe.settings
    · rw [pipeQ, portN]
      exact ⟨_, congrArg (· ++ _) pipe.frames, rfl, time, rfl, rfl, rfl, pipe.blocks, by simp [State.newJob]⟩
    · rw [touches.rest]
      exact ⟨rfl, rfl, rfl, rfl, rfl, rfl, rfl, rfl⟩

end Sys2Proof.Machine
end

section
/-!
PROOFS. What the end of a long command leaves: its COMPLETION in its port's ring and one command less outstanding (R321, R322), and
nothing else.
-/

namespace Sys2Proof.Machine

open Sys2Proof

/-! ## Packets that a port makes (R326) -/

theorem State.sendResolved_eq (s : State) (p : Packet) : s.sendResolved p = { s with out := (s.sendResolved p).out } := by
  unfold State.sendResolved State.onlyIf
  dsimp only
  split <;> rfl

theorem State.post_eq (s : State) (p : Packet) : s.post p = { s with eth := (s.post p).eth, out := (s.post p).out } := by
  unfold State.post
  dsimp only
  split
  · rw [State.sendResolved_eq]
    rfl
  · rfl

/-- The packet that `post` makes of one: numbered, timed and addressed. -/
def State.posted (s : State) (p : Packet) : Packet :=
  let d := s.destination p.port p.dstAddr p.dstPort
  { p with time := s.time, eventSeq := (s.ethOf p.port).nextEvent
           dstAddr := (d.getD (0, 0)).1, dstPort := (d.getD (0, 0)).2 }

/-- It joins the ring of its port, and the port's next event is one later. -/
theorem State.ethOf_post (s : State) (p : Packet) : (s.post p).ethOf p.port =
    { s.ethOf p.port with
      ring := ((s.ethOf p.port).ring ++ [s.posted p]).drop (((s.ethOf p.port).ring ++ [s.posted p]).length - 4096)
      nextEvent := (s.ethOf p.port).nextEvent + 1 } := by
  have eth : ∀ (u : State) (q : Packet), (u.sendResolved q).ethOf p.port = u.ethOf p.port := fun u q =>
    (congrArg (State.ethOf · p.port) (u.sendResolved_eq q) :)
  unfold State.post
  dsimp only
  split
  · rw [eth, State.ethOf_setEth_same]
    rfl
  · rw [State.ethOf_setEth_same]
    rfl

/-- The ring keeps its last packet. -/
theorem getLast?_ring {α : Type} (l : List α) (x : α) : ((l ++ [x]).drop ((l ++ [x]).length - 4096)).getLast? = some x := by
  rw [List.getLast?_drop]
  simp

/-! ## COMPLETIONs (R321, R322) -/

theorem State.complete_eq (s : State) (k : Ticket) (st : BitVec 16) (d : List Byte) : s.complete k st d =
    { s with eth := (s.complete k st d).eth, out := (s.complete k st d).out } := by
  unfold State.complete
  dsimp only
  rw [State.post_eq]
  rfl

theorem State.completeOpt_eq (s : State) (k : Option Ticket) (st : BitVec 16) (d : List Byte) : s.completeOpt k st d =
    { s with eth := (s.completeOpt k st d).eth, out := (s.completeOpt k st d).out } := by
  cases k with
  | none => rfl
  | some k => exact s.complete_eq k st d

/-- A command that completes has its COMPLETION made, and is outstanding no longer. -/
theorem State.completes_complete (s : State) (k : Ticket) (st : BitVec 16) (d : List Byte) :
    s.completes (s.complete k st d) k st d := by
  unfold State.completes State.completed State.complete
  dsimp only
  rw [State.ethOf_post]
  dsimp only
  refine ⟨⟨_, getLast?_ring .., rfl, rfl, rfl, rfl, rfl, rfl, rfl, rfl⟩, ?_⟩
  rw [State.ethOf_setEth_same]
  exact congrArg Queue.outstanding (Tab.get_set_same ..)

/-- What a completion speaks of are the ports alone. -/
theorem State.completes_of_eth {s u v : State} {k : Ticket} {st : BitVec 16} {d : List Byte} (same : s.eth = u.eth)
    (h : u.completes v k st d) : s.completes v k st d := by
  unfold State.completes State.ethOf at *
  rwa [same]

end Sys2Proof.Machine
end

section
/-!
PROOFS. O27: standalone jobs. What a halt, a write-back, the release of threads and a placement may touch, and then LAUNCH_JOB,
HELD_JOB_START, CANCEL_JOB and JOB_END.
-/

namespace Sys2Proof.Machine

open Sys2Proof

/-! ## Frames: what an update may write

A frame `F` names some fields: `F s u` is `s` with those fields of `u`. An update that writes only them takes `s` to `F s` of its
result. -/

section
variable (F : State → State → State) (absorb : ∀ s u v, F (F s u) v = F s v)
include absorb

/-- Two updates in a row that write only those fields. -/
theorem frame_trans {s u v : State} (first : u = F s u) (second : v = F u v) : v = F s v :=
  second.trans ((congrArg (F · v) first).trans (absorb s u v))

/-- One for each of a list. -/
theorem forEach_frame (refl : ∀ s, s = F s s) {α : Type} {f : α → State → State} (each : ∀ x s, f x s = F s (f x s)) (l : List α)
    (s : State) : forEach l f s = F s (forEach l f s) :=
  forEach_keeps (fun u => u = F s u) f (fun x u ih => frame_trans F absorb ih (each x u)) l s (refl s)
end

/-! ## Halts (R254, R268) -/

theorem State.interrupt_eq (s : State) (v : BitVec 11) :
    s.interrupt v = { s with mem := (s.interrupt v).mem, out := (s.interrupt v).out } := by
  unfold State.interrupt
  split
  · rfl
  · split
    · rfl
    · split <;> rfl

/-- A halt writes its channel, the region's counters, the COMPLETION of SLUICE_START and an interrupt. -/
theorem State.haltChannel_eq (s : State) (c : Nat) (st : BitVec 16) : s.haltChannel c st =
    { s with channels := (s.haltChannel c st).channels, regions := (s.haltChannel c st).regions
             eth := (s.haltChannel c st).eth, out := (s.haltChannel c st).out, mem := (s.haltChannel c st).mem } := by
  unfold State.haltChannel
  dsimp only
  split
  · rfl
  · split
    · rw [State.interrupt_eq, State.completeOpt_eq]
      rfl
    · rw [State.completeOpt_eq]
      rfl

theorem State.haltWhere_eq (s : State) (p : Nat → Channel → Bool) (st : BitVec 16) : s.haltWhere p st =
    { s with channels := (s.haltWhere p st).channels, regions := (s.haltWhere p st).regions
             eth := (s.haltWhere p st).eth, out := (s.haltWhere p st).out, mem := (s.haltWhere p st).mem } :=
  forEach_frame (fun s u : State => { s with channels := u.channels, regions := u.regions, eth := u.eth, out := u.out, mem := u.mem })
    (fun _ _ _ => rfl) (fun _ => rfl) (fun c s => s.haltChannel_eq c st) _ s

/-! ## Write-back (R134) -/

theorem State.writeGranule_eq (s : State) (g o : Nat) (d : List Byte) (p : Bool) :
    s.writeGranule g o d p = { s with mem := (s.writeGranule g o d p).mem } := by
  unfold State.writeGranule
  dsimp only
  split <;> rfl

theorem State.invalidateOthers_eq (s : State) (own : Option Nat) (g : Nat) :
    s.invalidateOthers own g = { s with regions := (s.invalidateOthers own g).regions } := by
  refine forEach_frame (fun s u : State => { s with regions := u.regions }) (fun _ _ _ => rfl) (fun _ => rfl) (fun r s => ?_) _ s
  dsimp only
  split
  · split <;> rfl
  · rfl

theorem State.writeBack_eq (s : State) (r : Nat) (l : CacheLine) :
    s.writeBack r l = { s with mem := (s.writeBack r l).mem, regions := (s.writeBack r l).regions } := by
  unfold State.writeBack
  split
  · unfold State.countPool State.updRegion State.setRegion
    dsimp only
    rw [State.invalidateOthers_eq, State.writeGranule_eq]
  · rfl

theorem State.writeBackAll_eq (s : State) (r : Nat) :
    s.writeBackAll r = { s with mem := (s.writeBackAll r).mem, regions := (s.writeBackAll r).regions } :=
  frame_trans (fun s u : State => { s with mem := u.mem, regions := u.regions }) (fun _ _ _ => rfl)
    (forEach_frame (fun s u : State => { s with mem := u.mem, regions := u.regions }) (fun _ _ _ => rfl) (fun _ => rfl)
      (fun l s => s.writeBack_eq r l) (s.region r).cache s) rfl

/-- After it the region's cache holds no dirty line. -/
theorem State.writeBackAll_clean (s : State) (r : Nat) : ∀ l ∈ ((s.writeBackAll r).region r).cache, l.dirty = false := by
  intro l hl
  unfold State.writeBackAll at hl
  dsimp only at hl
  rw [State.region_updRegion_same] at hl
  obtain ⟨m, -, rfl⟩ := List.mem_map.1 hl
  rfl

/-! ## The release of threads -/

theorem State.releaseThreads_eq (s : State) (o : Owner) : s.releaseThreads o =
    { s with blocks := (s.releaseThreads o).blocks, placings := (s.releaseThreads o).placings } :=
  frame_trans (fun s u : State => { s with blocks := u.blocks, placings := u.placings }) (fun _ _ _ => rfl)
    (forEach_frame (fun s u : State => { s with blocks := u.blocks, placings := u.placings }) (fun _ _ _ => rfl) (fun _ => rfl)
      (f := fun b s => s.updBlock b fun x => x.release o) (fun _ _ => rfl) _ s) rfl

theorem State.region_congr {s u : State} (same : s.regions = u.regions) (r : Nat) : s.region r = u.region r :=
  congrArg (Tab.get (fun _ => Region.reset) · r) same

theorem State.regions_releaseThreads (s : State) (o : Owner) : (s.releaseThreads o).regions = s.regions :=
  (congrArg State.regions (s.releaseThreads_eq o) :)

theorem Block.not_owned_release (x : Block) (o : Owner) : ∀ t ∈ (x.release o).threads, t.owner ≠ o := by
  intro t ht
  simpa using (List.mem_filter.1 ht).2

/-- Blocks that lose an owner's threads hold none of them, and the others hold no new one. -/
theorem State.threads_releaseEach (o : Owner) (b : Nat) (l : List Nat) (s : State)
    (h : b ∈ l ∨ ∀ t ∈ (s.block b).threads, t.owner ≠ o) :
    ∀ t ∈ ((forEach l (fun b s => s.updBlock b fun x => x.release o) s).block b).threads, t.owner ≠ o := by
  induction l generalizing s with
  | nil => exact h.resolve_left (List.not_mem_nil)
  | cons a l ih =>
    refine ih _ ?_
    by_cases hab : b = a
    · subst hab
      rw [State.block_updBlock_same]
      exact .inr (Block.not_owned_release _ o)
    · rw [State.block_updBlock_other _ _ _ _ hab]
      simpa [hab] using h

theorem State.threads_releaseThreads (s : State) (o : Owner) (b : Nat) (hb : b < 64) :
    ∀ t ∈ ((s.releaseThreads o).block b).threads, t.owner ≠ o := by
  refine State.threads_releaseEach o b _ s ?_
  rw [mem_indices]
  by_cases any : ((s.block b).threads.any fun t => t.owner == o) = true
  · exact .inl ⟨hb, any⟩
  · exact .inr (by simpa using any)

/-! ## The end of a job -/

/-- A job that ends, its channels halted, its region written back and its threads gone. -/
def State.jobCleared (s : State) (j : Job) : State :=
  let s := s.haltWhere (fun _ c => c.owned == some (.job j.id)) j.status
  let s := if j.state = .running then s.writeBackAll j.region else s
  s.releaseThreads (.job j.id)

theorem State.endJob_def (s : State) (j : Job) : s.endJob j =
    ({ s.jobCleared j with jobs := (s.jobCleared j).jobs.filter fun x => x.id != j.id }).complete j.ticket j.status
      (jobBytes j none (s.jobCleared j).time) := rfl

theorem State.jobCleared_eq (s : State) (j : Job) : s.jobCleared j =
    { s with channels := (s.jobCleared j).channels, regions := (s.jobCleared j).regions, eth := (s.jobCleared j).eth
             out := (s.jobCleared j).out, mem := (s.jobCleared j).mem, blocks := (s.jobCleared j).blocks
             placings := (s.jobCleared j).placings } := by
  unfold State.jobCleared
  dsimp only
  rw [State.releaseThreads_eq]
  split
  · rw [State.writeBackAll_eq, State.haltWhere_eq]
  · rw [State.haltWhere_eq]

theorem State.jobs_endJob (s : State) (j : Job) : (s.endJob j).jobs = s.jobs.filter fun x => x.id != j.id := by
  rw [State.endJob_def, State.complete_eq, State.jobCleared_eq]

/-- What the end of a job leaves. -/
theorem State.endJob_ends (s : State) (j : Job) :
    (∀ b, b < 64 → ∀ th ∈ ((s.endJob j).block b).threads, th.owner ≠ .job j.id) ∧
    (j.state = .running → ∀ l ∈ ((s.endJob j).region j.region).cache, l.dirty = false) ∧
    (s.endJob j).completed j.ticket j.status (jobBytes j none s.time) ∧ (s.endJob j).spad = s.spad ∧
    (s.endJob j).pool = s.pool := by
  have blocks : (s.endJob j).blocks = (s.jobCleared j).blocks := by rw [State.endJob_def, State.complete_eq]
  have regions : (s.endJob j).regions = (s.jobCleared j).regions := by rw [State.endJob_def, State.complete_eq]
  have time : (s.jobCleared j).time = s.time := (congrArg State.time (s.jobCleared_eq j) :)
  refine ⟨fun b hb => ?_, fun running => ?_, ?_, ?_, ?_⟩
  · rw [State.block, blocks]
    exact State.threads_releaseThreads _ _ b hb
  · have cleared : (s.jobCleared j).regions =
        ((s.haltWhere (fun _ c => c.owned == some (.job j.id)) j.status).writeBackAll j.region).regions := by
      unfold State.jobCleared
      dsimp only
      rw [State.regions_releaseThreads, if_pos running]
    rw [State.region_congr (regions.trans cleared)]
    exact State.writeBackAll_clean _ _
  · rw [State.endJob_def, time]
    exact (State.completes_complete _ _ _ _).1
  · rw [State.endJob_def, State.complete_eq, State.jobCleared_eq]
  · rw [State.endJob_def, State.complete_eq, State.jobCleared_eq]

/-- Jobs that end are jobs no more. -/
theorem State.jobs_endEach {x : Job} (l : List Job) (s : State) (h : x ∈ (forEach l (fun j s => s.endJob j) s).jobs) :
    x ∈ s.jobs ∧ ∀ j ∈ l, x.id ≠ j.id := by
  induction l generalizing s with
  | nil => exact ⟨h, by simp⟩
  | cons a l ih =>
    obtain ⟨mem, other⟩ := ih _ h
    rw [State.jobs_endJob, List.mem_filter, bne_iff_ne] at mem
    exact ⟨mem.1, List.forall_mem_cons.2 ⟨mem.2, other⟩⟩

/-- No held job that a status ends is left. -/
theorem State.held_settleHeld (s : State) (x : Job) (mem : x ∈ s.settleHeld.jobs) (held : x.state = .held) :
    x.endStatus = none := by
  obtain ⟨old, other⟩ := State.jobs_endEach _ _ mem
  by_contra some
  exact other x (List.mem_filter.2 ⟨old, by simp [held, Option.isSome_iff_ne_none, some]⟩) rfl

/-! ## JOB_END -/

theorem State.jobEnd_of_over {s : State} {k : BitVec 32} {j : Job} (job : s.jobOf k = some j) (ended : s.jobOver j = true) :
    s.jobEnd k = if (decide (j.state = .running) && s.writeBackWaits j.region) = true then s else
      s.endJob (if j.endStatus.isNone && (s.mapping j.mapping).unusable then { j with endStatus := some Code.poisonConsumed }
        else j) := by
  unfold State.jobEnd
  rw [job]
  have running : (j.state == JobState.running) = decide (j.state = .running) := by
    rw [Bool.eq_iff_iff, beq_iff_eq, decide_eq_true_eq]
  simp only [ended, running, Bool.true_and]
  cases decide (j.state = .running) && s.writeBackWaits j.region <;> rfl

/-! ## Jobs by their number -/

theorem State.id_of_jobOf {s : State} {k : BitVec 32} {j : Job} (h : s.jobOf k = some j) : j.id = k := by
  simpa [State.jobOf] using List.find?_some (p := fun x : Job => x.id == k) h

/-- A job that changes keeps its number. -/
theorem State.jobOf_updJob (s : State) (k : BitVec 32) (f : Job → Job) (id : ∀ j, (f j).id = j.id) :
    (s.updJob k f).jobOf k = (s.jobOf k).map f := by
  have same : ((fun x : Job => x.id == k) ∘ fun j => if j.id == k then f j else j) = fun x => x.id == k := by
    funext x
    dsimp only [Function.comp_apply]
    split
    · rw [id]
    · rfl
  unfold State.jobOf State.updJob
  dsimp only
  rw [List.find?_map, same]
  cases found : s.jobs.find? fun x => x.id == k with
  | none => rfl
  | some j =>
    have hj : (j.id == k) = true := List.find?_some (p := fun x : Job => x.id == k) found
    simp only [Option.map_some, hj, if_true]

/-! ## Placement on blocks (R19, R168) -/

theorem Block.threads_setRings {α : Type} (v : α → Nat × Option Ring) (l : List α) (x : Block) :
    (l.foldl (fun x p => x.setRing (v p).1 (v p).2) x).threads = x.threads := by
  induction l generalizing x with
  | nil => rfl
  | cons p l ih => exact ih _

theorem State.placeOn_eq (s : State) (w : Owner) (next : BitVec 32 × Nat) (b : Nat) :
    s.placeOn w next b = { s with blocks := (s.placeOn w next b).blocks } := rfl

theorem State.block_placeOn_other (s : State) (w : Owner) (next : BitVec 32 × Nat) {b n : Nat} (h : n ≠ b) :
    (s.placeOn w next b).block n = s.block n := State.block_updBlock_other _ _ _ _ h

/-- The thread that a placement creates. -/
def Thread.fresh (t : Thread) (w : Owner) (m : Nat) : Prop := t.owner = w ∧ t.mapping = m ∧ t.unit = none

theorem State.threads_placeOn (s : State) (w : Owner) (next : BitVec 32 × Nat) (b : Nat) :
    ∃ t : Thread, t.fresh w (s.ownerMapping w) ∧ ((s.placeOn w next b).block b).threads = (s.block b).threads ++ [t] := by
  refine ⟨?_, ?fresh, ?eq⟩
  case eq =>
    unfold State.placeOn
    dsimp only
    rw [State.block_updBlock_same]
    exact congrArg (· ++ [_]) (Block.threads_setRings (fun p : ImgRing × Nat => (p.2, some (newRing w _ p.1 s.time))) _ _)
  case fresh => exact ⟨rfl, rfl, rfl⟩

/-- A block keeps its threads when an owner is placed. -/
theorem State.threads_subset_placeOn (s : State) (w : Owner) (next : BitVec 32 × Nat) (b n : Nat) :
    (s.block n).threads ⊆ ((s.placeOn w next b).block n).threads := by
  by_cases h : n = b
  · subst h
    obtain ⟨t, -, eq⟩ := s.threads_placeOn w next n
    rw [eq]
    exact List.subset_append_left ..
  · rw [State.block_placeOn_other _ _ _ h]
    exact fun _ h => h

/-- An owner's threads on some blocks. -/
def State.placeEach (s : State) (w : Owner) (next : State → BitVec 32 × Nat) (bs : List Nat) : State :=
  forEach bs (fun b s => s.placeOn w (next s) b) s

theorem State.placeEach_eq (s : State) (w : Owner) (next : State → BitVec 32 × Nat) (bs : List Nat) :
    s.placeEach w next bs = { s with blocks := (s.placeEach w next bs).blocks } :=
  forEach_frame (fun s u : State => { s with blocks := u.blocks }) (fun _ _ _ => rfl) (fun _ => rfl)
    (fun b s => s.placeOn_eq w (next s) b) bs s

@[simp] theorem State.spad_placeEach (s : State) (w : Owner) (next : State → BitVec 32 × Nat) (bs : List Nat) :
    (s.placeEach w next bs).spad = s.spad := (congrArg State.spad (s.placeEach_eq w next bs) :)
@[simp] theorem State.pool_placeEach (s : State) (w : Owner) (next : State → BitVec 32 × Nat) (bs : List Nat) :
    (s.placeEach w next bs).pool = s.pool := (congrArg State.pool (s.placeEach_eq w next bs) :)
@[simp] theorem State.mem_placeEach (s : State) (w : Owner) (next : State → BitVec 32 × Nat) (bs : List Nat) :
    (s.placeEach w next bs).mem = s.mem := (congrArg State.mem (s.placeEach_eq w next bs) :)
@[simp] theorem State.jobs_placeEach (s : State) (w : Owner) (next : State → BitVec 32 × Nat) (bs : List Nat) :
    (s.placeEach w next bs).jobs = s.jobs := (congrArg State.jobs (s.placeEach_eq w next bs) :)
@[simp] theorem State.pipe_placeEach (s : State) (w : Owner) (next : State → BitVec 32 × Nat) (bs : List Nat) (p : Nat) :
    (s.placeEach w next bs).pipe p = s.pipe p := (congrArg (State.pipe · p) (s.placeEach_eq w next bs) :)
@[simp] theorem State.eth_placeEach (s : State) (w : Owner) (next : State → BitVec 32 × Nat) (bs : List Nat) :
    (s.placeEach w next bs).eth = s.eth := (congrArg State.eth (s.placeEach_eq w next bs) :)

theorem State.block_placeEach_other (w : Owner) (next : State → BitVec 32 × Nat) {n : Nat} (bs : List Nat) (h : n ∉ bs) (s : State) :
    (s.placeEach w next bs).block n = s.block n := by
  induction bs generalizing s with
  | nil => rfl
  | cons b bs ih =>
    obtain ⟨ne, out⟩ := not_or.1 (mt List.mem_cons.2 h)
    exact (ih out _).trans (State.block_placeOn_other _ _ _ ne)

/-- Each of them has a new thread of the owner. -/
theorem State.threads_placeEach (w : Owner) (next : State → BitVec 32 × Nat) {b : Nat} (bs : List Nat) (h : b ∈ bs) (s : State) :
    ∃ t ∈ ((s.placeEach w next bs).block b).threads, t.fresh w (s.ownerMapping w) := by
  have keep : ∀ (bs : List Nat) (s : State), (s.block b).threads ⊆ ((s.placeEach w next bs).block b).threads := fun bs s =>
    forEach_keeps (fun u => (s.block b).threads ⊆ (u.block b).threads) _
      (fun n u ih => List.Subset.trans ih (u.threads_subset_placeOn w (next u) n b)) bs s fun _ h => h
  induction bs generalizing s with
  | nil => exact absurd h List.not_mem_nil
  | cons a bs ih =>
    by_cases hab : b = a
    · subst hab
      obtain ⟨t, fresh, eq⟩ := s.threads_placeOn w (next s) b
      exact ⟨t, keep bs _ (eq ▸ List.mem_append_right _ (List.mem_singleton.2 rfl)), fresh⟩
    · exact ih ((List.mem_cons.1 h).resolve_left hab) (s.placeOn w (next s) a)

/-- With nothing against it and nothing to copy, a placement creates the threads at once. -/
theorem State.placeNow_commits {s : State} {w : Owner} (report : s.placeReport w = none) (held : s.toCopy w = []) :
    s.placeNow w = s.placeCommit w := by
  unfold State.placeNow
  rw [report, held]
  rfl

/-- A job that is placed has its threads, and runs. -/
theorem State.placeCommit_job (s : State) (k : BitVec 32) : s.placeCommit (.job k) =
    (({ s with placings := s.placings.filter fun p => p.owner != .job k } : State).placeEach (.job k) (fun _ => (k, 0))
      (s.targets (.job k))).updJob k fun j => { j with state := .running, start := s.time } := rfl

/-- What the placement of a job makes of its blocks and of the jobs. -/
theorem State.placeCommit_job_places (s : State) (k : BitVec 32) :
    (s.placeCommit (.job k)).jobs = (s.jobs.map fun x => if x.id == k then { x with state := .running, start := s.time } else x) ∧
    (∀ b ∈ s.targets (.job k), ∃ th ∈ ((s.placeCommit (.job k)).block b).threads, th.fresh (.job k) (s.ownerMapping (.job k))) ∧
    (∀ b, b ∉ s.targets (.job k) → (s.placeCommit (.job k)).block b = s.block b) ∧
    (s.placeCommit (.job k)).mem = s.mem ∧ (s.placeCommit (.job k)).spad = s.spad ∧
    (s.placeCommit (.job k)).pool = s.pool := by
  rw [State.placeCommit_job]
  refine ⟨?_, fun b hb => State.threads_placeEach _ _ _ hb _, fun b hb => State.block_placeEach_other _ _ _ hb _, ?_, ?_, ?_⟩
  · exact congrArg (List.map _) (State.jobs_placeEach _ (.job k) (fun _ => (k, 0)) (s.targets (.job k)))
  · exact State.mem_placeEach _ (.job k) (fun _ => (k, 0)) (s.targets (.job k))
  · exact State.spad_placeEach _ (.job k) (fun _ => (k, 0)) (s.targets (.job k))
  · exact State.pool_placeEach _ (.job k) (fun _ => (k, 0)) (s.targets (.job k))

/-! ## HELD_JOB_START (R20) -/

theorem State.heldStart_outranked {s : State} {k : BitVec 32} {j : Job} (job : s.jobOf k = some j)
    (ranked : (s.jobs.any fun b => s.blocksHeld j b) = true) : s.heldStart k = s := by
  unfold State.heldStart
  rw [job]
  exact if_pos (.inr (.inr (.inr (.inr (.inr ranked)))))

theorem State.heldStart_starts {s : State} {k : BitVec 32} {j : Job} (job : s.jobOf k = some j) (held : j.state = .held)
    (going : j.endStatus = none) (slots : s.slotsShort k = false) (domains : s.domainsOn (.job k) = true)
    (free : s.placeBusy (.job k) = false) (first : (s.jobs.any fun b => s.blocksHeld j b) = false) :
    s.heldStart k = (s.updJob k fun j => { j with state := .placing }).placeNow (.job k) := by
  unfold State.heldStart
  rw [job]
  refine if_neg ?_
  simp only [held, going, slots, domains, free, first]
  decide

/-! ## The two commands (R335, R336) -/

theorem lysilThen_of_takes {s : State} {o : OpRow} {q : Req} (taken : s.takes o q) (body : Body) (after : State → State) :
    lysilThen o q body after s = .next (after ((body (reqTicket q o.code) q.params (s.received q)).1.acked o q
      (body (reqTicket q o.code) q.params (s.received q)).2)) := by
  have gate : (s.begin q.time).gate o q = .run := taken
  have run := lysil_of_takes taken body
  simp only [lysil, Host.Outcome.next.injEq] at run
  simp only [lysilThen, gate, run]

/-- CANCEL_JOB of a job that may end. -/
theorem cancelJobBody_cuts {s : State} {j : Job} (t : Ticket) (p : List Byte) (job : s.jobOf (BitVec.ofNat 32 (le p 0 4)) = some j)
    (going : j.endStatus = none) (placed : j.state ≠ .placing) : cancelJobBody t p s =
      (s.updJob (BitVec.ofNat 32 (le p 0 4)) fun j => { j with endStatus := some Code.jobCancelled }, .ok) := by
  unfold cancelJobBody
  rw [job]
  simp [going, placed, State.id_of_jobOf job]

theorem cancelJobBody_refuses {s : State} (t : Ticket) (p : List Byte) (bad : s.jobOf (BitVec.ofNat 32 (le p 0 4)) = none ∨
    ∃ j, s.jobOf (BitVec.ofNat 32 (le p 0 4)) = some j ∧ (j.endStatus.isSome = true ∨ j.state = .placing)) :
    cancelJobBody t p s = (s, .err Code.notPermitted) := by
  unfold cancelJobBody
  obtain none | ⟨j, job, why⟩ := bad
  · rw [none]
  · rw [job]
    exact if_pos (by simpa using why)

theorem State.jobOf_received (s : State) (q : Req) (k : BitVec 32) : (s.received q).jobOf k = s.jobOf k :=
  (congrArg (State.jobOf · k) (s.received_eq q) :)

/-- LAUNCH_JOB's operands and its mapping pass. -/
def State.launches (s : State) (p : List Byte) : Bool :=
  decide (le p 0 2 ≤ 1023) && (s.mapping (le p 0 2)).state == .loaded && decide (le p 2 1 ≤ 3) && le p 4 2 != 0
    && decide (le p 6 1 ≤ 6) && !((setBlocks (le p 2 1) (le p 4 2)).any s.requestedOff || s.requestedOff (64 + le p 2 1))

/-- The job that LAUNCH_JOB makes. -/
def State.launched (s : State) (k : Ticket) (p : List Byte) : Job :=
  { id := s.nextJob, ticket := k, mapping := le p 0 2, region := le p 2 1, priority := le p 3 1 % 16
    mask := BitVec.ofNat 16 (le p 4 2), check := le p 6 1, collision := s.jobCollision.setWidth 2, created := s.time
    state := .placing, start := 0, endStatus := none, firstStatus := 0, statusEvents := 0 }

/-- The state with it queued. -/
def State.queue (s : State) (j : Job) : State := { s with jobs := s.jobs ++ [j], nextJob := jobAfter s.nextJob }

theorem launchJobBody_eq (s : State) (k : Ticket) (p : List Byte) : launchJobBody k p s =
    if s.launches p = true then
      (s.queue (s.launched k p), { status := Code.accepted, data := leBytes 4 s.nextJob.toNat })
    else (s, .err Code.notPermitted) := by
  have fails : (1023 < le p 0 2 ∨ (s.mapping (le p 0 2)).state ≠ .loaded ∨ 3 < le p 2 1 ∨ le p 4 2 = 0 ∨ 6 < le p 6 1 ∨
      ((setBlocks (le p 2 1) (le p 4 2)).any s.requestedOff || s.requestedOff (64 + le p 2 1)) = true) ↔
      s.launches p = false := by
    simp only [State.launches, Bool.and_eq_false_iff, decide_eq_false_iff_not, not_le, beq_eq_false_iff_ne,
      bne_eq_false_iff_eq, Bool.not_eq_false', or_assoc]
  unfold launchJobBody
  dsimp only
  simp only [fails]
  cases s.launches p <;> rfl

theorem State.launches_received (s : State) (q : Req) (p : List Byte) : (s.received q).launches p = s.launches p :=
  (congrArg (State.launches · p) (s.received_eq q) :)

/-- The ACK of a command that is taken speaks of its port alone. -/
theorem State.acked_eq (s : State) (o : OpRow) (q : Req) {a : Ack} (sent : a.held = false) (crc : a.status ≠ Code.badCrc) :
    s.acked o q a = { s with eth := (s.acked o q a).eth, out := (s.acked o q a).out } :=
  State.acked_agree sent crc rfl rfl rfl

/-- A job may as well be queued after it. -/
theorem State.acked_queue (s : State) (j : Job) (o : OpRow) (q : Req) {a : Ack} (sent : a.held = false)
    (crc : a.status ≠ Code.badCrc) : (s.queue j).acked o q a = (s.acked o q a).queue j := by
  exact (State.acked_agree (s := s) (u := s.queue j) sent crc rfl rfl rfl).trans
    (congrArg (fun u : State => u.queue j) (State.acked_eq s o q sent crc)).symm

theorem State.queue_served (s : State) (j : Job) (o : OpRow) (q : Req) {a : Ack} (sent : a.held = false)
    (crc : a.status ≠ Code.badCrc) : (s.served o q a).queue j =
      { s.served o q a with nextJob := jobAfter s.nextJob, jobs := s.jobs ++ [j] } := by
  unfold State.served
  rw [State.acked_eq _ o q sent crc, State.received_eq]
  rfl

/-- LAUNCH_JOB (R335, R412). -/
theorem execLaunchJob_of_takes {s : State} {q : Req} (taken : s.takes (opRow 0x04A0 8 true) q) : execLaunchJob q s =
    .next (if s.launches q.params = true then
      (s.served (opRow 0x04A0 8 true) q { status := Code.accepted, data := leBytes 4 s.nextJob.toNat }).queue
        ((s.begin q.time).launched ((opRow 0x04A0 8 true).ticket q) q.params)
      else s.served (opRow 0x04A0 8 true) q (.err Code.notPermitted)) := by
  have next : (s.received q).nextJob = s.nextJob := (congrArg State.nextJob (s.received_eq q) :)
  have job : (s.received q).launched = (s.begin q.time).launched := (congrArg State.launched (s.received_eq q) :)
  unfold execLaunchJob
  rw [lysil_of_takes taken, launchJobBody_eq, State.launches_received, next, job]
  cases s.launches q.params
  · rfl
  · exact congrArg Host.Outcome.next (State.acked_queue (s.received q) _ _ q (a := { status := Code.accepted, data := _ }) rfl
      (by decide : Code.accepted ≠ Code.badCrc))

/-- Settles O27: each command by what its body does, JOB_END and CANCEL_JOB over the end of a job. -/
theorem jobsLaunchWaitAndEnd : Obligations.JobsLaunchWaitAndEnd := by
  refine ⟨fun q s taken => ?launch, fun s t k j ready job held going slots domains free => ?start, fun q s taken => ?cancel,
    State.held_settleHeld, fun s t k j ready job ended => ?ends, fun s j => ⟨s.jobs_endJob j, s.endJob_ends j⟩⟩
  case launch =>
    dsimp only
    refine ⟨fun good => ?_, fun bad => ?_⟩
    · refine (execLaunchJob_of_takes taken).trans ?_
      rw [if_pos (c := s.launches q.params = true) good, State.queue_served _ _ _ _ rfl (by decide : Code.accepted ≠ Code.badCrc)]
      rfl
    · refine (execLaunchJob_of_takes taken).trans ?_
      exact congrArg Host.Outcome.next (if_neg ((Bool.not_eq_true _).mpr bad))
  case start =>
    dsimp only
    refine ⟨fun ranked => ?_, fun first report copied => ?_⟩
    · exact (whenReady_ready t (fun s => s.heldStart k) s ready).trans
        (congrArg Host.Outcome.next (State.heldStart_outranked (s := s.begin t) job ranked))
    · have starts := State.heldStart_starts (s := s.begin t) job held going slots domains free first
      rw [State.placeNow_commits report copied] at starts
      refine ⟨_, (whenReady_ready t (fun s => s.heldStart k) s ready).trans (congrArg Host.Outcome.next starts), ?_⟩
      obtain ⟨jobs, threads, -, mem, spad, -⟩ :=
        State.placeCommit_job_places ((s.begin t).updJob k fun j => { j with state := .placing }) k
      refine ⟨jobs, fun b hb => ?_, mem, spad⟩
      obtain ⟨th, at_, owner, mapping, -⟩ := threads b hb
      refine ⟨th, at_, owner, mapping.trans ?_⟩
      rw [State.ownerMapping, State.jobOf_updJob _ k (fun j => { j with state := .placing }) fun _ => rfl]
      have same : (s.begin t).jobOf k = some j := job
      rw [same]
      rfl
  case cancel =>
    dsimp only
    refine ⟨fun j job going placed => ?_, fun bad => ?_⟩
    · refine (lysilThen_of_takes taken cancelJobBody _).trans ?_
      rw [cancelJobBody_cuts (j := j) _ _ ((s.jobOf_received q _).trans job) going placed]
      exact congrArg (fun u : State => Host.Outcome.next u.settleHeld) (State.acked_ok_update (s := s.received q) _ q
        fun x => x.updJob (BitVec.ofNat 32 (le q.params 0 4)) fun j => { j with endStatus := some Code.jobCancelled })
    · refine (lysilThen_of_takes taken cancelJobBody _).trans ?_
      rw [cancelJobBody_refuses _ _ (by rwa [State.jobOf_received])]
      rfl
  case ends =>
    have same : (s.begin t).jobEnd k = _ := State.jobEnd_of_over (s := s.begin t) job ended
    refine ⟨fun waits => ?_, fun free => ?_⟩
    · refine (whenReady_ready t (fun s => s.jobEnd k) s ready).trans (congrArg Host.Outcome.next (same.trans (if_pos waits)))
    · refine (whenReady_ready t (fun s => s.jobEnd k) s ready).trans (congrArg Host.Outcome.next (same.trans (if_neg ?_)))
      rw [free]
      decide

end Sys2Proof.Machine
end

section
/-!
PROOFS. O20: PLACEMENT, by its four outcomes: the job is held, the placement is rejected, its residencies are copied first, or its
threads are created.
-/

namespace Sys2Proof.Machine

open Sys2Proof

/-! ## Which outcome -/

/-- A standalone job is held: none of its blocks is fenced, and one lacks a thread slot (R20). -/
def State.holds (s : State) (w : Owner) : Bool :=
  match w with
  | .job k => s.slotsShort k && (s.targets w).all fun b => !(s.block b).fenced
  | .pipeline _ => false

section
variable {s : State} {w : Owner} (wants : s.wantsPlace w = true) (domains : s.domainsOn w = true) (free : s.placeBusy w = false)
include wants domains free

theorem State.placement_holds {k : BitVec 32} (job : w = .job k) (hold : s.holds w = true) :
    s.placement w = s.updJob k fun j => { j with state := .held } := by
  subst job
  unfold State.placement
  rw [wants, domains, free]
  exact if_pos hold

theorem State.placement_places (drained : ∀ p, w = .pipeline p → (s.pipe p).stream = .starting → (s.pipe p).frames = [])
    (hold : s.holds w = false) : s.placement w = s.placeNow w := by
  unfold State.placement
  rw [wants, domains, free]
  cases w with
  | pipeline p =>
    have left : (decide ((s.pipe p).stream = .starting) && !(s.pipe p).frames.isEmpty) = false := by
      by_cases starting : (s.pipe p).stream = .starting
      · rw [drained p rfl starting]
        exact Bool.and_false _
      · simp [starting]
    simp only [left]
    rfl
  | job k =>
    have slots : (s.slotsShort k && (s.targets (.job k)).all fun b => !(s.block b).fenced) = false := hold
    simp only [slots]
    rfl
end

theorem State.placeNow_rejects {s : State} {w : Owner} {c : CheckReport} (report : s.placeReport w = some c) :
    s.placeNow w = s.placeFail w c := by
  unfold State.placeNow
  rw [report]

theorem State.placeNow_copies {s : State} {w : Owner} (report : s.placeReport w = none) (lack : s.toCopy w ≠ []) :
    s.placeNow w = { s with placings := s.placings ++ [{ owner := w, copies := (s.toCopy w).map (BitVec.ofNat 32) }] } := by
  unfold State.placeNow
  rw [report]
  exact if_neg (by simpa using lack)

/-! ## Blocks and their pipelines that are due for placement -/

/-- Some blocks are due for a pipeline no more. -/
def State.placedDue (s : State) (p : Nat) (bs : List Nat) : State :=
  forEach bs (fun b s => s.updBlock b fun x => { x with placeDue := x.placeDue.filter fun q => q != p }) s

theorem State.placedDue_eq (s : State) (p : Nat) (bs : List Nat) :
    s.placedDue p bs = { s with blocks := (s.placedDue p bs).blocks } :=
  forEach_frame (fun s u : State => { s with blocks := u.blocks }) (fun _ _ _ => rfl) (fun _ => rfl) (fun _ _ => rfl) bs s

/-- What a block holds of its owners. -/
def Block.sameOwners (x y : Block) : Prop := x.threads = y.threads ∧ x.residents = y.residents ∧ x.rings = y.rings

theorem Block.sameOwners.trans {x y z : Block} (h : x.sameOwners y) (g : y.sameOwners z) : x.sameOwners z :=
  ⟨h.1.trans g.1, h.2.1.trans g.2.1, h.2.2.trans g.2.2⟩

theorem State.placedDue_owners (s : State) (p : Nat) (bs : List Nat) (n : Nat) :
    ((s.placedDue p bs).block n).sameOwners (s.block n) := by
  refine forEach_keeps (fun u => (u.block n).sameOwners (s.block n)) _ (fun b u ih => ?_) bs s ⟨rfl, rfl, rfl⟩
  by_cases h : n = b
  · subst h
    rw [State.block_updBlock_same]
    exact ih
  · rwa [State.block_updBlock_other _ _ _ _ h]

theorem State.block_placedDue_other (p : Nat) {n : Nat} (bs : List Nat) (h : n ∉ bs) (s : State) :
    (s.placedDue p bs).block n = s.block n := by
  induction bs generalizing s with
  | nil => rfl
  | cons b bs ih =>
    obtain ⟨ne, out⟩ := not_or.1 (mt List.mem_cons.2 h)
    exact (ih out _).trans (State.block_updBlock_other _ _ _ _ ne)

/-! ## Fault records and blocks (R381) -/

/-- From `s` to `u` no block changes but in its status word. -/
def State.StatusOnly (s u : State) : Prop := ∀ n, ∃ v, u.block n = { s.block n with status := v }

theorem State.StatusOnly.refl (s : State) : s.StatusOnly s := fun n => ⟨(s.block n).status, rfl⟩

theorem State.StatusOnly.trans {s u v : State} (h : s.StatusOnly u) (g : u.StatusOnly v) : s.StatusOnly v := fun n => by
  obtain ⟨x, hx⟩ := h n
  obtain ⟨y, hy⟩ := g n
  exact ⟨y, by rw [hy, hx]⟩

/-- Whatever leaves the blocks leaves their status words. -/
theorem State.StatusOnly.of_blocks {s u v : State} (h : s.StatusOnly u) (same : v.blocks = u.blocks) : s.StatusOnly v := fun n =>
  (h n).imp fun _ hx => (congrArg (Tab.get (fun _ => Block.reset) · n) same).trans hx

theorem State.blocks_setRegionBit (s : State) (r i : Nat) : (s.setRegionBit r i).blocks = s.blocks := by
  unfold State.setRegionBit
  dsimp only
  split <;> rfl

theorem State.setBlockBit_statusOnly (s : State) (b i : Nat) : s.StatusOnly (s.setBlockBit b i) := by
  have set : s.StatusOnly (s.setBlock b { s.block b with status := (s.block b).status ||| BitVec.ofNat 32 (2 ^ i) }) := by
    intro n
    by_cases h : n = b
    · subst h
      exact ⟨_, State.block_setBlock_same ..⟩
    · exact ⟨(s.block n).status, State.block_setBlock_other _ _ _ _ h⟩
  unfold State.setBlockBit
  dsimp only
  split
  · exact set
  · exact set.of_blocks (State.blocks_setRegionBit ..)

theorem State.setStatusFor_statusOnly (s : State) (f : FaultInfo) (c : BitVec 8) : s.StatusOnly (s.setStatusFor f c) := by
  have block : ∀ b, s.StatusOnly (f.blockBits.foldl (fun s i => s.setBlockBit b i) s) := fun b =>
    foldl_keeps s.StatusOnly _ (fun u i h => h.trans (u.setBlockBit_statusOnly b i)) _ s (.refl s)
  have chip : ∀ u : State, s.StatusOnly u → s.StatusOnly ((f.chipBits ++ [Chip.ceSeen + c.toNat]).foldl State.setChip u) :=
    fun u => foldl_keeps s.StatusOnly State.setChip (fun u i h => h.of_blocks rfl) _ u
  unfold State.setStatusFor
  split
  · exact .refl s
  · dsimp only
    refine chip _ ?_
    cases f.site with
    | cell b _ => exact block b
    | block b => exact block b
    | region r => exact foldl_keeps s.StatusOnly _ (fun u i h => h.of_blocks (State.blocks_setRegionBit ..)) _ s (.refl s)
    | chip i _ => exact (State.StatusOnly.refl s).of_blocks rfl

/-- A fault record writes of a block the status word alone. -/
theorem State.fault_statusOnly (s : State) (f : FaultInfo) : s.StatusOnly (s.fault f) := by
  unfold State.fault
  split
  · exact (s.setStatusFor_statusOnly f _).of_blocks rfl
  · exact .refl s

theorem State.fault_owners (s : State) (f : FaultInfo) (n : Nat) : ((s.fault f).block n).sameOwners (s.block n) := by
  obtain ⟨v, hv⟩ := s.fault_statusOnly f n
  rw [hv]
  exact ⟨rfl, rfl, rfl⟩

@[simp] theorem State.pipe_completeOpt (s : State) (k : Option Ticket) (st : BitVec 16) (d : List Byte) (p : Nat) :
    (s.completeOpt k st d).pipe p = s.pipe p := (congrArg (State.pipe · p) (s.completeOpt_eq k st d) :)

/-! ## Rejection (R168) -/

/-- The owner's placement is under way no more. -/
def State.unplaced (s : State) (w : Owner) : State := { s with placings := s.placings.filter fun p => p.owner != w }

section
variable (s : State) (c : CheckReport)

theorem State.placeFail_starting {p : Fin 24} (starting : (s.pipe p).stream = .starting) : s.placeFail (.pipeline p) c =
    ((s.unplaced (.pipeline p)).updPipe p fun x => { x with stream := .stopped, ticket := none }).completeOpt (s.pipe p).ticket
      c.status (reportBytes (some c)) := by
  unfold State.placeFail
  exact if_pos starting

theorem State.placeFail_streaming {p : Fin 24} (streaming : (s.pipe p).stream ≠ .starting) :
    ∃ f, s.placeFail (.pipeline p) c = ((s.unplaced (.pipeline p)).placedDue p (s.targets (.pipeline p))).fault f := by
  unfold State.placeFail
  exact ⟨_, if_neg streaming⟩

theorem State.placeFail_job {k : BitVec 32} {j : Job} (job : s.jobOf k = some j) : s.placeFail (.job k) c =
    ({ s.unplaced (.job k) with jobs := s.jobs.filter fun x => x.id != k } : State).complete j.ticket c.status
      (jobBytes j (some c) s.time) := by
  unfold State.placeFail
  have same : (s.unplaced (.job k)).jobOf k = some j := job
  unfold State.unplaced at same
  dsimp only
  rw [same]
  rfl

theorem State.placeFail_noJob {k : BitVec 32} (none : s.jobOf k = none) : s.placeFail (.job k) c = s.unplaced (.job k) := by
  unfold State.placeFail
  have same : (s.unplaced (.job k)).jobOf k = .none := none
  unfold State.unplaced at same
  dsimp only
  rw [same]
  rfl

/-- What a rejected placement leaves. -/
theorem State.placeFail_keeps (w : Owner) :
    (s.placeFail w c).spad = s.spad ∧ (s.placeFail w c).pool = s.pool ∧ (s.placeFail w c).mem = s.mem ∧
      ∀ b, ((s.placeFail w c).block b).sameOwners (s.block b) := by
  cases w with
  | pipeline p =>
    by_cases starting : (s.pipe p).stream = .starting
    · rw [State.placeFail_starting s c starting, State.completeOpt_eq]
      exact ⟨rfl, rfl, rfl, fun _ => ⟨rfl, rfl, rfl⟩⟩
    · obtain ⟨f, eq⟩ := State.placeFail_streaming s c starting
      rw [eq, State.spad_fault, State.pool_fault, State.mem_fault, State.placedDue_eq]
      refine ⟨rfl, rfl, rfl, fun b => ?_⟩
      rw [← State.placedDue_eq]
      exact (State.fault_owners _ f b).trans (State.placedDue_owners _ p _ b)
  | job k =>
    cases job : s.jobOf k with
    | none => rw [State.placeFail_noJob s c job]; exact ⟨rfl, rfl, rfl, fun _ => ⟨rfl, rfl, rfl⟩⟩
    | some j =>
      rw [State.placeFail_job s c job, State.complete_eq]
      exact ⟨rfl, rfl, rfl, fun _ => ⟨rfl, rfl, rfl⟩⟩

/-- A pipeline whose start is rejected is STOPPED, and START_STREAM completes with the report. -/
theorem State.placeFail_stops {p : Fin 24} (starting : (s.pipe p).stream = .starting) :
    ((s.placeFail (.pipeline p) c).pipe p).stream = .stopped ∧
      ∀ k, (s.pipe p).ticket = some k → s.completes (s.placeFail (.pipeline p) c) k c.status (reportBytes (some c)) := by
  rw [State.placeFail_starting s c starting]
  refine ⟨?_, fun k ticket => ?_⟩
  · rw [State.pipe_completeOpt, State.pipe_updPipe_same]
  · rw [ticket]
    exact State.completes_of_eth rfl (State.completes_complete _ k _ _)

/-- A rejected job is removed, and LAUNCH_JOB completes with the report. -/
theorem State.placeFail_removes {k : BitVec 32} {j : Job} (job : s.jobOf k = some j) :
    (s.placeFail (.job k) c).jobs = (s.jobs.filter fun x => x.id != k) ∧
      s.completes (s.placeFail (.job k) c) j.ticket c.status (jobBytes j (some c) s.time) := by
  rw [State.placeFail_job s c job]
  refine ⟨?_, State.completes_of_eth rfl (State.completes_complete _ j.ticket _ _)⟩
  rw [State.complete_eq]
end

/-! ## The threads of a pipeline (R218, R379) -/

theorem State.setHalos_eq (s : State) (p : Nat) : s.setHalos p = { s with pipes := (s.setHalos p).pipes } := by
  unfold State.setHalos
  dsimp only
  split <;> rfl

theorem State.pipe_setHalos (s : State) (p : Nat) :
    ∃ a b, (s.setHalos p).pipe p = { s.pipe p with haloTop := a, haloBottom := b } := by
  unfold State.setHalos
  dsimp only
  split
  · exact ⟨_, _, State.pipe_updPipe_same ..⟩
  · exact ⟨(s.pipe p).haloTop, (s.pipe p).haloBottom, rfl⟩

/-- A pipeline that START_STREAM made to stream. -/
structure Pipe.Streams (x : Pipe) (bs : List Nat) : Prop where
  stream : x.stream = .streaming
  nextFrame : x.nextFrame = 0
  blocks : x.blocks = positions bs

/-- The counts of its run begin. -/
def Pipe.startRun (x : Pipe) (bs : List Nat) (now : Time) : Pipe :=
  { x with stream := .streaming, ticket := none, blocks := positions bs, nextFrame := 0, liveFrom := 0, lastEnded := none
           streamingSince := now, consumed := 0, outProducer := 0, statsSeq := 0, fbLast := none, fe := .reset
           unshedDue := false, feErrorFrame := x.lastError x.feErrorFrame, statsErrorFrame := x.lastError x.statsErrorFrame
           outErrorFrame := x.lastError x.outErrorFrame }

/-- The heron unit of a pipeline has applied no exposure of the run. -/
def State.clearApplied (s : State) (p : Nat) : State :=
  match s.heronOf p with
  | some u => s.setHeron u { s.heron u with applied := [] }
  | none => s

theorem State.clearApplied_eq (s : State) (p : Nat) : s.clearApplied p = { s with herons := (s.clearApplied p).herons } := by
  unfold State.clearApplied
  split <;> rfl

@[simp] theorem State.pipe_clearApplied (s : State) (p q : Nat) : (s.clearApplied p).pipe q = s.pipe q :=
  (congrArg (State.pipe · q) (s.clearApplied_eq p) :)

theorem State.streamOn_def (s : State) (p : Nat) (bs : List Nat) : s.streamOn p bs =
    (((s.updPipe p fun x => x.startRun bs s.time).clearApplied p).setHalos p).completeOpt (s.pipe p).ticket Code.ok
      (reportBytes none) := rfl

/-- What the start of a run leaves. -/
theorem State.streamOn_eq (s : State) (p : Nat) (bs : List Nat) : s.streamOn p bs =
    { s with pipes := (s.streamOn p bs).pipes, herons := (s.streamOn p bs).herons, eth := (s.streamOn p bs).eth
             out := (s.streamOn p bs).out } := by
  rw [State.streamOn_def, State.completeOpt_eq, State.setHalos_eq, State.clearApplied_eq]
  rfl

theorem State.streamOn_keeps (s : State) (p : Nat) (bs : List Nat) : (∀ b, (s.streamOn p bs).block b = s.block b) ∧
    (s.streamOn p bs).spad = s.spad ∧ (s.streamOn p bs).pool = s.pool ∧ (s.streamOn p bs).mem = s.mem := by
  rw [State.streamOn_eq]
  exact ⟨fun _ => rfl, rfl, rfl, rfl⟩

theorem State.pipe_streamOn (s : State) (p : Nat) (bs : List Nat) : ((s.streamOn p bs).pipe p).Streams bs := by
  have started : ((s.updPipe p fun x => x.startRun bs s.time).clearApplied p).pipe p = (s.pipe p).startRun bs s.time := by
    rw [State.pipe_clearApplied, State.pipe_updPipe_same]
  obtain ⟨a, b, eq⟩ := State.pipe_setHalos ((s.updPipe p fun x => x.startRun bs s.time).clearApplied p) p
  rw [State.streamOn_def, State.pipe_completeOpt, eq, started]
  exact ⟨rfl, rfl, rfl⟩

theorem State.streamOn_completes (s : State) (p : Nat) (bs : List Nat) {k : Ticket} (ticket : (s.pipe p).ticket = some k) :
    s.completes (s.streamOn p bs) k Code.ok (reportBytes none) := by
  rw [State.streamOn_def, ticket]
  refine State.completes_of_eth ?_ (State.completes_complete _ k _ _)
  rw [State.setHalos_eq, State.clearApplied_eq]
  rfl

/-- Blocks that join a streaming pipeline. -/
theorem State.joinBlocks_eq (s : State) (p : Nat) (bs : List Nat) : s.joinBlocks p bs =
    { s with pipes := (s.joinBlocks p bs).pipes, blocks := (s.placedDue p bs).blocks, faults := (s.joinBlocks p bs).faults } := by
  have due := State.placedDue_eq s p bs
  unfold State.placedDue at due ⊢
  unfold State.joinBlocks
  dsimp only
  rw [State.setHalos_eq, due]
  rfl

theorem State.joinBlocks_keeps (s : State) (p : Nat) (bs : List Nat) :
    (∀ b, (s.joinBlocks p bs).block b = (s.placedDue p bs).block b) ∧
      (s.joinBlocks p bs).spad = s.spad ∧ (s.joinBlocks p bs).pool = s.pool ∧ (s.joinBlocks p bs).mem = s.mem := by
  rw [State.joinBlocks_eq]
  exact ⟨fun _ => rfl, rfl, rfl, rfl⟩

/-- The placement of a pipeline. -/
theorem State.placeCommit_starting (s : State) {p : Fin 24} (starting : (s.pipe p).stream = .starting) :
    s.placeCommit (.pipeline p) = ((s.unplaced (.pipeline p)).placeEach (.pipeline p) (fun _ => (0, 0)) (s.targets (.pipeline p))).streamOn p
      (s.targets (.pipeline p)) := by
  unfold State.placeCommit
  exact if_pos starting

theorem State.placeCommit_streaming (s : State) {p : Fin 24} (streaming : (s.pipe p).stream ≠ .starting) :
    s.placeCommit (.pipeline p) = ((s.unplaced (.pipeline p)).placeEach (.pipeline p) (fun s => ((s.pipe p).nextFrame, 0))
      (s.targets (.pipeline p))).joinBlocks p (s.targets (.pipeline p)) := by
  unfold State.placeCommit
  exact if_neg streaming

/-- Every placement creates its threads on its blocks and leaves the other blocks and all memory. -/
theorem State.placeCommit_places (s : State) (w : Owner) :
    (∀ b ∈ s.targets w, ∃ th ∈ ((s.placeCommit w).block b).threads, th.fresh w (s.ownerMapping w)) ∧
    (∀ b, b ∉ s.targets w → (s.placeCommit w).block b = s.block b) ∧
    (s.placeCommit w).spad = s.spad ∧ (s.placeCommit w).pool = s.pool ∧ (s.placeCommit w).mem = s.mem := by
  cases w with
  | job k =>
    obtain ⟨-, threads, others, mem, spad, pool⟩ := s.placeCommit_job_places k
    exact ⟨threads, others, spad, pool, mem⟩
  | pipeline p =>
    have threads := fun next b hb => State.threads_placeEach (.pipeline p) next (b := b) (s.targets (.pipeline p)) hb
      (s.unplaced (.pipeline p))
    have others := fun next b hb => State.block_placeEach_other (.pipeline p) next (n := b) (s.targets (.pipeline p)) hb
      (s.unplaced (.pipeline p))
    by_cases starting : (s.pipe p).stream = .starting
    · rw [State.placeCommit_starting s starting]
      obtain ⟨blocks, spad, pool, mem⟩ := ((s.unplaced (.pipeline p)).placeEach (.pipeline p) (fun _ => (0, 0))
        (s.targets (.pipeline p))).streamOn_keeps p (s.targets (.pipeline p))
      rw [spad, pool, mem, State.spad_placeEach, State.pool_placeEach, State.mem_placeEach]
      refine ⟨fun b hb => ?_, fun b hb => ?_, rfl, rfl, rfl⟩
      · rw [blocks]; exact threads _ b hb
      · rw [blocks]; exact others _ b hb
    · rw [State.placeCommit_streaming s starting]
      obtain ⟨blocks, spad, pool, mem⟩ := ((s.unplaced (.pipeline p)).placeEach (.pipeline p)
        (fun s => ((s.pipe p).nextFrame, 0)) (s.targets (.pipeline p))).joinBlocks_keeps p (s.targets (.pipeline p))
      rw [spad, pool, mem, State.spad_placeEach, State.pool_placeEach, State.mem_placeEach]
      refine ⟨fun b hb => ?_, fun b hb => ?_, rfl, rfl, rfl⟩
      · obtain ⟨th, at_, fresh⟩ := threads (fun s => ((s.pipe p).nextFrame, 0)) b hb
        rw [blocks, (State.placedDue_owners _ p _ b).1]
        exact ⟨th, at_, fresh⟩
      · rw [blocks]
        exact (State.block_placedDue_other p _ hb _).trans (others _ b hb)

/-- A pipeline that starts streams from frame number 0, and START_STREAM completes. -/
theorem State.placeCommit_streams (s : State) {p : Fin 24} (starting : (s.pipe p).stream = .starting) :
    ((s.placeCommit (.pipeline p)).pipe p).Streams (s.targets (.pipeline p)) ∧
      ∀ k, (s.pipe p).ticket = some k → s.completes (s.placeCommit (.pipeline p)) k Code.ok (reportBytes none) := by
  rw [State.placeCommit_starting s starting]
  refine ⟨State.pipe_streamOn .., fun k ticket => ?_⟩
  refine State.completes_of_eth ?_ (State.streamOn_completes _ p _ ?_)
  · rw [State.eth_placeEach]; rfl
  · rwa [State.pipe_placeEach]

/-- Settles O20: PLACEMENT at command-ready is one of four outcomes, each with what it leaves. -/
theorem placementsHoldFailOrPlace : Obligations.PlacementsHoldFailOrPlace := by
  intro s t w ready wants domains free drained
  have run : ∀ u, (s.begin t).placement w = u → exec (.placement t w) s = .next u := fun u eq =>
    (whenReady_ready t (fun s => s.placement w) s ready).trans (congrArg Host.Outcome.next eq)
  have placeNow : (s.begin t).holds w = false → exec (.placement t w) s = .next ((s.begin t).placeNow w) := fun hold =>
    run _ (State.placement_places wants domains free drained hold)
  dsimp only
  refine ⟨fun k job hold => run _ (State.placement_holds wants domains free job ?hold), fun c hold report => ?fails,
    fun hold report lack => ?copies, fun hold report held => ?places⟩
  case hold => subst job; exact hold
  case copies => exact (placeNow hold).trans (congrArg _ (State.placeNow_copies report lack))
  case fails =>
    refine ⟨_, (placeNow hold).trans (congrArg _ (State.placeNow_rejects report)), ?_⟩
    obtain ⟨spad, pool, mem, blocks⟩ := State.placeFail_keeps (s.begin t) c w
    refine ⟨spad, pool, mem, blocks, fun p pipe starting => ?_, fun k j job found => ?_⟩
    · subst pipe
      exact State.placeFail_stops (s.begin t) c starting
    · subst job
      exact State.placeFail_removes (s.begin t) c found
  case places =>
    refine ⟨_, (placeNow hold).trans (congrArg _ (State.placeNow_commits report held)), ?_⟩
    obtain ⟨threads, others, spad, pool, mem⟩ := State.placeCommit_places (s.begin t) w
    refine ⟨threads, others, spad, pool, mem, fun p pipe starting => ?_, fun k job => ?_⟩
    · subst pipe
      obtain ⟨⟨stream, next, blocks⟩, completes⟩ := State.placeCommit_streams (s.begin t) starting
      exact ⟨stream, next, blocks, completes⟩
    · subst job
      exact (State.placeCommit_job_places (s.begin t) k).1

end Sys2Proof.Machine
end

section
/-!
PROOFS. O23: STEP_START. What the fetch of a step may touch, which unit R13's choice is of, and how each choice starts.
-/

namespace Sys2Proof.Machine

open Sys2Proof

/-! ## Threads and units -/

/-- A thread that changes, and keeps its owner, is found as before. -/
theorem Block.threadOf_updThread (x : Block) (o : Owner) (f : Thread → Thread) (owner : ∀ t, (f t).owner = t.owner) :
    (x.updThread o f).threadOf o = (x.threadOf o).map f := by
  have same : ((fun t : Thread => t.owner == o) ∘ fun t => if t.owner == o then f t else t) = fun t => t.owner == o := by
    funext t
    dsimp only [Function.comp_apply]
    split
    · rw [owner]
    · rfl
  unfold Block.threadOf Block.updThread
  dsimp only
  rw [List.find?_map, same]
  cases found : x.threads.find? fun t => t.owner == o with
  | none => rfl
  | some t =>
    have ht : (t.owner == o) = true := List.find?_some (p := fun t : Thread => t.owner == o) found
    simp only [Option.map_some, ht, if_true]

/-- A unit in progress is its block's, its owner's and its thread's. -/
theorem State.ctx_spec {s : State} {b : Nat} {o : Owner} {c : Ctx} (h : s.ctx b o = some c) :
    c.b = b ∧ c.o = o ∧ (s.block b).threadOf o = some c.thread ∧ c.thread.unit = some c.run := by
  unfold State.ctx at h
  split at h
  · next t thread =>
    split at h
    · next u unit =>
      obtain ⟨p, -, rfl⟩ := Option.map_eq_some_iff.1 h
      exact ⟨rfl, rfl, thread, unit⟩
    · exact absurd h (by simp)
  · exact absurd h (by simp)

/-! ## Which unit a choice is of (R13) -/

/-- The best of some ranked things is one of them. -/
theorem mem_of_bestRanked {α : Type} {l : List (List Nat × α)} {x : α} (h : bestRanked l = some x) : ∃ r, (r, x) ∈ l := by
  have keep : ∀ (t : List (List Nat × α)) (best : Option (List Nat × α)), (∀ y, best = some y → y ∈ l) → t ⊆ l →
      ∀ y, (t.foldl (fun best x => match best with
        | none => some x
        | some y => if rankBefore x.1 y.1 then some x else some y) best) = some y → y ∈ l := by
    intro t
    induction t with
    | nil => exact fun best hb _ y hy => hb y hy
    | cons a t ih =>
      intro best hb sub
      obtain ⟨ha, ht⟩ := List.cons_subset.1 sub
      refine ih _ (fun y hy => ?_) ht
      cases best with
      | none => exact Option.some.inj hy ▸ ha
      | some z =>
        dsimp only at hy
        split at hy
        · exact Option.some.inj hy ▸ ha
        · exact hb y hy
  obtain ⟨⟨r, y⟩, found, rfl⟩ := Option.map_eq_some_iff.1 h
  exact ⟨r, keep l none (fun _ h => absurd h (by simp)) (fun _ h => h) _ found⟩

theorem State.block_of_runnable {s : State} {b : Nat} {c : Ctx} (h : c ∈ s.runnable b) : c.b = b := by
  obtain ⟨t, -, ctx⟩ := List.mem_filterMap.1 (List.mem_filter.1 h).1
  exact (State.ctx_spec ctx).1

/-- The units that R13 chooses from, with what they would do, are the block's. -/
theorem State.block_of_ranked {α : Type} {s : State} {b : Nat} {f : List Nat × Ctx → Option (List Nat × Ctx × α)}
    (keeps : ∀ x y, f x = some y → y.2.1 = x.2) {c : Ctx} {a : α}
    (h : bestRanked (((s.runnable b).map fun c => (s.stepRank c.o c.run.id, c)).filterMap f) = some (c, a)) : c.b = b := by
  obtain ⟨r, mem⟩ := mem_of_bestRanked h
  obtain ⟨x, hx, hf⟩ := List.mem_filterMap.1 mem
  obtain ⟨c', run, rfl⟩ := List.mem_map.1 hx
  have same : c = c' := keeps _ _ hf
  exact same ▸ State.block_of_runnable run

theorem State.choose_scale {s : State} {b : Nat} {c : Ctx} {k : GroupKey} {i : Nat} {st : Step}
    (h : s.choose b = some (.scale c k i st)) : c.b = b := by
  unfold State.choose at h
  split at h
  · split at h
    · obtain ⟨x, -, hx⟩ := Option.map_eq_some_iff.1 h
      exact absurd hx (by simp)
    · exact absurd h (by simp)
  · split at h
    · exact absurd h (by simp)
    · dsimp only at h
      split at h
      · next c' k' i' st' best =>
        obtain ⟨rfl, -⟩ := Choice.scale.inj (Option.some.inj h)
        refine State.block_of_ranked (fun x y hy => ?_) best
        obtain ⟨z, -, rfl⟩ := Option.map_eq_some_iff.1 hy
        rfl
      · next none =>
        obtain ⟨r, mem⟩ := mem_of_bestRanked h
        obtain ⟨x, -, hx⟩ := List.mem_filterMap.1 mem
        split at hx <;> simp at hx

theorem State.choose_step {s : State} {b : Nat} {c : Ctx} {ops : List Nat} (h : s.choose b = some (.step c ops)) : c.b = b := by
  unfold State.choose at h
  split at h
  · split at h
    · obtain ⟨x, -, hx⟩ := Option.map_eq_some_iff.1 h
      exact absurd hx (by simp)
    · exact absurd h (by simp)
  · split at h
    · exact absurd h (by simp)
    · dsimp only at h
      split at h
      · exact absurd h (by simp)
      · obtain ⟨r, mem⟩ := mem_of_bestRanked h
        obtain ⟨x, hx, hf⟩ := List.mem_filterMap.1 mem
        obtain ⟨c', run, rfl⟩ := List.mem_map.1 hx
        dsimp only at hf
        split at hf
        · exact absurd hf (by simp)
        · obtain ⟨-, rfl, -⟩ : _ ∧ c' = c ∧ _ := by simpa using hf
          exact State.block_of_runnable run

/-! ## What a fetch may touch -/

/-- A fold over a state and what is gathered keeps what each of its steps keeps of the state. -/
theorem foldl_snd_keeps {α β : Type} (P : State → Prop) (f : β × State → α → β × State) (hf : ∀ x a, P x.2 → P (f x a).2)
    (l : List α) (x : β × State) (h : P x.2) : P (l.foldl f x).2 := by
  induction l generalizing x with
  | nil => exact h
  | cons a l ih => exact ih _ (hf x a h)


/-- From `s` to `u` no block's steps change, no memory and no channel; and time has not passed. -/
structure State.KeepsSteps (s u : State) : Prop where
  time : u.time = s.time
  mem : u.mem = s.mem
  spad : u.spad = s.spad
  pool : u.pool = s.pool
  channels : u.channels = s.channels
  running : ∀ n, (u.block n).running = (s.block n).running
  steps : ∀ n, (u.block n).steps = (s.block n).steps

/-- Nor does a thread. -/
structure State.KeepsThreads (s u : State) : Prop extends State.KeepsSteps s u where
  threads : ∀ n, (u.block n).threads = (s.block n).threads

theorem State.KeepsSteps.trans {s u v : State} (h : s.KeepsSteps u) (g : u.KeepsSteps v) : s.KeepsSteps v where
  time := g.time.trans h.time
  mem := g.mem.trans h.mem
  spad := g.spad.trans h.spad
  pool := g.pool.trans h.pool
  channels := g.channels.trans h.channels
  running n := (g.running n).trans (h.running n)
  steps n := (g.steps n).trans (h.steps n)

/-- What an update of a block keeps of it, it keeps of every block. -/
theorem State.updBlock_field {α : Type} (s : State) (b : Nat) {f : Block → Block} (g : Block → α) (keep : ∀ x, g (f x) = g x) (n : Nat) :
    g ((s.updBlock b f).block n) = g (s.block n) := by
  by_cases h : n = b
  · subst h
    rw [State.block_updBlock_same, keep]
  · rw [State.block_updBlock_other _ _ _ _ h]

theorem State.KeepsSteps.updBlock {s : State} (b : Nat) {f : Block → Block} (running : ∀ x, (f x).running = x.running)
    (steps : ∀ x, (f x).steps = x.steps) : s.KeepsSteps (s.updBlock b f) :=
  ⟨rfl, rfl, rfl, rfl, rfl, s.updBlock_field b Block.running running, s.updBlock_field b Block.steps steps⟩

namespace State.KeepsThreads
variable {s u v : State}

theorem refl : s.KeepsThreads s := ⟨⟨rfl, rfl, rfl, rfl, rfl, fun _ => rfl, fun _ => rfl⟩, fun _ => rfl⟩

theorem trans (h : s.KeepsThreads u) (g : u.KeepsThreads v) : s.KeepsThreads v :=
  ⟨h.toKeepsSteps.trans g.toKeepsSteps, fun n => (g.threads n).trans (h.threads n)⟩

theorem updPipe (p : Nat) (f : Pipe → Pipe) : s.KeepsThreads (s.updPipe p f) :=
  ⟨⟨rfl, rfl, rfl, rfl, rfl, fun _ => rfl, fun _ => rfl⟩, fun _ => rfl⟩

theorem updJob (k : BitVec 32) (f : Job → Job) : s.KeepsThreads (s.updJob k f) :=
  ⟨⟨rfl, rfl, rfl, rfl, rfl, fun _ => rfl, fun _ => rfl⟩, fun _ => rfl⟩

theorem updBlock (b : Nat) {f : Block → Block} (threads : ∀ x, (f x).threads = x.threads) (running : ∀ x, (f x).running = x.running)
    (steps : ∀ x, (f x).steps = x.steps) : s.KeepsThreads (s.updBlock b f) :=
  ⟨.updBlock b running steps, State.updBlock_field s b Block.threads threads⟩

theorem fault (f : FaultInfo) : s.KeepsThreads (s.fault f) where
  time := State.time_fault s f
  mem := State.mem_fault s f
  spad := State.spad_fault s f
  pool := State.pool_fault s f
  channels := State.channels_fault s f
  running n := by obtain ⟨v, hv⟩ := s.fault_statusOnly f n; rw [hv]
  steps n := by obtain ⟨v, hv⟩ := s.fault_statusOnly f n; rw [hv]
  threads n := by obtain ⟨v, hv⟩ := s.fault_statusOnly f n; rw [hv]

theorem readLine (b l : Nat) (f : MemFindings) (r : Reader) : s.KeepsThreads (s.readLine b l f r).2 := by
  unfold State.readLine
  dsimp only
  split
  · exact .refl
  · split
    · exact State.KeepsThreads.trans (u := { s with spadPoison := insertAsc (spadLines * b + l) s.spadPoison })
        ⟨⟨rfl, rfl, rfl, rfl, rfl, fun _ => rfl, fun _ => rfl⟩, fun _ => rfl⟩ (.fault _)
    · exact forEach_keeps s.KeepsThreads _ (fun _ _ h => h.trans (.fault _)) _ s .refl

theorem touchLines (b : Nat) (ls : List Nat) (f : MemFindings) (r : Reader) : s.KeepsThreads (s.touchLines b ls f r).2 := by
  unfold State.touchLines
  refine foldl_snd_keeps s.KeepsThreads _ ?_ ls (([] : List Nat), s) .refl
  rintro ⟨bad, u⟩ l h
  exact h.trans (.readLine b l f r)

theorem recordStatus (o : Owner) (f : BitVec 32) (c : BitVec 16) : s.KeepsThreads (s.recordStatus o f c) := by
  cases o with
  | pipeline p => unfold State.recordStatus; exact .updPipe p _
  | job k => unfold State.recordStatus; exact .updJob k _

theorem consumePoison (o : Owner) (id : BitVec 32 × Nat) (c : BitVec 16) : s.KeepsThreads (s.consumePoison o id c) := by
  unfold State.consumePoison
  cases o with
  | job k => exact .trans (.updJob k _) (.recordStatus (.job k) _ c)
  | pipeline p =>
    dsimp only
    split
    · split
      · exact .updPipe p _
      · exact .trans (.recordStatus (.pipeline p) id.1 c) (.updPipe p _)
    · exact .recordStatus (.pipeline p) id.1 c

theorem bankCollision (b : Nat) (o : Owner) (id : BitVec 32 × Nat) (n : Nat) : s.KeepsThreads (s.bankCollision b o id n) := by
  unfold State.bankCollision
  have count : s.KeepsThreads (s.updBlock b fun x => { x with collisions := sat32 x.collisions n }) :=
    .updBlock b (fun _ => rfl) (fun _ => rfl) fun _ => rfl
  dsimp only
  split
  · exact count.trans (.consumePoison _ _ _)
  · have noted := count.trans (.recordStatus o id.1 Code.bankCollision)
    cases o with
    | pipeline p => exact noted.trans (.updPipe p _)
    | job k => exact noted

theorem stepCollision (c : Ctx) (ls : List Nat) : s.KeepsThreads (s.stepCollision c ls) := by
  unfold State.stepCollision
  split
  · exact .refl
  · exact .bankCollision _ _ _ _

end State.KeepsThreads

/-! ## The start of a step -/

/-- From `s` to `u` block `b` starts a step: `runs` of the statement. -/
structure State.Runs (s u : State) (b : Nat) (o : Owner) (k : StepKind) (st : Step) (id : BitVec 32 × Nat) : Prop where
  running : ∃ w, (u.block b).running = some w ∧ w.owner = o ∧ w.kind = k ∧ w.step = st ∧ w.unit = id ∧ w.start = s.time
  steps : (u.block b).steps = (s.block b).steps + 1
  others : ∀ n, n ≠ b → (u.block n).running = (s.block n).running
  mem : u.mem = s.mem
  spad : u.spad = s.spad
  pool : u.pool = s.pool
  channels : u.channels = s.channels

theorem State.Runs.after {s v u : State} {b : Nat} {o : Owner} {k : StepKind} {st : Step} {id : BitVec 32 × Nat}
    (h : s.KeepsSteps v) (g : v.Runs u b o k st id) : s.Runs u b o k st id where
  running := h.time ▸ g.running
  steps := g.steps.trans (congrArg (· + 1) (h.steps b))
  others n hn := (g.others n hn).trans (h.running n)
  mem := g.mem.trans h.mem
  spad := g.spad.trans h.spad
  pool := g.pool.trans h.pool
  channels := g.channels.trans h.channels

theorem State.Runs.and {s v u : State} {b : Nat} {o : Owner} {k : StepKind} {st : Step} {id : BitVec 32 × Nat}
    (g : s.Runs v b o k st id) (h : v.KeepsSteps u) : s.Runs u b o k st id where
  running := h.running b ▸ g.running
  steps := (h.steps b).trans g.steps
  others n hn := (h.running n).trans (g.others n hn)
  mem := h.mem.trans g.mem
  spad := h.spad.trans g.spad
  pool := h.pool.trans g.pool
  channels := h.channels.trans g.channels

/-- A block that takes up a step runs it. -/
theorem State.Runs.updBlock {s u : State} {b : Nat} {o : Owner} {k : StepKind} {st : Step} {id : BitVec 32 × Nat} (f : Block → Block)
    (set : u = s.updBlock b f) (running : ∃ w, (∀ x, (f x).running = some w) ∧ w.owner = o ∧ w.kind = k ∧ w.step = st ∧
      w.unit = id ∧ w.start = s.time) (steps : ∀ x, (f x).steps = x.steps + 1) : s.Runs u b o k st id := by
  subst set
  obtain ⟨w, running, is⟩ := running
  exact { running := ⟨w, by rw [State.block_updBlock_same, running], is⟩
          steps := by rw [State.block_updBlock_same, steps]
          others := fun n hn => by rw [State.block_updBlock_other _ _ _ _ hn]
          mem := rfl, spad := rfl, pool := rfl, channels := rfl }

theorem State.dropAhead_keeps (s : State) (b : Nat) : s.KeepsThreads (s.dropAhead b) :=
  .updBlock b (fun _ => rfl) (fun _ => rfl) fun _ => rfl

/-- The step of an owed replay as it runs again. -/
def State.resumed (s : State) (b : Nat) (w : OwedReplay) (k : StepKind) : Running :=
  { w.run with kind := k, start := s.time, since := 8 * s.now, done := 0, divider := dividerOf (s.aclkCode (b / 16))
               cycles := stepCycles w.run.span w.run.kappa (s.aclkCode (b / 16))
               r := if k = .checkReplay then w.run.r else (w.run.r + 8) % 16 }

theorem State.startReplay_eq (s : State) (b : Nat) (w : OwedReplay) (k : StepKind) : s.startReplay b w k =
    (s.dropAhead b).updBlock b fun x => { x with running := some (s.resumed b w k), steps := x.steps + 1 } := rfl

/-- An owed check replay, and a referee's step. -/
theorem State.startReplay_runs (s : State) (b : Nat) (w : OwedReplay) (k : StepKind) :
    s.Runs (s.startReplay b w k) b w.run.owner k w.run.step w.run.unit :=
  .after (s.dropAhead_keeps b).toKeepsSteps (.updBlock _ (s.startReplay_eq b w k) ⟨_, fun _ => rfl, rfl, rfl, rfl, rfl, rfl⟩ fun _ => rfl)

/-- What the fetch of a step leaves before it runs. -/
def State.taken (s : State) (c : Ctx) (x : Fetched) : State :=
  let s := (s.touchLines c.b x.lines x.found (unitReader c.o c.run.id)).2
  let s := if !x.bad.isEmpty || x.entryBad then s.consumePoison c.o c.run.id Code.poisonConsumed else s
  s.stepCollision c x.met

theorem State.taken_keeps (s : State) (c : Ctx) (x : Fetched) : s.KeepsThreads (s.taken c x) := by
  unfold State.taken
  refine .trans (.touchLines c.b x.lines x.found (unitReader c.o c.run.id)) (.trans ?_ (.stepCollision c x.met))
  split
  · exact .consumePoison _ _ _
  · exact .refl

/-- The step as it runs, under the divider now in force. -/
def State.timed (s : State) (c : Ctx) (w : Running) : Running :=
  { w with start := s.time, since := 8 * s.now, cycles := (s.stepTime c w.step).1, divider := (s.stepTime c w.step).2 }

theorem State.take_eq (s : State) (c : Ctx) (x : Fetched) : s.take c x = (s.taken c x).updBlock c.b fun y =>
    { refillFor y x.bad with running := some ((s.taken c x).timed c x.run), steps := y.steps + 1 } := rfl

/-- A fetched step starts. -/
theorem State.take_runs (s : State) (c : Ctx) (x : Fetched) :
    s.Runs (s.take c x) c.b x.run.owner x.run.kind x.run.step x.run.unit :=
  .after (s.taken_keeps c x).toKeepsSteps (.updBlock _ (s.take_eq c x) ⟨_, fun _ => rfl, rfl, rfl, rfl, rfl, rfl⟩ fun _ => rfl)

theorem State.threads_take (s : State) (c : Ctx) (x : Fetched) (n : Nat) :
    ((s.take c x).block n).threads = (s.block n).threads := by
  rw [State.take_eq, ← (s.taken_keeps c x).threads n]
  by_cases h : n = c.b
  · subst h
    rw [State.block_updBlock_same]
    rfl
  · rw [State.block_updBlock_other _ _ _ _ h]

/-- The step at the head of the queue is the one that is asked for. -/
theorem Block.headIs_run {x : Block} {o : Owner} {id : BitVec 32 × Nat} {k : StepKind} {g : Option GroupKey} {n : Nat} {st : Step}
    {r : Option Nat} {h : Fetched} (head : x.headIs o id k g n st r = some h) :
    h.run.owner = o ∧ h.run.unit = id ∧ h.run.kind = k ∧ h.run.step = st := by
  have is := (Option.filter_eq_some_iff.1 head).2
  simp only [Bool.and_eq_true, beq_iff_eq] at is
  obtain ⟨⟨⟨⟨⟨⟨⟨owner, unit⟩, kind⟩, -⟩, -⟩, step⟩, -⟩, -⟩ := is
  exact ⟨owner, unit, kind, step⟩

/-- A step starts from the head of the queue or by a fetch. -/
theorem State.takeOrFetch_runs (s : State) (c : Ctx) (st : Step) (n : Nat) (k : StepKind) (g : Option GroupKey) (f : MemFindings) :
    s.Runs (s.takeOrFetch c st n k g f) c.b c.o k st c.run.id ∧
      ∀ m, ((s.takeOrFetch c st n k g f).block m).threads = (s.block m).threads := by
  unfold State.takeOrFetch
  dsimp only
  split
  · next h head =>
    obtain ⟨owner, unit, kind, step⟩ := Block.headIs_run head
    rw [← owner, ← unit, ← kind, ← step]
    have keep : s.KeepsThreads (s.updBlock c.b fun x => { x with lookahead := x.lookahead.tail }) :=
      .updBlock c.b (fun _ => rfl) (fun _ => rfl) fun _ => rfl
    exact ⟨State.Runs.after keep.toKeepsSteps (State.take_runs _ c h), fun m => (State.threads_take _ c h m).trans (keep.threads m)⟩
  · exact ⟨.after (s.dropAhead_keeps c.b).toKeepsSteps (State.take_runs _ c (s.fetch c st n k g [] f)),
      fun m => (State.threads_take _ c _ m).trans ((s.dropAhead_keeps c.b).threads m)⟩

/-! ## A normal step (R13) -/

theorem State.updRun_keeps (s : State) (b : Nat) (o : Owner) (f : UnitRun → UnitRun) : s.KeepsSteps (s.updRun b o f) :=
  .updBlock b (fun _ => rfl) fun _ => rfl

/-- The unit of the thread is the one that changes. -/
theorem State.threadOf_updRun {s : State} {b : Nat} {o : Owner} {t : Thread} {u : UnitRun} (f : UnitRun → UnitRun)
    (thread : (s.block b).threadOf o = some t) (unit : t.unit = some u) :
    ((s.updRun b o f).block b).threadOf o = some { t with unit := some (f u) } := by
  unfold State.updRun
  rw [State.block_updBlock_same, Block.threadOf_updThread _ o (fun t => { t with unit := t.unit.map f }) fun _ => rfl, thread,
    Option.map_some, unit]
  rfl

/-- The count of checked tiles is the collector's. -/
theorem State.KeepsSteps.counted {s u : State} (h : s.KeepsSteps u) (p : Prop) [Decidable p] : s.KeepsSteps
    (if p then { u with faults := { u.faults with counters := u.faults.counters.bump 5 } } else u) := by
  split
  · exact h.trans ⟨rfl, rfl, rfl, rfl, rfl, fun _ => rfl, fun _ => rfl⟩
  · exact h

theorem State.countTile_keeps (s : State) (c : Ctx) (st : Step) : s.KeepsSteps (s.countTile c st) := by
  unfold State.countTile
  dsimp only
  refine .trans ?_ (State.updRun_keeps _ _ _ _)
  apply State.KeepsSteps.counted
  exact .updBlock c.b (fun _ => rfl) fun _ => rfl

/-- What `openStep` answers: the unit's next step, with the unit and the state once the step's tile is counted. -/
theorem State.openStep_eq {s : State} {c : Ctx} {i : Nat} {st : Step} (next : (c.walk i)[c.startedOf i]? = some st) :
    let r := if st.first && (c.op i).isMultiplier then s.countTile c st else s
    ∀ c' st', r.ctx c.b c.o = some c' → (c'.walk i)[c'.startedOf i]? = some st' → s.openStep c i = some (st', c', r) := by
  intro r c' st' ctx next'
  unfold State.openStep
  rw [next]
  change (r.ctx c.b c.o).bind (fun c => ((c.walk i)[c.startedOf i]?).map fun st => (st, c, r)) = _
  rw [ctx, Option.bind_some, next']
  rfl

/-- A ready step of one operator starts, and is counted as started. -/
theorem State.startStep_runs {s : State} {c : Ctx} {i : Nat} {st : Step} (f : MemFindings)
    (next : (c.walk i)[c.startedOf i]? = some st) :
    let r := if st.first && (c.op i).isMultiplier then s.countTile c st else s
    ∀ c' st', r.ctx c.b c.o = some c' → (c'.walk i)[c'.startedOf i]? = some st' →
      s.Runs (s.startStep c i f) c.b c.o .normal st' c'.run.id ∧
        ∃ th x, ((s.startStep c i f).block c.b).threadOf c.o = some th ∧ th.unit = some x ∧
          Tab.get (fun _ => 0) x.started i = c'.startedOf i + 1 := by
  intro r c' st' ctx next'
  obtain ⟨block, owner, thread, unit⟩ := State.ctx_spec ctx
  have counted : s.KeepsSteps r := by
    dsimp only [r]
    split
    · exact s.countTile_keeps c st
    · exact State.KeepsThreads.refl.toKeepsSteps
  obtain ⟨runs, threads⟩ := r.takeOrFetch_runs c' st' (c'.startedOf i) .normal none f
  have start : s.startStep c i f = (r.takeOrFetch c' st' (c'.startedOf i) .normal none f).updRun c'.b c'.o fun u =>
      { u.beginGroups (stepGroups (c'.tensor i .out) st') (r.takeOrFetch c' st' (c'.startedOf i) .normal none f).time with
        started := Tab.set (fun _ => 0) u.started i (c'.startedOf i + 1) } := by
    unfold State.startStep
    rw [State.openStep_eq next c' st' ctx next']
  rw [block, owner] at start runs
  rw [start]
  refine ⟨.after counted (runs.and (State.updRun_keeps _ _ _ _)), ?_⟩
  have kept : ((r.takeOrFetch c' st' (c'.startedOf i) .normal none f).block c.b).threadOf c.o = some c'.thread := by
    unfold Block.threadOf at thread ⊢
    rwa [threads]
  exact ⟨_, _, State.threadOf_updRun _ kept unit, rfl, by dsimp only; rw [Tab.get_set_same]⟩

/-! ## The fetch ahead (R117) -/

/-- From `s` to `u` at most one step is fetched into block `b`'s queue of four. -/
structure State.FetchesAhead (s u : State) (b : Nat) : Prop where
  rest : u = { s with blocks := u.blocks, fresh := u.fresh }
  queue : ∃ l, u.block b = { s.block b with lookahead := (s.block b).lookahead ++ l } ∧ l.length ≤ 1 ∧
    (4 ≤ (s.block b).lookahead.length → l = [])
  others : ∀ n, n ≠ b → u.block n = s.block n

theorem State.FetchesAhead.none (s : State) (b : Nat) : s.FetchesAhead s b where
  rest := rfl
  queue := ⟨[], by rw [List.append_nil], Nat.zero_le _, fun _ => rfl⟩
  others _ _ := rfl

theorem State.FetchesAhead.enqueue (s : State) (b : Nat) (n : Nat) (x : Fetched) (room : ¬ 4 ≤ (s.block b).lookahead.length) :
    s.FetchesAhead (({ s with fresh := n } : State).enqueue b x) b where
  rest := rfl
  queue := ⟨[x], State.block_updBlock_same .., Nat.le_refl _, fun full => absurd full room⟩
  others _ h := State.block_updBlock_other _ _ _ _ h

theorem State.lookAhead_fetches (s : State) (b : Nat) (f : MemFindings) (store : f.store = false) :
    s.FetchesAhead (s.lookAhead b f) b := by
  unfold State.lookAhead
  dsimp only
  split
  · exact .none s b
  · next going =>
    have room : ¬ 4 ≤ (s.block b).lookahead.length := fun full => going (by simp [full])
    split
    · exact .enqueue s b s.fresh _ room
    · rw [if_neg (by simp [store])]
      split
      · exact .enqueue s b _ _ room
      · exact .none s b
    · exact .none s b

/-! ## STEP_START -/

theorem State.stepStart_idle {s : State} {b : Nat} (f : MemFindings) (fenced : (s.block b).fenced = false)
    (resetting : (s.block b).resetting = false) (testing : (s.block b).testing = false) (on : (s.domain b).isOn = true) :
    s.stepStart b f = if (s.block b).running.isSome then s.lookAhead b f else match s.choose b with
      | some (.checkReplay w) => s.startReplay b w .checkReplay
      | some (.referee y w) => s.startReplay b w (.refereeFor y)
      | some (.scale c k i st) => s.takeOrFetch c st i .scaleReplay (some k) f
      | some (.step c ops) =>
        if f.store then s.storeError c.thread.mapping else (s.pickStep c ops).2.startStep c (s.pickStep c ops).1 f
      | none => s := by
  unfold State.stepStart
  simp only [fenced, resetting, testing, on]
  rfl

/-- The one ready operator is the one taken. -/
theorem State.pickStep_one (s : State) (c : Ctx) (i : Nat) : s.pickStep c [i] = (i, s) := by
  unfold State.pickStep
  split
  · split
    · next match_ =>
      simp only [Bool.and_eq_true, List.contains_eq_mem, decide_eq_true_eq, List.mem_singleton] at match_
      rw [match_.2]
    · rfl
  · rfl

/-- An uncorrectable word of the mapping store. -/
theorem State.storeError_spec (s : State) (m b : Nat) : ((s.storeError m).mapping m).unusable = true ∧
    ((s.storeError m).block b).running = (s.block b).running := by
  unfold State.storeError
  have set : (s.setMapping m { s.mapping m with unusable := true }).mapping m = { s.mapping m with unusable := true } :=
    Tab.get_set_same ..
  refine ⟨?_, (State.KeepsThreads.fault (s := s.setMapping m _) _).running b⟩
  rw [State.mapping, State.mappings_fault]
  exact congrArg Mapping.unusable set

/-- Settles O23: each choice of R13 by how it starts, and the fetch ahead of a running step. -/
theorem stepsStart : Obligations.StepsStart := by
  intro s t b f ready fenced resetting testing on
  have run : ∀ u, (s.begin t).stepStart b f = u → exec (.stepStart t b f) s = .next u := fun u eq =>
    (whenReady_ready t (fun s => s.stepStart b f) s ready).trans (congrArg Host.Outcome.next eq)
  have idle := State.stepStart_idle (s := s.begin t) f fenced resetting testing on
  refine ⟨fun running store => ?_, fun running => ?_⟩
  · obtain ⟨rest, ⟨l, queue, one, full⟩, others⟩ := (s.begin t).lookAhead_fetches b f store
    exact ⟨_, l, run _ (idle.trans (if_pos running)), rest, queue, one, full, others⟩
  · have choice : (s.begin t).stepStart b f = _ := idle.trans (if_neg (by
      have none : ((s.begin t).block b).running = .none := running
      rw [none]
      decide))
    intro r runs
    have runs_of : ∀ {u : State} {o k st id}, r.Runs u b o k st id → runs u o k st id := fun g => by
      obtain ⟨w, is, owner, kind, step, unit, start⟩ := g.running
      exact ⟨w, is, owner, kind, step, unit, start, g.steps, g.others, g.mem, g.spad, g.pool, g.channels⟩
    refine ⟨fun w chosen => ?_, fun y w chosen => ?_, fun c k i st chosen => ?_, fun c ops chosen store => ?_,
      fun c i st chosen store next => ?_⟩
    all_goals rw [chosen] at choice
    · exact ⟨_, run _ choice, runs_of (State.startReplay_runs ..)⟩
    · exact ⟨_, run _ choice, runs_of (State.startReplay_runs ..)⟩
    · have block := State.choose_scale chosen
      have started := (r.takeOrFetch_runs c st i .scaleReplay (some k) f).1
      rw [block] at started
      exact ⟨_, run _ choice, runs_of started⟩
    · obtain ⟨unusable, same⟩ := r.storeError_spec c.thread.mapping b
      exact ⟨_, run _ (choice.trans (if_pos store)), unusable, same.trans running⟩
    · intro r' c' st' ctx next'
      obtain ⟨started, thread⟩ := State.startStep_runs f next c' st' ctx next'
      have block := State.choose_step chosen
      rw [block] at started thread
      refine ⟨_, run _ (choice.trans ((if_neg (by simp [store])).trans ?_)), runs_of started, thread⟩
      rw [State.pickStep_one]

end Sys2Proof.Machine
end

section
/-!
PROOFS. O24: STEP_END and GROUP_RETIRE. How a sum enters an accumulator and a finished element takes its value, what emission and
retirement may touch, and the comparison of a checked step.
-/

namespace Sys2Proof.Machine

open Sys2Proof

/-! ## Accumulators (R98, R99) -/

theorem Block.accOf_setAcc (x : Block) (o p : Owner) (e d : Elem) (v : Isauri40) :
    (x.setAcc o e v).accOf p d = if (p, d) = (o, e) then some v else x.accOf p d := by
  unfold Block.accOf Block.setAcc
  dsimp only
  rw [List.find?_append, List.find?_filter]
  by_cases h : (p, d) = (o, e)
  · have none : x.acc.find? (fun a => decide ((a.1 != (o, e)) = true ∧ (a.1 == (p, d)) = true)) = none := by
      rw [List.find?_eq_none]
      intro a _
      by_cases ha : a.1 = (o, e) <;> simp [h, ha]
    rw [if_pos h, none]
    simp [h]
  · have same : (fun a : (Owner × Elem) × Isauri40 => decide ((a.1 != (o, e)) = true ∧ (a.1 == (p, d)) = true)) = fun a => a.1 == (p, d) := by
      funext a
      by_cases ha : a.1 = (p, d)
      · simp [ha, h]
      · simp [ha]
    have last : [((o, e), v)].find? (fun a => a.1 == (p, d)) = none := by
      simp [Ne.symm h]
    rw [if_neg h, same, last, Option.or_none]

theorem Block.accOf_putSum (x : Block) (o p : Owner) (e d : Elem) (r : Isauri40 × Bool) :
    (x.putSum o e r).accOf p d = if (p, d) = (o, e) then some r.1 else x.accOf p d :=
  x.accOf_setAcc o p e d r.1

/-- Operator `i` of a unit is a MATMUL or a CONV, and its elements are its own. -/
def Ctx.Plain (c : Ctx) (i : Nat) : Prop := ((c.op i).isMatmul || (c.op i).isConv) = true ∧ i < 65536

namespace Ctx.Plain
variable {c : Ctx} {i : Nat} (h : c.Plain i)
include h

theorem kind : (c.op i).kind = 0 ∨ (c.op i).kind = 1 := by
  simpa [ImgOp.isMatmul, ImgOp.isConv] using h.1

/-- A sum is added to what its element holds, or to its bias. -/
theorem addSum (x : Block) {a : Elem × Int × Int} (op : a.1.op = i) : c.addSum x a =
    x.putSum c.o a.1 (addI40 ((x.accOf c.o a.1).getD (c.startValue a.1)) a.2.1 a.2.2) := by
  have same : a.1.opOf = i := by rw [Elem.opOf, op, Nat.mod_eq_of_lt h.2]
  unfold Ctx.addSum
  dsimp only
  rw [same]
  obtain kind | kind := h.kind <;> simp [ImgOp.isPoolMax, ImgOp.isS2D, ImgOp.isD2S, kind]

theorem not_isWino : (c.op i).isWino = false := by
  obtain kind | kind := h.kind <;> simp [ImgOp.isWino, kind]

/-- A finished element keeps what it holds; one that holds nothing takes its bias. -/
theorem finalValue (x : Block) {e : Elem} (op : e.op = i) :
    (c.finalValue x e).1 = (x.accOf c.o e).getD (c.startValue e) := by
  unfold Ctx.finalValue
  dsimp only
  rw [op]
  obtain kind | kind := h.kind <;> simp [ImgOp.isPoolAvg, ImgOp.isWino, kind]

end Ctx.Plain

section
variable {c : Ctx} {i : Nat} (h : c.Plain i)
include h

/-- An element that no sum is for keeps its accumulator. -/
theorem Ctx.Plain.accOf_addSums_other (p : Owner) (e : Elem) (l : List (Elem × Int × Int)) (ops : ∀ a ∈ l, a.1.op = i)
    (other : p ≠ c.o ∨ ∀ a ∈ l, a.1 ≠ e) (x : Block) : (l.foldl c.addSum x).accOf p e = x.accOf p e := by
  induction l generalizing x with
  | nil => rfl
  | cons a l ih =>
    obtain ⟨op, rest⟩ := List.forall_mem_cons.1 ops
    refine (ih rest (other.imp_right fun ne => (List.forall_mem_cons.1 ne).2) _).trans ?_
    rw [h.addSum x op, Block.accOf_putSum, if_neg]
    rintro ⟨⟩
    obtain ne | ne := other
    · exact ne rfl
    · exact (List.forall_mem_cons.1 ne).1 rfl

/-- An element that one sum is for holds its sum with what it held, or with its bias. -/
theorem Ctx.Plain.accOf_addSums_one {e : Elem} {n k : Int} (l : List (Elem × Int × Int)) (ops : ∀ a ∈ l, a.1.op = i)
    (one : (l.filter fun a => a.1 == e) = [(e, n, k)]) (x : Block) : (l.foldl c.addSum x).accOf c.o e =
      some (addI40 ((x.accOf c.o e).getD (c.startValue e)) n k).1 := by
  induction l generalizing x with
  | nil => simp at one
  | cons a l ih =>
    obtain ⟨op, rest⟩ := List.forall_mem_cons.1 ops
    rw [List.filter_cons] at one
    split at one
    · next is =>
      obtain ⟨rfl, empty⟩ := List.cons.inj one
      have none : ∀ b ∈ l, b.1 ≠ e := by simpa using empty
      refine (h.accOf_addSums_other c.o e l rest (.inr none) _).trans ?_
      rw [h.addSum x op, Block.accOf_putSum, if_pos rfl]
    · next isnt =>
      refine (ih rest one _).trans ?_
      have ne : (c.o, e) ≠ (c.o, a.1) := by
        rintro ⟨⟩
        exact isnt (beq_self_eq_true _)
      rw [h.addSum x op, Block.accOf_putSum, if_neg ne]

/-- Finished elements take their values, and the others keep theirs. -/
theorem Ctx.Plain.accOf_finishElems (p : Owner) (e : Elem) (es : List Elem) (ops : ∀ d ∈ es, d.op = i) (x : Block) :
    (c.finishElems x es).accOf p e = if p = c.o ∧ e ∈ es then some ((x.accOf c.o e).getD (c.startValue e)) else x.accOf p e := by
  have plain : (es.any fun d => (c.op d.op).isWino) = false := by
    rw [List.any_eq_false]
    intro d hd
    rw [ops d hd, h.not_isWino]
    decide
  have fold : ∀ (l : List Elem) (y : Block), (∀ d ∈ l, d.op = i) →
      (l.foldl (fun y d => y.putSum c.o d (c.finalValue x d)) y).accOf p e =
        if p = c.o ∧ e ∈ l then some ((x.accOf c.o e).getD (c.startValue e)) else y.accOf p e := by
    intro l
    induction l with
    | nil => intro y _; simp
    | cons d l ih =>
      intro y ops
      obtain ⟨op, rest⟩ := List.forall_mem_cons.1 ops
      rw [List.foldl_cons, ih _ rest, Block.accOf_putSum, h.finalValue x op]
      by_cases hl : p = c.o ∧ e ∈ l
      · rw [if_pos hl, if_pos ⟨hl.1, List.mem_cons_of_mem _ hl.2⟩]
      · rw [if_neg hl]
        by_cases hd : (p, e) = (c.o, d)
        · obtain ⟨rfl, rfl⟩ := Prod.mk.inj hd
          rw [if_pos rfl, if_pos ⟨rfl, List.mem_cons_self⟩]
        · rw [if_neg hd, if_neg]
          rintro ⟨owner, mem⟩
          obtain rfl | mem := List.mem_cons.1 mem
          · exact hd (by rw [owner])
          · exact hl ⟨owner, mem⟩
  unfold Ctx.finishElems
  dsimp only
  rw [plain]
  exact fold es x ops
end

/-! ## Elements of a walk -/

theorem op_of_mem_tileSteps {o : ImgOp} {i k : Nat} {t : Tile0} {st : Step} (h : st ∈ tileSteps o i k t) : st.op = i := by
  unfold tileSteps at h
  dsimp only at h
  split at h
  · obtain ⟨n, -, rfl⟩ := List.mem_mapIdx.1 h; rfl
  · split at h <;> (obtain ⟨n, -, rfl⟩ := List.mem_mapIdx.1 h; rfl)

/-- The steps of an operator's walk are its own, -/
theorem Ctx.op_of_mem_walk {c : Ctx} {i : Nat} {st : Step} (h : st ∈ c.walk i) : st.op = i := by
  obtain ⟨t, -, mem⟩ := List.mem_flatMap.1 h
  exact op_of_mem_tileSteps mem

theorem op_of_mem_stepElems {st : Step} {e : Elem} (h : e ∈ stepElems st) : e.op = st.op := by
  unfold stepElems at h
  simp only [List.mem_flatMap, List.mem_map] at h
  obtain ⟨_, _, _, _, _, _, _, _, rfl⟩ := h
  rfl

/-- and so are the elements that its steps complete. -/
theorem Ctx.op_of_mem_completedBy {c : Ctx} {i n : Nat} {e : Elem} (h : e ∈ completedBy (c.walk i) n) : e.op = i := by
  unfold completedBy at h
  split at h
  · next st step =>
    rw [op_of_mem_stepElems (List.mem_filter.1 h).1, Ctx.op_of_mem_walk (List.mem_of_getElem? step)]
  · exact absurd h List.not_mem_nil

/-! ## What is written beside the accumulators -/

theorem State.writeSpad_eq (s : State) (b a : Nat) (d : List Byte) (p : Bool) : s.writeSpad b a d p =
    { s with spad := (s.writeSpad b a d p).spad, spadPoison := (s.writeSpad b a d p).spadPoison } :=
  forEach_frame (fun s u : State => { s with spad := u.spad, spadPoison := u.spadPoison }) (fun _ _ _ => rfl) (fun _ => rfl)
    (fun _ _ => rfl) _ s

theorem State.consumePoison_eq (s : State) (o : Owner) (id : BitVec 32 × Nat) (c : BitVec 16) : s.consumePoison o id c =
    { s with pipes := (s.consumePoison o id c).pipes, jobs := (s.consumePoison o id c).jobs } := by
  unfold State.consumePoison
  cases o with
  | job k => rfl
  | pipeline p =>
    dsimp only
    split
    · split <;> rfl
    · rfl

/-! ## Emission (R102, R103, R106, R107) -/

/-- The last code of a group has been emitted: it is judged, or, in ONLINE mode, ready to retire. -/
def State.closeGroup (s : State) (b : Nat) (o : Owner) (c : Ctx) (k : GroupKey) (g : Group) : State :=
  if (c.op k.op).carried then (s.updBlock b fun x => x.countArith 1 1).judge c g
  else
    let s := s.updBlock b fun x => x.countArith 0 1
    let s := if g.poisoned then s.poisonOut c else s
    (s.updGroup b o k fun g => { g with emitted := some s.time }).writeEntry c k g.entry

/-- The codes of elements under the shift of their group, and whether they clip. -/
def State.codesOf (s : State) (c : Ctx) (k : GroupKey) (g : Group) (es : List Elem) : List (Elem × Nat × Bool) :=
  es.map fun e => (e, s.codeOf c (if (c.op k.op).carried then g.carried.getD 0 else g.measured.getD 0) e)
def State.codesTo (s : State) (c : Ctx) (k : GroupKey) (g : Group) (es : List Elem) : List (Elem × Nat) :=
  (s.codesOf c k g es).map fun y => (y.1, y.2.1)

/-- A group once they are sent. -/
def State.sentGroup (s : State) (c : Ctx) (k : GroupKey) (g : Group) (es : List Elem) : Group :=
  { g with sent := g.sent ++ es, clipped := g.clipped + ((s.codesOf c k g es).filter fun y => y.2.2).length }

/-- A group sends the codes of some elements. -/
def State.sendCodes (s : State) (b : Nat) (o : Owner) (c : Ctx) (k : GroupKey) (g : Group) (es : List Elem) : State :=
  let u := (s.writeCodes c k.op (s.codesTo c k g es)).updGroup b o k fun _ => s.sentGroup c k g es
  if !(c.groupElems k).all (s.sentGroup c k g es).sent.contains then u else u.closeGroup b o c k (s.sentGroup c k g es)

/-- Emission: buffers are reserved, and what has a place is sent. -/
theorem State.emitGroup_eq (s : State) (b : Nat) (o : Owner) (k : GroupKey) : s.emitGroup b o k =
    match s.ctx b o with
    | some c => match c.group k with
      | some g =>
        if g.retired || g.replaying || g.emitted.isSome then s else
          let u := forEach (c.toSend g) (fun e s => s.reserveTile b o e) s
          match u.ctx b o with
          | some c =>
            let ready := (c.toSend g).filter fun e => (u.outPlace c e).isSome
            if ready.isEmpty then u else u.sendCodes b o c k (u.emitShift c g) ready
          | none => u
      | none => s
    | none => s := rfl

/-- From `s` to `u` no accumulator and no running step of block `b` changes, and nothing of another block. -/
structure State.Emits (b : Nat) (s u : State) : Prop where
  acc : (u.block b).acc = (s.block b).acc
  running : (u.block b).running = (s.block b).running
  others : ∀ n, n ≠ b → u.block n = s.block n

namespace State.Emits
variable {b : Nat} {s u v : State}

theorem refl : State.Emits b s s := ⟨rfl, rfl, fun _ _ => rfl⟩

theorem trans (h : State.Emits b s u) (g : State.Emits b u v) : State.Emits b s v :=
  ⟨g.acc.trans h.acc, g.running.trans h.running, fun n hn => (g.others n hn).trans (h.others n hn)⟩

/-- Whatever leaves the blocks. -/
theorem of_blocks (same : u.blocks = s.blocks) : State.Emits b s u := by
  have block : ∀ n, u.block n = s.block n := fun n => congrArg (Tab.get (fun _ => Block.reset) · n) same
  exact ⟨congrArg _ (block b), congrArg _ (block b), fun n _ => block n⟩

theorem ite (p : Prop) [Decidable p] (h : State.Emits b s u) (g : State.Emits b s v) : State.Emits b s (if p then u else v) := by
  split
  · exact h
  · exact g

theorem updBlock {f : Block → Block} (acc : ∀ x, (f x).acc = x.acc) (running : ∀ x, (f x).running = x.running) :
    State.Emits b s (s.updBlock b f) where
  acc := s.updBlock_field b Block.acc acc b
  running := s.updBlock_field b Block.running running b
  others _ hn := State.block_updBlock_other _ _ _ _ hn

theorem updRun (o : Owner) (f : UnitRun → UnitRun) : State.Emits b s (s.updRun b o f) := .updBlock (fun _ => rfl) fun _ => rfl

theorem updGroup (o : Owner) (k : GroupKey) (f : Group → Group) : State.Emits b s (s.updGroup b o k f) := .updRun o _

theorem reserveTile (o : Owner) (e : Elem) : State.Emits b s (s.reserveTile b o e) := by
  unfold State.reserveTile
  split
  · next c ctx =>
    obtain ⟨rfl, -⟩ := State.ctx_spec ctx
    split
    · split
      · split
        · exact .refl
        · split
          · exact .updRun _ _
          · exact .refl
      · exact .refl
    · exact .refl
  · exact .refl

theorem writeSpad (n a : Nat) (d : List Byte) (p : Bool) : State.Emits b s (s.writeSpad n a d p) :=
  .of_blocks (congrArg State.blocks (s.writeSpad_eq n a d p) :)

theorem writeCodes (c : Ctx) (i : Nat) (codes : List (Elem × Nat)) : State.Emits b s (s.writeCodes c i codes) := by
  unfold State.writeCodes
  refine forEach_keeps (State.Emits b s) _ (fun g u h => h.trans ?_) _ s .refl
  unfold State.writeGranuleCodes
  dsimp only
  split
  · exact .writeSpad _ _ _ _
  · exact .refl

theorem writeEntry (c : Ctx) (k : GroupKey) (e : Byte) : State.Emits b s (s.writeEntry c k e) := by
  unfold State.writeEntry
  split
  · exact .writeSpad _ _ _ _
  · exact .refl

theorem poisonOut (c : Ctx) : State.Emits b s (s.poisonOut c) := by
  unfold State.poisonOut
  split
  · exact .of_blocks (congrArg State.blocks (s.consumePoison_eq c.o c.run.id Code.poisonConsumed) :)
  · exact .refl

theorem declineReplay {c : Ctx} (block : c.b = b) : State.Emits b s (s.declineReplay c) := by
  subst block
  have counted : State.Emits c.b s (s.updBlock c.b fun x => x.countArith 4 1) := .updBlock (fun _ => rfl) fun _ => rfl
  unfold State.declineReplay
  dsimp only
  split
  · exact counted.trans (.of_blocks rfl)
  · exact counted

theorem judge {c : Ctx} (block : c.b = b) (g : Group) : State.Emits b s (s.judge c g) := by
  have carried : State.Emits b s (s.carryOn c g.key (s.measure c g.key).1) := by
    unfold State.carryOn
    rw [block]
    exact .updBlock (fun _ => rfl) fun _ => rfl
  have judged : ∀ f, State.Emits b s ((s.carryOn c g.key (s.measure c g.key).1).updGroup c.b c.o g.key f) := by
    rw [block]
    exact fun f => carried.trans (.updGroup c.o g.key f)
  unfold State.judge
  dsimp only
  refine .ite _ (.trans ?_ (.declineReplay block)) ?_
  all_goals exact .ite _ ((judged _).trans (.poisonOut c)) (judged _)

theorem closeGroup {c : Ctx} (block : c.b = b) (o : Owner) (k : GroupKey) (g : Group) :
    State.Emits b s (s.closeGroup b o c k g) := by
  have counted : ∀ w, State.Emits b s (s.updBlock b fun x => x.countArith w 1) := fun w => .updBlock (fun _ => rfl) fun _ => rfl
  have poisoned : State.Emits b s (if g.poisoned then (s.updBlock b fun x => x.countArith 0 1).poisonOut c
      else s.updBlock b fun x => x.countArith 0 1) := .ite _ ((counted 0).trans (.poisonOut c)) (counted 0)
  unfold State.closeGroup
  exact .ite _ ((counted 1).trans (.judge block g)) (poisoned.trans (.trans (.updGroup o k _) (.writeEntry c k _)))

theorem sendCodes {c : Ctx} (block : c.b = b) (o : Owner) (k : GroupKey) (g : Group) (es : List Elem) :
    State.Emits b s (s.sendCodes b o c k g es) := by
  have written : ∀ f, State.Emits b s ((s.writeCodes c k.op (s.codesTo c k g es)).updGroup b o k f) := fun f =>
    (Emits.writeCodes c k.op _).trans (.updGroup o k f)
  unfold State.sendCodes
  exact .ite _ (written _) ((written _).trans (.closeGroup block o k _))

theorem emitGroup (o : Owner) (k : GroupKey) : State.Emits b s (s.emitGroup b o k) := by
  rw [State.emitGroup_eq]
  split
  · split
    · refine .ite _ .refl ?_
      have reserved : ∀ es, State.Emits b s (forEach es (fun e s => s.reserveTile b o e) s) := fun es =>
        forEach_keeps (State.Emits b s) _ (fun e u h => h.trans (.reserveTile o e)) _ s .refl
      dsimp only
      split
      · next c ctx =>
        exact .ite _ (reserved _) ((reserved _).trans (.sendCodes (State.ctx_spec ctx).1 o k _ _))
      · exact reserved _
    · exact .refl
  · exact .refl

theorem emitOp (o : Owner) (i : Nat) : State.Emits b s (s.emitOp b o i) := by
  unfold State.emitOp
  split
  · exact forEach_keeps (State.Emits b s) _ (fun k u h => h.trans (.emitGroup o k)) _ s .refl
  · exact .refl

end State.Emits

/-! ## What enters when a step ends -/

/-- A fold keeps of a block what each of its steps keeps. -/
theorem Block.foldl_field {α β : Type} (g : Block → β) {f : Block → α → Block} (keep : ∀ x a, g (f x a) = g x) (l : List α)
    (x : Block) : g (l.foldl f x) = g x := by
  induction l generalizing x with
  | nil => rfl
  | cons a l ih => exact (ih _).trans (keep x a)

theorem Block.accOf_congr {x y : Block} (same : x.acc = y.acc) (o : Owner) (e : Elem) : x.accOf o e = y.accOf o e := by
  unfold Block.accOf
  rw [same]

theorem Ctx.running_addSum (c : Ctx) (x : Block) (a : Elem × Int × Int) : (c.addSum x a).running = x.running := by
  unfold Ctx.addSum
  dsimp only
  split
  · split <;> rfl
  · split <;> rfl

theorem Ctx.running_finishElems (c : Ctx) (x : Block) (es : List Elem) : (c.finishElems x es).running = x.running := by
  have fold : (es.foldl (fun y e => y.putSum c.o e (c.finalValue x e)) x).running = x.running :=
    Block.foldl_field Block.running (f := fun y e => y.putSum c.o e (c.finalValue x e)) (fun _ _ => rfl) es x
  unfold Ctx.finishElems
  dsimp only
  split
  · exact fold
  · exact fold

/-- The block once the sums of a step have entered it. -/
def Ctx.entered (c : Ctx) (w : Running) (x : Block) : Block :=
  w.tally.foldl (fun x a => x.countWindow a.1 a.2)
    (c.finishElems (w.sums.foldl c.addSum x) (completedBy (c.walk w.step.op) w.index))

theorem Ctx.running_entered (c : Ctx) (w : Running) (x : Block) : (c.entered w x).running = x.running := by
  unfold Ctx.entered
  refine (Block.foldl_field Block.running (f := fun (x : Block) (a : Nat × Nat) => x.countWindow a.1 a.2) (fun _ _ => rfl) _ _).trans ?_
  rw [c.running_finishElems]
  exact Block.foldl_field Block.running c.running_addSum _ x

theorem State.enterSums_clean {s : State} {w : Running} (c : Ctx) (group : w.group = none) (clean : w.poisoned = false) :
    s.enterSums c w false = s.updBlock c.b (c.entered w) := by
  unfold State.enterSums
  rw [group, clean]
  simp only [List.filter_true]
  rfl

section
variable {c : Ctx} {w : Running} (h : c.Plain w.step.op)
include h

/-- What an element holds after that. -/
theorem Ctx.Plain.accOf_entered (p : Owner) (e : Elem) (x : Block) : (c.entered w x).accOf p e =
    if p = c.o ∧ e ∈ completedBy (c.walk w.step.op) w.index then
      some (((w.sums.foldl c.addSum x).accOf c.o e).getD (c.startValue e))
    else (w.sums.foldl c.addSum x).accOf p e := by
  unfold Ctx.entered
  rw [Block.accOf_congr (Block.foldl_field Block.acc (f := fun (x : Block) (a : Nat × Nat) => x.countWindow a.1 a.2) (fun _ _ => rfl) _ _)]
  exact h.accOf_finishElems p e _ (fun _ hd => Ctx.op_of_mem_completedBy hd) _

variable (ops : ∀ a ∈ w.sums, a.1.op = w.step.op)
include ops

theorem Ctx.Plain.accOf_entered_one {e : Elem} {n k : Int} (one : (w.sums.filter fun a => a.1 == e) = [(e, n, k)]) (x : Block) :
    (c.entered w x).accOf c.o e = some (addI40 ((x.accOf c.o e).getD (c.startValue e)) n k).1 := by
  rw [h.accOf_entered, h.accOf_addSums_one _ ops one]
  split <;> rfl

theorem Ctx.Plain.accOf_entered_other {p : Owner} {e : Elem} (other : p ≠ c.o ∨ e.op ≠ w.step.op) (x : Block) :
    (c.entered w x).accOf p e = x.accOf p e := by
  rw [h.accOf_entered, if_neg, h.accOf_addSums_other p e _ ops]
  · exact other.imp_right fun ne a ha eq => ne (eq ▸ ops a ha)
  · rintro ⟨owner, mem⟩
    exact other.elim (fun ne => ne owner) fun ne => ne (Ctx.op_of_mem_completedBy mem)

theorem Ctx.Plain.accOf_entered_none {e : Elem} (none : (w.sums.all fun a => a.1 != e) = true) (x : Block) :
    ((c.entered w x).accOf c.o e).getD (c.startValue e) = (x.accOf c.o e).getD (c.startValue e) ∧
      (e ∉ completedBy (c.walk w.step.op) w.index → (c.entered w x).accOf c.o e = x.accOf c.o e) := by
  have apart : ∀ a ∈ w.sums, a.1 ≠ e := by simpa using none
  rw [h.accOf_entered, h.accOf_addSums_other c.o e _ ops (.inr apart)]
  refine ⟨?_, fun out => if_neg fun mem => out mem.2⟩
  split <;> rfl
end

/-! ## STEP_END -/

/-- The block when its step has had its cycles. -/
def State.ended (s : State) (b : Nat) (w : Running) : State := (s.noteBusy b w).updBlock b fun x => { x with running := none }

theorem State.block_ended (s : State) (b : Nat) (w : Running) : ∃ t, (s.ended b w).block b = { s.block b with busy := t, running := none } := by
  unfold State.ended State.noteBusy
  exact ⟨_, by rw [State.block_updBlock_same, State.block_updBlock_same]⟩

theorem State.block_ended_other (s : State) {b n : Nat} (w : Running) (h : n ≠ b) : (s.ended b w).block n = s.block n :=
  (State.block_updBlock_other _ _ _ _ h).trans (State.block_updBlock_other _ _ _ _ h)

theorem State.ctx_ended (s : State) (b : Nat) (w : Running) (n : Nat) (o : Owner) : (s.ended b w).ctx n o = s.ctx n o := by
  have threads : ((s.ended b w).block n).threadOf o = (s.block n).threadOf o := by
    by_cases h : n = b
    · subst h
      obtain ⟨t, eq⟩ := s.block_ended n w
      rw [eq]
      rfl
    · rw [s.block_ended_other w h]
  unfold State.ctx
  rw [threads]
  rfl

theorem State.stepEnd_early {s : State} {b : Nat} {w : Running} (f : StepFinding) (running : (s.block b).running = some w)
    (early : w.isOver s.now = false) : s.stepEnd b f = s := by
  unfold State.stepEnd
  rw [running]
  exact if_pos (by simp [early])

theorem State.stepEnd_own {s : State} {b : Nat} {w : Running} (f : StepFinding) (running : (s.block b).running = some w)
    (ended : w.isOver s.now = true) (kind : w.kind = .normal) : s.stepEnd b f = (s.ended b w).endOwn b w f := by
  unfold State.stepEnd
  rw [running]
  simp only [ended, kind]
  rfl

/-- A clean step of the walk whose unit is still there. -/
theorem State.endOwn_clean {s : State} {b : Nat} {w : Running} {c : Ctx} (ctx : s.ctx b w.owner = some c) (unit : c.run.id = w.unit)
    (group : w.group = none) : s.endOwn b w .clean = s.finishNormal c w false := by
  change s.finishStep b w false = _
  unfold State.finishStep
  rw [ctx]
  simp only [unit, group, bne_self_eq_false]
  rfl

/-- Its sums enter, and what it completes is emitted. -/
theorem State.finishNormal_emits {s : State} {w : Running} (c : Ctx) (group : w.group = none) (clean : w.poisoned = false) :
    State.Emits c.b (s.updBlock c.b (c.entered w)) (s.finishNormal c w false) := by
  unfold State.finishNormal
  dsimp only
  rw [State.enterSums_clean c group clean]
  exact .trans (.updRun c.o _) (.emitOp c.o _)

/-- A step whose comparison fails. -/
theorem State.endOwn_fails {s : State} {b : Nat} {w : Running} {es : List LaneError} {cells : BitVec 16} {tree : Bool}
    (checked : w.checked = true) (fails : w.compare es = some (cells, tree)) :
    s.endOwn b w (.lanes es) = s.oweReplay b w (w.sumsUnder es) cells tree := by
  unfold State.endOwn
  dsimp only
  rw [fails, checked]
  rfl

theorem State.takeCapture_eq (s : State) (b : Nat) (w : Running) :
    (s.takeCapture b w).2 = { s with faults := (s.takeCapture b w).2.faults } := by
  unfold State.takeCapture
  dsimp only
  split
  · rfl
  · split <;> rfl

/-- The replay that is then owed. -/
theorem State.oweReplay_spec (s : State) (b : Nat) (w : Running) (sums : List (Elem × Int × Int)) (cells : BitVec 16) (tree : Bool) :
    ∃ ow, (s.oweReplay b w sums cells tree).block b = { s.block b with owed := some ow } ∧
      ow.run = w ∧ ow.referee = false ∧ ow.cells = cells ∧ ow.tree = tree ∧
      (s.oweReplay b w sums cells tree).spad = s.spad ∧ (s.oweReplay b w sums cells tree).mem = s.mem ∧
      (s.oweReplay b w sums cells tree).pipes = s.pipes := by
  unfold State.oweReplay
  dsimp only
  rw [State.takeCapture_eq]
  exact ⟨_, State.block_updBlock_same .., rfl, rfl, rfl, rfl, rfl, rfl, rfl⟩

/-! ## The comparison of a checked step (R368) -/

/-- A single error that is no multiple of 31 fails it. -/
theorem Running.compare_single (w : Running) {e : LaneError} (off : e.off.emod 31 ≠ 0) : (w.compare [e]).isSome = true := by
  have diff : (laneDiff w.r [e]).emod 31 ≠ 0 := by
    have nonzero : e.off % 31 ≠ 0 := off
    change laneDiff w.r [e] % 31 ≠ 0
    unfold laneDiff
    simp only [List.map_cons, List.map_nil, List.sum_cons, List.sum_nil, add_zero]
    split <;> omega
  have block : ((List.finRange 16).any fun n =>
      (laneDiff w.r ([e].filter fun x => x.col == n && true)).emod 31 != 0) = true := by
    refine List.any_eq_true.2 ⟨e.col, List.mem_finRange _, ?_⟩
    simpa using diff
  unfold Running.compare
  dsimp only
  rw [if_neg]
  · rfl
  · rw [block]
    simp

/-! ## What a retirement may touch (R107, R108, R154) -/

theorem State.updStripe_eq (s : State) (q : Nat) (f : BitVec 32) (i : Nat) (g : Stripe → Stripe) :
    s.updStripe q f i g = { s with pipes := (s.updStripe q f i g).pipes } := rfl

/-- A stripe that becomes final as NEURAL makes no record. -/
theorem State.makeFinal_neural_eq (s : State) (q : Fin 24) (f : BitVec 32) (i : Nat) :
    s.makeFinal q f i .neural = { s with pipes := (s.makeFinal q f i .neural).pipes } := by
  unfold State.makeFinal
  split
  · dsimp only
    rw [if_neg fun h => h.1 rfl, if_pos (.inl rfl)]
    split <;> rfl
  · rfl

theorem State.finalIfComplete_eq (s : State) (q : Fin 24) (f : BitVec 32) (i : Nat) :
    s.finalIfComplete q f i = { s with pipes := (s.finalIfComplete q f i).pipes } := by
  unfold State.finalIfComplete
  split
  · split
    · exact s.makeFinal_neural_eq q f i
    · rfl
  · rfl

/-- From `s` to `u` no count of ARITH_COUNTERS, no memory, no channel and no port changes. -/
structure State.KeepsArith (s u : State) : Prop where
  arith : ∀ n, (u.block n).arith = (s.block n).arith
  spad : u.spad = s.spad
  mem : u.mem = s.mem
  pool : u.pool = s.pool
  channels : u.channels = s.channels
  ports : u.ports = s.ports

namespace State.KeepsArith
variable {s u v : State}

theorem refl : s.KeepsArith s := ⟨fun _ => rfl, rfl, rfl, rfl, rfl, rfl⟩

theorem trans (h : s.KeepsArith u) (g : u.KeepsArith v) : s.KeepsArith v :=
  ⟨fun n => (g.arith n).trans (h.arith n), g.spad.trans h.spad, g.mem.trans h.mem, g.pool.trans h.pool,
    g.channels.trans h.channels, g.ports.trans h.ports⟩

theorem ite (p : Prop) [Decidable p] (h : s.KeepsArith u) (g : s.KeepsArith v) : s.KeepsArith (if p then u else v) := by
  split
  · exact h
  · exact g

theorem updBlock (b : Nat) {f : Block → Block} (arith : ∀ x, (f x).arith = x.arith) : s.KeepsArith (s.updBlock b f) :=
  ⟨s.updBlock_field b Block.arith arith, rfl, rfl, rfl, rfl, rfl⟩

/-- Whatever writes pipelines alone. -/
theorem of_pipes (only : u = { s with pipes := u.pipes }) : s.KeepsArith u := by
  rw [only]
  exact ⟨fun _ => rfl, rfl, rfl, rfl, rfl, rfl⟩

theorem updGroup (b : Nat) (o : Owner) (k : GroupKey) (f : Group → Group) : s.KeepsArith (s.updGroup b o k f) := by
  unfold State.updGroup State.updRun
  exact .updBlock b fun _ => rfl

theorem finishUnit (b : Nat) (o : Owner) (id : BitVec 32 × Nat) : s.KeepsArith (s.finishUnit b o id) := by
  have left : s.KeepsArith (s.updBlock b fun x => (x.leave o id).closeUnit o id s.time) := by
    refine .updBlock b fun x => ?_
    unfold Block.closeUnit Block.leave
    dsimp only
    split <;> split <;> rfl
  unfold State.finishUnit
  dsimp only
  cases o with
  | job k => exact left
  | pipeline q =>
    exact left.trans (.trans (of_pipes (State.updStripe_eq ..)) (of_pipes (State.finalIfComplete_eq ..)))

theorem checkSegment (b : Nat) (o : Owner) : s.KeepsArith (s.checkSegment b o) := by
  unfold State.checkSegment
  split
  · refine .ite _ ?_ .refl
    unfold State.segmentDone
    split
    · split
      · exact .ite _ (.finishUnit b o _) (.updBlock b fun _ => rfl)
      · exact .refl
    · exact .refl
  · exact .refl

theorem releaseInputs (b : Nat) (o : Owner) : s.KeepsArith (s.releaseInputs b o) := by
  unfold State.releaseInputs
  split
  · exact .ite _ .refl (.updBlock b fun _ => rfl)
  · exact .refl

theorem outRowDone (c : Ctx) (k : GroupKey) : s.KeepsArith (s.outRowDone c k) := by
  unfold State.outRowDone
  exact .ite _ (.updBlock c.b fun _ => rfl) .refl

end State.KeepsArith

/-! ## GROUP_RETIRE -/

/-- A group has its shift entry written, if its operator's mode is CARRIED, and its elements go. -/
def State.counted (s : State) (b : Nat) (o : Owner) (c : Ctx) (k : GroupKey) (g : Group) : State :=
  (if (c.op k.op).carried then s.writeEntry c k g.entry else s).updBlock b fun x =>
    ((x.dropAcc o fun e => !e.isWino && c.inGroup k e).countArith 2 (if g.flat then 1 else 0)).countArith 5 g.clipped

theorem State.writeEntry_eq (s : State) (c : Ctx) (k : GroupKey) (e : Byte) : s.writeEntry c k e =
    { s with spad := (s.writeEntry c k e).spad, spadPoison := (s.writeEntry c k e).spadPoison } := by
  unfold State.writeEntry
  split
  · exact s.writeSpad_eq _ _ _ _
  · rfl

section
variable (s : State) (b : Nat) (o : Owner) (c : Ctx) (k : GroupKey) (g : Group)

/-- Of the state it writes block `b` and the scratchpad, and the latter in CARRIED mode alone. -/
theorem State.counted_eq : s.counted b o c k g =
    { s with blocks := (s.counted b o c k g).blocks, spad := (s.counted b o c k g).spad
             spadPoison := (s.counted b o c k g).spadPoison } := by
  unfold State.counted
  split
  · rw [State.writeEntry_eq]
    rfl
  · rfl

theorem State.spad_counted : (s.counted b o c k g).spad =
    if (c.op k.op).carried then (s.writeEntry c k g.entry).spad else s.spad := by
  unfold State.counted
  rw [State.spad_updBlock]
  exact apply_ite State.spad _ _ _

/-- The counts of a retired group. -/
theorem State.arith_counted : ((s.counted b o c k g).block b).arith =
    ((s.block b).arith.add 2 (if g.flat then 1 else 0)).add 5 g.clipped := by
  unfold State.counted
  rw [State.block_updBlock_same]
  split
  · rw [State.writeEntry_eq]
    rfl
  · rfl
end

/-- Two counts of two words: each word's own, and a count of nothing for the others. -/
theorem Counters.get_add_add (a : Counters) {v w : Nat} (apart : v ≠ w) (n k m : Nat) : ((a.add v n).add w k).get m =
    BitVec.ofNat 32 (min (2 ^ 32 - 1) ((a.get m).toNat + if m = v then n else if m = w then k else 0)) := by
  by_cases hv : m = v
  · subst hv
    rw [Counters.get_add_other _ _ _ _ apart, Counters.get_add_same, if_pos rfl]
  · rw [if_neg hv]
    by_cases hw : m = w
    · subst hw
      rw [Counters.get_add_same, Counters.get_add_other _ _ _ _ hv, if_pos rfl]
    · rw [Counters.get_add_other _ _ _ _ hw, Counters.get_add_other _ _ _ _ hv, if_neg hw, Nat.add_zero,
        Nat.min_eq_right (Nat.le_sub_one_of_lt (a.get m).isLt), BitVec.ofNat_toNat, BitVec.setWidth_eq]

/-- Its output row is done once every group of the row has retired. -/
def State.rowRetired (s : State) (b : Nat) (o : Owner) (k : GroupKey) : State :=
  match s.ctx b o with
  | some c => s.outRowDone c k
  | none => s

section
variable {s : State} {b : Nat} {o : Owner} {k : GroupKey} {c : Ctx} {g : Group} (ctx : s.ctx b o = some c)
  (group : c.group k = some g) (going : g.retired = false) (emitted : g.emitted.isSome = true) (owes : g.replaying = false)
include ctx group going emitted owes

theorem State.retire_eq : s.retire b o k = ((((s.counted b o c k g).updGroup b o k fun g =>
    { g with retired := true }).rowRetired b o k).releaseInputs b o).checkSegment b o := by
  have due : (g.retired || g.emitted.isNone || g.replaying) = false := by
    rw [going, owes]
    simpa using emitted
  unfold State.retire State.rowRetired State.counted
  rw [ctx]
  dsimp only
  rw [group]
  dsimp only
  exact if_neg (by rw [due]; exact Bool.false_ne_true)

theorem State.retire_keeps : (s.counted b o c k g).KeepsArith (s.retire b o k) := by
  have row : ∀ u : State, u.KeepsArith (u.rowRetired b o k) := fun u => by
    unfold State.rowRetired
    split
    · exact .outRowDone _ k
    · exact .refl
  rw [State.retire_eq ctx group going emitted owes]
  generalize hu : (s.counted b o c k g).updGroup b o k (fun g => { g with retired := true }) = u
  have marked : (s.counted b o c k g).KeepsArith u := hu ▸ .updGroup b o k _
  have released : u.KeepsArith ((u.rowRetired b o k).releaseInputs b o) := (row u).trans (.releaseInputs b o)
  exact marked.trans (released.trans (.checkSegment b o))
end

/-- The shift entry of a CARRIED group is one byte of the scratchpad, at its home. -/
theorem State.spad_writeEntry {s : State} {c : Ctx} {k : GroupKey} {a : Nat} (e : Byte)
    (home : s.homeEntry c (c.tensor k.op .out) k.fold k.cb k.row k.grp = some (.spad a)) :
    (s.writeEntry c k e).spad = s.spad.write (spadAddr c.b 0 + a) e := by
  unfold State.writeEntry
  rw [home]
  have whole : 64 - a % 64 = (63 - a % 64) + 1 := by omega
  have addr : spadAddr c.b (a / 64) + a % 64 = spadAddr c.b 0 + a := by
    unfold spadAddr
    omega
  have piece : pieces 1 a [e] = [(a / 64, a % 64, [e])] := by
    simp [pieces, whole]
  dsimp only
  unfold State.writeSpad
  rw [List.length_singleton, piece]
  change s.spad.put (spadAddr c.b (a / 64) + a % 64) [e] = _
  rw [addr]
  rfl

/-- Settles O24: a step's sums by what they make of its block, and a group by its counts and its entry. -/
theorem stepsEndAndGroupsRetire : Obligations.StepsEndAndGroupsRetire := by
  refine ⟨fun s t b f w ready running => ?ends, Running.compare_single, fun s t b o k c g ready fenced ctx group going emitted owes =>
    ?retires⟩
  case ends =>
    have run : ∀ f u, (s.begin t).stepEnd b f = u → exec (.stepEnd t b f) s = .next u := fun f u eq =>
      (whenReady_ready t (fun s => s.stepEnd b f) s ready).trans (congrArg Host.Outcome.next eq)
    obtain ⟨busy, block⟩ := (s.begin t).block_ended b w
    refine ⟨fun early => run f _ (State.stepEnd_early (s := s.begin t) f running early), fun ended => ⟨?clean, ?fails⟩⟩
    case clean =>
      intro c kind group clean ctx unit plain ops small
      obtain ⟨here, owner, -, -⟩ := State.ctx_spec ctx
      have finish := (State.stepEnd_own (s := s.begin t) .clean running ended kind).trans
        (State.endOwn_clean ((State.ctx_ended _ b w b _).trans ctx) unit group)
      have emits := State.finishNormal_emits (s := (s.begin t).ended b w) c group clean
      rw [here] at emits
      have entered : (((s.begin t).ended b w).updBlock b (c.entered w)).block b = c.entered w { s.block b with busy, running := none } := by
        rw [State.block_updBlock_same, block]
        rfl
      have acc : ∀ p e, ((((s.begin t).ended b w).finishNormal c w false).block b).accOf p e =
          (c.entered w { s.block b with busy, running := none }).accOf p e := fun p e =>
        (Block.accOf_congr emits.acc p e).trans (by rw [entered])
      have h : c.Plain w.step.op := ⟨plain, small⟩
      rw [← owner]
      refine ⟨_, run .clean _ finish, ?_, fun e n x one => ?_, fun p e other => ?_, fun e _ none => ?_, fun n hn => ?_⟩
      · rw [emits.running, entered, c.running_entered]
      · exact (acc _ _).trans (h.accOf_entered_one ops one _)
      · exact (acc _ _).trans (h.accOf_entered_other ops other _)
      · rw [acc]
        exact h.accOf_entered_none ops none _
      · exact (emits.others n hn).trans ((State.block_updBlock_other _ _ _ _ hn).trans (State.block_ended_other _ w hn))
    case fails =>
      intro es cells tree kind checked fails
      have finish := (State.stepEnd_own (s := s.begin t) (.lanes es) running ended kind).trans (State.endOwn_fails checked fails)
      obtain ⟨ow, owes, is, referee, hc, ht, spad, mem, pipes⟩ :=
        ((s.begin t).ended b w).oweReplay_spec b w (w.sumsUnder es) cells tree
      rw [block] at owes
      exact ⟨_, ow, run _ _ finish, by rw [owes], by rw [owes], is, referee, hc, ht, by rw [owes]; rfl, spad, mem, pipes⟩
  case retires =>
    have retire := State.retire_keeps (s := s.begin t) ctx group going emitted owes
    have here := (State.ctx_spec ctx).1
    have only := (s.begin t).counted_eq b o c k g
    have spad := (s.begin t).spad_counted b o c k g
    refine ⟨(s.begin t).retire b o k, ?_, fun m => ?_, fun a carried home => ?_, fun plain => ?_, ?_, ?_, ?_, ?_⟩
    · refine (whenReady_ready t (fun s => s.onlyIf (!(s.block b).fenced) fun s => s.retire b o k) s ready).trans
        (congrArg Host.Outcome.next ?_)
      have free : (!((s.begin t).block b).fenced) = true := by
        change (!(s.block b).fenced) = true
        rw [fenced]
        rfl
      rw [free, State.onlyIf_true]
    · rw [retire.arith, State.arith_counted]
      exact Counters.get_add_add _ (by decide) _ _ m
    · rw [retire.spad, spad, if_pos carried, State.spad_writeEntry _ home, here]
      exact ⟨Memory.read_write_same .., fun x hx => Memory.read_write_other _ _ hx⟩
    · rw [retire.spad, spad, plain]
      rfl
    · exact retire.mem.trans (congrArg State.mem only :)
    · exact retire.pool.trans (congrArg State.pool only :)
    · exact retire.channels.trans (congrArg State.channels only :)
    · exact retire.ports.trans (congrArg State.ports only :)

end Sys2Proof.Machine
end

section
/-!
PROOFS. O10: a started frame that ends. What the end makes of its pipeline and of its port, the fields of its flags word (Table 02-18),
and the five ways to that end.
-/

namespace Sys2Proof.Machine

open Sys2Proof

/-! ## The completion record (Table 09-3) -/

theorem length_leBytes (n v : Nat) : (leBytes n v).length = n := by
  induction n generalizing v with
  | zero => rfl
  | succ n ih => exact congrArg Nat.succ (ih (v / 256))

/-- The frame flags word stands at bytes 32 to 35. -/
theorem FrameJob.completion_flags (j : FrameJob) (q prov : Nat) (now : Time) :
    ((j.completion q prov now).drop 32).take 4 = leBytes 4 (j.flags.getD 0).toNat := by
  have head : ∀ a b c d e f g h w tail : List Byte,
      a.length + b.length + c.length + d.length + e.length + f.length + g.length + h.length = 32 → w.length = 4 →
      ((a ++ b ++ c ++ d ++ e ++ f ++ g ++ h ++ w ++ tail).drop 32).take 4 = w := by
    intro a b c d e f g h w tail before word
    rw [List.append_assoc _ w tail, List.drop_left' (by simp only [List.length_append]; omega), List.take_left' word]
  have cut := head (leBytes 4 j.frame.toNat) (leBytes 1 q) (leBytes 1 j.slot) (leBytes 1 j.recordFlags) (leBytes 1 1)
    (leBytes 8 j.startTime.toNat) (leBytes 8 (j.endTime.getD 0).toNat) (leBytes 8 now.toNat) (leBytes 4 (j.flags.getD 0).toNat)
  simp only [length_leBytes, Nat.reduceAdd, forall_const] at cut
  simpa only [FrameJob.completion, List.append_assoc] using cut _

/-! ## The frame flags word (Table 02-18) -/

/-- The flags of its low byte: SYNC_GLITCH, LINE_LONG, LINE_SHORT and FRAME_SHORT of the frame, and those that the cause sets. -/
def lowFlags (glitch long short whole : Bool) (k : EndCause) : Nat :=
  (flagAt 4 glitch + flagAt 3 long + flagAt 2 short + flagAt 0 (!whole)) ||| causeFlags k

theorem lowFlags_bits (glitch long short whole : Bool) (k : EndCause) :
    let x := lowFlags glitch long short whole k
    x < 64 ∧ x.testBit 5 = decide (k = .clockFault) ∧ x.testBit 4 = glitch ∧ x.testBit 3 = long ∧ x.testBit 2 = short ∧
      x.testBit 1 = decide (k = .cutLines ∨ k = .cutTime) ∧
      x.testBit 0 = (!whole || decide (k = .pclkStopped ∨ k = .clockFault)) := by
  cases k <;> revert glitch long short whole <;> decide

/-- The low byte of the flags word of a frame. -/
def PortFrame.lowFlags (f : PortFrame) (k : EndCause) : Nat :=
  Machine.lowFlags (f.glitches != 0) f.lineLong f.lineShort f.complete k

theorem PortFrame.flagsWord_eq (f : PortFrame) (k : EndCause) :
    f.flagsWord k = f.glitches.toNat * 2 ^ 16 + endCode k * 2 ^ 8 + f.lowFlags k := rfl

theorem endCode_lt (k : EndCause) : endCode k < 8 := by cases k <;> decide

/-- The word of a frame that ends under a cause. -/
def PortFrame.flags (f : PortFrame) (k : EndCause) : BitVec 32 := BitVec.ofNat 32 (f.flagsWord k)

theorem PortFrame.toNat_flags (f : PortFrame) (k : EndCause) :
    (f.flags k).toNat = f.glitches.toNat * 2 ^ 16 + endCode k * 2 ^ 8 + f.lowFlags k := by
  have low : f.lowFlags k < 64 := (lowFlags_bits ..).1
  have code := endCode_lt k
  have glitches := f.glitches.isLt
  rw [PortFrame.flags, BitVec.toNat_ofNat, PortFrame.flagsWord_eq]
  omega

theorem PortFrame.getLsbD_flags (f : PortFrame) (k : EndCause) {i : Nat} (hi : i < 6) :
    (f.flags k).getLsbD i = (f.lowFlags k).testBit i := by
  have split : (f.flags k).toNat = 2 ^ 8 * (f.glitches.toNat * 2 ^ 8 + endCode k) + f.lowFlags k := by
    rw [f.toNat_flags k]
    omega
  have low : f.lowFlags k < 2 ^ 8 := lt_trans (lowFlags_bits ..).1 (by decide)
  rw [← BitVec.testBit_toNat, split, Nat.testBit_two_pow_mul_add _ low]
  simp [show i < 8 by omega]

/-- Each field of the word, as Table 02-18 and Table 02-3 give it. -/
theorem PortFrame.flags_fields (f : PortFrame) (k : EndCause) :
    bits 31 16 (f.flags k) = f.glitches.toNat ∧ bits 15 11 (f.flags k) = 0 ∧ bits 10 8 (f.flags k) = endCode k ∧
      bits 7 6 (f.flags k) = 0 ∧ (f.flags k).getLsbD 5 = decide (k = .clockFault) ∧
      (f.flags k).getLsbD 4 = (f.glitches != 0) ∧ (f.flags k).getLsbD 3 = f.lineLong ∧ (f.flags k).getLsbD 2 = f.lineShort ∧
      (f.flags k).getLsbD 1 = decide (k = .cutLines ∨ k = .cutTime) ∧
      (f.flags k).getLsbD 0 = (!f.complete || decide (k = .pclkStopped ∨ k = .clockFault)) := by
  have flag := @PortFrame.getLsbD_flags f k
  obtain ⟨low, clockFault, glitch, long, short, cut, padded⟩ :=
    lowFlags_bits (f.glitches != 0) f.lineLong f.lineShort f.complete k
  have code := endCode_lt k
  have glitches := f.glitches.isLt
  refine ⟨?_, ?_, ?_, ?_, (flag (by decide)).trans clockFault, (flag (by decide)).trans glitch, (flag (by decide)).trans long,
    (flag (by decide)).trans short, (flag (by decide)).trans cut, (flag (by decide)).trans padded⟩
  all_goals
    rw [bits, fld, f.toNat_flags k, PortFrame.lowFlags]
    omega

/-! ## The started frame in progress -/

theorem State.started_eq_some {s : State} {n : Nat} {f : PortFrame} {q : Nat} {num : BitVec 32} :
    s.started n = some (f, q, num) ↔ (s.port n).frame = some f ∧ f.ended = false ∧ f.job = some (q, num) := by
  unfold State.started
  cases (s.port n).frame with
  | none => simp
  | some g =>
    simp only [Option.some.injEq]
    split <;> rename_i ended
    · simp only [reduceCtorEq, false_iff]
      rintro ⟨rfl, going, -⟩
      simp [going] at ended
    · constructor
      · intro eq
        obtain ⟨⟨_, _⟩, job, eq⟩ := Option.map_eq_some_iff.mp eq
        cases eq
        exact ⟨rfl, by simpa using ended, job⟩
      · rintro ⟨rfl, -, job⟩
        rw [job]
        rfl

theorem State.endFrame_of_started {s : State} {n : Nat} {f : PortFrame} {q : Nat} {num : BitVec 32}
    (started : s.started n = some (f, q, num)) (c : EndCause) : s.endFrame n c = s.endStarted n f q num c := by
  obtain ⟨frame, going, job⟩ := State.started_eq_some.mp started
  simp [State.endFrame, frame, going, job]

/-! ## What its end leaves (R41, R54) -/

/-- From `s` to `u` frame `num` of pipeline `q`, which stood on port `n` as `f`, has ended under a cause: the missing rows are there as
pad lines, and its job holds the end time and the flags word. -/
structure State.EndsFrame (s u : State) (n q : Nat) (f : PortFrame) (num : BitVec 32) (k : EndCause) : Prop where
  last : (u.pipe q).lastEnded = some num
  lines : (u.pipe q).fe.lines = (s.pipe q).fe.lines ++ f.padLines num
  jobs : ∀ j ∈ (u.pipe q).frames, j.frame = num → j.delivered = false → j.endTime = some s.time ∧ j.flags = some (f.flags k)
  ports : ∀ m, m ≠ n → u.port m = s.port m
  pipes : ∀ p, p ≠ q → u.pipe p = s.pipe p
  rest : u.mem = s.mem ∧ u.spad = s.spad ∧ u.pool = s.pool ∧ u.channels = s.channels

namespace State.EndsFrame

variable {s u : State} {n q : Nat} {f : PortFrame} {num : BitVec 32} {k : EndCause}

/-- What is written to the port afterwards does not matter. -/
theorem updPort (h : s.EndsFrame u n q f num k) (g : Port → Port) : s.EndsFrame (u.updPort n g) n q f num k where
  last := h.last
  lines := h.lines
  jobs := h.jobs
  ports m other := (State.port_updPort_other u n g m other).trans (h.ports m other)
  pipes := h.pipes
  rest := h.rest

/-- Nor what was written to it before, or to the collector. -/
theorem of_before {s' : State} (h : s'.EndsFrame u n q f num k) (time : s'.time = s.time) (pipes : s'.pipes = s.pipes)
    (ports : ∀ m, m ≠ n → s'.port m = s.port m)
    (rest : s'.mem = s.mem ∧ s'.spad = s.spad ∧ s'.pool = s.pool ∧ s'.channels = s.channels) :
    s.EndsFrame u n q f num k := by
  have pipe : ∀ p, s'.pipe p = s.pipe p := fun p => congrArg (Tab.get Pipe.reset · p) pipes
  obtain ⟨mem, spad, pool, channels⟩ := rest
  obtain ⟨mem', spad', pool', channels'⟩ := h.rest
  exact ⟨h.last, by rw [← pipe]; exact h.lines, by rw [← time]; exact h.jobs, fun m other => (h.ports m other).trans (ports m other),
    fun p other => (h.pipes p other).trans (pipe p), mem'.trans mem, spad'.trans spad, pool'.trans pool, channels'.trans channels⟩

end State.EndsFrame

theorem State.pipe_countFrameFlags (s : State) (n p : Nat) (was now : BitVec 32) :
    (s.countFrameFlags n was now).pipe p = s.pipe p := by
  unfold State.countFrameFlags
  dsimp only
  split <;> split <;> rfl

theorem State.countFrameFlags_touches (s : State) (q n : Nat) (was now : BitVec 32) :
    State.BoundaryTouches q n s (s.countFrameFlags n was now) := by
  have touches : ∀ (u : State) w, State.BoundaryTouches q n u (u.countPort n w) := fun u w => .updPort _
  unfold State.countFrameFlags
  dsimp only
  split <;> split
  · exact (touches ..).trans (touches ..)
  · exact touches ..
  · exact touches ..
  · exact .refl

theorem State.heronDue_touches (s : State) (q n : Nat) (num : BitVec 32) :
    State.BoundaryTouches q n s (s.heronDue q n num) := by
  unfold State.heronDue
  split
  · exact State.exposuresDue_touches ..
  · exact .refl

/-- The pad lines join the line buffer, and the frame is the last to have ended. -/
def Pipe.padded (f : PortFrame) (num : BitVec 32) (x : Pipe) : Pipe :=
  { x with fe := { x.fe with lines := x.fe.lines ++ f.padLines num }, lastEnded := some num }

/-- A job takes the end time and the flags word. -/
def FrameJob.ends (w : BitVec 32) (t : Time) (j : FrameJob) : FrameJob := { j with flags := some w, endTime := some t }

/-- Both, then the frame is counted. -/
def State.endCounted (s : State) (n : Nat) (f : PortFrame) (q : Nat) (num : BitVec 32) (c : EndCause) : State :=
  ((s.updPipe q (Pipe.padded f num)).updPipe q fun x => x.updFrame num (FrameJob.ends (f.flags c) s.time)).countFrameFlags n 0
    (f.flags c)

/-- The port keeps the ended frame for a cause in the same cycle (R44). -/
def Port.keepEnded (f : PortFrame) (q : Nat) (num : BitVec 32) (c : EndCause) (t : Time) (p : Port) : Port :=
  { p with frame := some { f with ended := true }
           lastEnd := some { frame := { f with ended := true }, pipe := q, number := num, cause := c, time := t } }

/-- A port that waits to be disabled is (R471). -/
def Port.settleDue (p : Port) : Port := if p.disableDue then p.disable else p

/-- The end of a started frame, with its steps named. -/
theorem State.endStarted_eq (s : State) (n : Nat) (f : PortFrame) (q : Nat) (num : BitVec 32) (c : EndCause) :
    s.endStarted n f q num c = ((((s.endCounted n f q num c).updPort n (Port.keepEnded f q num c
      (s.endCounted n f q num c).time)).heronDue q n num).updPort n Port.settleDue) := rfl

theorem State.endCounted_touches (s : State) (n : Nat) (f : PortFrame) (q : Nat) (num : BitVec 32) (c : EndCause) :
    State.BoundaryTouches q n s (s.endCounted n f q num c) :=
  .trans (.updPipe _) (.trans (.updPipe _) (State.countFrameFlags_touches ..))

theorem State.endStarted_touches (s : State) (n : Nat) (f : PortFrame) (q : Nat) (num : BitVec 32) (c : EndCause) :
    State.BoundaryTouches q n s (s.endStarted n f q num c) := by
  rw [State.endStarted_eq]
  exact .trans (State.endCounted_touches ..) (.trans (.updPort _) (.trans (State.heronDue_touches ..) (.updPort _)))

theorem State.pipe_endCounted (s : State) (n : Nat) (f : PortFrame) (q : Nat) (num : BitVec 32) (c : EndCause) :
    (s.endCounted n f q num c).pipe q =
      ((s.pipe q).padded f num).updFrame num (FrameJob.ends (f.flags c) s.time) := by
  rw [State.endCounted, State.pipe_countFrameFlags, State.pipe_updPipe_same, State.pipe_updPipe_same]

theorem State.pipe_heronDue (s : State) (q n : Nat) (num : BitVec 32) :
    ∃ l, (s.heronDue q n num).pipe q = { s.pipe q with exposures := l } := by
  unfold State.heronDue
  split
  · exact State.pipe_exposuresDue ..
  · exact ⟨_, rfl⟩

theorem Pipe.mem_updFrame {x : Pipe} {num : BitVec 32} {g : FrameJob → FrameJob} {j : FrameJob} (h : j ∈ (x.updFrame num g).frames) :
    (∃ i, j = g i) ∨ ¬ (j.frame = num ∧ j.delivered = false) := by
  obtain ⟨i, -, rfl⟩ := List.mem_map.mp h
  split
  · exact .inl ⟨i, rfl⟩
  · next other => exact .inr (by simpa using other)

/-- The end of a started frame is what O10 says. -/
theorem State.endsFrame_endStarted (s : State) (n : Nat) (f : PortFrame) (q : Nat) (num : BitVec 32) (c : EndCause) :
    s.EndsFrame (s.endStarted n f q num c) n q f num c := by
  have touches := s.endStarted_touches n f q num c
  obtain ⟨l, due⟩ := State.pipe_heronDue ((s.endCounted n f q num c).updPort n
    (Port.keepEnded f q num c (s.endCounted n f q num c).time)) q n num
  have pipe : (s.endStarted n f q num c).pipe q =
      { ((s.pipe q).padded f num).updFrame num (FrameJob.ends (f.flags c) s.time) with exposures := l } := by
    rw [State.endStarted_eq, State.pipe_updPort, due, State.pipe_updPort, State.pipe_endCounted]
  refine ⟨by rw [pipe]; rfl, by rw [pipe]; rfl, fun j mem frame waits => ?_, touches.ports, touches.pipes, ?_⟩
  · rw [pipe] at mem
    rcases Pipe.mem_updFrame mem with ⟨i, rfl⟩ | other
    · exact ⟨rfl, rfl⟩
    · exact absurd ⟨frame, waits⟩ other
  · rw [touches.rest]
    exact ⟨rfl, rfl, rfl, rfl⟩

theorem State.endsFrame_endFrame {s : State} {n : Nat} {f : PortFrame} {q : Nat} {num : BitVec 32}
    (started : s.started n = some (f, q, num)) (c : EndCause) : s.EndsFrame (s.endFrame n c) n q f num c := by
  rw [State.endFrame_of_started started]
  exact State.endsFrame_endStarted ..

/-- A frame in progress stays so whatever else is written to its port. -/
theorem State.started_updPort {s : State} {n : Nat} {g : Port → Port} (frame : (g (s.port n)).frame = (s.port n).frame) :
    (s.updPort n g).started n = s.started n := by
  unfold State.started
  rw [State.port_updPort_same, frame]

/-- A record changes nothing that the end of a frame speaks of. -/
theorem State.endsFrame_fault {s : State} {n : Nat} {f : PortFrame} {q : Nat} {num : BitVec 32}
    (started : s.started n = some (f, q, num)) (i : FaultInfo) (c : EndCause) :
    s.EndsFrame ((s.fault i).endFrame n c) n q f num c := by
  have ports : ∀ m, (s.fault i).port m = s.port m := fun m => congrArg (Tab.get (fun _ => Port.reset) · m) (s.ports_fault i)
  have same : (s.fault i).started n = some (f, q, num) := by
    unfold State.started at started ⊢
    rwa [ports]
  exact (State.endsFrame_endFrame same c).of_before (s.time_fault i) (s.pipes_fault i) (fun m _ => ports m)
    ⟨s.mem_fault i, s.spad_fault i, s.pool_fault i, s.channels_fault i⟩

theorem State.EndsFrame.of_updPort {s u : State} {n q : Nat} {f : PortFrame} {num : BitVec 32} {k : EndCause} {g : Port → Port}
    (h : (s.updPort n g).EndsFrame u n q f num k) : s.EndsFrame u n q f num k :=
  h.of_before rfl rfl (fun m other => State.port_updPort_other s n g m other) ⟨rfl, rfl, rfl, rfl⟩

/-! ## A window of PCLK edges (R42) -/

/-- PCLK_FREQ takes a window's edges. -/
def Port.measured (edges : Nat) (p : Port) : Port := { p with pclkFreq := BitVec.ofNat 12 (min 4095 (5 * edges)) }

/-- The port is out of use until PORT_RECOVER. -/
def Port.faulted (p : Port) : Port := { p with clockFault := true, state := .disabled, frame := none, disableDue := false }

/-- What port `n` reports of a PCLK that is too fast. -/
def State.clockReport (s : State) (n : Nat) : FaultInfo :=
  portFault n Cls.ucf Outc.fenced (s.pipeOf n) ((s.started n).map fun x => x.2.2)

/-- Whether a port is under suppression depends on its state alone. -/
theorem State.isSuppressed_updPort (s : State) (n : Fin 24) {g : Port → Port} (state : (g (s.port n)).state = (s.port n).state) :
    (s.updPort n g).isSuppressed (.sedge n) = s.isSuppressed (.sedge n) := by
  unfold State.isSuppressed
  dsimp only
  rw [State.port_updPort_same, state]
  rfl

theorem State.enabled_of_not_suppressed {s : State} {n : Fin 24} (live : s.isSuppressed (.sedge n) = false) :
    ((s.port n).state == .disabled) = false :=
  (Bool.or_eq_false_iff.mp live).2

section
variable {s : State} {t : Time} {n : Fin 24} (ready : s.phase = .ready)
include ready

theorem exec_portClockFault_slow {edges : Nat} (on : s.frontOn n = true) (slow : edges ≤ 420) :
    exec (.portClockFault t n edges) s = .next ((s.begin t).updPort n (Port.measured edges)) := by
  have front : (s.begin t).frontOn n = true := on
  change execPortClockFault t n edges s = _
  rw [execPortClockFault, whenReady_ready t _ s ready]
  dsimp only
  rw [front, State.onlyIf_true]
  exact congrArg Host.Outcome.next (if_pos (.inl slow))

theorem exec_portClockFault_fast {edges : Nat} (on : s.frontOn n = true) (fast : 420 < edges)
    (clear : (s.port n).clockFault = false) (live : (s.begin t).isSuppressed (.sedge n) = false) :
    let m := (s.begin t).updPort n (Port.measured edges)
    exec (.portClockFault t n edges) s =
      .next (((m.fault (m.clockReport n)).endFrame n .clockFault).updPort n Port.faulted) := by
  intro m
  have front : (s.begin t).frontOn n = true := on
  have unsuppressed : m.isSuppressed (.sedge n) = false :=
    (State.isSuppressed_updPort (s.begin t) n (g := Port.measured edges) rfl).trans live
  have enabled : ((m.port n).state == .disabled) = false := State.enabled_of_not_suppressed unsuppressed
  have unfaulted : (m.port n).clockFault = false := by
    rw [State.port_updPort_same]
    exact clear
  change execPortClockFault t n edges s = _
  rw [execPortClockFault, whenReady_ready t _ s ready]
  dsimp only
  rw [front, State.onlyIf_true]
  refine congrArg Host.Outcome.next ?_
  change (if edges ≤ 420 ∨ (m.port n).clockFault = true then _
    else if ((m.port n).state == .disabled || m.isSuppressed (.sedge n)) = true then _ else _) = _
  rw [if_neg (by simp [unfaulted, fast]), if_neg (by simp [enabled, unsuppressed])]
  rfl

end

/-! ## The five ways to the end (R33, R41 to R43) -/

/-- PCLK has stopped: so it is marked and counted. -/
def State.pclkLost (s : State) (n : Nat) : State := (s.updPort n fun p => { p with pclkStopped := true }).countPort n 7

theorem State.EndsFrame.of_pclkLost {s u : State} {n q : Nat} {f : PortFrame} {num : BitVec 32} {k : EndCause}
    (h : (s.pclkLost n).EndsFrame u n q f num k) : s.EndsFrame u n q f num k := by
  unfold State.pclkLost State.countPort at h
  exact h.of_updPort.of_updPort

section
variable {s : State} {t : Time} {n : Fin 24} {f : PortFrame} {q : Nat} {num : BitVec 32}
  (ready : s.phase = .ready) (started : (s.begin t).started n = some (f, q, num))
include ready started

theorem exec_frameEnd_ends (active : (s.port n).state = .inFrame) :
    ∃ u, exec (.frameEnd t n) s = .next u ∧ (s.begin t).EndsFrame u n q f num .normal := by
  obtain ⟨frame, going, -⟩ := State.started_eq_some.mp started
  have inFrame : ((s.begin t).port n).state = .inFrame := active
  have next : exec (.frameEnd t n) s = .next (if (((s.begin t).endFrame n .normal).port n).state == .inFrame
      then ((s.begin t).endFrame n .normal).toWait n else (s.begin t).endFrame n .normal) := by
    change execFrameEnd t n s = _
    rw [execFrameEnd, whenReady_ready t _ s ready]
    simp [inFrame, frame, going]
  refine ⟨_, next, ?_⟩
  have ends := State.endsFrame_endFrame started .normal
  split
  · exact ends.updPort _
  · exact ends

theorem exec_cutTime_ends (long : (s.begin t).overTime f = true) :
    ∃ u, exec (.cutTime t n) s = .next u ∧ (s.begin t).EndsFrame u n q f num .cutTime := by
  have next : exec (.cutTime t n) s = .next ((s.begin t).endFrame n .cutTime) := by
    change execCutTime t n s = _
    rw [execCutTime, whenReady_ready t _ s ready]
    simp [started, long]
  exact ⟨_, next, State.endsFrame_endFrame started .cutTime⟩

theorem exec_lineReceived_ends (ws : List (BitVec 24)) (bad : Bool) (counted : f.cfg.vStart ≤ f.lines) (whole : f.complete = true) :
    ∃ u, exec (.lineReceived t n ws bad) s = .next u ∧ (s.begin t).EndsFrame u n q f num .cutLines := by
  have next : exec (.lineReceived t n ws bad) s = .next ((s.begin t).endFrame n .cutLines) := by
    change execLineReceived t n ws bad s = _
    rw [execLineReceived, whenReady_ready t _ s ready]
    simp [started, Nat.not_lt.mpr counted, whole]
  exact ⟨_, next, State.endsFrame_endFrame started .cutLines⟩

theorem exec_pclkStopped_ends (active : (s.port n).state = .inFrame) :
    ∃ u, exec (.pclkStopped t n) s = .next u ∧ (s.begin t).EndsFrame u n q f num .pclkStopped := by
  have inFrame : ((s.begin t).port n).state = .inFrame := active
  have still : ((s.begin t).pclkLost n).started n = some (f, q, num) := by
    rw [State.pclkLost, State.countPort, State.started_updPort rfl, State.started_updPort rfl, started]
  have next : exec (.pclkStopped t n) s = .next (((((s.begin t).pclkLost n).fault
      (portFault n Cls.ucc Outc.contained (some q) (some num))).endFrame n .pclkStopped).updPort n fun p =>
        if p.state == .disabled then p else { p with state := .idle, frame := none }) := by
    change execPclkStopped t n s = _
    rw [execPclkStopped, whenReady_ready t _ s ready]
    unfold State.pclkLost at still ⊢
    simp [inFrame, still]
  have ends := State.endsFrame_fault still (portFault n Cls.ucc Outc.contained (some q) (some num)) .pclkStopped
  exact ⟨_, next, ends.of_pclkLost.updPort _⟩

theorem exec_portClockFault_ends {edges : Nat} (on : s.frontOn n = true) (fast : 420 < edges)
    (clear : (s.port n).clockFault = false) (live : (s.begin t).isSuppressed (.sedge n) = false) :
    ∃ u, exec (.portClockFault t n edges) s = .next u ∧ (s.begin t).EndsFrame u n q f num .clockFault := by
  have still : ((s.begin t).updPort n (Port.measured edges)).started n = some (f, q, num) := by
    rw [State.started_updPort rfl, started]
  exact ⟨_, exec_portClockFault_fast ready on fast clear live,
    (State.EndsFrame.of_updPort (State.endsFrame_fault still _ .clockFault)).updPort _⟩

end

/-- Settles O10: each cause comes to the end of the started frame, which writes what the flags word's fields say. -/
theorem frameEndsUnderItsCause : Obligations.FrameEndsUnderItsCause := by
  unfold Obligations.FrameEndsUnderItsCause
  refine ⟨fun j q prov now w word => ?record, fun s t n f q num ready active started => ?ends⟩
  case record =>
    rw [FrameJob.completion_flags, word]
    rfl
  case ends =>
    intro ends
    have here : (s.begin t).started n = some (f, q, num) := started
    have said : ∀ c k, (∃ u, exec c s = .next u ∧ (s.begin t).EndsFrame u n q f num k) → ends c k := fun c k ⟨u, next, h⟩ =>
      ⟨u, next, h.last, h.lines, fun j mem frame waits =>
        ⟨(h.jobs j mem frame waits).1, f.flags k, (h.jobs j mem frame waits).2, f.flags_fields k⟩, h.ports, h.pipes, h.rest⟩
    refine ⟨said _ _ ?_, fun long => said _ _ ?_, fun ws bad counted whole => said _ _ ?_, said _ _ ?_,
      fun edges on fast clear live => said _ _ ?_⟩
    · exact exec_frameEnd_ends ready here active
    · exact exec_cutTime_ends ready here long
    · exact exec_lineReceived_ends ready here ws bad counted whole
    · exact exec_pclkStopped_ends ready here active
    · exact exec_portClockFault_ends ready here on fast clear live

end Sys2Proof.Machine
end

section
/-!
PROOFS. O12 and O13: the signals of a port, and the PCLK that disables it. What the end of a frame leaves of its port (R44, R471); what
each event writes to the port.
-/

namespace Sys2Proof.Machine

open Sys2Proof

/-! ## What the end of a frame leaves of its port -/

/-- From `s` to `u` a frame of port `n` may have ended: its live settings, PCLK_FREQ and, where no disabling is due, its FSYNC are as
they were, and every other port is. -/
structure State.EndKeeps (n : Nat) (s u : State) : Prop where
  live : (u.port n).live = (s.port n).live
  pclkFreq : (u.port n).pclkFreq = (s.port n).pclkFreq
  fsync : (s.port n).disableDue = false → (u.port n).disableDue = false ∧ (u.port n).fsync = (s.port n).fsync
  others : ∀ m, m ≠ n → u.port m = s.port m

namespace State.EndKeeps

variable {n : Nat} {s u v : State}

theorem of_ports (same : u.ports = s.ports) : State.EndKeeps n s u := by
  have port : ∀ m, u.port m = s.port m := fun m => congrArg (Tab.get (fun _ => Port.reset) · m) same
  exact ⟨by rw [port], by rw [port], fun due => by rw [port]; exact ⟨due, rfl⟩, fun m _ => port m⟩

theorem trans (a : State.EndKeeps n s u) (b : State.EndKeeps n u v) : State.EndKeeps n s v where
  live := b.live.trans a.live
  pclkFreq := b.pclkFreq.trans a.pclkFreq
  fsync due := ⟨(b.fsync (a.fsync due).1).1, (b.fsync (a.fsync due).1).2.trans (a.fsync due).2⟩
  others m other := (b.others m other).trans (a.others m other)

theorem updPort {g : Port → Port} (live : (g (s.port n)).live = (s.port n).live)
    (pclkFreq : (g (s.port n)).pclkFreq = (s.port n).pclkFreq)
    (fsync : (s.port n).disableDue = false → (g (s.port n)).disableDue = false ∧ (g (s.port n)).fsync = (s.port n).fsync) :
    State.EndKeeps n s (s.updPort n g) := by
  refine ⟨?_, ?_, ?_, fun m other => State.port_updPort_other s n g m other⟩
  all_goals rwa [State.port_updPort_same]

theorem countPort (w : Nat) : State.EndKeeps n s (s.countPort n w) := .updPort rfl rfl fun due => ⟨due, rfl⟩

end State.EndKeeps

theorem State.countFrameFlags_keeps (s : State) (n : Nat) (was now : BitVec 32) :
    State.EndKeeps n s (s.countFrameFlags n was now) := by
  unfold State.countFrameFlags
  dsimp only
  split <;> split
  · exact (State.EndKeeps.countPort _).trans (.countPort _)
  · exact .countPort _
  · exact .countPort _
  · exact .of_ports rfl

theorem State.heronDue_keeps (s : State) (q n : Nat) (num : BitVec 32) : State.EndKeeps n s (s.heronDue q n num) := by
  unfold State.heronDue
  split
  case h_1 u _ =>
    obtain ⟨l, port⟩ := State.port_exposuresDue s q n fun e => e.unit == some u && e.frame == num + BitVec.ofNat 32 (s.heron u).latency
    refine ⟨?_, ?_, ?_, (State.exposuresDue_touches ..).ports⟩
    · rw [port]
    · rw [port]
    · rw [port]
      exact fun due => ⟨due, rfl⟩
  case h_2 => exact .of_ports rfl

theorem State.endStarted_keeps (s : State) (n : Nat) (f : PortFrame) (q : Nat) (num : BitVec 32) (c : EndCause) :
    State.EndKeeps n s (s.endStarted n f q num c) := by
  have counted : State.EndKeeps n s (s.endCounted n f q num c) := by
    unfold State.endCounted
    refine .trans ?_ (State.countFrameFlags_keeps ..)
    exact .of_ports rfl
  have kept : ∀ u : State, State.EndKeeps n u (u.updPort n (Port.keepEnded f q num c (s.endCounted n f q num c).time)) :=
    fun u => .updPort rfl rfl fun due => ⟨due, rfl⟩
  have settled : ∀ u : State, State.EndKeeps n u (u.updPort n Port.settleDue) := by
    intro u
    by_cases due : (u.port n).disableDue = true
    · have off : (u.port n).settleDue = (u.port n).disable := if_pos due
      exact .updPort (by rw [off]; rfl) (by rw [off]; rfl) fun no => absurd (due.symm.trans no) (by decide)
    · have same : (u.port n).settleDue = u.port n := if_neg due
      exact .updPort (by rw [same]) (by rw [same]) fun no => by rw [same]; exact ⟨no, rfl⟩
  rw [State.endStarted_eq]
  exact counted.trans ((kept _).trans ((State.heronDue_keeps ..).trans (settled _)))

theorem State.joinEnd_keeps (s : State) (n : Nat) (c : EndCause) (holds : EndedFrame → Bool) :
    State.EndKeeps n s (s.joinEnd n c holds) := by
  unfold State.joinEnd
  split
  · split
    · exact .trans (u := s.updPipe _ _) (.of_ports rfl) (State.countFrameFlags_keeps ..)
    · exact .of_ports rfl
  · exact .of_ports rfl

/-- Whatever the end of a frame finds on the port: a frame in progress, one that has just ended, or none. -/
theorem State.endFrame_keeps (s : State) (n : Nat) (c : EndCause) : State.EndKeeps n s (s.endFrame n c) := by
  unfold State.endFrame
  dsimp only
  split
  · split
    · split
      · exact State.joinEnd_keeps ..
      · exact State.endStarted_keeps ..
    · exact .of_ports rfl
  · exact State.joinEnd_keeps ..

theorem State.endFrame_fault_keeps (s : State) (n : Nat) (i : FaultInfo) (c : EndCause) :
    State.EndKeeps n s ((s.fault i).endFrame n c) :=
  .trans (.of_ports (s.ports_fault i)) (State.endFrame_keeps ..)

/-! ## PORT_RECOVER (R42) -/

@[simp] theorem State.port_received (s : State) (q : Req) (n : Nat) : (s.received q).port n = s.port n :=
  (congrArg (State.port · n) (s.received_eq q) :)

theorem State.port_served_ok (s : State) (o : OpRow) (q : Req) (n : Nat) : (s.served o q .ok).port n = s.port n :=
  (congrArg (State.port · n) (State.acked_ok_eq (s.received q) o q) :).trans (State.port_received ..)

/-- A port without CLOCK_FAULT: IDLE if it is enabled and its front end is powered. -/
def Port.recovered (on : Bool) (p : Port) : Port :=
  { p with clockFault := false, state := if p.live.enable && on then .idle else .disabled }

/-- A port that changes writes itself, and the collector where it leaves DISABLED. -/
theorem State.portChange_eq (s : State) (n : Nat) (p : Port) :
    s.portChange n p = { s.setPort n p with faults := (s.portChange n p).faults } := by
  unfold State.portChange
  dsimp only
  split <;> rfl

section
variable {s : State} {q : Req} (taken : s.takes (opRow 0x0211 4) q)
include taken

theorem exec_portRecover_range (high : 24 ≤ le q.params 0 1) :
    exec (.portRecover q) s = .next (s.served (opRow 0x0211 4) q (.err Code.notPermitted)) := by
  refine (lysil_of_takes taken portRecoverBody).trans ?_
  rw [portRecoverBody, if_pos high]
  rfl

theorem exec_portRecover_unfaulted (range : le q.params 0 1 < 24) (clear : (s.port (le q.params 0 1)).clockFault = false) :
    exec (.portRecover q) s = .next (s.served (opRow 0x0211 4) q .ok) := by
  refine (lysil_of_takes taken portRecoverBody).trans ?_
  simp [portRecoverBody, Nat.not_le.mpr range, clear, State.served]

theorem exec_portRecover_faulted (range : le q.params 0 1 < 24) (fault : (s.port (le q.params 0 1)).clockFault = true) :
    ∃ c, exec (.portRecover q) s = .next { (s.served (opRow 0x0211 4) q .ok).setPort (le q.params 0 1)
      ((s.port (le q.params 0 1)).recovered (s.frontOn (le q.params 0 1))) with faults := c } := by
  have front : (s.received q).frontOn (le q.params 0 1) = s.frontOn (le q.params 0 1) :=
    (congrArg (State.frontOn · (le q.params 0 1)) (s.received_eq q) :)
  have body : ∀ k, portRecoverBody k q.params (s.received q) = ((s.received q).portChange (le q.params 0 1)
      ((s.port (le q.params 0 1)).recovered (s.frontOn (le q.params 0 1))), .ok) := fun k => by
    simp [portRecoverBody, Nat.not_le.mpr range, fault, front, Port.recovered]
  refine ⟨((s.received q).portChange (le q.params 0 1)
    ((s.port (le q.params 0 1)).recovered (s.frontOn (le q.params 0 1)))).faults, (lysil_of_takes taken portRecoverBody).trans ?_⟩
  rw [body, State.portChange_eq]
  exact congrArg Host.Outcome.next (State.acked_ok_update (s := s.received q) _ q fun u =>
    { u.setPort (le q.params 0 1) ((s.port (le q.params 0 1)).recovered (s.frontOn (le q.params 0 1))) with faults := _ })

end

/-- Settles O13: the window's edges first, then the record and the end of the frame; PORT_RECOVER changes its port alone. -/
theorem portRecovers : Obligations.PortRecovers := by
  unfold Obligations.PortRecovers
  refine ⟨fun s t n edges ready on => ⟨fun slow => ?slow, fun fast clear live => ?fast⟩, fun q s taken =>
    ⟨fun range fault => ?recovers, exec_portRecover_unfaulted taken, exec_portRecover_range taken⟩⟩
  case slow => exact exec_portClockFault_slow ready on slow
  case fast =>
    have next := exec_portClockFault_fast ready on fast clear live
    dsimp only at next
    refine ⟨_, next, ?_⟩
    have keeps := State.endFrame_fault_keeps ((s.begin t).updPort n (Port.measured edges)) n
      (((s.begin t).updPort n (Port.measured edges)).clockReport n) .clockFault
    have freq := keeps.pclkFreq
    have due := keeps.fsync
    have settings := keeps.live
    rw [State.port_updPort_same] at freq due settings
    rw [State.port_updPort_same]
    exact ⟨rfl, rfl, rfl, freq, fun no => (due no).2, settings, fun m other => (State.port_updPort_other _ _ _ _ other).trans
      ((keeps.others m other).trans (State.port_updPort_other _ _ _ _ other))⟩
  case recovers =>
    obtain ⟨c, next⟩ := exec_portRecover_faulted taken range fault
    refine ⟨_, next, rfl, State.port_setPort_same .., fun m other => ?_⟩
    exact (State.port_setPort_other _ _ _ _ other).trans (State.port_served_ok ..)

/-! ## The signals of a port (R35, R36, R43, R45) -/

/-- The pulse of a port starts. -/
def Port.pulse (t : Time) (p : Port) : Port :=
  { p with fsync := true, fsyncStart := some t, fsyncEnd := t + BitVec.ofNat 64 (1000 * p.fsyncCfg.fsyncWidthUs), fsyncMoved := false }

/-- Without a streaming pipeline there is no substitute boundary. -/
theorem State.substitute_idle {s : State} {n : Nat} (unstreamed : s.streamOf n = none) : s.substitute n = s := by
  simp [State.substitute, unstreamed]

section
variable {s : State} {t : Time} {n : Fin 24} (ready : s.phase = .ready)
include ready

theorem exec_syncGlitch (watched : (s.port n).state = .waitFrame ∨ (s.port n).state = .inFrame) :
    exec (.syncGlitch t n) s = .next (((s.begin t).countPort n 2).updPort n fun p => { p with
      frame := p.frame.map fun f => if f.ended then f else { f with glitches := sat16 f.glitches } }) := by
  have active : (((s.begin t).port n).state == .waitFrame || ((s.begin t).port n).state == .inFrame) = true := by
    have : ((s.begin t).port n).state = .waitFrame ∨ ((s.begin t).port n).state = .inFrame := watched
    simpa using this
  change execSyncGlitch t n s = _
  rw [execSyncGlitch, whenReady_ready t _ s ready, active, State.onlyIf_true]

theorem exec_pclkResumed (idle : (s.port n).state = .idle) (on : s.frontOn n = true) :
    exec (.pclkResumed t n) s = .next ((s.begin t).toWait n) := by
  have resumes : (((s.begin t).port n).state == .idle && (s.begin t).frontOn n) = true := by
    have : ((s.begin t).port n).state = .idle ∧ (s.begin t).frontOn n = true := ⟨idle, on⟩
    simpa using this
  change execPclkResumed t n s = _
  rw [execPclkResumed, whenReady_ready t _ s ready, resumes, State.onlyIf_true]

theorem exec_waitFrameTimeout (waits : (s.port n).state = .waitFrame)
    (long : 2 * s.nominalNum (s.port n).live < ((s.begin t).now - (s.port n).waitSince.toNat) * s.base.den) :
    exec (.waitFrameTimeout t n) s = .next ((s.begin t).updPort n fun p => { p with waitLong := true }) := by
  have due : (((s.begin t).port n).state == .waitFrame && decide (2 * (s.begin t).nominalNum ((s.begin t).port n).live <
      ((s.begin t).now - ((s.begin t).port n).waitSince.toNat) * (s.begin t).base.den)) = true := by
    have wait : ((s.begin t).port n).state = .waitFrame := waits
    rw [wait]
    exact decide_eq_true long
  change execWaitFrameTimeout t n s = _
  rw [execWaitFrameTimeout, whenReady_ready t _ s ready]
  dsimp only
  rw [due, State.onlyIf_true]

theorem exec_fsyncAssert (runs : (s.begin t).fsyncRuns n = true) (due : (s.begin t).fsyncDue n = true)
    (sent : (s.begin t).fsyncOmitted n = false) (unstreamed : s.streamOf n = none) :
    exec (.fsyncAssert t n) s = .next ((s.begin t).updPort n (Port.pulse (s.begin t).time)) := by
  have rises : ((s.begin t).fsyncRuns n && (s.begin t).fsyncDue n && !(s.begin t).fsyncOmitted n) = true := by
    rw [runs, due, sent]
    rfl
  have idle : ((s.begin t).updPort n (Port.pulse (s.begin t).time)).streamOf n = none := unstreamed
  change execFsyncAssert t n s = _
  rw [execFsyncAssert, whenReady_ready t _ s ready, rises, State.onlyIf_true]
  exact congrArg Host.Outcome.next (State.substitute_idle idle)

theorem exec_fsyncDeassert (high : (s.port n).fsync = true) (past : (s.port n).fsyncEnd.toNat ≤ (s.begin t).now) :
    exec (.fsyncDeassert t n) s = .next ((s.begin t).updPort n fun p => { p with fsync := false }) := by
  have falls : (((s.begin t).port n).fsync && decide (((s.begin t).port n).fsyncEnd.toNat ≤ (s.begin t).now)) = true := by
    have : ((s.begin t).port n).fsync = true ∧ ((s.begin t).port n).fsyncEnd.toNat ≤ (s.begin t).now := ⟨high, past⟩
    simpa using this
  change execFsyncDeassert t n s = _
  rw [execFsyncDeassert, whenReady_ready t _ s ready, falls, State.onlyIf_true]

end

/-- Settles O12: each signal's condition holds as the event finds it, and its effect is an update of the port. -/
theorem portSignals : Obligations.PortSignals := by
  unfold Obligations.PortSignals
  intro s t n ready
  refine ⟨fun watched => ⟨_, exec_syncGlitch ready watched, rfl, fun m other => ?_, ?_⟩, exec_pclkResumed ready,
    exec_waitFrameTimeout ready, exec_fsyncAssert ready, exec_fsyncDeassert ready⟩
  · rw [State.port_updPort_other _ _ _ _ other]
    exact State.port_updPort_other _ _ _ _ other
  · rw [State.port_updPort_same, State.countPort, State.port_updPort_same]
    rfl

end Sys2Proof.Machine
end

section
/-!
PROOFS. O14: the sensor bus. I2C_TRANSFER queues a transaction on its port; the controller puts the next one on the bus; a transaction of
the host ends with its COMPLETION, and the bus is free.
-/

namespace Sys2Proof.Machine

open Sys2Proof

/-! ## I2C_TRANSFER (R48, R50) -/

/-- An ACK that leaves at once and reports no bad CRC may as well come before an update of the port that a body makes. -/
theorem State.acked_updPort (s : State) (n : Nat) (f : Port → Port) (o : OpRow) (q : Req) {a : Ack} (sent : a.held = false)
    (crc : a.status ≠ Code.badCrc) :
    (s.updPort n f).acked o q a = { s.acked o q a with ports := (s.updPort n f).ports } := by
  have agree := State.acked_agree (s := s) (u := s.updPort n f) (o := o) (q := q) sent crc rfl rfl rfl
  have own := congrArg (fun u : State => { u with ports := (s.updPort n f).ports }) (State.acked_eq s o q sent crc)
  exact agree.trans own.symm

/-- The transaction that a request asks for. -/
def askedTxn (q : Req) : I2cTxn :=
  { host := some (i2cRow.ticket q), pipe := none, target := BitVec.ofNat 7 (le q.params 0 1), data := q.params.drop 4
    readLen := le q.params 2 1 }

/-- It goes last. -/
def Port.queueTxn (x : I2cTxn) (p : Port) : Port := { p with i2cQueue := p.i2cQueue ++ [x] }

/-- The port a request names (log 13). -/
def askedPort (q : Req) : Fin 24 := Config.i2cPort q.queue q.tag q.params

section
variable {s : State} {q : Req} (taken : s.takes i2cRow q) (asks : 0 < le q.params 1 1 + le q.params 2 1)
  (writes : le q.params 1 1 ≤ 64) (reads : le q.params 2 1 ≤ 64) (wanted : s.requestedOff (68 + askedPort q) = false)
include taken asks writes reads wanted

/-- A transfer of good lengths to a port that is wanted is refused for a full queue alone. -/
theorem exec_i2cTransfer : exec (.i2cTransfer q) s = .next (if 16 ≤ (s.port (askedPort q)).i2cQueue.length
    then s.served i2cRow q (.err Code.queueFull)
    else ((s.received q).updPort (askedPort q) (Port.queueTxn (askedTxn q))).acked i2cRow q
      { status := Code.accepted }) := by
  have on : (s.received q).requestedOff (68 + askedPort q) = false :=
    (congrArg (State.requestedOff · (68 + askedPort q)) (s.received_eq q) :).trans wanted
  refine (lysil_of_takes taken (i2cTransferBody (askedPort q))).trans ?_
  unfold i2cTransferBody
  dsimp only
  rw [if_neg (Nat.ne_of_gt asks), if_neg (by simp [writes, reads, on]), State.port_received]
  split <;> rfl

theorem exec_i2cTransfer_full (full : 16 ≤ (s.port (askedPort q)).i2cQueue.length) :
    exec (.i2cTransfer q) s = .next (s.served i2cRow q (.err Code.queueFull)) := by
  rw [exec_i2cTransfer taken asks writes reads wanted, if_pos full]

theorem exec_i2cTransfer_queues (room : (s.port (askedPort q)).i2cQueue.length < 16) :
    exec (.i2cTransfer q) s = .next { s.served i2cRow q { status := Code.accepted } with
      ports := ((s.received q).updPort (askedPort q) (Port.queueTxn (askedTxn q))).ports } := by
  rw [exec_i2cTransfer taken asks writes reads wanted, if_neg (Nat.not_le.mpr room),
    State.acked_updPort _ _ _ _ _ rfl (by decide : Code.accepted ≠ Code.badCrc)]
  rfl

end

/-! ## The bus (R49, R50) -/

section
variable {s : State} {t : Time} {n : Fin 24} (ready : s.phase = .ready) {x : I2cTxn}
include ready

theorem exec_i2cTransactionStart {p : Port} (next : (s.port n).nextTxn = some (x, p)) (free : p.i2cBus = none)
    (on : s.frontOn n = true) : exec (.i2cTransactionStart t n false false) s =
      .next (((s.begin t).setPort n { p with i2cBus := some x }).send (.i2c n x.target x.data x.readLen)) := by
  have first : ((s.begin t).port n).nextTxn = some (x, p) := next
  have front : (s.begin t).frontOn n = true := on
  change execI2cTransactionStart t n false false s = _
  rw [execI2cTransactionStart, whenReady_ready t _ s ready]
  simp [first, free, front]

theorem exec_i2cTransactionEnd_done (read : List Byte) :
    exec (.i2cTransactionEnd t n (.done read)) s = .next ((s.begin t).busEnds n 0 0 read true) := by
  change execI2cTransactionEnd t n (.done read) s = _
  rw [execI2cTransactionEnd, whenReady_ready t _ s ready]

theorem exec_i2cTransactionEnd_nack (i : BitVec 8) : exec (.i2cTransactionEnd t n (.nack i)) s =
    .next ((s.begin t).busEnds n (if i = 0 then 1 else 2) i.toNat [] true) := by
  change execI2cTransactionEnd t n (.nack i) s = _
  rw [execI2cTransactionEnd, whenReady_ready t _ s ready]

theorem exec_i2cTimeout : exec (.i2cTimeout t n) s = .next ((s.begin t).busEnds n 3 0 [] false) := by
  change execI2cTimeout t n s = _
  rw [execI2cTimeout, whenReady_ready t _ s ready]

end

/-- A port whose bus is free. -/
def State.busFreed (s : State) (n : Nat) : State := s.setPort n { s.port n with i2cBus := none }

section
variable {s : State} {n : Nat} {x : I2cTxn} {k : Ticket} (onBus : (s.port n).i2cBus = some x) (host : x.host = some k)
include onBus host

/-- A transaction of the host leaves the bus with its COMPLETION. -/
theorem State.busEnds_host (code index : Nat) (read : List Byte) (stop : Bool) :
    s.busEnds n code index read stop = (s.busFreed n).endTransfer k code index x.readLen read := by
  simp only [State.busEnds, onBus, State.endTxn, host]
  rfl

/-- DONE carries the bytes read. -/
theorem State.busEnds_done (read : List Byte) (stop : Bool) : s.busEnds n 0 0 read stop =
    (s.busFreed n).complete k Code.ok ([0, 0, 0, 0] ++ (read ++ zeros x.readLen).take x.readLen) := by
  rw [State.busEnds_host onBus host]
  rfl

/-- Any other result carries as many bytes, which are open (log 2). -/
theorem State.busEnds_failed {code : Nat} (failed : code ≠ 0) (index : Nat) (stop : Bool) :
    ∃ d, d.length = x.readLen ∧ s.busEnds n code index [] stop =
      State.complete { s.busFreed n with fresh := s.fresh + 1 } k Code.ok ([BitVec.ofNat 8 code, BitVec.ofNat 8 index, 0, 0] ++ d) := by
  refine ⟨_, length_leBytes x.readLen (s.busFreed n).free.1.toNat, ?_⟩
  rw [State.busEnds_host onBus host, State.endTransfer]
  exact if_neg failed

end

theorem State.fresh_complete (s : State) (k : Ticket) (st : BitVec 16) (d : List Byte) : (s.complete k st d).fresh = s.fresh :=
  (congrArg State.fresh (s.complete_eq k st d) :)

/-- Settles O14: the request's checks in their order, the next transaction, and the three ends of one on the bus. -/
theorem sensorBusTransactions : Obligations.SensorBusTransactions := by
  unfold Obligations.SensorBusTransactions
  refine ⟨fun q s taken asks writes reads wanted => ⟨fun room => ?queues, ?full⟩, fun s t n ready =>
    ⟨fun x p => exec_i2cTransactionStart ready, fun x k onBus host => ⟨fun read => ?done, fun i => ?nack, ?timeout⟩⟩⟩
  case queues =>
    refine ⟨_, exec_i2cTransfer_queues taken asks writes reads wanted room, rfl, ?_, fun m other => ?_⟩
    · exact (State.port_updPort_same (s.received q) (askedPort q) (Port.queueTxn (askedTxn q))).trans
        (congrArg (Port.queueTxn (askedTxn q)) (State.port_received ..))
    · exact (State.port_updPort_other (s.received q) (askedPort q) (Port.queueTxn (askedTxn q)) m other).trans
        (State.port_received ..)
  case full => exact exec_i2cTransfer_full taken asks writes reads wanted
  case done =>
    exact (exec_i2cTransactionEnd_done ready read).trans
      (congrArg Host.Outcome.next (State.busEnds_done (s := s.begin t) onBus host read true))
  case nack =>
    have code : (if i = 0 then 1 else 2) ≠ 0 := by split <;> decide
    obtain ⟨d, length, ends⟩ := State.busEnds_failed (s := s.begin t) onBus host code i.toNat true
    refine ⟨_, d, (exec_i2cTransactionEnd_nack ready i).trans (congrArg Host.Outcome.next ends), ?_, length⟩
    rw [State.fresh_complete, BitVec.ofNat_toNat, BitVec.setWidth_eq]
    split <;> rfl
  case timeout =>
    obtain ⟨d, length, ends⟩ := State.busEnds_failed (s := s.begin t) onBus host (by decide : 3 ≠ 0) 0 false
    refine ⟨_, d, (exec_i2cTimeout ready).trans (congrArg Host.Outcome.next ends), ?_, length⟩
    rw [State.fresh_complete]
    rfl

end Sys2Proof.Machine
end

section
/-!
PROOFS. O11 fails: it says of all three row counts of a frame of two exposures that a line raises its own exposure's by one and keeps the
others, but the third count, which such a frame does not use, becomes 0. Only a state that no run from reset reaches holds a count
there; of the exposures that the frame has, the counterexample says nothing.
-/

namespace Sys2Proof.Machine

open Sys2Proof

/-- A started frame of two exposures, each line of exposure 0, with rows still to come and 5 in the count of exposure 2. -/
def staleFrame : PortFrame :=
  { newFrame (some (0, 0)) { PortSettings.reset with hdr := 0x10_0000_0000 } 0 with rows := #v[0, 0, 5] }

/-- The device at command-ready with that frame on port 0. -/
def staleRows : State :=
  { State.reset with phase := .ready, ports := [(0, { Port.reset with state := .inFrame, frame := some staleFrame })] }

/-- What a line leaves in the unused count. -/
theorem lineReceived_clears_unused {u : State} {g : PortFrame} (next : exec (.lineReceived 0 0 [] false) staleRows = .next u)
    (frame : (u.port 0).frame = some g) : g.rows.toList.getD 2 0 = 0 := by
  have run : (match exec (.lineReceived 0 0 [] false) staleRows with
    | .next u => (u.port 0).frame.all fun g => g.rows.toList.getD 2 0 == 0
    | _ => false) = true := by decide +kernel
  rw [next] at run
  simpa [frame] using run

/-- Refutes O11: a line of exposure 0 of two clears the third row count, where the statement keeps it. -/
theorem not_linesBecomeRows : ¬ Obligations.LinesBecomeRows := by
  unfold Obligations.LinesBecomeRows
  intro holds
  obtain ⟨-, -, exposures⟩ := holds staleRows 0 0 staleFrame 0 0 [] rfl (by decide +kernel)
  obtain ⟨-, -, line⟩ := exposures (by decide +kernel) (.inl (by decide +kernel)) (by decide +kernel)
  obtain ⟨u, g, next, frame, -, rows, -⟩ := line false (by decide +kernel) (by decide +kernel) (by decide +kernel)
  have cleared : g.rows.toList.getD 2 0 = 0 := lineReceived_clears_unused next frame
  have kept : g.rows.toList.getD 2 0 = 5 := (rows 2 (by decide)).trans (by decide +kernel)
  exact absurd (cleared.symm.trans kept) (by decide)

end Sys2Proof.Machine
end

section
/-!
PROOFS. O16: SET_EXPOSURE. A taken request has one of its row's parameter lengths; a body that writes one pipeline, or only answers,
is answered with just that; and where a heron unit places a command, which decides what SET_EXPOSURE does.
-/

namespace Sys2Proof.Machine

open Sys2Proof

/-! ## The parameters of a taken request (R317) -/

/-- A request that runs has passed each check on its way. -/
theorem Gate.passes {c : Prop} [Decidable c] {refusal rest : Gate} (run : (if c then refusal else rest) = .run)
    (refuses : refusal ≠ .run) : ¬ c ∧ rest = .run := by
  split at run
  · exact absurd run refuses
  · exact ⟨‹¬ c›, run⟩

theorem Queue.sequenceGate_ne_run (x : Queue) (q : Req) (c : BitVec 16) : x.sequenceGate q c ≠ some .run := by
  unfold Queue.sequenceGate
  split
  · simp
  · split
    · split <;> simp
    · simp

theorem State.lenOk_of_gateRest {s : State} {o : OpRow} {q : Req} (run : s.gateRest o q = .run) : o.lenOk q.params = true := by
  unfold State.gateRest at run
  obtain ⟨-, run⟩ := Gate.passes run (by simp)
  obtain ⟨-, run⟩ := Gate.passes run (by simp)
  obtain ⟨-, run⟩ := Gate.passes run (by simp)
  obtain ⟨-, run⟩ := Gate.passes run (by simp)
  obtain ⟨length, -⟩ := Gate.passes run (by simp)
  simpa using length

theorem State.lenOk_of_gateReply {s : State} {o : OpRow} {q : Req} (run : s.gateReply o q = .run) : o.lenOk q.params = true := by
  unfold State.gateReply at run
  obtain ⟨-, run⟩ := Gate.passes run (by simp)
  obtain ⟨-, run⟩ := Gate.passes run (by simp)
  obtain ⟨-, run⟩ := Gate.passes run (by simp)
  obtain ⟨-, run⟩ := Gate.passes run (by simp)
  obtain ⟨-, run⟩ := Gate.passes run (by simp)
  split at run
  · next sequence => exact absurd (run ▸ sequence) (Queue.sequenceGate_ne_run _ q o.code)
  · exact State.lenOk_of_gateRest run

/-- A taken request has one of its row's parameter lengths. -/
theorem lenOk_of_takes {s : State} {o : OpRow} {q : Req} (taken : s.takes o q) : o.lenOk q.params = true := by
  have run : (s.begin q.time).gate o q = .run := taken
  unfold State.gate at run
  dsimp only at run
  obtain ⟨-, run⟩ := Gate.passes run (by simp)
  split at run
  · split at run <;> simp at run
  · obtain ⟨-, run⟩ := Gate.passes run (by simp)
    obtain ⟨-, run⟩ := Gate.passes run (by simp)
    obtain ⟨-, run⟩ := Gate.passes run (by simp)
    obtain ⟨-, run⟩ := Gate.passes run (by simp)
    exact State.lenOk_of_gateReply run

/-! ## Commands that write one pipeline -/

/-- An ACK that leaves at once and reports no bad CRC may as well come before an update of the pipeline that a body makes. -/
theorem State.acked_updPipe (s : State) (p : Nat) (f : Pipe → Pipe) (o : OpRow) (q : Req) {a : Ack} (sent : a.held = false)
    (crc : a.status ≠ Code.badCrc) :
    (s.updPipe p f).acked o q a = { s.acked o q a with pipes := (s.updPipe p f).pipes } := by
  have agree := State.acked_agree (s := s) (u := s.updPipe p f) (o := o) (q := q) sent crc rfl rfl rfl
  have own := congrArg (fun u : State => { u with pipes := (s.updPipe p f).pipes }) (State.acked_eq s o q sent crc)
  exact agree.trans own.symm

section
variable {s : State} {o : OpRow} {q : Req} (taken : s.takes o q) {body : Body} {a : Ack}
include taken

/-- A body that only answers. -/
theorem lysil_answers (does : body (o.ticket q) q.params (s.received q) = (s.received q, a)) :
    lysil o q body s = .next (s.served o q a) := by
  rw [lysil_of_takes taken, show reqTicket q o.code = o.ticket q from rfl, does, State.served]

/-- A body that writes one pipeline. -/
theorem lysil_updPipe {p : Nat} {f : Pipe → Pipe}
    (does : body (o.ticket q) q.params (s.received q) = ((s.received q).updPipe p f, a)) (sent : a.held = false := by rfl)
    (crc : a.status ≠ Code.badCrc := by decide) : ∃ t, lysil o q body s = .next t ∧
      t = { s.served o q a with pipes := t.pipes } ∧ t.pipe p = f (s.pipe p) ∧ ∀ j, j ≠ p → t.pipe j = s.pipe j := by
  refine ⟨{ s.served o q a with pipes := ((s.received q).updPipe p f).pipes }, ?_, rfl, ?_, fun j other => ?_⟩
  · rw [lysil_of_takes taken, show reqTicket q o.code = o.ticket q from rfl, does, State.acked_updPipe _ _ _ _ _ sent crc]
    rfl
  · exact (State.pipe_updPipe_same (s.received q) p f).trans (congrArg f (State.pipe_received ..))
  · exact (State.pipe_updPipe_other (s.received q) p f j other).trans (State.pipe_received ..)

end

/-! ## SET_EXPOSURE (R76) -/

theorem State.streams_received (s : State) (q : Req) (p : Nat) : (s.received q).streams p = s.streams p :=
  (congrArg (State.streams · p) (s.received_eq q) :)
theorem State.heronOf_received (s : State) (q : Req) (p : Nat) : (s.received q).heronOf p = s.heronOf p :=
  (congrArg (State.heronOf · p) (s.received_eq q) :)
theorem State.heron_received (s : State) (q : Req) (u : Nat) : (s.received q).heron u = s.heron u :=
  (congrArg (State.heron · u) (s.received_eq q) :)

/-- The command that a request makes of its writes: for frame `f`, LATE or not, under a heron unit or none. -/
def askedExposure (k : Ticket) (p : List Byte) (f : BitVec 32) (late : Bool) (u : Option Nat) : ExposureCmd :=
  { ticket := k, target := BitVec.ofNat 7 (le p 2 1), frame := f, late := late, uncertain := false, unit := u
    txns := (exposureTxns (le p 1 1) (p.drop 8)).getD [], sent := 0, due := false, failed := none, lastStop := none }

/-- It goes last. -/
def Pipe.planExposure (e : ExposureCmd) (x : Pipe) : Pipe := { x with exposures := x.exposures ++ [e] }

/-- What it is answered: PLANNED_FRAME and LATE. -/
def plannedAck (e : ExposureCmd) : Ack :=
  { status := Code.accepted, data := leBytes 4 e.frame.toNat ++ [if e.late then 1 else 0, 0, 0, 0] }

/-- The target frame that a request names. -/
def askedTarget (p : List Byte) : Option (BitVec 32) :=
  if le p 3 1 % 2 == 1 then some (BitVec.ofNat 32 (le p 4 4)) else none

/-- What is done with a command that heron unit `u` places: refused when its target is too far or 8 commands are pending, else
taken. -/
def State.heronAnswer (s : State) (k : Ticket) (p : List Byte) (u : Nat) : Option (BitVec 32 × Bool) → State × Ack
  | none => (s, .err Code.notPermitted)
  | some (f, late) =>
    if 8 ≤ ((s.pipe (le p 0 1)).exposures.filter fun e => e.unit == some u).length then (s, .err Code.queueFull) else
      (s.updPipe (le p 0 1) (Pipe.planExposure (askedExposure k p f late (some u))), plannedAck (askedExposure k p f late (some u)))

section
variable {s : State} {k : Ticket} {p : List Byte} {u : Nat}

theorem State.heronAnswer_full (x : BitVec 32 × Bool)
    (full : ¬ ((s.pipe (le p 0 1)).exposures.filter fun e => e.unit == some u).length < 8) :
    s.heronAnswer k p u (some x) = (s, .err Code.queueFull) := if_pos (Nat.not_lt.1 full)

theorem State.heronAnswer_room (f : BitVec 32) (late : Bool)
    (room : ((s.pipe (le p 0 1)).exposures.filter fun e => e.unit == some u).length < 8) :
    s.heronAnswer k p u (some (f, late)) = (s.updPipe (le p 0 1) (Pipe.planExposure (askedExposure k p f late (some u))),
      plannedAck (askedExposure k p f late (some u))) := if_neg (Nat.not_le.2 room)

end

section
variable {s : State} {p : List Byte} (k : Ticket)

theorem setExposureBody_idle (idle : s.streams (le p 0 1) = false) :
    setExposureBody k p s = (s, .err Code.notPermitted) := by
  unfold setExposureBody
  exact if_pos (.inl idle)

theorem plannedAck_eq (e : ExposureCmd) : plannedAck e =
    { status := Code.accepted, data := leBytes 4 e.frame.toNat ++ leBytes 1 (flagAt 0 e.late) ++ zeros 3 } := by
  unfold plannedAck
  cases e.late <;> simp [leBytes, flagAt, zeros, List.replicate]

variable (streams : s.streams (le p 0 1) = true) (asks : 1 ≤ le p 1 1) (few : le p 1 1 ≤ 8)
include streams asks few

/-- Without a heron unit a command names no frame. -/
theorem setExposureBody_plain (unit : s.heronOf (le p 0 1) = none) : setExposureBody k p s =
    if le p 3 1 % 2 == 1 then (s, .err Code.notPermitted) else
      (s.updPipe (le p 0 1) (Pipe.planExposure (askedExposure k p (BitVec.allOnes 32) false none)),
        plannedAck (askedExposure k p (BitVec.allOnes 32) false none)) := by
  unfold setExposureBody
  dsimp only
  rw [if_neg (by simp [streams]; omega), unit]
  simp only [plannedAck_eq]
  rfl

/-- With one it is placed, and taken while there is room. -/
theorem setExposureBody_heron {u : Nat} (unit : s.heronOf (le p 0 1) = some u) : setExposureBody k p s =
    s.heronAnswer k p u (placeExposure (s.pipe (le p 0 1)).lastF (s.heron u).latency (askedTarget p)) := by
  unfold setExposureBody
  dsimp only
  rw [if_neg (by simp [streams]; omega), unit]
  simp only [State.heronAnswer, plannedAck_eq]
  rfl

end

/-! ## Where a heron unit places a command (R76, R77) -/

section
variable {f : BitVec 32} {l : Nat} {t : BitVec 32}

theorem placeExposure_untargeted : placeExposure f l none = some (f + BitVec.ofNat 32 (l + 1), false) := rfl

theorem placeExposure_far (far : frameLater t (f + 256) = true) : placeExposure f l (some t) = none := if_pos far

theorem placeExposure_near (near : frameLater t (f + 256) = false) : placeExposure f l (some t) =
    if frameLater (f + BitVec.ofNat 32 (l + 1)) t then some (f + BitVec.ofNat 32 (l + 1), true) else some (t, false) :=
  if_neg (Bool.eq_false_iff.1 near)

/-- A target that is not too far has its place. -/
theorem placeExposure_near_some (near : frameLater t (f + 256) = false) : ∃ x, placeExposure f l (some t) = some x := by
  rw [placeExposure_near near]
  split
  · exact ⟨_, rfl⟩
  · exact ⟨_, rfl⟩

end

/-! ## The command taken or refused -/

/-- The command that a taken request makes. -/
def plannedOf (q : Req) (f : BitVec 32) (late : Bool) (u : Option Nat) : ExposureCmd :=
  askedExposure (setExposureRow.ticket q) q.params f late u

/-- The request is accepted for frame `f`, LATE or not, under a heron unit or none: `planned` of the statement. -/
def State.Plans (s : State) (q : Req) (f : BitVec 32) (late : Bool) (u : Option Nat) : Prop :=
  ∃ t e, exec (.setExposure q) s = .next t ∧
    t = { s.served setExposureRow q { status := Code.accepted
                                      data := leBytes 4 f.toNat ++ [if late then 1 else 0, 0, 0, 0] } with
          pipes := t.pipes } ∧
    t.pipe (le q.params 0 1) = { s.pipe (le q.params 0 1) with exposures := (s.pipe (le q.params 0 1)).exposures ++ [e] } ∧
    (∀ j, j ≠ le q.params 0 1 → t.pipe j = s.pipe j) ∧
    e.frame = f ∧ e.late = late ∧ e.unit = u ∧ e.target = BitVec.ofNat 7 (le q.params 2 1) ∧ e.due = false ∧
    e.ticket = setExposureRow.ticket q ∧ exposureTxns (le q.params 1 1) (q.params.drop 8) = some e.txns

/-- The request is answered with `c`, and changes nothing: `refused` of the statement. -/
def State.Refuses (s : State) (q : Req) (c : BitVec 16) : Prop :=
  exec (.setExposure q) s = .next (s.served setExposureRow q (.err c))

section
variable {s : State} {q : Req} (taken : s.takes setExposureRow q)
include taken

theorem txns_plannedOf (f : BitVec 32) (late : Bool) (u : Option Nat) :
    exposureTxns (le q.params 1 1) (q.params.drop 8) = some (plannedOf q f late u).txns := by
  have whole : (exposureTxns (le q.params 1 1) (q.params.drop 8)).isSome = true := by
    have length := lenOk_of_takes taken
    simp only [setExposureRow, Bool.and_eq_true] at length
    exact length.2
  obtain ⟨l, found⟩ := Option.isSome_iff_exists.1 whole
  simp [plannedOf, askedExposure, found]

theorem State.Refuses.of_body {c : BitVec 16}
    (does : setExposureBody (setExposureRow.ticket q) q.params (s.received q) = (s.received q, .err c)) : s.Refuses q c :=
  lysil_answers taken does

theorem State.Plans.of_body {f : BitVec 32} {late : Bool} {u : Option Nat}
    (does : setExposureBody (setExposureRow.ticket q) q.params (s.received q) =
      ((s.received q).updPipe (le q.params 0 1) (Pipe.planExposure (plannedOf q f late u)), plannedAck (plannedOf q f late u))) :
    s.Plans q f late u := by
  obtain ⟨t, next, only, pipe, others⟩ := lysil_updPipe taken does rfl (by decide : Code.accepted ≠ Code.badCrc)
  exact ⟨t, plannedOf q f late u, next, only, pipe, others, rfl, rfl, rfl, rfl, rfl, rfl, txns_plannedOf taken f late u⟩

theorem setExposure_idle (idle : s.streams (le q.params 0 1) = false) : s.Refuses q Code.notPermitted :=
  .of_body taken (setExposureBody_idle _ ((s.streams_received q _).trans idle))

variable (streams : s.streams (le q.params 0 1) = true) (asks : 1 ≤ le q.params 1 1) (few : le q.params 1 1 ≤ 8)
include streams asks few

theorem setExposure_plain (unit : s.heronOf (le q.params 0 1) = none) :
    if le q.params 3 1 % 2 == 1 then s.Refuses q Code.notPermitted else s.Plans q (BitVec.allOnes 32) false none := by
  have body := setExposureBody_plain (setExposureRow.ticket q) ((s.streams_received q _).trans streams) asks few
    ((s.heronOf_received q _).trans unit)
  split
  · next targeted => exact .of_body taken (body.trans (if_pos targeted))
  · next free => exact .of_body taken (body.trans (if_neg free))

section
variable {u : Nat} (unit : s.heronOf (le q.params 0 1) = some u)
include unit

omit taken in
theorem setExposureBody_received : setExposureBody (setExposureRow.ticket q) q.params (s.received q) =
    (s.received q).heronAnswer (setExposureRow.ticket q) q.params u
      (placeExposure (s.pipe (le q.params 0 1)).lastF (s.heron u).latency (askedTarget q.params)) := by
  rw [setExposureBody_heron _ ((s.streams_received q _).trans streams) asks few ((s.heronOf_received q _).trans unit),
    State.pipe_received, State.heron_received]

/-- Under a heron unit a target that is too far is refused. -/
theorem setExposure_far
    (place : placeExposure (s.pipe (le q.params 0 1)).lastF (s.heron u).latency (askedTarget q.params) = none) :
    s.Refuses q Code.notPermitted :=
  .of_body taken ((setExposureBody_received streams asks few unit).trans (congrArg _ place))

variable {f : BitVec 32} {late : Bool}
  (place : placeExposure (s.pipe (le q.params 0 1)).lastF (s.heron u).latency (askedTarget q.params) = some (f, late))
include place

/-- With 8 commands pending there is no room for one. -/
theorem setExposure_full (full : ¬ ((s.pipe (le q.params 0 1)).exposures.filter fun e => e.unit == some u).length < 8) :
    s.Refuses q Code.queueFull := by
  refine .of_body taken ?_
  rw [setExposureBody_received streams asks few unit, place]
  exact State.heronAnswer_full _ (by simpa using full)

theorem setExposure_placed (room : ((s.pipe (le q.params 0 1)).exposures.filter fun e => e.unit == some u).length < 8) :
    s.Plans q f late (some u) := by
  refine .of_body taken ?_
  rw [setExposureBody_received streams asks few unit, place]
  exact State.heronAnswer_room f late (by simpa using room)

end

end

theorem askedTarget_some {p : List Byte} (has : (le p 3 1 % 2 == 1) = true) : askedTarget p = some (BitVec.ofNat 32 (le p 4 4)) :=
  if_pos has

theorem askedTarget_none {p : List Byte} (has : (le p 3 1 % 2 == 1) = false) : askedTarget p = none :=
  if_neg (Bool.eq_false_iff.1 has)

/-- Settles O16: a request is refused while its pipeline does not stream; without a heron unit it names no frame, and with one
`placeExposure` says which. -/
theorem exposureCommandsPlanned : Obligations.ExposureCommandsPlanned := by
  unfold Obligations.ExposureCommandsPlanned
  intro q s taken
  refine ⟨setExposure_idle taken, fun streams asks few => ⟨fun unit => ?plain, fun u unit =>
    ⟨fun has far => ?far, fun reach full => ?full, fun has room => ?free, fun has near room =>
      ⟨fun early => ?early, fun late => ?late⟩⟩⟩⟩
  case plain =>
    have answer := setExposure_plain taken streams asks few unit
    exact ⟨fun targeted => (if_pos targeted ▸ answer :), fun free => (if_neg (Bool.eq_false_iff.1 free) ▸ answer :)⟩
  case far =>
    refine setExposure_far taken streams asks few unit ?_
    rw [askedTarget_some has]
    exact placeExposure_far far
  case full =>
    obtain ⟨f, late, place⟩ : ∃ f late,
        placeExposure (s.pipe (le q.params 0 1)).lastF (s.heron u).latency (askedTarget q.params) = some (f, late) := by
      cases has : le q.params 3 1 % 2 == 1 with
      | false => exact ⟨_, _, (congrArg _ (askedTarget_none has)).trans placeExposure_untargeted⟩
      | true =>
        obtain ⟨x, place⟩ := placeExposure_near_some (l := (s.heron u).latency) (reach.resolve_left (by simp [has]))
        exact ⟨x.1, x.2, (congrArg _ (askedTarget_some has)).trans place⟩
    exact setExposure_full taken streams asks few unit place full
  case free =>
    refine setExposure_placed taken streams asks few unit ?_ room
    rw [askedTarget_none has]
    exact placeExposure_untargeted
  case early =>
    refine setExposure_placed taken streams asks few unit ?_ room
    rw [askedTarget_some has]
    exact (placeExposure_near near).trans (if_neg (Bool.eq_false_iff.1 early))
  case late =>
    refine setExposure_placed taken streams asks few unit ?_ room
    rw [askedTarget_some has]
    exact (placeExposure_near near).trans (if_pos late)

end Sys2Proof.Machine
end

section
/-!
PROOFS. O15: LOAD_CURVE and LOAD_DEFECTS. What a request carries as the statement reads it, which is what the bodies read, and the
update of the shadow settings that they make of it.
-/

namespace Sys2Proof.Machine

open Sys2Proof

/-! ## Parameters that are runs of words -/

theorem le_drop (l : List Byte) (n o w : Nat) : le (l.drop n) o w = le l (n + o) w := by
  simp only [le, slice, List.drop_drop]

/-- The words that follow `h` bytes, when there are `n` of them. -/
theorem valuesOf_drop {w h n : Nat} {p : List Byte} (word : 0 < w) (length : p.length = h + w * n) :
    valuesOf w (p.drop h) = (List.range n).map fun i => le p (h + w * i) w := by
  have count : (p.drop h).length / w = n := by
    rw [List.length_drop, length, Nat.add_sub_cancel_left, Nat.mul_div_cancel_left n word]
  simp only [valuesOf, count, le_drop]

/-! ## LOAD_CURVE (R60) -/

/-- The points of the curve that a request carries. -/
def curvePoints (p : List Byte) : List Nat :=
  (List.range (if le p 1 1 < 3 then 257 else 273)).map fun i =>
    le p (4 + (if le p 1 1 < 3 then 4 else 2) * i) (if le p 1 1 < 3 then 4 else 2)

/-- They never decrease and set no reserved bit. -/
def curveGood (p : List Byte) : Bool :=
  nonDecreasing (curvePoints p) && (curvePoints p).all fun x => decide (x < if le p 1 1 < 3 then 2 ^ 24 else 2 ^ 12)

/-- A curve in the shadow settings. -/
def Pipe.loadCurve (k : Nat) (points : List Nat) (x : Pipe) : Pipe :=
  { x with shadowChanged := true, shadow := { x.shadow with curves := Tab.insert k points x.shadow.curves } }

theorem curve_length {s : State} {q : Req} (taken : s.takes loadCurveRow q) (curve : le q.params 1 1 < 5) :
    q.params.length = if le q.params 1 1 < 3 then 4 + 1028 else 4 + 546 := by
  have length := lenOk_of_takes taken
  simp only [loadCurveRow, curve, if_true] at length
  split at length <;> simp_all

section
variable {s : State} {p : List Byte} (k : Ticket)

theorem loadCurveBody_range (bad : 24 ≤ le p 0 1 ∨ 5 ≤ le p 1 1) : loadCurveBody k p s = (s, .err Code.notPermitted) := by
  unfold loadCurveBody
  exact if_pos bad

theorem loadCurveBody_points (pipe : le p 0 1 < 24) (curve : le p 1 1 < 5)
    (length : p.length = if le p 1 1 < 3 then 4 + 1028 else 4 + 546) : loadCurveBody k p s =
      if curveGood p = true then (s.updPipe (le p 0 1) (Pipe.loadCurve (le p 1 1) (curvePoints p)), .ok)
      else (s, .err Code.notPermitted) := by
  have points : valuesOf (if le p 1 1 < 3 then 4 else 2) (p.drop 4) = curvePoints p := by
    refine valuesOf_drop (by split <;> decide) ?_
    rw [length]
    split <;> rfl
  unfold loadCurveBody
  dsimp only
  rw [if_neg (by omega)]
  simp only [points]
  rfl

end

/-! ## LOAD_DEFECTS (R64) -/

/-- Where a defect lies, as R63 orders them. -/
def defectPlace (e : Nat) : Nat := fld 23 12 e * 4096 + fld 11 0 e

/-- The entries that a request carries. -/
def newDefects (p : List Byte) : List Nat := (List.range (le p 4 2)).map fun i => le p (8 + 4 * i) 4

/-- They fit behind `start` entries of the old table, lie in the frame, and ascend from the entry before them. -/
def defectsGood (p : List Byte) (old : List (BitVec 32)) (g : PortSettings) : Bool :=
  decide (le p 2 2 ≤ old.length) && decide (le p 2 2 + le p 4 2 ≤ 4096)
    && (newDefects p).all (fun e => decide (fld 11 0 e < g.width) && decide (fld 23 12 e < g.height))
    && ascending ((if le p 2 2 = 0 then [] else [defectPlace (old.getD (le p 2 2 - 1) 0).toNat]) ++ (newDefects p).map defectPlace)

/-- The table in the shadow settings, cut at `start` and continued. -/
def Pipe.loadDefects (start : Nat) (new : List Nat) (x : Pipe) : Pipe :=
  { x with shadowChanged := true, shadow := { x.shadow with
      defects := x.shadow.defects.take start ++ new.map fun e => BitVec.ofNat 32 (e % 2 ^ 24) } }

theorem defects_length {s : State} {q : Req} (taken : s.takes loadDefectsRow q) : q.params.length = 8 + 4 * le q.params 4 2 := by
  simpa [loadDefectsRow] using lenOk_of_takes taken

theorem keep_entry (e : Nat) : keep 32 0xFF_FFFF e = BitVec.ofNat 32 (e % 2 ^ 24) :=
  congrArg (BitVec.ofNat 32) (Nat.and_two_pow_sub_one_eq_mod e 24)

section
variable {s : State} {p : List Byte} (k : Ticket)

theorem loadDefectsBody_range (bad : 24 ≤ le p 0 1 ∨ 4095 < le p 2 2 ∨ 256 < le p 4 2) :
    loadDefectsBody k p s = (s, .err Code.notPermitted) := by
  unfold loadDefectsBody
  exact if_pos bad

theorem loadDefectsBody_entries (good : ¬ (24 ≤ le p 0 1 ∨ 4095 < le p 2 2 ∨ 256 < le p 4 2))
    (length : p.length = 8 + 4 * le p 4 2) : loadDefectsBody k p s =
      if defectsGood p (s.pipe (le p 0 1)).shadow.defects (s.port (s.statusPort (le p 0 1))).shadow = true then
        (s.updPipe (le p 0 1) (Pipe.loadDefects (le p 2 2) (newDefects p)), .ok)
      else (s, .err Code.notPermitted) := by
  have entries : valuesOf 4 (p.drop 8) = newDefects p := valuesOf_drop (by decide) length
  have kept : keep 32 0xFF_FFFF = fun e => BitVec.ofNat 32 (e % 2 ^ 24) := funext keep_entry
  unfold loadDefectsBody
  dsimp only
  rw [if_neg good]
  simp only [entries, kept]
  rfl

end

theorem State.statusPort_received (s : State) (q : Req) (p : Nat) : (s.received q).statusPort p = s.statusPort p :=
  (congrArg (State.statusPort · p) (s.received_eq q) :)

/-- Settles O15: each load is refused for its operands or for what it carries, and else writes the shadow settings of its pipeline. -/
theorem curvesAndDefectsLoadShadow : Obligations.CurvesAndDefectsLoadShadow := by
  unfold Obligations.CurvesAndDefectsLoadShadow
  refine ⟨fun q s taken => ⟨fun pipe curve good => ?curve, fun bad => ?badCurve, curve_length taken⟩,
    fun q s taken => ⟨fun pipe start count good => ?defects, fun bad => ?badDefects⟩⟩
  case curve =>
    refine lysil_updPipe taken (f := Pipe.loadCurve (le q.params 1 1) (curvePoints q.params)) ?_
    exact (loadCurveBody_points _ pipe curve (curve_length taken curve)).trans (if_pos good)
  case badCurve =>
    refine lysil_answers taken ?_
    by_cases range : 24 ≤ le q.params 0 1 ∨ 5 ≤ le q.params 1 1
    · exact loadCurveBody_range _ range
    · have ⟨pipe, curve⟩ : le q.params 0 1 < 24 ∧ le q.params 1 1 < 5 := by omega
      have poor : curveGood q.params = false := (bad.resolve_left (by omega)).resolve_left (by omega)
      exact (loadCurveBody_points _ pipe curve (curve_length taken curve)).trans (if_neg (Bool.eq_false_iff.1 poor))
  case defects =>
    refine lysil_updPipe taken (f := Pipe.loadDefects (le q.params 2 2) (newDefects q.params)) ?_
    rw [loadDefectsBody_entries _ (by omega) (defects_length taken), State.statusPort_received, State.port_received,
      State.pipe_received]
    exact if_pos good
  case badDefects =>
    refine lysil_answers taken ?_
    by_cases range : 24 ≤ le q.params 0 1 ∨ 4095 < le q.params 2 2 ∨ 256 < le q.params 4 2
    · exact loadDefectsBody_range _ range
    · rw [loadDefectsBody_entries _ range (defects_length taken), State.statusPort_received, State.port_received,
        State.pipe_received]
      have poor := ((bad.resolve_left (by omega)).resolve_left (by omega)).resolve_left (by omega)
      exact if_neg (Bool.eq_false_iff.1 poor)

end Sys2Proof.Machine
end

section
/-!
PROOFS. O17: the row events of the front end. What an uncached write, the write channel, the fallback path and the statistics may touch,
and how each event takes the next row of its frame and goes one row on.
-/

namespace Sys2Proof.Machine

open Sys2Proof

/-! ## What an uncached write to device virtual space may touch (R303) -/

/-- From `s` to `u` no pipeline, no port, no scratchpad and no pool changes. -/
structure State.WriteKeeps (s u : State) : Prop where
  pipes : u.pipes = s.pipes
  ports : u.ports = s.ports
  spad : u.spad = s.spad
  pool : u.pool = s.pool

namespace State.WriteKeeps
variable {s u v : State}

theorem refl : s.WriteKeeps s := ⟨rfl, rfl, rfl, rfl⟩

theorem trans (h : s.WriteKeeps u) (g : u.WriteKeeps v) : s.WriteKeeps v :=
  ⟨g.pipes.trans h.pipes, g.ports.trans h.ports, g.spad.trans h.spad, g.pool.trans h.pool⟩

theorem ite (p : Prop) [Decidable p] (h : s.WriteKeeps u) (g : s.WriteKeeps v) : s.WriteKeeps (if p then u else v) := by
  split
  · exact h
  · exact g

/-- A record writes the collector and the status words alone. -/
theorem fault (h : s.WriteKeeps u) (f : FaultInfo) : s.WriteKeeps (u.fault f) :=
  h.trans ⟨State.pipes_fault u f, State.ports_fault u f, State.spad_fault u f, State.pool_fault u f⟩

theorem mem (h : s.WriteKeeps u) (m : MemSys) : s.WriteKeeps { u with mem := m } := h.trans ⟨rfl, rfl, rfl, rfl⟩

theorem countMem (h : s.WriteKeeps u) (k w : Nat) : s.WriteKeeps (u.countMem k w) := h.mem _

theorem send (h : s.WriteKeeps u) (o : Output) : s.WriteKeeps (u.send o) := h.trans ⟨rfl, rfl, rfl, rfl⟩

theorem meetEntry (a : Nat) (carr : List Nat) : s.WriteKeeps (s.meetEntry a carr) := by
  unfold State.meetEntry State.badEntry
  exact .ite _ (.ite _ .refl (.fault (.mem .refl _) _)) .refl

theorem correctGranule (g : Nat) (r : Reader) : s.WriteKeeps (s.correctGranule g r) := by
  unfold State.correctGranule
  dsimp only
  refine ⟨?_, ?_, ?_, ?_⟩ <;> split <;> split <;> simp [State.countMem]

theorem poisonGranule (g : Nat) (r : Reader) : s.WriteKeeps (s.poisonGranule g r) := by
  unfold State.poisonGranule
  exact .fault (.mem (.mem (.countMem (.countMem .refl _ _) _ _) _) _) _

theorem readGranule (g : Nat) (f : MemFindings) (r : Reader) : s.WriteKeeps (s.readGranule g f r).2 := by
  have wrong : s.WriteKeeps (((f.wrong.find? fun w => w.1 == g).map fun w => s.wrongGranule g w.2).getD s) := by
    cases f.wrong.find? fun w => w.1 == g with
    | none => exact .refl
    | some w => exact .mem .refl _
  unfold State.readGranule
  dsimp only
  split
  · exact .countMem .refl _ _
  · split
    · exact .poisonGranule g r
    · exact wrong.trans (.ite _ (.correctGranule g r) .refl)

theorem writeLocal (g o : Nat) (d : List Byte) (p : Bool) (f : MemFindings) (r : Reader) : s.WriteKeeps (s.writeLocal g o d p f r) := by
  have read : s.WriteKeeps (if d.length = 64 then s else (s.readGranule g f r).2) := .ite _ .refl (.readGranule g f r)
  unfold State.writeLocal
  dsimp only
  rw [State.invalidateOthers_eq, State.writeGranule_eq]
  exact read.trans ⟨rfl, rfl, rfl, rfl⟩

/-- A frame of the device's own writes the link and what is sent. -/
theorem sendPeer (via : Nat × BitVec 64) (dev w i : Nat) (ep : BitVec 16) (isRead p : Bool) (d : List Byte) (x : PeerUse) :
    s.WriteKeeps (s.sendPeer via dev w i ep isRead p d x) := ⟨rfl, rfl, rfl, rfl⟩

theorem peerGranule (via : Nat × BitVec 64) (g dev w i : Nat) (ep : BitVec 16) (f : MemFindings) :
    s.WriteKeeps (s.peerGranule via g dev w i ep f).2 := by
  unfold State.peerGranule State.readPeer
  split
  · exact .refl
  · split
    · split
      · exact .sendPeer ..
      · exact .sendPeer ..
    · exact .refl

theorem writePeer (via : Nat × BitVec 64) (g o : Nat) (d : List Byte) (p : Bool) (x : PeerUse) (f : MemFindings) (dev w i : Nat)
    (ep : BitVec 16) : s.WriteKeeps (s.writePeer via g o d p x f dev w i ep).2 := by
  have read := peerGranule (s := s) via g dev w i ep f
  unfold State.writePeer
  dsimp only
  split
  · exact .refl
  · split
    · exact .sendPeer ..
    · split
      · next found => exact .trans (found ▸ read :) (.sendPeer ..)
      · next found => exact (found ▸ read :)

theorem writeVaPiece (g o : Nat) (d : List Byte) (p : Bool) (x : PeerUse) (f : MemFindings) :
    s.WriteKeeps (s.writeVaPiece g o d p x f).2 := by
  have entry := meetEntry (s := s) (64 * g) f.carr
  unfold State.writeVaPiece
  dsimp only
  split
  · dsimp only
    exact entry.trans (.writeLocal ..)
  · split
    · dsimp only
      exact .send (.ite _ (.mem entry _) entry) _
    · exact entry
  · exact entry.trans (.writePeer ..)
  · exact entry

theorem writeVa (a : Nat) (d : List Byte) (p : Bool) (x : PeerUse) (f : MemFindings) : s.WriteKeeps (s.writeVa a d p x f).2 := by
  refine foldl_snd_keeps s.WriteKeeps _ ?_ _ (true, s) .refl
  rintro ⟨ok, u⟩ ⟨g, o, d⟩ h
  have piece := writeVaPiece (s := u) g o d p x f
  dsimp only at h ⊢
  generalize u.writeVaPiece g o d p x f = y at piece
  exact h.trans piece

theorem pipe (h : s.WriteKeeps u) (p : Nat) : u.pipe p = s.pipe p := congrArg (Tab.get Pipe.reset · p) h.pipes

end State.WriteKeeps

/-! ## The frames of a pipeline -/

theorem Pipe.updFirst_frames {x : Pipe} {sel : FrameJob → Bool} {i : Nat} (found : x.frames.findIdx? sel = some i)
    (g : FrameJob → FrameJob) : (x.updFirst sel g).frames = x.frames.modify i g := by
  unfold Pipe.updFirst
  rw [found]

/-- The first thing that meets a test, by its index. -/
theorem find?_of_findIdx? {α : Type} {l : List α} {p : α → Bool} {i : Nat} {x : α} (found : l.findIdx? p = some i)
    (at_ : l[i]? = some x) : l.find? p = some x := by
  obtain ⟨lt, holds, before⟩ := List.findIdx?_eq_some_iff_getElem.1 found
  obtain ⟨_, rfl⟩ := List.getElem?_eq_some_iff.1 at_
  exact List.find?_eq_some_iff_getElem.2 ⟨holds, i, lt, rfl, fun j hj => by simpa using before j hj⟩

/-- An entry that changes, as a function of the entries sees it. -/
theorem map_modify {α β : Type} {l : List α} {i : Nat} {x : α} (at_ : l[i]? = some x) {f : α → β} {g : α → α} {h : β → β}
    (agree : f (g x) = h (f x)) : (l.modify i g).map f = (l.map f).modify i h := by
  refine List.ext_getElem? fun k => ?_
  rw [List.getElem?_map, List.getElem?_modify, List.getElem?_modify, List.getElem?_map]
  by_cases here : i = k
  · subst here
    simp [at_, agree]
  · simp [here]

/-- Of a frame that changes, each job not yet delivered is what the change makes of one. -/
theorem Pipe.eq_of_mem_updFrame {x : Pipe} {f : BitVec 32} {g : FrameJob → FrameJob} {y : FrameJob} (mem : y ∈ (x.updFrame f g).frames)
    (frame : y.frame = f) (live : y.delivered = false) : ∃ j, y = g j := by
  obtain ⟨j, -, rfl⟩ := List.mem_map.1 mem
  split
  · exact ⟨j, rfl⟩
  · next other =>
    rw [if_neg other] at frame live
    exact absurd (by simp [frame, live]) other

/-! ## ENCODED_ROW_FINAL (R66, R67) -/

/-- The row that becomes final next in a frame. -/
def FrontEnd.nextEncoded (x : FrontEnd) (j : FrameJob) : EncodedRow :=
  let lo := j.feRow - 3
  let rows := x.corrected j.settings j.port j.frame lo (min (j.feRow + 3) (j.port.height - 1))
  let rgb := (List.range j.port.width).map fun i => rgbAt j.settings j.port (lo, rows.map fun r => r.map Prod.fst) i j.feRow
  { frame := j.frame, row := j.feRow, rgb := rgb
    codes := rgb.map fun p => (j.settings.encode 3 p.1, j.settings.encode 3 p.2.1, j.settings.encode 3 p.2.2)
    pad := (rows.getD (j.feRow - lo) []).any fun p => p.1.pad, poisoned := x.badInput j.settings j.frame j.feRow }

/-- It is stored, and the lines that no later row reads go. -/
def Pipe.store (j : FrameJob) (e : EncodedRow) (x : Pipe) : Pipe :=
  { x with fe := { x.fe with encoded := x.fe.encoded ++ [e]
                             lines := x.fe.lines.filter fun l => l.frame != j.frame || decide (j.feRow < l.row + 5) } }

/-- Without an error a row is stored, its frame goes one row on, and some stripes are counted. -/
theorem State.encodeRow_eq (s : State) (q : Fin 24) (j : FrameJob) : ∃ (g : FrameJob → FrameJob) (late : List Nat),
    (∀ y, (g y).feRow = j.feRow + 1) ∧ s.encodeRow q j false = forEach late (fun _ s => s.countStripe q 4)
      ((s.updPipe q (Pipe.store j ((s.pipe q).fe.nextEncoded j))).updPipe q fun x =>
        x.updFirst (fun y => decide (y.feRow < y.port.height)) g) :=
  ⟨_, _, fun _ => rfl, rfl⟩

/-- From `s` to `u` nothing changes but pipeline `q`, whose rows and frames stay. -/
structure State.KeepsRows (q : Nat) (s u : State) : Prop where
  only : u = { s with pipes := u.pipes }
  others : ∀ p, p ≠ q → u.pipe p = s.pipe p
  fe : (u.pipe q).fe = (s.pipe q).fe
  frames : (u.pipe q).frames = (s.pipe q).frames

theorem State.keepsRows_countStripes (s : State) (q w : Nat) (l : List Nat) :
    State.KeepsRows q s (forEach l (fun _ s => s.countStripe q w) s) := by
  refine forEach_keeps (State.KeepsRows q s) _ (fun _ u h => ?_) l s ⟨rfl, fun _ _ => rfl, rfl, rfl⟩
  have counted : (u.countStripe q w).pipe q = { u.pipe q with stripeCounters := (u.pipe q).stripeCounters.bump w } :=
    State.pipe_updPipe_same ..
  refine ⟨?_, fun p other => (State.pipe_updPipe_other _ _ _ _ other).trans (h.others p other), ?_, ?_⟩
  · exact (congrArg (fun v : State => { v with pipes := (u.countStripe q w).pipes }) h.only :)
  · rw [counted, ← h.fe]
  · rw [counted, ← h.frames]

theorem FrontEnd.width_nextEncoded (x : FrontEnd) (j : FrameJob) : (x.nextEncoded j).rgb.length = j.port.width := by
  simp [FrontEnd.nextEncoded]

/-- What a row that becomes final leaves. -/
theorem State.encodeRow_advances {s : State} {q : Fin 24} {i : Nat} {j : FrameJob}
    (first : ((s.pipe q).frames.findIdx? fun j => decide (j.feRow < j.port.height)) = some i)
    (job : (s.pipe q).frames[i]? = some j) :
    s.encodeRow q j false = { s with pipes := (s.encodeRow q j false).pipes } ∧
    (∀ p, p ≠ q.val → (s.encodeRow q j false).pipe p = s.pipe p) ∧
    ((s.encodeRow q j false).pipe q).fe.encoded = (s.pipe q).fe.encoded ++ [(s.pipe q).fe.nextEncoded j] ∧
    ((s.encodeRow q j false).pipe q).frames.map FrameJob.feRow =
      ((s.pipe q).frames.map FrameJob.feRow).modify i (· + 1) := by
  obtain ⟨g, late, forth, run⟩ := s.encodeRow_eq q j
  have stored := State.pipe_updPipe_same s q (Pipe.store j ((s.pipe q).fe.nextEncoded j))
  rw [run]
  obtain ⟨only, others, fe, frames⟩ := State.keepsRows_countStripes ((s.updPipe q
    (Pipe.store j ((s.pipe q).fe.nextEncoded j))).updPipe q fun x => x.updFirst (fun y => decide (y.feRow < y.port.height)) g) q 4 late
  refine ⟨frame_trans (fun s u : State => { s with pipes := u.pipes }) (fun _ _ _ => rfl) rfl only, fun p other => ?_, ?_, ?_⟩
  · rw [others p other, State.pipe_updPipe_other _ _ _ _ other, State.pipe_updPipe_other _ _ _ _ other]
  · rw [fe, State.pipe_updPipe_same, stored]
    rfl
  · have here : (Pipe.store j ((s.pipe q).fe.nextEncoded j) (s.pipe q)).frames.findIdx?
        (fun j => decide (j.feRow < j.port.height)) = some i := first
    rw [frames, State.pipe_updPipe_same, stored, Pipe.updFirst_frames here]
    exact map_modify job (forth j)

theorem exec_encodedRowFinal {s : State} {t : Time} {q : Fin 24} {j : FrameJob} (ready : s.phase = .ready)
    (next : ((s.pipe q).frames.find? fun j => decide (j.feRow < j.port.height)) = some j)
    (rows : (s.pipe q).fe.hasRows j.port j.frame (j.feRow - 5) (j.settings.lastNeeded j.port j.feRow) = true) :
    exec (.encodedRowFinal t q false) s = .next ((s.begin t).encodeRow q j false) := by
  have first : (((s.begin t).pipe q).frames.find? fun j => decide (j.feRow < j.port.height)) = some j := next
  have there : ((s.begin t).pipe q).fe.hasRows j.port j.frame (j.feRow - 5) (j.settings.lastNeeded j.port j.feRow) = true := rows
  change execEncodedRowFinal t q false s = _
  rw [execEncodedRowFinal, whenReady_ready t _ s ready]
  simp only [first, there, if_true]

/-! ## STRIPE_ROW_WRITE (R204 to R207) -/

/-- From `s` to `u` nothing changes of the other pipelines, of DRAM, the pools, the ports, the channels and the collector. -/
structure State.StripeTouches (q : Nat) (s u : State) : Prop where
  others : ∀ p, p ≠ q → u.pipe p = s.pipe p
  mem : u.mem = s.mem
  pool : u.pool = s.pool
  ports : u.ports = s.ports
  channels : u.channels = s.channels
  eth : u.eth = s.eth
  faults : u.faults = s.faults

namespace State.StripeTouches
variable {q : Nat} {s u v : State}

theorem begin (t : Time) : State.StripeTouches q s (s.begin t) := ⟨fun _ _ => rfl, rfl, rfl, rfl, rfl, rfl, rfl⟩

theorem updPipe (h : State.StripeTouches q s u) (f : Pipe → Pipe) : State.StripeTouches q s (u.updPipe q f) :=
  { h with others := fun p other => (State.pipe_updPipe_other _ _ _ _ other).trans (h.others p other) }

theorem updBlock (h : State.StripeTouches q s u) (b : Nat) (f : Block → Block) : State.StripeTouches q s (u.updBlock b f) :=
  { h with }

theorem writeSpad (h : State.StripeTouches q s u) (b a : Nat) (d : List Byte) (p : Bool) :
    State.StripeTouches q s (u.writeSpad b a d p) :=
  State.writeSpad_eq u b a d p ▸ { h with }

theorem passUnits (h : State.StripeTouches q s u) (b : Nat) (o : Owner) : State.StripeTouches q s (u.passUnits b o) := by
  unfold State.passUnits
  split
  · exact h.updBlock b _
  · exact h

theorem putStripeRow (h : State.StripeTouches q s u) (b : Nat) (r : Ring) (t : ImgTensor) (w : RingUnit) (k : Nat) (e : EncodedRow)
    (f : MemFindings) : State.StripeTouches q s (u.putStripeRow b r t w k e f) := by
  refine foldl_keeps (State.StripeTouches q s) _ (fun u p h => ?_) _ u h
  refine foldl_keeps (State.StripeTouches q s) _ (fun u g h => h.writeSpad ..) _ _ ?_
  exact foldl_keeps (State.StripeTouches q s) _ (fun u x h => h.writeSpad ..) _ u h

end State.StripeTouches

namespace State.StripeTouches
variable {q : Fin 24} {s u v : State}

theorem cancelUnit (h : State.StripeTouches q s u) (f : BitVec 32) (i : Nat) : State.StripeTouches q s (u.cancelUnit q f i) := by
  unfold State.cancelUnit
  exact forEach_keeps (State.StripeTouches q s) _ (fun b v g => (g.passUnits b _).updBlock b _) _ _ (h.updPipe _)

theorem evict (h : State.StripeTouches q s u) (b : Nat) (id : BitVec 32 × Nat) : State.StripeTouches q s (u.evict b q id) := by
  unfold State.evict
  exact (((h.updPipe _).updPipe _).cancelUnit id.1 id.2).updBlock b _

theorem makeRoom (h : State.StripeTouches q s u) (b ring : Nat) (id : BitVec 32 × Nat) (k n : Nat) :
    State.StripeTouches q s (u.makeRoom b q ring id k n) := by
  induction n generalizing u with
  | zero => exact h
  | succ n ih =>
    unfold State.makeRoom
    split
    · split
      · split
        · exact h
        · exact ih (h.evict b _)
      · exact h
    · exact h

theorem stripeRowTo (h : State.StripeTouches q s u) (j : FrameJob) (i row b : Nat) (e : EncodedRow) (f : MemFindings) :
    State.StripeTouches q s (u.stripeRowTo q j i row b e f) := by
  unfold State.stripeRowTo
  dsimp only
  have opened := fun g => h.updBlock b g
  split
  · split
    · split
      · split
        · have room := fun g ring k n => (opened g).makeRoom b ring (j.frame, i) k n
          split
          · split
            · exact ((room _ _ _ _).putStripeRow ..).updBlock b _
            · exact room _ _ _ _
          · exact room _ _ _ _
        · exact opened _
      · exact opened _
    · exact h
  · exact h

end State.StripeTouches

theorem State.frames_trimEncoded (s : State) (q : Nat) : ((s.trimEncoded q).pipe q).frames = (s.pipe q).frames := by
  unfold State.trimEncoded
  dsimp only
  rw [State.pipe_updPipe_same]

theorem State.StripeTouches.trimEncoded {q : Nat} {s u : State} (h : State.StripeTouches q s u) :
    State.StripeTouches q s (u.trimEncoded q) := by
  unfold State.trimEncoded
  exact h.updPipe _

theorem State.StripeTouches.stripeRow {q : Fin 24} {s u : State} (h : State.StripeTouches q s u) (j : FrameJob) (i row : Nat)
    (e : EncodedRow) : State.StripeTouches q s (u.stripeRow q j i row e .none) := by
  have clean : ∀ bs, u.rowErrors q (u.pipe q).setRegion j.frame i bs .none = u := fun _ => rfl
  unfold State.stripeRow
  dsimp only
  rw [clean]
  exact .trimEncoded (.updPipe
    (foldl_keeps (State.StripeTouches q s) _ (fun v (p : Nat × Nat) g => g.stripeRowTo j i row p.2 e .none) _ u h) _)

/-- The write channel goes on to the next row. -/
theorem State.write_stripeRow (s : State) (q : Fin 24) (j : FrameJob) (i row : Nat) (e : EncodedRow) (f : MemFindings) :
    ∀ y ∈ ((s.stripeRow q j i row e f).pipe q).frames, y.frame = j.frame → y.delivered = false → y.write = (i, row + 1) := by
  intro y mem frame live
  unfold State.stripeRow at mem
  dsimp only at mem
  rw [State.frames_trimEncoded, State.pipe_updPipe_same] at mem
  obtain ⟨k, rfl⟩ := Pipe.eq_of_mem_updFrame mem frame live
  rfl

theorem exec_stripeRowWrite {s : State} {t : Time} {q : Fin 24} {j : FrameJob} {w : Nat × Nat} {e : EncodedRow}
    (ready : s.phase = .ready)
    (next : (((s.pipe q).frames.filter fun j => !j.idle && !j.delivered).findSome? fun j =>
      (j.nextWrite (s.mapping (s.pipe q).mappingId).image).map fun w => (j, w)) = some (j, w))
    (row : ((s.pipe q).fe.encoded.find? fun e => e.frame == j.frame && e.row == w.2) = some e) (f : MemFindings) :
    exec (.stripeRowWrite t q f) s = .next ((s.begin t).stripeRow q j w.1 w.2 e f) := by
  have first : ((((s.begin t).pipe q).frames.filter fun j => !j.idle && !j.delivered).findSome? fun j =>
      (j.nextWrite ((s.begin t).mapping ((s.begin t).pipe q).mappingId).image).map fun w => (j, w)) = some (j, w) := next
  have there : (((s.begin t).pipe q).fe.encoded.find? fun e => e.frame == j.frame && e.row == w.2) = some e := row
  change execStripeRowWrite t q f s = _
  rw [execStripeRowWrite, whenReady_ready t _ s ready]
  simp only [first, there]

/-! ## FALLBACK_ROW_WRITE (R69 to R71, R473) -/

/-- From `s` to `u` nothing changes of the other pipelines, of the scratchpads, the pools and the ports. -/
structure State.FrontTouches (q : Nat) (s u : State) : Prop where
  others : ∀ p, p ≠ q → u.pipe p = s.pipe p
  spad : u.spad = s.spad
  pool : u.pool = s.pool
  ports : u.ports = s.ports

namespace State.FrontTouches
variable {q : Nat} {s u v : State}

theorem refl : State.FrontTouches q s s := ⟨fun _ _ => rfl, rfl, rfl, rfl⟩

theorem begin (t : Time) : State.FrontTouches q s (s.begin t) := ⟨fun _ _ => rfl, rfl, rfl, rfl⟩

theorem updPipe (h : State.FrontTouches q s u) (f : Pipe → Pipe) : State.FrontTouches q s (u.updPipe q f) :=
  { h with others := fun p other => (State.pipe_updPipe_other _ _ _ _ other).trans (h.others p other) }

theorem updStripe (h : State.FrontTouches q s u) (f : BitVec 32) (i : Nat) (g : Stripe → Stripe) :
    State.FrontTouches q s (u.updStripe q f i g) := h.updPipe _

theorem countStripe (h : State.FrontTouches q s u) (w : Nat) : State.FrontTouches q s (u.countStripe q w) := h.updPipe _

theorem trimEncoded (h : State.FrontTouches q s u) : State.FrontTouches q s (u.trimEncoded q) := by
  unfold State.trimEncoded
  exact h.updPipe _

theorem keeps (h : State.FrontTouches q s u) (g : u.WriteKeeps v) : State.FrontTouches q s v :=
  ⟨fun p other => (g.pipe p).trans (h.others p other), g.spad.trans h.spad, g.pool.trans h.pool, g.ports.trans h.ports⟩

theorem ite (p : Prop) [Decidable p] (h : State.FrontTouches q s u) (g : State.FrontTouches q s v) :
    State.FrontTouches q s (if p then u else v) := by
  split
  · exact h
  · exact g

theorem fault (h : State.FrontTouches q s u) (f : FaultInfo) : State.FrontTouches q s (u.fault f) := h.keeps (.fault .refl f)

theorem putFallback (h : State.FrontTouches q s u) (n : Nat) (w : BitVec 32 × Nat) (a : Nat) (d : List Byte) (bad : Bool)
    (f : MemFindings) : State.FrontTouches q s (u.putFallback n w a d bad f) := h.keeps (.writeVa ..)

theorem takeSlot (h : State.FrontTouches q s u) (j : FrameJob) (i : Nat) : State.FrontTouches q s (u.takeSlot q j i) := by
  unfold State.takeSlot
  split
  · exact h
  · split
    · exact (h.updStripe ..).updPipe _
    · exact (h.updStripe ..).countStripe 7

theorem fallbackRows (h : State.FrontTouches q s u) (n : Nat) (w : BitVec 32 × Nat) (c : PipeSettings) (g : PortSettings)
    (base i : Nat) (above : Option YuvRow) (y : YuvRow) (f : MemFindings) :
    State.FrontTouches q s (u.fallbackRows n w c g base i above y f) := by
  have luma := h.putFallback n w (base + 2 * g.width * i) (lumaP010 y.px) y.bad f
  unfold State.fallbackRows
  dsimp only
  split
  · exact .ite _ (luma.putFallback ..) luma
  · exact luma

theorem fallbackDisplay (h : State.FrontTouches q s u) (n : Nat) (w : BitVec 32 × Nat) (c : PipeSettings) (g : PortSettings)
    (base i : Nat) (rows : List YuvRow) (f : MemFindings) : State.FrontTouches q s (u.fallbackDisplay n w c g base i rows f) := by
  unfold State.fallbackDisplay
  exact foldl_keeps (State.FrontTouches q s) _
    (fun v e k => ((k.putFallback ..).putFallback ..).putFallback ..) _ u h

end State.FrontTouches

namespace State.FrontTouches
variable {q : Fin 24} {s u v : State}

theorem recordStatus (h : State.FrontTouches q s u) (f : BitVec 32) (c : BitVec 16) :
    State.FrontTouches q s (u.recordStatus (.pipeline q) f c) := by
  unfold State.recordStatus
  exact h.updPipe _

theorem makeFinal (h : State.FrontTouches q s u) (f : BitVec 32) (i : Nat) (c : Provenance) :
    State.FrontTouches q s (u.makeFinal q f i c) := by
  unfold State.makeFinal
  split
  · next j st _ =>
    have counted := fun g => (h.updStripe f i g).countStripe (provCode c)
    have padded := fun g => State.FrontTouches.ite (st.padded = true) ((counted g).countStripe 4) (counted g)
    have noted := fun g => State.FrontTouches.ite (c = .neural ∨ c = .poison) (padded g) ((padded g).recordStatus f (provStatus c))
    dsimp only
    exact .ite _ ((noted _).fault _) (noted _)
  · exact h

theorem fallbackFinal (h : State.FrontTouches q s u) (f : BitVec 32) (i : Nat) :
    State.FrontTouches q s (u.fallbackFinal q f i) := by
  unfold State.fallbackFinal
  split
  · exact .ite _ (h.makeFinal ..) h
  · exact h

theorem fallbackRow (h : State.FrontTouches q s u) (j : FrameJob) (e : EncodedRow) (f : MemFindings) :
    State.FrontTouches q s (u.fallbackRow q j e false f) := by
  have slot := State.FrontTouches.ite (e.row % j.settings.stripeH = 0) ((h.takeSlot j (e.row / j.settings.stripeH)).updPipe fun x =>
    { x with fe := { x.fe with yuv := [] } }) h
  unfold State.fallbackRow
  dsimp only
  refine .trimEncoded (.fallbackFinal (.updPipe ?_ _) _ _)
  split
  · exact .ite _ ((slot.fallbackRows ..).fallbackDisplay ..) (slot.fallbackRows ..)
  · exact slot

end State.FrontTouches

/-! ## How far the fallback path has come -/

/-- How far the fallback path has come in a frame. -/
def FrameJob.fallbackAt (j : FrameJob) : BitVec 32 × Bool × Nat := (j.frame, j.delivered, j.fbRow)

/-- From `s` to `u` the fallback path has come as far as before in each frame of pipeline `q`. -/
def State.FallbackStays (q : Nat) (s u : State) : Prop :=
  (u.pipe q).frames.map FrameJob.fallbackAt = (s.pipe q).frames.map FrameJob.fallbackAt

namespace State.FallbackStays
variable {q : Nat} {s u v : State}

theorem ite (p : Prop) [Decidable p] (h : State.FallbackStays q s u) (g : State.FallbackStays q s v) :
    State.FallbackStays q s (if p then u else v) := by
  split
  · exact h
  · exact g

theorem updPipe (h : State.FallbackStays q s u) {f : Pipe → Pipe}
    (keep : ∀ x, (f x).frames.map FrameJob.fallbackAt = x.frames.map FrameJob.fallbackAt) :
    State.FallbackStays q s (u.updPipe q f) := by
  unfold State.FallbackStays
  rw [State.pipe_updPipe_same, keep]
  exact h

theorem updFrame (h : State.FallbackStays q s u) (f : BitVec 32) {g : FrameJob → FrameJob}
    (keep : ∀ j, (g j).fallbackAt = j.fallbackAt) : State.FallbackStays q s (u.updPipe q fun x => x.updFrame f g) := by
  refine h.updPipe fun x => ?_
  unfold Pipe.updFrame
  rw [List.map_map]
  refine List.map_congr_left fun j _ => ?_
  dsimp only [Function.comp_apply]
  split
  · exact keep j
  · rfl

theorem updStripe (h : State.FallbackStays q s u) (f : BitVec 32) (i : Nat) (g : Stripe → Stripe) :
    State.FallbackStays q s (u.updStripe q f i g) := h.updFrame f fun _ => rfl

theorem countStripe (h : State.FallbackStays q s u) (w : Nat) : State.FallbackStays q s (u.countStripe q w) :=
  h.updPipe fun _ => rfl

theorem fault (h : State.FallbackStays q s u) (f : FaultInfo) : State.FallbackStays q s (u.fault f) := by
  have same : (u.fault f).pipe q = u.pipe q := (State.WriteKeeps.fault .refl f).pipe q
  unfold State.FallbackStays
  rw [same]
  exact h

end State.FallbackStays

namespace State.FallbackStays
variable {q : Fin 24} {s u v : State}

theorem recordStatus (h : State.FallbackStays q s u) (f : BitVec 32) (c : BitVec 16) :
    State.FallbackStays q s (u.recordStatus (.pipeline q) f c) := by
  unfold State.recordStatus
  exact h.updFrame f fun _ => rfl

theorem makeFinal (h : State.FallbackStays q s u) (f : BitVec 32) (i : Nat) (c : Provenance) :
    State.FallbackStays q s (u.makeFinal q f i c) := by
  unfold State.makeFinal
  split
  · next j st _ =>
    have counted := fun g => (h.updStripe f i g).countStripe (provCode c)
    have padded := fun g => State.FallbackStays.ite (st.padded = true) ((counted g).countStripe 4) (counted g)
    have noted := fun g => State.FallbackStays.ite (c = .neural ∨ c = .poison) (padded g) ((padded g).recordStatus f (provStatus c))
    dsimp only
    exact .ite _ ((noted _).fault _) (noted _)
  · exact h

theorem fallbackFinal (h : State.FallbackStays q s u) (f : BitVec 32) (i : Nat) :
    State.FallbackStays q s (u.fallbackFinal q f i) := by
  unfold State.fallbackFinal
  split
  · exact .ite _ (h.makeFinal ..) h
  · exact h

end State.FallbackStays

/-- Each job of frame `f` that is not yet delivered has row `n` next for the fallback path. -/
def State.FallbackNext (q : Nat) (f : BitVec 32) (n : Nat) (s : State) : Prop :=
  ∀ y ∈ (s.pipe q).frames, y.frame = f → y.delivered = false → y.fbRow = n

theorem State.FallbackNext.stays {q : Nat} {f : BitVec 32} {n : Nat} {s u : State} (h : State.FallbackNext q f n s)
    (stays : State.FallbackStays q s u) : State.FallbackNext q f n u := by
  intro y mem frame live
  have before : y.fallbackAt ∈ (s.pipe q).frames.map FrameJob.fallbackAt := stays ▸ List.mem_map_of_mem mem
  obtain ⟨x, memx, same⟩ := List.mem_map.1 before
  obtain ⟨xframe, xlive, xrow⟩ : x.frame = y.frame ∧ x.delivered = y.delivered ∧ x.fbRow = y.fbRow := by
    simpa [FrameJob.fallbackAt] using same
  exact xrow.symm.trans (h x memx (xframe.trans frame) (xlive.trans live))

/-- The fallback path goes on to the next row. -/
theorem State.fallbackNext_fallbackRow (s : State) (q : Fin 24) (j : FrameJob) (e : EncodedRow) (f : MemFindings) :
    State.FallbackNext q j.frame (e.row + 1) (s.fallbackRow q j e false f) := by
  have final : ∀ u, State.FallbackNext q j.frame (e.row + 1) u → ∀ i,
      State.FallbackNext q j.frame (e.row + 1) ((u.fallbackFinal q j.frame i).trimEncoded q) := by
    intro u next i y mem
    rw [State.frames_trimEncoded] at mem
    exact next.stays (State.FallbackStays.fallbackFinal (rfl : State.FallbackStays q u u) j.frame i) y mem
  unfold State.fallbackRow
  refine final _ (fun y mem frame live => ?_) _
  rw [State.pipe_updPipe_same] at mem
  obtain ⟨k, rfl⟩ := Pipe.eq_of_mem_updFrame mem frame live
  rfl

theorem exec_fallbackRowWrite {s : State} {t : Time} {q : Fin 24} {j : FrameJob} {e : EncodedRow} (ready : s.phase = .ready)
    (next : ((s.pipe q).frames.find? fun j => !j.delivered && decide (j.fbRow < j.port.height)) = some j)
    (row : ((s.pipe q).fe.encoded.find? fun e => e.frame == j.frame && e.row == j.fbRow) = some e)
    (serves : (s.begin t).deviceWaits j.settings.fbBase = false) (err : Bool) (f : MemFindings) :
    exec (.fallbackRowWrite t q err f) s = .next ((s.begin t).fallbackRow q j e err f) := by
  have first : (((s.begin t).pipe q).frames.find? fun j => !j.delivered && decide (j.fbRow < j.port.height)) = some j := next
  have there : (((s.begin t).pipe q).fe.encoded.find? fun e => e.frame == j.frame && e.row == j.fbRow) = some e := row
  change execFallbackRowWrite t q err f s = _
  rw [execFallbackRowWrite, whenReady_ready t _ s ready]
  simp only [first, there, serves, Bool.not_false, State.onlyIf_true]

/-! ## STATS_PACKET_WRITE (R73, R74) -/

theorem State.WriteKeeps.interrupt (s : State) (v : BitVec 11) : s.WriteKeeps (s.interrupt v) := by
  rw [State.interrupt_eq]
  exact ⟨rfl, rfl, rfl, rfl⟩

/-- From `s` to `u` pipeline `q` has the same frames and the same SEQ, and nothing changes of the other pipelines, of the
scratchpads, the pools and the ports. -/
structure State.Delivers (q : Nat) (s u : State) : Prop extends State.FrontTouches q s u where
  frames : (u.pipe q).frames = (s.pipe q).frames
  seq : (u.pipe q).statsSeq = (s.pipe q).statsSeq

theorem State.Delivers.updPipe {q : Nat} {s u : State} (h : State.Delivers q s u) {f : Pipe → Pipe}
    (frames : ∀ x, (f x).frames = x.frames) (seq : ∀ x, (f x).statsSeq = x.statsSeq) : State.Delivers q s (u.updPipe q f) where
  toFrontTouches := h.toFrontTouches.updPipe f
  frames := by rw [State.pipe_updPipe_same, frames, h.frames]
  seq := by rw [State.pipe_updPipe_same, seq, h.seq]

theorem State.Delivers.keeps {q : Nat} {s u v : State} (h : State.Delivers q s u) (g : u.WriteKeeps v) : State.Delivers q s v where
  toFrontTouches := h.toFrontTouches.keeps g
  frames := by rw [g.pipe, h.frames]
  seq := by rw [g.pipe, h.seq]

theorem State.Delivers.refl (q : Nat) (s : State) : State.Delivers q s s := ⟨.refl, rfl, rfl⟩

/-- A packet is delivered without a change to the frames. -/
theorem State.deliverStats_delivers (s : State) (q : Nat) (n : BitVec 32) (d : List Byte) (f : MemFindings) :
    State.Delivers q s (s.deliverStats q n d f) := by
  unfold State.deliverStats
  dsimp only
  split
  · exact .refl q s
  · split
    · exact (State.Delivers.refl q s).updPipe (fun _ => rfl) fun _ => rfl
    · have written := fun a (g : Pipe → BitVec 8) => ((State.Delivers.refl q s).keeps
        (.writeVa a d false (.front q n none) f)).updPipe (f := fun x => { x with statsProducer := g x }) (fun _ => rfl) fun _ => rfl
      split
      · exact (written _ _).keeps (.interrupt ..)
      · exact written _ _

/-- The packet that finds the ring full is dropped. -/
theorem State.deliverStats_full {s : State} {q : Nat} (on : (s.pipe q).live.statsSlotsM1 ≠ 0) (full : (s.pipe q).statsFull = true)
    (n : BitVec 32) (d : List Byte) (f : MemFindings) :
    s.deliverStats q n d f = s.updPipe q fun x => { x with statsDropped := sat32 x.statsDropped } := by
  unfold State.deliverStats
  dsimp only
  rw [if_neg on, if_pos full]

/-- A frame's packet is made: the next SEQ, and the frame is gone when it is delivered too. -/
def Pipe.packetMade (x : Pipe) : Pipe :=
  { x with statsSeq := x.statsSeq + 1
           frames := (x.updFirst (fun y => !y.statsDone) fun y => { y with statsDone := true }).frames.filter fun y =>
             !(y.delivered && y.statsDone) }

/-- With no error found a packet is delivered, its frame's entries of the heron unit go, and it is made. -/
theorem State.statsWrite_eq (s : State) (q : Fin 24) (j : FrameJob) (f : MemFindings) : ∃ h : Tab Heron,
    s.statsWrite q j false f =
      ({ s.deliverStats q j.frame (s.statsPacket q j) f with herons := h } : State).updPipe q Pipe.packetMade := by
  unfold State.statsWrite
  dsimp only
  split
  · exact ⟨_, rfl⟩
  · exact ⟨_, rfl⟩

theorem exec_statsPacketWrite {s : State} {t : Time} {q : Fin 24} {j : FrameJob} (ready : s.phase = .ready)
    (next : ((s.pipe q).frames.find? fun j => !j.statsDone) = some j) (ended : j.endTime.isSome = true)
    (rows : j.port.height ≤ j.feRow) (serves : (s.begin t).deviceWaits (s.pipe q).live.statsBase = false) (err : Bool)
    (f : MemFindings) : exec (.statsPacketWrite t q err f) s = .next ((s.begin t).statsWrite q j err f) := by
  have first : (((s.begin t).pipe q).frames.find? fun j => !j.statsDone) = some j := next
  have ring : (s.begin t).deviceWaits ((s.begin t).pipe q).live.statsBase = false := serves
  change execStatsPacketWrite t q err f s = _
  rw [execStatsPacketWrite, whenReady_ready t _ s ready]
  simp only [first, ended, rows, ring, decide_true, Bool.and_true, Bool.not_false, State.onlyIf_true]

/-- What a packet that is made leaves. -/
theorem State.statsWrite_advances {s : State} {q : Fin 24} {i : Nat}
    (first : ((s.pipe q).frames.findIdx? fun j => !j.statsDone) = some i) (j : FrameJob) (f : MemFindings) :
    State.FrontTouches q s (s.statsWrite q j false f) ∧
    ((s.statsWrite q j false f).pipe q).statsSeq = (s.pipe q).statsSeq + 1 ∧
    ((s.statsWrite q j false f).pipe q).frames = ((s.pipe q).frames.modify i fun y => { y with statsDone := true }).filter
      (fun y => !(y.delivered && y.statsDone)) ∧
    ((s.pipe q).live.statsSlotsM1 ≠ 0 → (s.pipe q).statsFull = true →
      ((s.statsWrite q j false f).pipe q).statsDropped = sat32 (s.pipe q).statsDropped ∧ (s.statsWrite q j false f).mem = s.mem) := by
  obtain ⟨h, run⟩ := s.statsWrite_eq q j f
  have delivers := s.deliverStats_delivers q j.frame (s.statsPacket q j) f
  have idx : (((s.deliverStats q j.frame (s.statsPacket q j) f).pipe q).frames.findIdx? fun j => !j.statsDone) = some i :=
    delivers.frames ▸ first
  have pipe : (s.statsWrite q j false f).pipe q = ((s.deliverStats q j.frame (s.statsPacket q j) f).pipe q).packetMade := by
    rw [run, State.pipe_updPipe_same]
    rfl
  refine ⟨?_, ?_, ?_, fun on full => ⟨?_, ?_⟩⟩
  · rw [run]
    refine .updPipe (delivers.toFrontTouches.keeps ?_) _
    exact ⟨rfl, rfl, rfl, rfl⟩
  · rw [pipe, ← delivers.seq]
    rfl
  · rw [pipe, ← delivers.frames, ← Pipe.updFirst_frames idx]
    rfl
  · rw [pipe, State.deliverStats_full on full, State.pipe_updPipe_same]
    rfl
  · rw [run, State.deliverStats_full on full]
    rfl

/-! ## The four row events -/

/-- Settles O17: each event takes the row it finds next; what it may touch is followed through its steps. -/
theorem frontEndRowsAdvance : Obligations.FrontEndRowsAdvance := by
  unfold Obligations.FrontEndRowsAdvance
  intro s t q ready
  refine ⟨fun i j first at_ rows => ?encoded, fun j w e next row => ?stripe, fun j e next row serves => ?fallback,
    fun i j first at_ ended rows serves => ?stats⟩
  case encoded =>
    obtain ⟨only, others, encoded, forth⟩ := State.encodeRow_advances (s := s.begin t) first at_
    exact ⟨_, (s.pipe q).fe.nextEncoded j, exec_encodedRowFinal ready (find?_of_findIdx? first at_) rows, only, others, encoded,
      rfl, rfl, rfl, FrontEnd.width_nextEncoded .., rfl, forth⟩
  case stripe =>
    have touches := (State.StripeTouches.begin (q := q) (s := s) t).stripeRow j w.1 w.2 e
    exact ⟨_, exec_stripeRowWrite ready next row .none, State.write_stripeRow (s.begin t) q j w.1 w.2 e .none, touches.others,
      touches.mem, touches.pool, touches.ports, touches.channels, touches.eth, touches.faults⟩
  case fallback =>
    have at_ : e.row = j.fbRow := by
      have holds := List.find?_some row
      simp only [Bool.and_eq_true, beq_iff_eq] at holds
      exact holds.2
    have touches := (State.FrontTouches.begin (q := q) (s := s) t).fallbackRow j e .none
    exact ⟨_, exec_fallbackRowWrite ready next row serves false .none,
      at_ ▸ State.fallbackNext_fallbackRow (s.begin t) q j e .none, touches.others, touches.spad, touches.pool, touches.ports⟩
  case stats =>
    obtain ⟨touches, seq, frames, full⟩ := State.statsWrite_advances (s := s.begin t) first j .none
    exact ⟨_, exec_statsPacketWrite ready (find?_of_findIdx? first at_) ended rows serves false .none, seq,
      congrArg (List.map FrameJob.frame) frames, full, touches.others, touches.spad, touches.pool, touches.ports⟩

end Sys2Proof.Machine
end

section
/-!
PROOFS. O18: RELEASE_RESIDENT, POOL_FLUSH and its end, and the end of a quarter switch. What a body that writes blocks leaves of the rest,
what a write-back makes of the caches and of DRAM, and what a quarter reads when it has changed its mode.
-/

namespace Sys2Proof.Machine

open Sys2Proof

/-! ## Runs of bytes -/

theorem Memory.put_append : ∀ (d e : List Byte) (m : Memory) (a : Nat), m.put a (d ++ e) = (m.put a d).put (a + d.length) e
  | [], _, _, _ => rfl
  | x :: d, e, m, a => by
    rw [List.cons_append, Memory.put, Memory.put_append d e (m.write a x) (a + 1), Memory.put, List.length_cons,
      Nat.add_assoc, Nat.add_comm 1]

/-- A byte of the run reads as written. -/
theorem Memory.read_put : ∀ (d : List Byte) (m : Memory) (a k : Nat), k < d.length → (m.put a d).read (a + k) = d.getD k 0
  | [], _, _, _, h => absurd h (Nat.not_lt_zero _)
  | x :: d, m, a, 0, _ =>
    (Memory.read_put_other d (m.write a x) (a + 1) a (.inl (Nat.lt_add_one a))).trans (Memory.read_write_same m a x)
  | x :: d, m, a, k + 1, h => by
    rw [Memory.put, ← Nat.add_assoc, Nat.add_right_comm, Memory.read_put d _ (a + 1) k (Nat.lt_of_succ_lt_succ h)]
    rfl

theorem Memory.bytes_put (d : List Byte) (m : Memory) (a : Nat) : (m.put a d).bytes a d.length = d := by
  refine List.ext_getElem (by simp [Memory.bytes]) fun k _ h => ?_
  simp [Memory.bytes, Memory.read_put d m a k h, h]

theorem Memory.read_clear (lo hi a : Nat) : ∀ m : Memory,
    (m.clear lo hi).read a = if lo ≤ a ∧ a < hi then 0 else m.read a
  | [] => (ite_self _).symm
  | (k, v) :: m => by
    have ih := Memory.read_clear lo hi a m
    unfold Memory.clear at ih ⊢
    by_cases keep : (decide (k < lo) || decide (hi ≤ k)) = true
    · simp only [List.filter_cons, keep, if_true, Memory.read, ih]
      by_cases here : k = a
      · subst here
        have outside : ¬ (lo ≤ k ∧ k < hi) := by simpa [or_iff_not_imp_left] using keep
        rw [if_pos rfl, if_pos rfl, if_neg outside]
      · rw [if_neg here, if_neg here]
    · simp only [List.filter_cons, keep, Bool.false_eq_true, if_false, Memory.read, ih]
      by_cases here : k = a
      · subst here
        have inside : lo ≤ k ∧ k < hi := by simpa using keep
        rw [if_pos inside, if_pos inside]
      · rw [if_neg here]

/-! ## A body's writes and the ACK after them -/

section
variable {s v : State} {o : OpRow} {q : Req} {a : Ack} (sent : a.held = false) (crc : a.status ≠ Code.badCrc)
include sent crc

theorem State.served_eq : s.served o q a = { s.received q with eth := (s.served o q a).eth, out := (s.served o q a).out } :=
  State.acked_eq (s.received q) o q sent crc

/-- The ACK speaks of its port alone, so what a body writes elsewhere stands beside it. -/
theorem lysil_apart (taken : s.takes o q) {body : Body} (does : body (o.ticket q) q.params (s.received q) = (v, a))
    (time : v.time = (s.received q).time) (eth : v.eth = (s.received q).eth) (out : v.out = (s.received q).out) :
    lysil o q body s = .next { v with eth := (s.served o q a).eth, out := (s.served o q a).out } := by
  rw [lysil_of_takes taken, show reqTicket q o.code = o.ticket q from rfl, does]
  exact congrArg Host.Outcome.next (State.acked_agree sent crc time eth out)
end

/-! ## RELEASE_RESIDENT (R124) -/

/-- The same update of each block of a list, where a second one changes nothing more. -/
theorem State.block_forEach_updBlock {f : Block → Block} (once : ∀ x, f (f x) = f x) (l : List Nat) (s : State) (n : Nat) :
    (forEach l (fun b s => s.updBlock b f) s).block n = if n ∈ l then f (s.block n) else s.block n := by
  induction l generalizing s with
  | nil => rfl
  | cons b l ih =>
    refine (ih (s.updBlock b f)).trans ?_
    by_cases here : n = b
    · subst here
      simp [once]
    · simp [here]

theorem State.forEach_updBlock_eq (f : Block → Block) (l : List Nat) (s : State) : forEach l (fun b s => s.updBlock b f) s =
    { s with blocks := (forEach l (fun b s => s.updBlock b f) s).blocks } :=
  forEach_frame (fun s u : State => { s with blocks := u.blocks }) (fun _ _ _ => rfl) (fun _ => rfl) (fun _ _ => rfl) l s

/-- A body that writes blocks. -/
theorem lysil_blocks {s v : State} {o : OpRow} {q : Req} (taken : s.takes o q) {body : Body}
    (does : body (o.ticket q) q.params (s.received q) = (v, .ok)) (only : v = { s.received q with blocks := v.blocks }) :
    lysil o q body s = .next { s.served o q .ok with blocks := v.blocks } := by
  have apart := lysil_apart (a := .ok) rfl (by decide : Code.ok ≠ Code.badCrc) taken does (congrArg State.time only :)
    (congrArg State.eth only :) (congrArg State.out only :)
  rw [apart, only]
  exact congrArg (fun u : State => Host.Outcome.next { u with blocks := v.blocks })
    (State.served_eq (a := .ok) rfl (by decide : Code.ok ≠ Code.badCrc)).symm

/-- A block without one residency. -/
def Block.dropResident (x : Block) (id : Nat) : Block := { x with residents := x.residents.filter fun r => r.id.toNat != id }

theorem Block.dropResident_once (x : Block) (id : Nat) : (x.dropResident id).dropResident id = x.dropResident id := by
  simp [Block.dropResident]

/-- Some thread of the blocks that a request names binds its residency. -/
def State.residentHeld (s : State) (p : List Byte) : Bool :=
  (indices 64 fun b => (le p 4 8).testBit b).any fun b => (s.block b).threads.any fun t => s.binds t (le p 0 4)

theorem State.residentHeld_received (s : State) (q : Req) (p : List Byte) : (s.received q).residentHeld p = s.residentHeld p :=
  (congrArg (State.residentHeld · p) (s.received_eq q) :)

theorem releaseResidentBody_eq (k : Ticket) (p : List Byte) (s : State) : releaseResidentBody k p s =
    if s.residentHeld p = true then (s, .err Code.notPermitted) else
      (forEach (indices 64 fun b => (le p 4 8).testBit b) (fun b s => s.updBlock b fun x => x.dropResident (le p 0 4)) s, .ok) := rfl

section
variable {s : State} {q : Req}

theorem exec_releaseResident_held (taken : s.takes (opRow 0x0430 12) q) (held : s.residentHeld q.params = true) :
    exec (.releaseResident q) s = .next (s.served (opRow 0x0430 12) q (.err Code.notPermitted)) := by
  refine lysil_answers taken ?_
  rw [releaseResidentBody_eq, State.residentHeld_received, if_pos held]

theorem exec_releaseResident_free (taken : s.takes (opRow 0x0430 12) q) (free : s.residentHeld q.params = false) :
    ∃ u, exec (.releaseResident q) s = .next u ∧ u = { s.served (opRow 0x0430 12) q .ok with blocks := u.blocks } ∧
      ∀ n, u.block n = if n < 64 ∧ (le q.params 4 8).testBit n = true then (s.block n).dropResident (le q.params 0 4)
        else s.block n := by
  refine ⟨_, lysil_blocks taken ?_ (State.forEach_updBlock_eq (fun x => x.dropResident (le q.params 0 4))
    (indices 64 fun b => (le q.params 4 8).testBit b) (s.received q)), rfl, fun n => ?_⟩
  · rw [releaseResidentBody_eq, State.residentHeld_received, free]
    rfl
  · refine (State.block_forEach_updBlock (fun x => x.dropResident_once _) _ (s.received q) n).trans ?_
    rw [State.block_received]
    simp only [mem_indices]
end

/-! ## POOL_FLUSH (R134) -/

theorem State.mem_dirtyLines {s : State} {rs : List Nat} {x a : Nat} :
    (x, a) ∈ s.dirtyLines rs ↔ x ∈ rs ∧ ∃ l ∈ (s.region x).cache, l.dirty = true ∧ l.addr = a := by
  simp only [State.dirtyLines, List.mem_flatMap, List.mem_map, List.mem_filter, Prod.mk.injEq]
  constructor
  · rintro ⟨_, mem, l, ⟨at_, dirty⟩, rfl, rfl⟩
    exact ⟨mem, l, at_, dirty, rfl⟩
  · rintro ⟨mem, l, at_, dirty, rfl⟩
    exact ⟨x, mem, l, ⟨at_, dirty⟩, rfl, rfl⟩

/-- The regions that POOL_FLUSH names. -/
def flushRegions (r : Nat) : List Nat := if r = 0xFF then [0, 1, 2, 3] else [r]

theorem mem_flushRegions {r x : Nat} (named : r < 4 ∨ r = 0xFF) : x ∈ flushRegions r ↔ x < 4 ∧ (r = x ∨ r = 0xFF) := by
  unfold flushRegions
  split
  · simp only [List.mem_cons, List.not_mem_nil, or_false]
    omega
  · simp only [List.mem_cons, List.not_mem_nil, or_false]
    omega

/-- The flush that a request begins. -/
def State.flushOf (s : State) (k : Ticket) (r : Nat) : Flush :=
  { ticket := k, regions := BitVec.ofNat 4 (if r = 0xFF then 15 else 2 ^ r), lines := s.dirtyLines (flushRegions r) }

/-- The state with it begun. -/
def State.beginFlush (s : State) (k : Ticket) (r : Nat) : State := { s with flushes := s.flushes ++ [s.flushOf k r] }

theorem State.flushes_beginFlush_received (s : State) (q : Req) (k : Ticket) (r : Nat) :
    ((s.received q).beginFlush k r).flushes = s.flushes ++ [s.flushOf k r] :=
  (congrArg (fun u : State => (u.beginFlush k r).flushes) (s.received_eq q) :)

theorem poolFlushBody_eq (k : Ticket) (p : List Byte) (s : State) : poolFlushBody k p s =
    if 3 < le p 0 1 ∧ le p 0 1 ≠ 0xFF then (s, .err Code.notPermitted)
    else (s.beginFlush k (le p 0 1), .err Code.accepted) := rfl

section
variable {s : State} {q : Req} (taken : s.takes (opRow 0x0431 4 true) q)
include taken

theorem exec_poolFlush_refused (bad : 3 < le q.params 0 1 ∧ le q.params 0 1 ≠ 0xFF) :
    exec (.poolFlush q) s = .next (s.served (opRow 0x0431 4 true) q (.err Code.notPermitted)) := by
  refine lysil_answers taken ?_
  rw [poolFlushBody_eq, if_pos bad]

theorem exec_poolFlush_begins (good : ¬ (3 < le q.params 0 1 ∧ le q.params 0 1 ≠ 0xFF)) :
    exec (.poolFlush q) s = .next { s.served (opRow 0x0431 4 true) q (.err Code.accepted) with
      flushes := s.flushes ++ [s.flushOf ((opRow 0x0431 4 true).ticket q) (le q.params 0 1)] } := by
  have does : poolFlushBody ((opRow 0x0431 4 true).ticket q) q.params (s.received q) = _ :=
    (poolFlushBody_eq _ _ _).trans (if_neg good)
  refine (lysil_apart rfl (by decide : Code.accepted ≠ Code.badCrc) taken does rfl rfl rfl).trans ?_
  rw [← State.flushes_beginFlush_received,
    State.served_eq (a := .err Code.accepted) rfl (by decide : Code.accepted ≠ Code.badCrc)]
  rfl
end

/-! ## What a write-back makes of a region's cache (R132 to R134) -/

/-- From `x` to `y` the cache loses lines, or lines of it become clean; the modes stay. -/
structure Region.Cleans (x y : Region) : Prop where
  poolLive : y.poolLive = x.poolLive
  switching : y.switching = x.switching
  dirty : ∀ l ∈ y.cache, l.dirty = true → l ∈ x.cache
  lookup : ∀ n l, y.lookup n = some l → ∃ m, x.lookup n = some m ∧ l.data = m.data

namespace Region.Cleans
variable {x y z : Region}

theorem refl (x : Region) : x.Cleans x := ⟨rfl, rfl, fun _ h _ => h, fun _ l h => ⟨l, h, rfl⟩⟩

theorem trans (h : x.Cleans y) (g : y.Cleans z) : x.Cleans z where
  poolLive := g.poolLive.trans h.poolLive
  switching := g.switching.trans h.switching
  dirty l at_ dirty := h.dirty l (g.dirty l at_ dirty) dirty
  lookup n l found := by
    obtain ⟨m, foundY, data⟩ := g.lookup n l found
    obtain ⟨k, foundX, data'⟩ := h.lookup n m foundY
    exact ⟨k, foundX, data.trans data'⟩

end Region.Cleans

/-- From `x` to `y` the cache loses lines, and no more happens to it. -/
structure Region.Loses (x y : Region) : Prop extends Region.Cleans x y where
  cache : ∀ l ∈ y.cache, l ∈ x.cache

theorem Region.Loses.refl (x : Region) : x.Loses x := ⟨.refl x, fun _ h => h⟩

theorem Region.Loses.trans {x y z : Region} (h : x.Loses y) (g : y.Loses z) : x.Loses z :=
  ⟨h.toCleans.trans g.toCleans, fun l at_ => h.cache l (g.cache l at_)⟩

theorem Region.mem_dropLine {x : Region} {a : Nat} {l : CacheLine} (at_ : l ∈ (x.dropLine a).cache) : l ∈ x.cache :=
  (List.mem_filter.1 at_).1

theorem Region.lookup_dropLine {x : Region} {a n : Nat} {l : CacheLine} (found : (x.dropLine a).lookup n = some l) :
    x.lookup n = some l := by
  have addr : l.addr = n := by simpa using List.find?_some (p := fun l : CacheLine => l.addr == n) found
  have other : n ≠ a := by
    have kept := (List.mem_filter.1 (List.mem_of_find?_eq_some found)).2
    simpa [addr] using kept
  have same : (fun l : CacheLine => decide (((l.addr != a) = true) ∧ ((l.addr == n) = true))) = fun l => l.addr == n := by
    funext m
    by_cases here : m.addr = n
    · simp [here, other]
    · simp [here]
  unfold Region.lookup Region.dropLine at found
  rwa [List.find?_filter, same] at found

theorem Region.dropLine_loses (x : Region) (a : Nat) : x.Loses (x.dropLine a) :=
  ⟨⟨rfl, rfl, fun _ at_ _ => Region.mem_dropLine at_, fun _ l found => ⟨l, Region.lookup_dropLine found, rfl⟩⟩,
    fun _ at_ => Region.mem_dropLine at_⟩

/-- A region whose lines of one address are clean. -/
def Region.cleanLine (x : Region) (a : Nat) : Region :=
  { x with cache := x.cache.map fun m => if m.addr = a then { m with dirty := false } else m }

theorem Region.clean_cleanLine {x : Region} {a : Nat} {l : CacheLine} (at_ : l ∈ (x.cleanLine a).cache) (addr : l.addr = a) :
    l.dirty = false := by
  obtain ⟨m, -, rfl⟩ := List.mem_map.1 at_
  split at addr
  · rw [if_pos ‹_›]
  · exact absurd addr ‹_›

theorem Region.cleanLine_cleans (x : Region) (a : Nat) : x.Cleans (x.cleanLine a) where
  poolLive := rfl
  switching := rfl
  dirty l at_ dirty := by
    obtain ⟨m, mem, rfl⟩ := List.mem_map.1 at_
    split at dirty
    · exact absurd dirty (by simp)
    · rwa [if_neg ‹_›]
  lookup n l found := by
    have addr : ((fun l : CacheLine => l.addr == n) ∘ fun m => if m.addr = a then { m with dirty := false } else m) =
        fun l => l.addr == n := by
      funext m
      dsimp only [Function.comp_apply]
      split <;> rfl
    unfold Region.lookup Region.cleanLine at found
    rw [List.find?_map, addr] at found
    obtain ⟨m, old, rfl⟩ := Option.map_eq_some_iff.1 found
    refine ⟨m, old, ?_⟩
    split <;> rfl

/-- A counter of the pool is none of its modes and no line. -/
theorem Region.counters_loses (x : Region) (c : Counters) : x.Loses { x with poolCounters := c } :=
  ⟨⟨rfl, rfl, fun _ h _ => h, fun _ l h => ⟨l, h, rfl⟩⟩, fun _ h => h⟩

/-! ## Write-backs one after another (R134) -/

/-- What an update makes of one region, and equality of the others, holds of each. -/
theorem State.each_updRegion {R : Region → Region → Prop} (refl : ∀ x, R x x) (s : State) (r : Nat) {f : Region → Region}
    (own : ∀ x, R x (f x)) (n : Nat) : R (s.region n) ((s.updRegion r f).region n) := by
  by_cases here : n = r
  · subst here
    rw [State.region_updRegion_same]
    exact own _
  · rw [State.region_updRegion_other _ _ _ _ here]
    exact refl _

/-- Lines go or become clean in each region, -/
def State.Cleans (s u : State) : Prop := ∀ x, (s.region x).Cleans (u.region x)

/-- or go and no more. -/
def State.Loses (s u : State) : Prop := ∀ x, (s.region x).Loses (u.region x)

theorem State.Cleans.refl (s : State) : s.Cleans s := fun _ => .refl _
theorem State.Cleans.trans {s u v : State} (h : s.Cleans u) (g : u.Cleans v) : s.Cleans v := fun x => (h x).trans (g x)

namespace State.Loses
variable {s u v : State}

theorem refl (s : State) : s.Loses s := fun _ => .refl _

theorem trans (h : s.Loses u) (g : u.Loses v) : s.Loses v := fun x => (h x).trans (g x)

theorem cleans (h : s.Loses u) : s.Cleans u := fun x => (h x).toCleans

theorem of_regions (same : u.regions = s.regions) : s.Loses u := fun x => State.region_congr same x ▸ .refl _

theorem dropLine (r a : Nat) : s.Loses (s.updRegion r fun x => x.dropLine a) :=
  State.each_updRegion Region.Loses.refl s r fun x => x.dropLine_loses a

theorem countPool (r w : Nat) : s.Loses (s.countPool r w) :=
  State.each_updRegion Region.Loses.refl s r fun x => x.counters_loses _

theorem invalidateOthers (own : Option Nat) (g : Nat) : s.Loses (s.invalidateOthers own g) := by
  unfold State.invalidateOthers
  refine forEach_keeps s.Loses _ (fun r u h => ?_) _ s (.refl s)
  dsimp only
  split
  · have dropped := (h.trans (.dropLine r g)).trans (.countPool r 3)
    split
    · exact dropped.trans (.countPool r 4)
    · exact dropped
  · exact h

theorem writeBack (r : Nat) (l : CacheLine) : s.Loses (s.writeBack r l) := by
  unfold State.writeBack
  split
  · have granule : s.Loses (s.writeGranule l.addr 0 l.data l.poison) := .of_regions (by rw [State.writeGranule_eq])
    exact (granule.trans (.invalidateOthers _ _)).trans (.countPool r 2)
  · exact .refl s

end State.Loses

theorem State.dram_writeBack (s : State) (r : Nat) (l : CacheLine) : (s.writeBack r l).mem.dram =
    if l.dirty = true then s.mem.dram.put (64 * l.addr) l.data else s.mem.dram := by
  unfold State.writeBack
  split
  · rw [State.countPool, State.mem_updRegion, State.invalidateOthers_eq, State.dram_writeGranule, Nat.add_zero]
  · rfl

/-- The line of one address is written back, if it is still there. -/
def State.writeBackAt (s : State) (r a : Nat) : State :=
  match (s.region r).lookup a with
  | some l => (s.writeBack r l).updRegion r fun x => x.cleanLine a
  | none => s

theorem State.writeBackLines_cons (s : State) (r a : Nat) (ls : List (Nat × Nat)) :
    s.writeBackLines ((r, a) :: ls) = (s.writeBackAt r a).writeBackLines ls := rfl

section
variable {s : State} {r a : Nat}

theorem State.writeBackAt_found {l : CacheLine} (found : (s.region r).lookup a = some l) :
    s.writeBackAt r a = (s.writeBack r l).updRegion r fun x => x.cleanLine a := by
  unfold State.writeBackAt
  rw [found]

theorem State.writeBackAt_gone (gone : (s.region r).lookup a = none) : s.writeBackAt r a = s := by
  unfold State.writeBackAt
  rw [gone]
end

theorem State.writeBackAt_eq (s : State) (r a : Nat) :
    s.writeBackAt r a = { s with mem := (s.writeBackAt r a).mem, regions := (s.writeBackAt r a).regions } := by
  cases found : (s.region r).lookup a with
  | none => rw [State.writeBackAt_gone found]
  | some l => rw [State.writeBackAt_found found, State.updRegion, State.setRegion, State.writeBack_eq]

theorem State.writeBackLines_eq (s : State) (ls : List (Nat × Nat)) :
    s.writeBackLines ls = { s with mem := (s.writeBackLines ls).mem, regions := (s.writeBackLines ls).regions } :=
  forEach_frame (fun s u : State => { s with mem := u.mem, regions := u.regions }) (fun _ _ _ => rfl) (fun _ => rfl)
    (fun x s => s.writeBackAt_eq x.1 x.2) ls s

theorem State.writeBackAt_cleans (s : State) (r a : Nat) : s.Cleans (s.writeBackAt r a) := by
  cases found : (s.region r).lookup a with
  | none => rw [State.writeBackAt_gone found]; exact .refl s
  | some l =>
    rw [State.writeBackAt_found found]
    exact (State.Loses.writeBack r l).cleans.trans
      (State.each_updRegion Region.Cleans.refl _ r fun x => x.cleanLine_cleans a)

theorem State.writeBackLines_cleans (s : State) (ls : List (Nat × Nat)) : s.Cleans (s.writeBackLines ls) :=
  forEach_keeps s.Cleans _ (fun x u h => h.trans (u.writeBackAt_cleans x.1 x.2)) ls s (.refl s)

/-- After it no line of that address is dirty. -/
theorem State.writeBackAt_clean (s : State) (r a : Nat) :
    ∀ l ∈ ((s.writeBackAt r a).region r).cache, l.addr = a → l.dirty = false := by
  intro l at_ addr
  cases found : (s.region r).lookup a with
  | none =>
    rw [State.writeBackAt_gone found] at at_
    exact absurd addr (by simpa using List.find?_eq_none.1 found l at_)
  | some m =>
    rw [State.writeBackAt_found found, State.region_updRegion_same] at at_
    exact Region.clean_cleanLine at_ addr

theorem State.writeBackLines_clean {x a : Nat} (ls : List (Nat × Nat)) (s : State) (named : (x, a) ∈ ls) :
    ∀ l ∈ ((s.writeBackLines ls).region x).cache, l.addr = a → l.dirty = false := by
  induction ls generalizing s with
  | nil => exact absurd named List.not_mem_nil
  | cons p ls ih =>
    obtain ⟨r, b⟩ := p
    rw [State.writeBackLines_cons]
    obtain same | later := List.mem_cons.1 named
    · obtain ⟨rfl, rfl⟩ := Prod.mk.inj same
      intro l at_ addr
      by_contra dirty
      have dirty : l.dirty = true := by simpa using dirty
      have before := ((s.writeBackAt x a).writeBackLines_cleans ls x).dirty l at_ dirty
      exact absurd dirty (by simp [s.writeBackAt_clean x a l before addr])
    · exact ih _ later

/-- A byte outside the line of an address stays when that line is written back. -/
theorem State.dram_writeBackAt_other {s : State} {r n a : Nat} (out : ∀ l, (s.region r).lookup n = some l →
    a < 64 * n ∨ 64 * n + l.data.length ≤ a) : (s.writeBackAt r n).mem.dram.read a = s.mem.dram.read a := by
  cases found : (s.region r).lookup n with
  | none => rw [State.writeBackAt_gone found]
  | some l =>
    have addr : l.addr = n := by simpa using List.find?_some (p := fun l : CacheLine => l.addr == n) found
    rw [State.writeBackAt_found found, State.mem_updRegion, State.dram_writeBack, addr]
    split
    · exact Memory.read_put_other _ _ _ _ (out l found)
    · rfl

/-- So outside all of them, as they were before the first. -/
theorem State.dram_writeBackLines_other {a : Nat} (ls : List (Nat × Nat)) (s : State) (out : ∀ x n, (x, n) ∈ ls →
    ∀ l, (s.region x).lookup n = some l → a < 64 * n ∨ 64 * n + l.data.length ≤ a) :
    (s.writeBackLines ls).mem.dram.read a = s.mem.dram.read a := by
  induction ls generalizing s with
  | nil => rfl
  | cons p ls ih =>
    obtain ⟨r, b⟩ := p
    rw [State.writeBackLines_cons, ih _ fun x n later l found => ?_]
    · exact State.dram_writeBackAt_other (out r b List.mem_cons_self)
    · obtain ⟨m, old, data⟩ := (s.writeBackAt_cleans r b x).lookup n l found
      rw [data]
      exact out x n (List.mem_cons_of_mem _ later) m old

theorem State.dram_writeBackAt_dirty {s : State} {r a : Nat} {l : CacheLine} (found : (s.region r).lookup a = some l)
    (dirty : l.dirty = true) : (s.writeBackAt r a).mem.dram.bytes (64 * a) l.data.length = l.data := by
  have addr : l.addr = a := by simpa using List.find?_some (p := fun l : CacheLine => l.addr == a) found
  rw [State.writeBackAt_found found, State.mem_updRegion, State.dram_writeBack, if_pos dirty, addr, Memory.bytes_put]

/-! ## The end of a flush -/

theorem exec_poolFlushDone {s : State} {t : Time} {f : Flush} {rest : List Flush} (ready : s.phase = .ready)
    (oldest : s.flushes = f :: rest) (serves : (s.begin t).dramServes = true ∨ f.lines = []) : exec (.poolFlushDone t) s =
      .next (({ s.begin t with flushes := rest }.writeBackLines f.lines).complete f.ticket Code.ok []) := by
  have first : (s.begin t).flushes = f :: rest := oldest
  have goes : ((s.begin t).dramServes || f.lines.isEmpty) = true := by simpa using serves
  change execPoolFlushDone t s = _
  rw [execPoolFlushDone, whenReady_ready t _ s ready, first]
  dsimp only
  rw [goes, State.onlyIf_true]

/-- What the end of a flush leaves. -/
theorem State.flushed_leaves (s : State) (f : Flush) (rest : List Flush) {u : State}
    (ends : u = ({ s with flushes := rest }.writeBackLines f.lines).complete f.ticket Code.ok []) :
    u.flushes = rest ∧ s.completes u f.ticket Code.ok [] ∧
      (∀ x a, (x, a) ∈ f.lines → ∀ l ∈ (u.region x).cache, l.addr = a → l.dirty = false) ∧
      (∀ a, (∀ x n, (x, n) ∈ f.lines → ∀ l, (s.region x).lookup n = some l → a < 64 * n ∨ 64 * n + l.data.length ≤ a) →
        u.mem.dram.read a = s.mem.dram.read a) ∧
      (∀ x n l, f.lines = [(x, n)] → (s.region x).lookup n = some l → l.dirty = true →
        u.mem.dram.bytes (64 * n) l.data.length = l.data) ∧
      u.blocks = s.blocks ∧ u.spad = s.spad ∧ u.pool = s.pool ∧ u.channels = s.channels := by
  have only := State.writeBackLines_eq { s with flushes := rest } f.lines
  have kept := ends.trans (State.complete_eq ..)
  have regions : u.regions = ({ s with flushes := rest }.writeBackLines f.lines).regions := (congrArg State.regions kept :)
  have mem : u.mem = ({ s with flushes := rest }.writeBackLines f.lines).mem := (congrArg State.mem kept :)
  refine ⟨?_, ?_, fun x a named l at_ addr => ?_, fun a out => ?_, fun x n l lines found dirty => ?_, ?_, ?_, ?_, ?_⟩
  · rw [kept, only]
  · rw [ends]
    exact State.completes_of_eth (congrArg State.eth only :).symm (State.completes_complete ..)
  · rw [State.region_congr regions] at at_
    exact State.writeBackLines_clean f.lines _ named l at_ addr
  · rw [mem]
    exact State.dram_writeBackLines_other f.lines { s with flushes := rest } out
  · rw [mem, lines]
    exact State.dram_writeBackAt_dirty (s := { s with flushes := rest }) found dirty
  · rw [kept, only]
  · rw [kept, only]
  · rw [kept, only]
  · rw [kept, only]

/-! ## A quarter changes its mode (R136) -/

/-- A quarter of a region takes its new mode: one that enters SCRATCHPAD mode is zeroed. -/
def State.enterMode (s : State) (r : Nat) (modes : BitVec 8) (q : Nat) : State :=
  ((if bits (2 * q + 1) (2 * q) modes = 0 then s.zeroQuarter r q else s).countPool r 6).suppressTail
    (.quarter (Fin.ofNat 4 r) (Fin.ofNat 4 q))

theorem State.enterMode_eq (s : State) (r : Nat) (modes : BitVec 8) (q : Nat) : s.enterMode r modes q =
    { s with regions := (s.enterMode r modes q).regions, pool := (s.enterMode r modes q).pool
             poolPoison := (s.enterMode r modes q).poolPoison, faults := (s.enterMode r modes q).faults } := by
  unfold State.enterMode
  split <;> rfl

theorem State.regions_enterMode (s : State) (r : Nat) (modes : BitVec 8) (q : Nat) :
    (s.enterMode r modes q).regions = (s.countPool r 6).regions := by
  unfold State.enterMode
  split <;> rfl

/-- An address lies in a quarter of a region. -/
def inQuarter (r q a : Nat) : Bool := decide (poolAddr r (0x40_0000 * q) ≤ a) && decide (a < poolAddr r (0x40_0000 * (q + 1)))

theorem inQuarter_iff {r q a : Nat} : inQuarter r q a = true ↔
    poolAddr r (0x40_0000 * q) ≤ a ∧ a < poolAddr r (0x40_0000 * q) + 0x40_0000 := by
  have next : poolAddr r (0x40_0000 * (q + 1)) = poolAddr r (0x40_0000 * q) + 0x40_0000 := by
    unfold poolAddr
    omega
  rw [inQuarter, next, Bool.and_eq_true, decide_eq_true_eq, decide_eq_true_eq]

theorem State.pool_enterMode (s : State) (r : Nat) (modes : BitVec 8) (q a : Nat) : (s.enterMode r modes q).pool.read a =
    if (bits (2 * q + 1) (2 * q) modes == 0 && inQuarter r q a) = true then 0 else s.pool.read a := by
  by_cases scratch : bits (2 * q + 1) (2 * q) modes = 0
  · have cleared : (s.enterMode r modes q).pool = (s.zeroQuarter r q).pool := by
      unfold State.enterMode
      rw [if_pos scratch]
      rfl
    rw [cleared, State.zeroQuarter, Memory.read_clear]
    simp only [← inQuarter_iff, scratch, beq_self_eq_true, Bool.true_and]
  · have stays : (s.enterMode r modes q).pool = s.pool := by
      unfold State.enterMode
      rw [if_neg scratch]
      rfl
    simp [stays, scratch]

/-- Some quarters of a region take their new modes. -/
def State.enterModes (s : State) (r : Nat) (modes : BitVec 8) (qs : List Nat) : State :=
  forEach qs (fun q s => s.enterMode r modes q) s

theorem State.pool_enterModes (r : Nat) (modes : BitVec 8) (a : Nat) (qs : List Nat) (s : State) :
    (s.enterModes r modes qs).pool.read a =
      if (qs.any fun q => bits (2 * q + 1) (2 * q) modes == 0 && inQuarter r q a) = true then 0 else s.pool.read a := by
  induction qs generalizing s with
  | nil => rfl
  | cons q qs ih =>
    refine (ih (s.enterMode r modes q)).trans ?_
    rw [State.pool_enterMode, List.any_cons]
    cases bits (2 * q + 1) (2 * q) modes == 0 && inQuarter r q a
    · rfl
    · simp

/-- A change of modes is a matter of the region, its pool and its detectors. -/
theorem State.enterModes_eq (s : State) (r : Nat) (modes : BitVec 8) (qs : List Nat) : s.enterModes r modes qs =
    { s with regions := (s.enterModes r modes qs).regions, pool := (s.enterModes r modes qs).pool
             poolPoison := (s.enterModes r modes qs).poolPoison, faults := (s.enterModes r modes qs).faults } :=
  forEach_frame (fun s u : State => { s with regions := u.regions, pool := u.pool, poolPoison := u.poolPoison, faults := u.faults })
    (fun _ _ _ => rfl) (fun _ => rfl) (fun q s => s.enterMode_eq r modes q) qs s

/-- Of its region it writes a counter. -/
theorem State.region_enterModes (s : State) (r : Nat) (modes : BitVec 8) (qs : List Nat) (x : Nat) :
    ∃ c, (s.enterModes r modes qs).region x = { s.region x with poolCounters := c } := by
  refine forEach_keeps (fun u => ∃ c, u.region x = { s.region x with poolCounters := c }) _ (fun q u h => ?_) qs s ⟨_, rfl⟩
  obtain ⟨c, same⟩ := h
  have counted : (u.enterMode r modes q).region x = (u.countPool r 6).region x :=
    State.region_congr (u.regions_enterMode r modes q) x
  rw [counted, State.countPool]
  by_cases here : x = r
  · subst here
    rw [State.region_updRegion_same, same]
    exact ⟨_, rfl⟩
  · rw [State.region_updRegion_other _ _ _ _ here]
    exact ⟨c, same⟩

/-! ## QUARTER_SWITCH_LIVE (R136) -/

/-- The region with its new modes and an empty cache, once its dirty lines are written back. -/
def State.takeModes (s : State) (r : Nat) (modes : BitVec 8) : State :=
  (s.writeBackAll r).updRegion r fun x => { x with cache := [], poolLive := modes, switching := none }

/-- The quarters whose mode changes. -/
def Region.changing (x : Region) (modes : BitVec 8) : List Nat :=
  indices 4 fun q => bits (2 * q + 1) (2 * q) modes != bits (2 * q + 1) (2 * q) x.poolLive

theorem State.switchLive_eq (s : State) (r : Nat) (modes : BitVec 8) : s.switchLive r modes =
    (s.takeModes r modes).enterModes r modes ((s.region r).changing modes) := rfl

theorem State.takeModes_eq (s : State) (r : Nat) (modes : BitVec 8) : s.takeModes r modes =
    { s with mem := (s.takeModes r modes).mem, regions := (s.takeModes r modes).regions } := by
  unfold State.takeModes State.updRegion State.setRegion
  rw [State.writeBackAll_eq]

theorem State.region_takeModes_other (s : State) {r x : Nat} (modes : BitVec 8) (other : x ≠ r) :
    (s.region x).Loses ((s.takeModes r modes).region x) := by
  have written : s.Loses (forEach (s.region r).cache (fun l s => s.writeBack r l) s) :=
    forEach_keeps s.Loses _ (fun l u h => h.trans (.writeBack r l)) _ s (.refl s)
  unfold State.takeModes State.writeBackAll
  rw [State.region_updRegion_other _ _ _ _ other, State.region_updRegion_other _ _ _ _ other]
  exact written x

theorem State.region_switchLive (s : State) (r : Nat) (modes : BitVec 8) : ((s.switchLive r modes).region r).poolLive = modes ∧
    ((s.switchLive r modes).region r).switching = none ∧ ((s.switchLive r modes).region r).cache = [] := by
  obtain ⟨c, own⟩ := (s.takeModes r modes).region_enterModes r modes ((s.region r).changing modes) r
  rw [State.switchLive_eq, own, State.takeModes, State.region_updRegion_same]
  exact ⟨rfl, rfl, rfl⟩

theorem State.region_switchLive_other (s : State) {r x : Nat} (modes : BitVec 8) (other : x ≠ r) :
    ((s.switchLive r modes).region x).poolLive = (s.region x).poolLive ∧
      ((s.switchLive r modes).region x).switching = (s.region x).switching ∧
      ∀ l ∈ ((s.switchLive r modes).region x).cache, l ∈ (s.region x).cache := by
  obtain ⟨c, own⟩ := (s.takeModes r modes).region_enterModes r modes ((s.region r).changing modes) x
  have loses := s.region_takeModes_other modes other
  rw [State.switchLive_eq, own]
  exact ⟨loses.poolLive, loses.switching, loses.cache⟩

/-- A quarter enters SCRATCHPAD mode. -/
def Region.zeroes (x : Region) (modes : BitVec 8) (q : Nat) : Bool :=
  bits (2 * q + 1) (2 * q) modes == 0 && bits (2 * q + 1) (2 * q) x.poolLive != 0

theorem State.pool_switchLive (s : State) (r : Nat) (modes : BitVec 8) (a : Nat) : (s.switchLive r modes).pool.read a =
    if ((List.range 4).any fun q => (s.region r).zeroes modes q && decide (poolAddr r (0x40_0000 * q) ≤ a)
      && decide (a < poolAddr r (0x40_0000 * (q + 1)))) = true then 0 else s.pool.read a := by
  have pool : (s.takeModes r modes).pool = s.pool := (congrArg State.pool (s.takeModes_eq r modes) :)
  have zeroed : (fun q => bits (2 * q + 1) (2 * q) modes != bits (2 * q + 1) (2 * q) (s.region r).poolLive &&
      (bits (2 * q + 1) (2 * q) modes == 0 && inQuarter r q a)) = fun q => (s.region r).zeroes modes q &&
        decide (poolAddr r (0x40_0000 * q) ≤ a) && decide (a < poolAddr r (0x40_0000 * (q + 1))) := by
    funext q
    rw [Bool.and_assoc, ← inQuarter, Region.zeroes]
    by_cases scratch : bits (2 * q + 1) (2 * q) modes = 0
    · rw [scratch, bne_comm, beq_self_eq_true, Bool.true_and, Bool.true_and]
    · rw [beq_false_of_ne scratch, Bool.false_and, Bool.false_and, Bool.and_false, Bool.false_and]
  rw [State.switchLive_eq, State.pool_enterModes, pool, Region.changing, indices, List.any_filter, zeroed]

theorem State.switchLive_keeps (s : State) (r : Nat) (modes : BitVec 8) : (s.switchLive r modes).spad = s.spad ∧
    (s.switchLive r modes).blocks = s.blocks ∧ (s.switchLive r modes).channels = s.channels := by
  rw [State.switchLive_eq, State.enterModes_eq, State.takeModes_eq]
  exact ⟨rfl, rfl, rfl⟩

theorem exec_quarterSwitchLive {s : State} {t : Time} {r : Fin 4} {m : BitVec 8} (ready : s.phase = .ready)
    (switching : (s.region r).switching = some m) (free : (s.begin t).writeBackWaits r = false) :
    exec (.quarterSwitchLive t r) s = .next ((s.begin t).switchLive r m) := by
  have same : ((s.begin t).region r).switching = some m := switching
  change execQuarterSwitchLive t r s = _
  rw [execQuarterSwitchLive, whenReady_ready t _ s ready, same]
  dsimp only
  rw [free, Bool.not_false, State.onlyIf_true]

/-- Settles O18: each command by what its body does, the end of a flush by its write-backs, the switch by its quarters. -/
theorem residenciesAndFlushes : Obligations.ResidenciesAndFlushes := by
  unfold Obligations.ResidenciesAndFlushes
  refine ⟨fun q s taken => ⟨exec_releaseResident_free taken, exec_releaseResident_held taken⟩,
    fun q s taken => ⟨fun named => ?begins, fun high other => exec_poolFlush_refused taken ⟨high, other⟩⟩,
    fun s t f rest ready oldest serves => ?ends, fun s t r m ready switching free => ?live⟩
  case begins =>
    refine ⟨_, _, exec_poolFlush_begins taken (by omega), rfl, rfl, fun x a => ?_⟩
    exact State.mem_dirtyLines.trans ((and_congr_left fun _ => mem_flushRegions named).trans and_assoc)
  case ends => exact ⟨_, exec_poolFlushDone ready oldest serves, State.flushed_leaves (s.begin t) f rest rfl⟩
  case live =>
    obtain ⟨modes, ended, cache⟩ := (s.begin t).region_switchLive r m
    obtain ⟨spad, blocks, channels⟩ := (s.begin t).switchLive_keeps r m
    exact ⟨_, exec_quarterSwitchLive ready switching free, modes, ended, cache, (s.begin t).pool_switchLive r m,
      fun x other => (s.begin t).region_switchLive_other m other, spad, blocks, channels⟩

end Sys2Proof.Machine
end

section
/-!
PROOFS. O21: the copy of a residency for a placement, and the refill of one on a block. What a read of device virtual space may touch,
what it gives where no error is found, and what the lines that are written in order leave of the scratchpad.
-/

namespace Sys2Proof.Machine

open Sys2Proof

/-! ## What a read of device virtual space may touch (R289 to R291, R301, R306, R351) -/

/-- A record writes the collector and the status words. -/
theorem State.fault_eq (s : State) (f : FaultInfo) : s.fault f =
    { s with faults := (s.fault f).faults, regions := (s.fault f).regions, blocks := (s.fault f).blocks } :=
  State.fault_keeps (fun u => u = { s with faults := u.faults, regions := u.regions, blocks := u.blocks })
    (fun _ x h => congrArg (fun u : State => { u with faults := x }) h) (fun _ i v h => congrArg (fun u : State =>
      { u with blocks := Tab.set (fun _ => Block.reset) u.blocks i v }) h :)
    (fun _ i v h => congrArg (fun u : State => { u with regions := Tab.set (fun _ => Region.reset) u.regions i v }) h) s f rfl

/-- What a granule's page gives, before parity on the way. -/
def State.readTarget (s : State) (via : Nat × BitVec 64) (g : Nat) (f : MemFindings) (who : Reader) : DeviceRead × State :=
  match targetBy via.2 (64 * g) false with
  | .local_ pa _ =>
    let x := s.readGranule (pa / 64) f who
    (.data x.1.1 x.1.2, x.2)
  | .host a => s.readHost g a f
  | .peer dev w i ep => s.readPeer via g dev w i ep f
  | .fault => (.fault, s)

/-- Data then meets the parity errors of its path. -/
def DeviceRead.pass (r : DeviceRead) (s : State) (f : MemFindings) (g : Nat) (who : Reader) : DeviceRead × State :=
  match r with
  | .data d bad => (.data d (bad || (s.transit f g who).1), (s.transit f g who).2)
  | x => (x, s)

theorem State.readVia_eq (s : State) (via : Nat × BitVec 64) (g : Nat) (f : MemFindings) (who : Reader) : s.readVia via g f who =
    let who := { who with va := some (64 * g) }
    (s.readTarget via g f who).1.pass (s.readTarget via g f who).2 f g who := by
  unfold State.readVia State.readTarget DeviceRead.pass
  rfl

/-- From `s` to `u` the memory system, the links, the collector and the status words may change. -/
structure State.ReadTouches (s u : State) : Prop where
  only : u = { s with mem := u.mem, out := u.out, fovar := u.fovar, faults := u.faults, regions := u.regions, blocks := u.blocks }
  status : s.StatusOnly u

namespace State.ReadTouches
variable {s u v : State}

theorem refl (s : State) : s.ReadTouches s := ⟨rfl, .refl s⟩

theorem trans (h : s.ReadTouches u) (g : u.ReadTouches v) : s.ReadTouches v where
  only := frame_trans (fun s u : State => { s with mem := u.mem, out := u.out, fovar := u.fovar, faults := u.faults,
                                                   regions := u.regions, blocks := u.blocks })
    (fun _ _ _ => rfl) h.only g.only
  status := h.status.trans g.status

theorem ite (p : Prop) [Decidable p] (h : s.ReadTouches u) (g : s.ReadTouches v) : s.ReadTouches (if p then u else v) := by
  split
  · exact h
  · exact g

theorem fault (h : s.ReadTouches u) (f : FaultInfo) : s.ReadTouches (u.fault f) :=
  h.trans ⟨(u.fault_eq f).trans (by rw [State.mem_fault, State.out_fault, State.fovar_fault]), u.fault_statusOnly f⟩

theorem mem (h : s.ReadTouches u) (m : MemSys) : s.ReadTouches { u with mem := m } :=
  h.trans ⟨rfl, (State.StatusOnly.refl u).of_blocks rfl⟩

theorem countMem (h : s.ReadTouches u) (k w : Nat) : s.ReadTouches (u.countMem k w) := h.mem _

theorem send (h : s.ReadTouches u) (o : Output) : s.ReadTouches (u.send o) :=
  h.trans ⟨rfl, (State.StatusOnly.refl u).of_blocks rfl⟩

theorem meetEntry (a : Nat) (carr : List Nat) : s.ReadTouches (s.meetEntry a carr) := by
  unfold State.meetEntry State.badEntry
  exact .ite _ (.ite _ (.refl s) (.fault (.mem (.refl s) _) _)) (.refl s)

theorem correctGranule (g : Nat) (r : Reader) : s.ReadTouches (s.correctGranule g r) := by
  unfold State.correctGranule
  exact .ite _ (.fault (.countMem (.ite _ (.fault (.mem (.countMem (.refl s) _ _) _) _) (.mem (.countMem (.refl s) _ _) _)) _ _) _)
    (.ite _ (.fault (.mem (.countMem (.refl s) _ _) _) _) (.mem (.countMem (.refl s) _ _) _))

theorem poisonGranule (g : Nat) (r : Reader) : s.ReadTouches (s.poisonGranule g r) := by
  unfold State.poisonGranule
  exact .fault (.mem (.mem (.countMem (.countMem (.refl s) _ _) _ _) _) _) _

theorem readGranule (g : Nat) (f : MemFindings) (r : Reader) : s.ReadTouches (s.readGranule g f r).2 := by
  have wrong : s.ReadTouches (((f.wrong.find? fun w => w.1 == g).map fun w => s.wrongGranule g w.2).getD s) := by
    cases f.wrong.find? fun w => w.1 == g with
    | none => exact .refl s
    | some w => exact .mem (.refl s) _
  unfold State.readGranule
  dsimp only
  split
  · exact .countMem (.refl s) _ _
  · split
    · exact .poisonGranule g r
    · exact wrong.trans (.ite _ (.correctGranule g r) (.refl _))

theorem transit (f : MemFindings) (i : Nat) (r : Reader) : s.ReadTouches (s.transit f i r).2 :=
  foldl_keeps s.ReadTouches _ (fun _ _ h => h.fault _) _ s (.refl s)

theorem readHost (g a : Nat) (f : MemFindings) : s.ReadTouches (s.readHost g a f).2 := by
  have asked : s.ReadTouches ({ s with mem := { s.mem with nextTag := s.mem.nextTag + 1 } }.send
      (.hostRead (BitVec.ofNat 52 a) 64 s.mem.nextTag)) := .send (.mem (.refl s) _) _
  unfold State.readHost
  split
  · dsimp only
    split
    · unfold State.noteAer
      exact .ite _ (.fault (.ite _ (.mem asked _) asked) _) (.ite _ (.mem asked _) asked)
    · exact asked
  · exact .refl s

theorem readPeer (via : Nat × BitVec 64) (g dev w i : Nat) (ep : BitVec 16) (f : MemFindings) :
    s.ReadTouches (s.readPeer via g dev w i ep f).2 := by
  have asked : s.ReadTouches (s.sendPeer via dev w i ep true false [] .early) := ⟨rfl, (State.StatusOnly.refl s).of_blocks rfl⟩
  unfold State.readPeer
  split
  · split
    · exact asked
    · exact asked
  · exact .refl s

theorem readTarget (via : Nat × BitVec 64) (g : Nat) (f : MemFindings) (who : Reader) :
    s.ReadTouches (s.readTarget via g f who).2 := by
  unfold State.readTarget
  split
  · exact .readGranule _ f who
  · exact .readHost g _ f
  · exact .readPeer via g _ _ _ _ f
  · exact .refl s

theorem pass (r : DeviceRead) (f : MemFindings) (g : Nat) (who : Reader) : s.ReadTouches (r.pass s f g who).2 := by
  cases r with
  | data d bad => exact .transit f g who
  | refused => exact .refl s
  | fault => exact .refl s

theorem readVia (via : Nat × BitVec 64) (g : Nat) (f : MemFindings) (who : Reader) : s.ReadTouches (s.readVia via g f who).2 := by
  rw [State.readVia_eq]
  exact .trans (.readTarget via g f _) (.pass _ f g _)

theorem readDevice (g : Nat) (f : MemFindings) (who : Reader) : s.ReadTouches (s.readDevice g f who).2 :=
  .trans (.meetEntry (64 * g) f.carr) (.readVia _ _ _ _)

theorem readVa (va n : Nat) (f : MemFindings) (who : Reader) : s.ReadTouches (s.readVa va n f who).2 := by
  refine foldl_snd_keeps s.ReadTouches _ ?_ _ (some ([], false), s) (.refl s)
  rintro ⟨acc, u⟩ ⟨g, o, d⟩ h
  have read := h.trans (.readDevice (s := u) g f who)
  dsimp only
  cases acc with
  | none => exact h
  | some x =>
    generalize u.readDevice g f who = y at read
    obtain ⟨r, v⟩ := y
    cases r with
    | data d bad => exact read
    | refused => exact read
    | fault => exact read

theorem sourceLine (b va : Nat) (f : MemFindings) : s.ReadTouches (s.sourceLine b va f).2 := by
  have read := readDevice (s := s) (va / 64) f { block := some b, region := some (b / 16) }
  unfold State.sourceLine
  generalize s.readDevice (va / 64) f { block := some b, region := some (b / 16) } = y at read
  obtain ⟨r, v⟩ := y
  cases r with
  | data d bad => cases bad <;> exact read
  | refused => exact read
  | fault => exact read

end State.ReadTouches

/-! ## The bytes of a source line -/

theorem Memory.length_bytes (m : Memory) (a n : Nat) : (m.bytes a n).length = n := by simp [Memory.bytes]

theorem take_zeros_length (d : List Byte) : ((d ++ zeros 64).take 64).length = 64 := by simp [zeros]

theorem State.readGranule_length (s : State) (g : Nat) (f : MemFindings) (r : Reader) : (s.readGranule g f r).1.1.length = 64 := by
  unfold State.readGranule
  dsimp only
  split
  · exact Memory.length_bytes ..
  · split <;> exact Memory.length_bytes ..

/-- The data of an answer that is good. -/
def DeviceRead.good : DeviceRead → Option (List Byte)
  | .data d false => some d
  | _ => none

/-- Whatever data an answer holds is a granule's. -/
def DeviceRead.whole (r : DeviceRead) : Prop := ∀ d bad, r = .data d bad → d.length = 64

theorem DeviceRead.whole_data {d : List Byte} (length : d.length = 64) (bad : Bool) : (DeviceRead.data d bad).whole := by
  rintro _ _ ⟨rfl, rfl⟩
  exact length

theorem DeviceRead.length_good {r : DeviceRead} (whole : r.whole) {d : List Byte} (good : r.good = some d) : d.length = 64 := by
  cases r with
  | data e bad =>
    cases bad with
    | false =>
      obtain rfl := Option.some.inj good
      exact whole e false rfl
    | true => exact absurd good (by simp [DeviceRead.good])
  | refused => exact absurd good (by simp [DeviceRead.good])
  | fault => exact absurd good (by simp [DeviceRead.good])

theorem DeviceRead.whole_pass {r : DeviceRead} (whole : r.whole) (s : State) (f : MemFindings) (g : Nat) (who : Reader) :
    (r.pass s f g who).1.whole := by
  cases r with
  | data d bad => exact whole_data (whole d bad rfl) _
  | refused => exact whole
  | fault => exact whole

theorem State.readTarget_whole (s : State) (via : Nat × BitVec 64) (g : Nat) (f : MemFindings) (who : Reader) :
    (s.readTarget via g f who).1.whole := by
  unfold State.readTarget
  split
  · exact DeviceRead.whole_data (s.readGranule_length ..) _
  · unfold State.readHost
    split
    · dsimp only
      split
      · exact DeviceRead.whole_data (take_zeros_length _) _
      · exact DeviceRead.whole_data (by simp [zeros]) _
    · exact DeviceRead.whole_data (by simp [zeros]) _
  · unfold State.readPeer
    split
    · dsimp only
      split
      · exact DeviceRead.whole_data (take_zeros_length _) _
      · exact fun _ _ h => absurd h (by simp)
    · exact fun _ _ h => absurd h (by simp)
  · exact fun _ _ h => absurd h (by simp)

/-- Who a residency's lines are read for on a block. -/
def blockReader (b : Nat) : Reader := { block := some b, region := some (b / 16) }

theorem State.sourceLine_eq (s : State) (b va : Nat) (f : MemFindings) : s.sourceLine b va f =
    ((s.readDevice (va / 64) f (blockReader b)).1.good, (s.readDevice (va / 64) f (blockReader b)).2) := by
  unfold State.sourceLine
  rw [← blockReader]
  generalize s.readDevice (va / 64) f (blockReader b) = y
  obtain ⟨r, v⟩ := y
  cases r with
  | data d bad => cases bad <;> rfl
  | refused => rfl
  | fault => rfl

theorem State.sourceLine_length {s : State} {b va : Nat} {f : MemFindings} {d : List Byte}
    (data : (s.sourceLine b va f).1 = some d) : d.length = 64 := by
  rw [State.sourceLine_eq, State.readDevice, State.readVia_eq] at data
  exact DeviceRead.length_good (DeviceRead.whole_pass (State.readTarget_whole _ _ _ _ _) _ _ _ _) data

/-! ## Reads that find no error -/

theorem DeviceRead.pass_none (r : DeviceRead) (s : State) (g : Nat) (who : Reader) : r.pass s .none g who = (r, s) := by
  cases r with
  | data d bad => exact congrArg (fun b => (DeviceRead.data d b, s)) (Bool.or_false bad)
  | refused => rfl
  | fault => rfl

theorem State.readDevice_none (s : State) (g : Nat) (who : Reader) : s.readDevice g .none who =
    s.readTarget (s.via (64 * g)) g .none { who with va := some (64 * g) } := by
  rw [State.readDevice, State.readVia_eq, DeviceRead.pass_none]
  rfl

/-- From `s` to `u` no record is made, and of the memory system the counters and the tags of host reads alone change. -/
structure State.Quiet (s u : State) : Prop where
  faults : u.faults = s.faults
  mem : u.mem = { s.mem with dramStacks := u.mem.dramStacks, nextTag := u.mem.nextTag }

namespace State.Quiet
variable {s u v : State}

theorem refl (s : State) : s.Quiet s := ⟨rfl, rfl⟩

theorem trans (h : s.Quiet u) (g : u.Quiet v) : s.Quiet v :=
  ⟨g.faults.trans h.faults, g.mem.trans (congrArg
    (fun m : MemSys => { m with dramStacks := v.mem.dramStacks, nextTag := v.mem.nextTag }) h.mem)⟩

theorem dram (h : s.Quiet u) : u.mem.dram = s.mem.dram := (congrArg MemSys.dram h.mem :)

theorem mapChanges (h : s.Quiet u) : u.mem.mapChanges = s.mem.mapChanges := (congrArg MemSys.mapChanges h.mem :)

theorem readGranule (g : Nat) (r : Reader) : s.Quiet (s.readGranule g .none r).2 := by
  unfold State.readGranule
  dsimp only
  split
  · exact ⟨rfl, rfl⟩
  · exact .refl s

theorem readTarget (via : Nat × BitVec 64) (g : Nat) (who : Reader) : s.Quiet (s.readTarget via g .none who).2 := by
  unfold State.readTarget
  split
  · exact .readGranule _ who
  · unfold State.readHost
    split
    · exact ⟨rfl, rfl⟩
    · exact .refl s
  · unfold State.readPeer
    split
    · exact ⟨rfl, rfl⟩
    · exact .refl s
  · exact .refl s

theorem sourceLine (b va : Nat) : s.Quiet (s.sourceLine b va .none).2 := by
  rw [State.sourceLine_eq, State.readDevice_none]
  exact .readTarget ..

end State.Quiet

/-- What a line of device virtual space gives, where no change of the map is under way: the bytes of local DRAM, unless they are
poisoned; nothing from the host or a peer that does not answer. -/
def State.sourceData (s : State) (va : Nat) : Option (List Byte) :=
  match targetBy (s.carrEntry (64 * (va / 64) / 2 ^ 18)) (64 * (va / 64)) false with
  | .local_ pa _ => if s.mem.poison.contains (pa / 64) then none else some (s.mem.dram.bytes (64 * (pa / 64)) 64)
  | _ => none

theorem State.Quiet.sourceData {s u : State} (h : s.Quiet u) (va : Nat) : u.sourceData va = s.sourceData va := by
  unfold State.sourceData State.carrEntry
  rw [h.mem]

theorem State.entryFor_settled {s : State} (settled : s.mem.mapChanges = []) (va : Nat) : s.entryFor va = s.carrEntry (va / 2 ^ 18) := by
  unfold State.entryFor State.entryChoices
  rw [settled]
  rfl

theorem State.readGranule_good (s : State) (g : Nat) (r : Reader) :
    (DeviceRead.data (s.readGranule g .none r).1.1 (s.readGranule g .none r).1.2).good =
      if s.mem.poison.contains g then none else some (s.mem.dram.bytes (64 * g) 64) := by
  unfold State.readGranule
  dsimp only
  split <;> rfl

theorem State.sourceLine_settled {s : State} (settled : s.mem.mapChanges = []) (b va : Nat) :
    (s.sourceLine b va .none).1 = s.sourceData va := by
  rw [State.sourceLine_eq, State.readDevice_none]
  dsimp only
  rw [State.readTarget, State.via, State.entryFor_settled settled, State.sourceData]
  cases targetBy (s.carrEntry (64 * (va / 64) / 2 ^ 18)) (64 * (va / 64)) false with
  | local_ pa c => exact s.readGranule_good ..
  | host a =>
    unfold State.readHost
    dsimp only
    split <;> rfl
  | peer dev w i ep =>
    unfold State.readPeer
    dsimp only
    split <;> rfl
  | fault => rfl

/-! ## Writes of a scratchpad (R118, R293) -/

theorem pieces_nil (n a : Nat) : pieces n a [] = [] := by cases n <;> rfl

theorem pieces_cons (n a : Nat) {d : List Byte} (some_ : d ≠ []) : pieces (n + 1) a d =
    (a / 64, a % 64, d.take (64 - a % 64)) :: pieces n (a + (64 - a % 64)) (d.drop (64 - a % 64)) := by
  cases d with
  | nil => exact absurd rfl some_
  | cons x d => rfl

/-- The pieces of a run are put where the run lies. -/
theorem State.spad_forEach_pieces (base : Nat) {f : Nat × Nat × List Byte → State → State}
    (put : ∀ p s, (f p s).spad = s.spad.put (base + 64 * p.1 + p.2.1) p.2.2) (n a : Nat) (d : List Byte) (fuel : d.length ≤ n)
    (s : State) : (forEach (pieces n a d) f s).spad = s.spad.put (base + a) d := by
  induction n generalizing a d s with
  | zero =>
    obtain rfl := List.length_eq_zero_iff.1 (Nat.le_zero.1 fuel)
    rfl
  | succ n ih =>
    by_cases none : d = []
    · subst none
      rfl
    · have first : base + 64 * (a / 64) + a % 64 = base + a := by omega
      have rest : (d.drop (64 - a % 64)).length ≤ n := by
        rw [List.length_drop]
        have := Nat.mod_lt a (by decide : 64 > 0)
        omega
      rw [pieces_cons n a none]
      refine (ih _ _ rest (f _ s)).trans ?_
      rw [put, first]
      by_cases long : 64 - a % 64 ≤ d.length
      · have length : (d.take (64 - a % 64)).length = 64 - a % 64 := by rw [List.length_take, Nat.min_eq_left long]
        have whole := Memory.put_append (d.take (64 - a % 64)) (d.drop (64 - a % 64)) s.spad (base + a)
        rw [List.take_append_drop, length, Nat.add_assoc] at whole
        exact whole.symm
      · rw [List.drop_eq_nil_of_le (by omega), List.take_of_length_le (by omega)]
        rfl

theorem State.spad_writeSpad (s : State) (b a : Nat) (d : List Byte) (p : Bool) :
    (s.writeSpad b a d p).spad = s.spad.put (spadAddr b 0 + a) d :=
  State.spad_forEach_pieces (spadAddr b 0) (fun _ _ => rfl) d.length a d le_rfl s

theorem State.spad_writeSpad_other (s : State) {b l n a : Nat} {d : List Byte} (length : d.length = 64 * n) (p : Bool)
    (out : a < spadAddr b l ∨ spadAddr b (l + n) ≤ a) : (s.writeSpad b (64 * l) d p).spad.read a = s.spad.read a := by
  rw [State.spad_writeSpad]
  refine Memory.read_put_other _ _ _ _ ?_
  unfold spadAddr at out ⊢
  omega

theorem State.spad_writeSpad_same (s : State) {b l k : Nat} {d : List Byte} (inside : k < d.length) (p : Bool) :
    (s.writeSpad b (64 * l) d p).spad.read (spadAddr b l + k) = d.getD k 0 := by
  rw [State.spad_writeSpad]
  exact Memory.read_put d _ _ k inside

theorem pieces_line {d : List Byte} (length : d.length = 64) (l : Nat) : pieces d.length (64 * l) d = [(l, 0, d)] := by
  have some_ : d ≠ [] := by rintro rfl; simp at length
  have at_ : 64 * l / 64 = l ∧ 64 * l % 64 = 0 := by omega
  rw [length, pieces_cons 63 _ some_, at_.1, at_.2, List.take_of_length_le (by omega), List.drop_eq_nil_of_le (by omega), pieces_nil]

theorem State.spadPoison_writeSpad_line (s : State) {b l : Nat} {d : List Byte} (length : d.length = 64) :
    (s.writeSpad b (64 * l) d false).spadPoison = s.spadPoison.erase (0xC000 * b + l) := by
  have whole : (decide (0 = 0) && d.length == 64) = true := by simp [length]
  rw [State.writeSpad, pieces_line length]
  exact if_pos whole

/-! ## The refill of one line (R296) -/

/-- The source of a line of a residency, as a block reads it. -/
def State.lineSource (s : State) (b : Nat) (x : Resident) (f : MemFindings) (l : Nat) : Option (List Byte) × State :=
  s.sourceLine b (x.source.toNat + 64 * (l - x.line)) f

/-- A line is filled with the data of its source, if that can be read. -/
def State.refillLine (s : State) (b : Nat) (x : Resident) (f : MemFindings) (l : Nat) : State :=
  match (s.lineSource b x f l).1 with
  | some d => (s.lineSource b x f l).2.writeSpad b (64 * l) d false
  | none => (s.lineSource b x f l).2

section
variable {s : State} {b : Nat} {x : Resident} {f : MemFindings} {l : Nat}

theorem State.refillLine_data {d : List Byte} (data : (s.lineSource b x f l).1 = some d) :
    s.refillLine b x f l = (s.lineSource b x f l).2.writeSpad b (64 * l) d false := by
  unfold State.refillLine
  rw [data]

theorem State.refillLine_none (none : (s.lineSource b x f l).1 = none) : s.refillLine b x f l = (s.lineSource b x f l).2 := by
  unfold State.refillLine
  rw [none]
end

/-- From `s` to `u` no pool, pipeline or channel changes, and of the blocks at most the status words. -/
structure State.RefillKeeps (s u : State) : Prop where
  pool : u.pool = s.pool
  pipes : u.pipes = s.pipes
  channels : u.channels = s.channels
  status : s.StatusOnly u

theorem State.RefillKeeps.refl (s : State) : s.RefillKeeps s := ⟨rfl, rfl, rfl, .refl s⟩

theorem State.RefillKeeps.trans {s u v : State} (h : s.RefillKeeps u) (g : u.RefillKeeps v) : s.RefillKeeps v :=
  ⟨g.pool.trans h.pool, g.pipes.trans h.pipes, g.channels.trans h.channels, h.status.trans g.status⟩

theorem State.ReadTouches.keeps {s u : State} (h : s.ReadTouches u) : s.RefillKeeps u :=
  ⟨(congrArg State.pool h.only :), (congrArg State.pipes h.only :), (congrArg State.channels h.only :), h.status⟩

theorem State.writeSpad_keeps (s : State) (b a : Nat) (d : List Byte) (p : Bool) : s.RefillKeeps (s.writeSpad b a d p) := by
  rw [State.writeSpad_eq]
  exact ⟨rfl, rfl, rfl, (State.StatusOnly.refl s).of_blocks rfl⟩

theorem State.writeSpad_quiet (s : State) (b a : Nat) (d : List Byte) (p : Bool) : s.Quiet (s.writeSpad b a d p) := by
  rw [State.writeSpad_eq]
  exact ⟨rfl, rfl⟩

section
variable (s : State) (b : Nat) (x : Resident) (f : MemFindings) (l : Nat)

theorem State.lineSource_touches : s.ReadTouches (s.lineSource b x f l).2 := .sourceLine b _ f

theorem State.spad_lineSource : (s.lineSource b x f l).2.spad = s.spad := (congrArg State.spad (s.lineSource_touches b x f l).only :)

theorem State.spadPoison_lineSource : (s.lineSource b x f l).2.spadPoison = s.spadPoison :=
  (congrArg State.spadPoison (s.lineSource_touches b x f l).only :)

theorem State.refillLine_keeps : s.RefillKeeps (s.refillLine b x f l) := by
  have read := (s.lineSource_touches b x f l).keeps
  cases data : (s.lineSource b x f l).1 with
  | none => rwa [State.refillLine_none data]
  | some d =>
    rw [State.refillLine_data data]
    exact read.trans (State.writeSpad_keeps ..)

theorem State.refillLine_quiet : s.Quiet (s.refillLine b x .none l) := by
  have read : s.Quiet (s.lineSource b x .none l).2 := .sourceLine b _
  cases data : (s.lineSource b x .none l).1 with
  | none => rwa [State.refillLine_none data]
  | some d =>
    rw [State.refillLine_data data]
    exact read.trans (State.writeSpad_quiet ..)

variable {s b x f l}

theorem State.spad_refillLine_other {a : Nat} (out : a < spadAddr b l ∨ spadAddr b (l + 1) ≤ a) :
    (s.refillLine b x f l).spad.read a = s.spad.read a := by
  rw [← s.spad_lineSource b x f l]
  cases data : (s.lineSource b x f l).1 with
  | none => rw [State.refillLine_none data]
  | some d =>
    rw [State.refillLine_data data]
    exact State.spad_writeSpad_other _ (n := 1) (State.sourceLine_length data) false out

theorem State.spad_refillLine_same {d : List Byte} {k : Nat} (data : (s.lineSource b x f l).1 = some d) (inside : k < 64) :
    (s.refillLine b x f l).spad.read (spadAddr b l + k) = d.getD k 0 := by
  rw [State.refillLine_data data]
  exact State.spad_writeSpad_same _ ((State.sourceLine_length data).symm ▸ inside) false

theorem State.spadPoison_refillLine : (s.refillLine b x f l).spadPoison =
    if (s.lineSource b x f l).1.isSome then s.spadPoison.erase (0xC000 * b + l) else s.spadPoison := by
  cases data : (s.lineSource b x f l).1 with
  | none => rw [State.refillLine_none data, State.spadPoison_lineSource]; rfl
  | some d =>
    rw [State.refillLine_data data, State.spadPoison_writeSpad_line _ (State.sourceLine_length data), State.spadPoison_lineSource]
    rfl
end

/-! ## The refill of line after line -/

/-- The lines are filled one after another. -/
def State.refillLines (s : State) (b : Nat) (x : Resident) (f : MemFindings) (ls : List Nat) : State :=
  forEach ls (fun l s => s.refillLine b x f l) s

/-- Those whose source cannot be read when its turn comes. -/
def State.failedLines (b : Nat) (x : Resident) (f : MemFindings) : List Nat → State → List Nat
  | [], _ => []
  | l :: ls, s =>
    if (s.lineSource b x f l).1.isNone then l :: State.failedLines b x f ls (s.refillLine b x f l)
    else State.failedLines b x f ls (s.refillLine b x f l)

theorem State.failedLines_subset (b : Nat) (x : Resident) (f : MemFindings) (ls : List Nat) (s : State) :
    State.failedLines b x f ls s ⊆ ls := by
  induction ls generalizing s with
  | nil => exact List.Subset.refl _
  | cons l ls ih =>
    unfold State.failedLines
    split
    · exact List.cons_subset_cons l (ih _)
    · exact List.Subset.trans (ih _) (List.subset_cons_self l ls)

theorem State.refillLines_keeps (s : State) (b : Nat) (x : Resident) (f : MemFindings) (ls : List Nat) :
    s.RefillKeeps (s.refillLines b x f ls) :=
  forEach_keeps s.RefillKeeps _ (fun l u h => h.trans (u.refillLine_keeps b x f l)) ls s (.refl s)

theorem State.refillLines_quiet (s : State) (b : Nat) (x : Resident) (ls : List Nat) : s.Quiet (s.refillLines b x .none ls) :=
  forEach_keeps s.Quiet _ (fun l u h => h.trans (u.refillLine_quiet b x l)) ls s (.refl s)

theorem State.spad_refillLines_other {b a : Nat} {x : Resident} {f : MemFindings} (ls : List Nat) (s : State)
    (out : ∀ l ∈ ls, a < spadAddr b l ∨ spadAddr b (l + 1) ≤ a) : (s.refillLines b x f ls).spad.read a = s.spad.read a := by
  induction ls generalizing s with
  | nil => rfl
  | cons l ls ih =>
    obtain ⟨own, rest⟩ := List.forall_mem_cons.1 out
    exact (ih _ rest).trans (State.spad_refillLine_other own)

/-- Each line's source gives, when its turn comes, what `src` says. -/
def State.ReadsAs (b : Nat) (x : Resident) (f : MemFindings) (src : Nat → Option (List Byte)) : List Nat → State → Prop
  | [], _ => True
  | l :: ls, s => (s.lineSource b x f l).1 = src l ∧ State.ReadsAs b x f src ls (s.refillLine b x f l)

/-- A single line's source is read at once. -/
theorem State.readsAs_single (b : Nat) (x : Resident) (f : MemFindings) {ls : List Nat} (single : ls.length ≤ 1) (s : State) :
    State.ReadsAs b x f (fun l => (s.lineSource b x f l).1) ls s := by
  match ls, single with
  | [], _ => trivial
  | [l], _ => exact ⟨rfl, trivial⟩

/-- Where no error is found and no change of the map is under way, a read changes no other. -/
theorem State.readsAs_settled (b : Nat) (x : Resident) {s : State} (settled : s.mem.mapChanges = []) (ls : List Nat) {u : State}
    (quiet : s.Quiet u) : State.ReadsAs b x .none (fun l => (s.lineSource b x .none l).1) ls u := by
  induction ls generalizing u with
  | nil => trivial
  | cons l ls ih =>
    refine ⟨?_, ih (quiet.trans (u.refillLine_quiet b x l))⟩
    have here := State.sourceLine_settled (quiet.mapChanges.trans settled) b (x.source.toNat + 64 * (l - x.line))
    exact here.trans ((quiet.sourceData _).trans (State.sourceLine_settled settled b _).symm)

section
variable {b : Nat} {x : Resident} {f : MemFindings} {src : Nat → Option (List Byte)}

theorem State.failedLines_eq (ls : List Nat) (s : State) (reads : State.ReadsAs b x f src ls s) :
    State.failedLines b x f ls s = ls.filter fun l => (src l).isNone := by
  induction ls generalizing s with
  | nil => rfl
  | cons l ls ih =>
    obtain ⟨own, rest⟩ := reads
    rw [State.failedLines, ih _ rest, own, List.filter_cons]

theorem State.spadPoison_refillLines (ls : List Nat) (s : State) (reads : State.ReadsAs b x f src ls s) :
    (s.refillLines b x f ls).spadPoison =
      (ls.filter fun l => (src l).isSome).foldl (fun p l => p.erase (0xC000 * b + l)) s.spadPoison := by
  induction ls generalizing s with
  | nil => rfl
  | cons l ls ih =>
    obtain ⟨own, rest⟩ := reads
    refine (ih _ rest).trans ?_
    rw [State.spadPoison_refillLine, own, List.filter_cons]
    split <;> rfl

theorem State.spad_refillLines {l k : Nat} {d : List Byte} (ls : List Nat) (s : State) (reads : State.ReadsAs b x f src ls s)
    (once : ls.Nodup) (mem : l ∈ ls) (data : src l = some d) (inside : k < 64) :
    (s.refillLines b x f ls).spad.read (spadAddr b l + k) = d.getD k 0 := by
  induction ls generalizing s with
  | nil => exact absurd mem List.not_mem_nil
  | cons n ls ih =>
    obtain ⟨own, rest⟩ := reads
    obtain ⟨fresh, once⟩ := List.nodup_cons.1 once
    by_cases here : l = n
    · subst here
      have later := State.spad_refillLines_other (b := b) (x := x) (f := f) (a := spadAddr b l + k) ls (s.refillLine b x f l)
        fun m hm => by
          have other : m ≠ l := fun eq => fresh (eq ▸ hm)
          unfold spadAddr
          omega
      exact later.trans (State.spad_refillLine_same (own.trans data) inside)
    · exact ih _ rest once ((List.mem_cons.1 mem).resolve_left here)
end

/-! ## A record joins those that wait (R383) -/

theorem State.held_setRegionBit (s : State) (r i : Nat) : (s.setRegionBit r i).faults.held = s.faults.held := by
  unfold State.setRegionBit
  dsimp only
  split <;> rfl

theorem State.held_setBlockBit (s : State) (b i : Nat) : (s.setBlockBit b i).faults.held = s.faults.held := by
  unfold State.setBlockBit
  dsimp only
  split
  · rfl
  · exact State.held_setRegionBit ..

theorem State.held_setStatusFor (s : State) (f : FaultInfo) (c : BitVec 8) : (s.setStatusFor f c).faults.held = s.faults.held := by
  have block : ∀ b, (f.blockBits.foldl (fun s i => s.setBlockBit b i) s).faults.held = s.faults.held := fun b =>
    foldl_keeps (fun u => u.faults.held = s.faults.held) _ (fun u i h => (u.held_setBlockBit b i).trans h) _ s rfl
  have region : ∀ r, (f.regionBits.foldl (fun s i => s.setRegionBit r i) s).faults.held = s.faults.held := fun r =>
    foldl_keeps (fun u => u.faults.held = s.faults.held) _ (fun u i h => (u.held_setRegionBit r i).trans h) _ s rfl
  unfold State.setStatusFor
  split
  · rfl
  · refine foldl_keeps (fun u => u.faults.held = s.faults.held) State.setChip (fun _ _ h => h) _ _ ?_
    cases f.site with
    | cell b _ => exact block b
    | block b => exact block b
    | region r => exact region r
    | chip i _ => rfl

/-- While the collector runs, a record is one more that waits. -/
theorem State.held_fault {s : State} (up : s.faults.up = true) (f : FaultInfo) :
    (s.fault f).faults.held.length = s.faults.held.length + 1 := by
  have joined : (s.fault f).faults.held = (s.setStatusFor f (s.classOf f)).faults.held ++ [s.mkRecord f (s.classOf f)] := by
    unfold State.fault
    rw [if_pos up]
    dsimp only
    split <;> rfl
  rw [joined, State.held_setStatusFor, List.length_append, List.length_singleton]

/-! ## RESIDENCY_REFILL (R296) -/

/-- The poisoned lines of a residency that are to be filled. -/
def State.badLines (s : State) (b : Nat) (x : Resident) : List Nat :=
  (runOf (x.line, x.lines)).filter fun l => s.lineBad b l && !x.failed.contains l

theorem State.mem_badLines {s : State} {b l : Nat} {x : Resident} :
    l ∈ s.badLines b x ↔ x.line ≤ l ∧ l < x.line + x.lines ∧ s.lineBad b l = true ∧ l ∉ x.failed := by
  have inside : (∃ k < x.lines, x.line + k = l) ↔ x.line ≤ l ∧ l < x.line + x.lines :=
    ⟨by rintro ⟨k, hk, rfl⟩; omega, fun h => ⟨l - x.line, by omega, by omega⟩⟩
  simp [State.badLines, runOf, inside, and_assoc]

theorem State.nodup_badLines (s : State) (b : Nat) (x : Resident) : (s.badLines b x).Nodup :=
  (List.nodup_range.map fun _ _ => Nat.add_left_cancel).filter _

/-- A block's residency as its refill ends. -/
def Block.endRefill (y : Block) (x : Resident) (failed : List Nat) : Block :=
  { y with residents := y.residents.map fun r =>
      if r.id == x.id then { r with refilling := false, failed := r.failed ++ failed } else r }

/-- The refill's lines are noted. -/
def State.noteRefill (s : State) (b : Nat) (x : Resident) (failed : List Nat) : State :=
  if failed.isEmpty then s.updBlock b fun y => y.endRefill x failed
  else (s.updBlock b fun y => y.endRefill x failed).fault (refillFault b x.id)

theorem State.foldl_refill {b : Nat} {x : Resident} {f : MemFindings} {step : List Nat × State → Nat → List Nat × State}
    (steps : ∀ fails s l, step (fails, s) l =
      (if (s.lineSource b x f l).1.isNone then fails ++ [l] else fails, s.refillLine b x f l))
    (ls fails : List Nat) (s : State) :
    ls.foldl step (fails, s) = (fails ++ State.failedLines b x f ls s, s.refillLines b x f ls) := by
  induction ls generalizing fails s with
  | nil => exact congrArg (·, s) (List.append_nil fails).symm
  | cons l ls ih =>
    rw [List.foldl_cons, steps, ih, State.failedLines]
    split
    · rw [List.append_assoc]; rfl
    · rfl

/-- The lines whose refill fails. -/
def State.refillFailed (s : State) (b : Nat) (x : Resident) (f : MemFindings) : List Nat :=
  State.failedLines b x f (s.badLines b x) s

theorem State.refill_eq (s : State) (b : Nat) (x : Resident) (f : MemFindings) : s.refill b x f =
    (s.refillLines b x f (s.badLines b x)).noteRefill b x (s.refillFailed b x f) := by
  unfold State.refill
  dsimp only
  rw [State.foldl_refill (b := b) (x := x) (f := f) fun fails u l => ?_]
  · rfl
  · unfold State.refillLine State.lineSource
    generalize u.sourceLine b (x.source.toNat + 64 * (l - x.line)) f = y
    obtain ⟨d, v⟩ := y
    cases d <;> rfl

section
variable (s : State) (b : Nat) (x : Resident) (failed : List Nat)

theorem State.noteRefill_eq : s.noteRefill b x failed = { s with
    blocks := (s.noteRefill b x failed).blocks, regions := (s.noteRefill b x failed).regions,
    faults := (s.noteRefill b x failed).faults } := by
  unfold State.noteRefill
  split
  · rfl
  · rw [State.fault_eq]
    rfl

theorem State.residents_noteRefill : ((s.noteRefill b x failed).block b).residents = ((s.block b).endRefill x failed).residents := by
  unfold State.noteRefill
  split
  · rw [State.block_updBlock_same]
  · obtain ⟨-, residents, -⟩ := State.fault_owners (s.updBlock b fun y => y.endRefill x failed) (refillFault b x.id) b
    rw [residents, State.block_updBlock_same]

theorem State.faults_noteRefill_nil : (s.noteRefill b x []).faults = s.faults := rfl

variable {failed}

theorem State.held_noteRefill (some_ : failed ≠ []) (up : s.faults.up = true) :
    (s.noteRefill b x failed).faults.held.length = s.faults.held.length + 1 := by
  unfold State.noteRefill
  rw [if_neg (by simpa using some_)]
  exact State.held_fault (s := s.updBlock b fun y => y.endRefill x failed) up _
end

section
variable (s : State) (b : Nat) (x : Resident) (f : MemFindings)

theorem State.refillFailed_bad {l : Nat} (mem : l ∈ s.refillFailed b x f) :
    x.line ≤ l ∧ l < x.line + x.lines ∧ s.lineBad b l = true ∧ l ∉ x.failed :=
  State.mem_badLines.1 (State.failedLines_subset b x f (s.badLines b x) s mem)

/-- What is noted of a refill is no data. -/
theorem State.refill_only : s.refill b x f = { s.refillLines b x f (s.badLines b x) with
    blocks := (s.refill b x f).blocks, regions := (s.refill b x f).regions, faults := (s.refill b x f).faults } := by
  rw [State.refill_eq]
  exact State.noteRefill_eq ..

theorem State.spad_refill : (s.refill b x f).spad = (s.refillLines b x f (s.badLines b x)).spad :=
  (congrArg State.spad (s.refill_only b x f) :)

theorem State.spadPoison_refill : (s.refill b x f).spadPoison = (s.refillLines b x f (s.badLines b x)).spadPoison :=
  (congrArg State.spadPoison (s.refill_only b x f) :)

theorem State.dram_refill : (s.refill b x .none).mem.dram = s.mem.dram :=
  (congrArg (fun u : State => u.mem.dram) (s.refill_only b x .none) :).trans (s.refillLines_quiet b x (s.badLines b x)).dram

theorem State.refill_keeps : (s.refill b x f).pool = s.pool ∧ (s.refill b x f).pipes = s.pipes ∧
    (s.refill b x f).channels = s.channels := by
  have kept := s.refillLines_keeps b x f (s.badLines b x)
  rw [State.refill_only]
  exact ⟨kept.pool, kept.pipes, kept.channels⟩

theorem State.residents_refill : ((s.refill b x f).block b).residents = (s.block b).residents.map fun r =>
    if r.id == x.id then { r with refilling := false, failed := r.failed ++ s.refillFailed b x f } else r := by
  obtain ⟨v, status⟩ := (s.refillLines_keeps b x f (s.badLines b x)).status b
  rw [State.refill_eq, State.residents_noteRefill, status]
  rfl

theorem State.faults_refill (none : s.refillFailed b x .none = []) : (s.refill b x .none).faults = s.faults := by
  rw [State.refill_eq, none, State.faults_noteRefill_nil]
  exact (s.refillLines_quiet b x (s.badLines b x)).faults

theorem State.held_refill (some_ : s.refillFailed b x .none ≠ []) (up : s.faults.up = true) :
    (s.refill b x .none).faults.held.length = s.faults.held.length + 1 := by
  have quiet := (s.refillLines_quiet b x (s.badLines b x)).faults
  rw [State.refill_eq, State.held_noteRefill _ _ _ some_ (quiet.symm ▸ up), quiet]

variable {f}

/-- No error is found and no change of the map is under way, or a single line is bad: each source reads as at first. -/
theorem State.readsAs_badLines (plain : f = .none ∧ s.mem.mapChanges = [] ∨ (s.badLines b x).length ≤ 1) :
    State.ReadsAs b x f (fun l => (s.lineSource b x f l).1) (s.badLines b x) s := by
  obtain ⟨rfl, settled⟩ | single := plain
  · exact State.readsAs_settled b x settled _ (.refl s)
  · exact State.readsAs_single b x f single s
end

theorem exec_residencyRefill {s : State} {t : Time} {b : Fin 64} {id : BitVec 32} {x : Resident} (f : MemFindings)
    (ready : s.phase = .ready) (found : (s.block b).residents.find? (fun r => r.id == id && r.refilling) = some x)
    (serves : (s.begin t).deviceWaits x.source.toNat = false) :
    exec (.residencyRefill t b id f) s = .next ((s.begin t).refill b x f) := by
  have same : ((s.begin t).block b).residents.find? (fun r => r.id == id && r.refilling) = some x := found
  change execResidencyRefill t b id f s = _
  rw [execResidencyRefill, whenReady_ready t _ s ready, same]
  dsimp only
  rw [serves, Bool.not_false, State.onlyIf_true]

/-! ## RESIDENCY_COPY (R123, R159) -/

/-- The target blocks that take a residency's lines and do not hold it. -/
def State.lackers (s : State) (w : Owner) (x : ImgResid) : List Nat :=
  (s.targets w).filter fun b => s.takesLines b && !(s.block b).residents.any fun y => y.id.toNat == x.id

theorem State.mem_lackers {s : State} {w : Owner} {x : ImgResid} {b : Nat} : b ∈ s.lackers w x ↔
    b ∈ s.targets w ∧ s.takesLines b = true ∧ (s.block b).residents.all (fun r => r.id.toNat != x.id) = true := by
  simp [State.lackers]

/-- Data goes to the same lines of some blocks. -/
def State.copyEach (s : State) (line : Nat) (d : List Byte) (bs : List Nat) : State :=
  forEach bs (fun b s => s.writeSpad b (64 * line) d false) s

theorem State.copyEach_eq (s : State) (line : Nat) (d : List Byte) (bs : List Nat) : s.copyEach line d bs =
    { s with spad := (s.copyEach line d bs).spad, spadPoison := (s.copyEach line d bs).spadPoison } :=
  forEach_frame (fun s u : State => { s with spad := u.spad, spadPoison := u.spadPoison }) (fun _ _ _ => rfl) (fun _ => rfl)
    (fun b s => s.writeSpad_eq b (64 * line) d false) bs s

section
variable {line n : Nat} {d : List Byte} (length : d.length = 64 * n)
include length

theorem State.spad_copyEach_other {a : Nat} (bs : List Nat) (s : State)
    (out : ∀ b ∈ bs, a < spadAddr b line ∨ spadAddr b (line + n) ≤ a) : (s.copyEach line d bs).spad.read a = s.spad.read a := by
  induction bs generalizing s with
  | nil => rfl
  | cons b bs ih =>
    obtain ⟨own, rest⟩ := List.forall_mem_cons.1 out
    exact (ih _ rest).trans (s.spad_writeSpad_other length false own)

/-- The blocks' scratchpads lie apart. -/
theorem State.spad_copyEach {b k : Nat} (fits : 64 * (line + n) ≤ 0x30_0000) (inside : k < 64 * n) (bs : List Nat) (s : State)
    (mem : b ∈ bs) : (s.copyEach line d bs).spad.read (spadAddr b line + k) = d.getD k 0 := by
  induction bs generalizing s with
  | nil => exact absurd mem List.not_mem_nil
  | cons c bs ih =>
    by_cases later : b ∈ bs
    · exact ih _ later
    · obtain rfl := (List.mem_cons.1 mem).resolve_right later
      refine (State.spad_copyEach_other length bs _ fun c hc => ?_).trans (s.spad_writeSpad_same (length ▸ inside) false)
      have other : c ≠ b := fun eq => later (eq ▸ hc)
      unfold spadAddr
      omega
end

/-- One copy of an owner's placement is outstanding no more. -/
def State.copyDone (s : State) (w : Owner) (id : BitVec 32) : State :=
  { s with placings := s.placings.map fun p =>
      if p.owner == w then { p with copies := p.copies.filter fun c => c != id } else p }

/-- The residency's lines are copied. -/
def State.copied (s : State) (w : Owner) (id : BitVec 32) (x : ImgResid) (d : List Byte) : State :=
  (s.copyEach x.line d (s.lackers w x)).copyDone w id

/-- An owner's last copy is complete. -/
def State.copiesDone (s : State) (w : Owner) : Bool := s.placings.any fun p => p.owner == w && p.copies.isEmpty

/-- After the last copy the block set is checked again. -/
def State.settleCopies (s : State) (w : Owner) : State :=
  if s.copiesDone w then ((s.placeReport w).map (s.placeFail w)).getD (s.placeCommit w) else s

/-- Data as a residency needs it. -/
def ImgResid.accepts (x : ImgResid) (v : List Byte × Bool) : Bool :=
  !v.2 && v.1.length == 64 * x.lines && (crc64 v.1).toNat == x.digest

/-- The read of a residency's source for an owner. -/
def State.copyRead (s : State) (w : Owner) (x : ImgResid) (f : MemFindings) : Option (List Byte × Bool) × State :=
  s.readVa x.source (64 * x.lines) f (ownerReader w (s.ownerRegion w))

section
variable {s : State} {w : Owner} {id : BitVec 32} {f : MemFindings} {x : ImgResid}
  (found : (imgResids (s.mapping (s.ownerMapping w)).image).find? (fun r => r.id == id.toNat) = some x)
  (serves : s.deviceWaits x.source = false)
include found serves

theorem State.residencyCopied_eq : s.residencyCopied w id f =
    if (s.copyRead w x f).1.any x.accepts then
      ((s.copyRead w x f).2.copied w id x (((s.copyRead w x f).1.map Prod.fst).getD [])).settleCopies w
    else (s.copyRead w x f).2.placeFail w
      (sourceReport ((imgResids (s.mapping (s.ownerMapping w)).image).findIdx fun r => r.id == id.toNat)) := by
  unfold State.residencyCopied
  dsimp only
  rw [found]
  dsimp only
  rw [serves, Bool.not_false, State.onlyIf_true, ← State.copyRead]
  generalize s.copyRead w x f = y
  obtain ⟨_ | ⟨d, bad⟩, u⟩ := y
  · rfl
  · have turned : (bad || d.length != 64 * x.lines || (crc64 d).toNat != x.digest) = !x.accepts (d, bad) := by
      simp [ImgResid.accepts, bne, Bool.not_and]
    dsimp only
    rw [turned, Option.any_some]
    cases x.accepts (d, bad) with
    | false => rfl
    | true =>
      have last : ∀ v : State, (if (v.placings.any fun p => p.owner == w && p.copies.isEmpty) = true then
          match v.placeReport w with
          | some r => v.placeFail w r
          | none => v.placeCommit w
        else v) = v.settleCopies w := by
        intro v
        unfold State.settleCopies
        cases v.placeReport w <;> rfl
      exact last (u.copied w id x d)

/-- Data that is missing, poisoned or of another digest rejects the placement. -/
theorem State.residencyCopied_rejects (bad : (s.copyRead w x f).1.any x.accepts = false) :
    s.residencyCopied w id f = (s.copyRead w x f).2.placeFail w
      (sourceReport ((imgResids (s.mapping (s.ownerMapping w)).image).findIdx fun r => r.id == id.toNat)) := by
  rw [State.residencyCopied_eq found serves, bad]
  rfl

theorem State.residencyCopied_accepts {v : List Byte × Bool} (data : (s.copyRead w x f).1 = some v) (good : x.accepts v = true) :
    s.residencyCopied w id f = ((s.copyRead w x f).2.copied w id x v.1).settleCopies w := by
  rw [State.residencyCopied_eq found serves, data, Option.any_some, good]
  rfl
end

theorem ImgResid.length_of_accepts {x : ImgResid} {v : List Byte × Bool} (good : x.accepts v = true) :
    v.1.length = 64 * x.lines := by
  simp only [ImgResid.accepts, Bool.and_eq_true, beq_iff_eq] at good
  exact good.1.2

theorem State.copyRead_touches (s : State) (w : Owner) (x : ImgResid) (f : MemFindings) : s.ReadTouches (s.copyRead w x f).2 :=
  .readVa x.source _ f _

/-- What a read that failed, and the rejection after it, leave. -/
theorem State.ReadTouches.placeFail {s u : State} (h : s.ReadTouches u) (w : Owner) (c : CheckReport) :
    (u.placeFail w c).spad = s.spad ∧ (∀ b, ((u.placeFail w c).block b).threads = (s.block b).threads) ∧
      ∀ p k, w = .pipeline p → (s.pipe p).stream = .starting → (s.pipe p).ticket = some k →
        ((u.placeFail w c).pipe p).stream = .stopped ∧ s.completes (u.placeFail w c) k c.status (reportBytes (some c)) := by
  obtain ⟨spad, -, -, owners⟩ := State.placeFail_keeps u c w
  refine ⟨spad.trans (congrArg State.spad h.only :), fun b => ?_, fun p k owner starting ticket => ?_⟩
  · obtain ⟨threads, -, -⟩ := owners b
    obtain ⟨v, status⟩ := h.status b
    rw [threads, status]
  · subst owner
    have pipe : u.pipe p = s.pipe p := (congrArg (State.pipe · p) h.only :)
    obtain ⟨stopped, completes⟩ := State.placeFail_stops u c (p := p) (pipe.symm ▸ starting)
    exact ⟨stopped, State.completes_of_eth (congrArg State.eth h.only :).symm (completes k (pipe.symm ▸ ticket))⟩

section
variable (s : State) (w : Owner) (id : BitVec 32) (x : ImgResid) (d : List Byte)

theorem State.copied_eq : s.copied w id x d =
    { s with spad := (s.copied w id x d).spad, spadPoison := (s.copied w id x d).spadPoison
             placings := (s.copied w id x d).placings } := by
  unfold State.copied State.copyDone
  rw [State.copyEach_eq]

theorem State.placings_copied : (s.copied w id x d).placings = s.placings.map fun p =>
    if p.owner == w then { p with copies := p.copies.filter fun c => c != id } else p := by
  unfold State.copied State.copyDone
  rw [State.copyEach_eq]

theorem State.settleCopies_waits (waits : s.copiesDone w = false) : s.settleCopies w = s := by
  rw [State.settleCopies, waits]
  rfl

variable {s w}

theorem State.settleCopies_rejects {c : CheckReport} (last : s.copiesDone w = true) (report : s.placeReport w = some c) :
    s.settleCopies w = s.placeFail w c := by
  rw [State.settleCopies, if_pos last, report]
  rfl

theorem State.settleCopies_places (last : s.copiesDone w = true) (report : s.placeReport w = none) :
    s.settleCopies w = s.placeCommit w := by
  rw [State.settleCopies, if_pos last, report]
  rfl
end

theorem State.copiesDone_false {s : State} {w : Owner} (waits : (s.placings.all fun p => p.owner != w || !p.copies.isEmpty) = true) :
    s.copiesDone w = false := by
  simpa [State.copiesDone, imp_iff_not_or] using waits

/-- A placement that is made is under way no more. -/
theorem State.placings_placeCommit (s : State) (w : Owner) : (s.placeCommit w).placings = s.placings.filter fun p => p.owner != w := by
  cases w with
  | job k =>
    rw [State.placeCommit_job]
    exact (congrArg State.placings (State.placeEach_eq (s.unplaced (.job k)) (.job k) (fun _ => (k, 0)) (s.targets (.job k))) :)
  | pipeline p =>
    have each := fun next => (congrArg State.placings ((s.unplaced (.pipeline p)).placeEach_eq (.pipeline p) next
      (s.targets (.pipeline p))) :)
    by_cases starting : (s.pipe p).stream = .starting
    · rw [State.placeCommit_starting s starting, State.streamOn_eq]
      exact each _
    · rw [State.placeCommit_streaming s starting, State.joinBlocks_eq]
      exact each _

theorem exec_residencyCopy {s : State} {t : Time} {w : Owner} {id : BitVec 32} (f : MemFindings) (ready : s.phase = .ready)
    (placed : (s.placings.any fun p => p.owner == w && p.copies.contains id) = true) :
    exec (.residencyCopy t w id f) s = .next ((s.begin t).residencyCopied w id f) := by
  have same : ((s.begin t).placings.any fun p => p.owner == w && p.copies.contains id) = true := placed
  change execResidencyCopy t w id f s = _
  rw [execResidencyCopy, whenReady_ready t _ s ready, same, State.onlyIf_true]

/-- Settles O21: a copy by what its read gives, a refill line by line. -/
theorem residenciesCopiedAndRefilled : Obligations.ResidenciesCopiedAndRefilled := by
  unfold Obligations.ResidenciesCopiedAndRefilled
  refine ⟨fun s t w id f x ready placed found serves => ⟨fun bad => ?rejects, fun v data good fits => ?copies⟩,
    fun s t b id f x ready found serves => ?refill⟩
  case rejects =>
    refine ⟨_, (exec_residencyCopy f ready placed).trans (congrArg _
      (State.residencyCopied_rejects (s := s.begin t) found serves bad)), ?_⟩
    exact ((s.begin t).copyRead_touches w x f).placeFail w _
  case copies =>
    have accepts : x.accepts v = true := by
      have good : ((s.begin t).copyRead w x f).1.any x.accepts = true := good
      rwa [show ((s.begin t).copyRead w x f).1 = some v from data] at good
    have run : exec (.residencyCopy t w id f) s = _ := (exec_residencyCopy f ready placed).trans (congrArg _
      (State.residencyCopied_accepts (s := s.begin t) found serves data accepts))
    have read := (s.begin t).copyRead_touches w x f
    have length := ImgResid.length_of_accepts accepts
    refine ⟨((s.begin t).copyRead w x f).2.copied w id x v.1, State.copied_eq .., fun waits => ?_, fun last => ⟨fun c report => ?_,
      fun report => ⟨_, run.trans (congrArg _ (State.settleCopies_places last report)), ?_⟩⟩, ⟨fun b lacking k inside => ?_,
      fun a out => ?_⟩, ?_⟩
    · rw [run, State.settleCopies_waits _ _ (State.copiesDone_false waits)]
    · rw [run, State.settleCopies_rejects last report]
    · obtain ⟨threads, -, spad, -, -⟩ := State.placeCommit_places (((s.begin t).copyRead w x f).2.copied w id x v.1) w
      refine ⟨spad, ?_, threads⟩
      rw [State.placings_placeCommit, List.all_filter]
      simp
    · exact State.spad_copyEach length fits inside _ _ (State.mem_lackers.2 lacking)
    · refine (State.spad_copyEach_other length _ _ fun b mem => out b (State.mem_lackers.1 mem)).trans ?_
      exact (congrArg (fun u : State => u.spad.read a) read.only :)
    · rw [State.placings_copied]
      exact congrArg (List.map _) (congrArg State.placings read.only :)
  case refill =>
    obtain rfl : x.id = id := by
      have holds := List.find?_some found
      simp only [Bool.and_eq_true, beq_iff_eq] at holds
      exact holds.1
    obtain ⟨pool, pipes, channels⟩ := (s.begin t).refill_keeps b x f
    refine ⟨_, (s.begin t).refillFailed b x f, exec_residencyRefill f ready found serves, fun plain => ?exact,
      (s.begin t).residents_refill b x f, fun l mem => (s.begin t).refillFailed_bad b x f mem, fun none => ?records, fun a out => ?other,
      fun none => none ▸ (s.begin t).dram_refill b x, pool, pipes, channels⟩
    case exact =>
      have reads := (s.begin t).readsAs_badLines b x plain
      refine ⟨State.failedLines_eq _ _ reads, ?_, fun l mem d data => ⟨State.sourceLine_length data, fun k inside => ?_⟩⟩
      · rw [State.spadPoison_refill]
        exact State.spadPoison_refillLines _ _ reads
      · rw [State.spad_refill]
        exact State.spad_refillLines _ _ reads ((s.begin t).nodup_badLines b x) mem data inside
    case records =>
      subst none
      exact ⟨(s.begin t).faults_refill b x, (s.begin t).held_refill b x⟩
    case other =>
      rw [State.spad_refill]
      refine State.spad_refillLines_other _ _ fun l mem => ?_
      obtain ⟨low, high, bad, -⟩ := State.mem_badLines.1 mem
      exact out l low high bad

end Sys2Proof.Machine
end

section
/-!
PROOFS. O19: LOAD_MAPPING, the end of a load, and UNLOAD_MAPPING. What the copy of an image leaves, then what a load that ends makes
of its ID.
-/

namespace Sys2Proof.Machine

open Sys2Proof

/-! ## Little-endian fields -/

theorem ofLe_lt : ∀ l : List Byte, ofLe l < 256 ^ l.length
  | [] => Nat.one_pos
  | x :: l => by
    have low := x.isLt
    have high := ofLe_lt l
    rw [ofLe, List.length_cons, Nat.pow_succ]
    omega

theorem le_lt (l : List Byte) (o n : Nat) : le l o n < 256 ^ n :=
  (ofLe_lt _).trans_le (Nat.pow_le_pow_right (by decide) (by simp [slice]))

/-! ## The copy of an image (R143, R167) -/

@[simp] theorem State.mapping_received (s : State) (q : Req) (m : Nat) : (s.received q).mapping m = s.mapping m :=
  (congrArg (State.mapping · m) (s.received_eq q) :)

section
variable {s : State} {l : MapLoad} (f : MemFindings)

theorem State.copyImage_copied (copied : l.copied = true) : s.copyImage l f = (l, s) :=
  if_pos (by simp [copied])

theorem State.copyImage_waits (waits : s.deviceWaits l.addr.toNat = true) : s.copyImage l f = (l, s) :=
  if_pos (by simp [waits])

theorem State.copyImage_reads (copied : l.copied = false) (serves : s.deviceWaits l.addr.toNat = false) : s.copyImage l f =
    ({ l with copied := true, image := ((s.readVa l.addr.toNat l.len f .nobody).1.filter fun y =>
        !y.2 && y.1.length == l.len).map Prod.fst }, (s.readVa l.addr.toNat l.len f .nobody).2) :=
  if_neg (by simp [copied, serves])

variable (s l)

theorem State.copyImage_touches : s.ReadTouches (s.copyImage l f).2 := by
  unfold State.copyImage
  split
  · exact .refl s
  · exact .readVa _ _ f _

/-- The copy notes that it is made and what it read; the load is otherwise the one accepted. -/
theorem State.copyImage_load : (s.copyImage l f).1 =
    { l with copied := (s.copyImage l f).1.copied, image := (s.copyImage l f).1.image } := by
  unfold State.copyImage
  split <;> rfl
end

/-- A read of device virtual space changes no mapping. -/
theorem State.ReadTouches.mapping {s u : State} (h : s.ReadTouches u) (m : Nat) : u.mapping m = s.mapping m :=
  (congrArg (State.mapping · m) h.only :)

/-! ## LOAD_MAPPING (R167) -/

/-- The load that a request asks for. -/
def askedLoad (k : Ticket) (p : List Byte) : MapLoad :=
  { ticket := k, id := le p 0 2, len := le p 12 4, copied := false, image := none
    regionMask := BitVec.ofNat 4 (le p 2 1), addr := BitVec.ofNat 64 (le p 4 8) }

theorem askedLoad_addr (k : Ticket) (p : List Byte) : (askedLoad k p).addr.toNat = le p 4 8 :=
  Nat.mod_eq_of_lt (le_lt p 4 8)

/-- The state in which an accepted load's ID is taken. -/
def State.claim (s : State) (p : List Byte) : State := s.setMapping (le p 0 2) { Mapping.reset with state := .loading }

section
variable {s : State} {p : List Byte} (k : Ticket) (f : MemFindings)

theorem loadMappingBody_taken (taken : (s.mapping (le p 0 2)).state ≠ .empty) :
    loadMappingBody f k p s = (s, .err Code.notPermitted) :=
  if_pos taken

variable (empty : (s.mapping (le p 0 2)).state = .empty)
include empty

theorem loadMappingBody_misaligned (odd : le p 4 8 % 64 ≠ 0) : loadMappingBody f k p s = (s, .err Code.sluiceMisaligned) :=
  (if_neg (not_not.2 empty)).trans (if_pos odd)

variable (aligned : le p 4 8 % 64 = 0)
include aligned

theorem loadMappingBody_range (bad : 1023 < le p 0 2 ∨ 15 < le p 2 1 ∨ le p 3 1 ≠ 0) :
    loadMappingBody f k p s = (s, .err Code.notPermitted) :=
  (if_neg (not_not.2 empty)).trans ((if_neg (not_not.2 aligned)).trans (if_pos bad))

theorem loadMappingBody_accepts (good : ¬ (1023 < le p 0 2 ∨ 15 < le p 2 1 ∨ le p 3 1 ≠ 0)) : loadMappingBody f k p s =
    ({ ((s.claim p).copyImage (askedLoad k p) f).2 with
        loads := s.loads ++ [((s.claim p).copyImage (askedLoad k p) f).1] }, .err Code.accepted) := by
  have loads : ((s.claim p).copyImage (askedLoad k p) f).2.loads = s.loads :=
    (congrArg State.loads ((s.claim p).copyImage_touches (askedLoad k p) f).only :)
  rw [← loads]
  exact (if_neg (not_not.2 empty)).trans ((if_neg (not_not.2 aligned)).trans (if_neg good))
end

/-! ## The end of a load (R167, R168) -/

/-- What the mapping of a load becomes when it ends. -/
def State.loadOutcome (s : State) (l : MapLoad) : Mapping :=
  match s.loadReport l with
  | some _ => .reset
  | none =>
    { state := .loaded, regionMask := l.regionMask, image := l.image.getD [], accElems := imgAcc (l.image.getD [])
      carryEntries := imgCarry (l.image.getD []), unusable := false }

/-- The state when a load has ended, before its COMPLETION. -/
def State.loadSettled (s : State) (l : MapLoad) : State :=
  { s.setMapping l.id (s.loadOutcome l) with loads := s.loads.drop 1 }

theorem State.loadDone_eq (s : State) (l : MapLoad) : s.loadDone l =
    (s.loadSettled l).complete l.ticket (reportStatus (s.loadReport l)) (reportBytes (s.loadReport l)) := by
  unfold State.loadDone State.loadSettled State.loadOutcome
  cases s.loadReport l <;> rfl

/-- The end of a load writes its mapping, the list of loads and the port. -/
theorem State.loadDone_only (s : State) (l : MapLoad) : s.loadDone l =
    { s.loadSettled l with eth := (s.loadDone l).eth, out := (s.loadDone l).out } := by
  rw [State.loadDone_eq]
  exact State.complete_eq ..

theorem State.mapping_loadDone (s : State) (l : MapLoad) (m : Nat) :
    (s.loadDone l).mapping m = (s.setMapping l.id (s.loadOutcome l)).mapping m :=
  (congrArg (State.mapping · m) (s.loadDone_only l) :)

/-- What the end of load `l` leaves as it was. -/
structure State.EndsLoad (l : MapLoad) (s u : State) : Prop where
  loads : u.loads = s.loads.drop 1
  others : ∀ m, m ≠ l.id → u.mapping m = s.mapping m
  spad : u.spad = s.spad
  pool : u.pool = s.pool
  channels : u.channels = s.channels
  pipes : u.pipes = s.pipes

/-- The copy of the image before it changes none of that either. -/
theorem State.ReadTouches.loadDone {s u : State} (h : s.ReadTouches u) (l : MapLoad) : State.EndsLoad l s (u.loadDone l) where
  loads := (congrArg State.loads (u.loadDone_only l) :).trans (congrArg (fun v : State => v.loads.drop 1) h.only :)
  others m other :=
    (u.mapping_loadDone l m).trans ((State.mapping_setMapping_other _ _ _ _ other).trans (h.mapping m))
  spad := (congrArg State.spad (u.loadDone_only l) :).trans (congrArg State.spad h.only :)
  pool := (congrArg State.pool (u.loadDone_only l) :).trans (congrArg State.pool h.only :)
  channels := (congrArg State.channels (u.loadDone_only l) :).trans (congrArg State.channels h.only :)
  pipes := (congrArg State.pipes (u.loadDone_only l) :).trans (congrArg State.pipes h.only :)

theorem State.loadDone_completes (s : State) (l : MapLoad) :
    s.completes (s.loadDone l) l.ticket (reportStatus (s.loadReport l)) (reportBytes (s.loadReport l)) := by
  rw [State.loadDone_eq]
  exact State.completes_of_eth rfl (State.completes_complete ..)

section
variable {s : State} {l : MapLoad}

theorem State.loadReport_image {x : List Byte} (image : l.image = some x) :
    s.loadReport l = s.loadChecks x l.len l.regionMask.toNat := by
  rw [State.loadReport, image]

theorem State.loadReport_unread (image : l.image = none) : s.loadReport l = some imageReport := by
  rw [State.loadReport, image]

/-- A load with a report ends with it, and its ID is EMPTY again. -/
theorem State.loadDone_fails {c : CheckReport} (report : s.loadReport l = some c) : (s.loadDone l).mapping l.id = .reset ∧
    s.completes (s.loadDone l) l.ticket c.status (reportBytes (some c)) := by
  refine ⟨?_, ?_⟩
  · rw [State.mapping_loadDone, State.mapping_setMapping_same, State.loadOutcome, report]
  · have ends := s.loadDone_completes l
    rwa [report] at ends

/-- A load without one leaves its ID LOADED with the image. -/
theorem State.loadDone_loads {x : List Byte} (image : l.image = some x) (report : s.loadReport l = none) :
    (s.loadDone l).mapping l.id = { state := .loaded, regionMask := l.regionMask, image := x, accElems := imgAcc x
                                    carryEntries := imgCarry x, unusable := false } ∧
    s.completes (s.loadDone l) l.ticket Code.ok (reportBytes none) := by
  refine ⟨?_, ?_⟩
  · rw [State.mapping_loadDone, State.mapping_setMapping_same, State.loadOutcome, report, image]
    rfl
  · have ends := s.loadDone_completes l
    rwa [report] at ends
end

theorem exec_loadMappingDone {s : State} {t : Time} {f : MemFindings} {l : MapLoad} {rest : List MapLoad} (ready : s.phase = .ready)
    (oldest : s.loads = l :: rest) (copied : ((s.begin t).copyImage l f).1.copied = true) :
    exec (.loadMappingDone t f) s = .next (((s.begin t).copyImage l f).2.loadDone ((s.begin t).copyImage l f).1) := by
  show execLoadMappingDone t f s = _
  rw [execLoadMappingDone, whenReady_ready t _ s ready, State.loads_begin, oldest]
  exact congrArg Host.Outcome.next (if_pos copied)

/-! ## UNLOAD_MAPPING (R170) -/

theorem State.mappingUsed_received (s : State) (q : Req) (id : Nat) : (s.received q).mappingUsed id = s.mappingUsed id :=
  (congrArg (State.mappingUsed · id) (s.received_eq q) :)

section
variable {s : State} {q : Req} (taken : s.takes (opRow 0x0451 4) q)
include taken

theorem exec_unloadMapping_refused
    (bad : 1023 < le q.params 0 2 ∨ (s.mapping (le q.params 0 2)).state ≠ .loaded ∨ s.mappingUsed (le q.params 0 2) = true) :
    exec (.unloadMapping q) s = .next (s.served (opRow 0x0451 4) q (.err Code.notPermitted)) := by
  rw [← State.mapping_received s q, ← State.mappingUsed_received s q] at bad
  exact lysil_answers taken (if_pos bad)

theorem exec_unloadMapping_empties
    (good : ¬ (1023 < le q.params 0 2 ∨ (s.mapping (le q.params 0 2)).state ≠ .loaded ∨ s.mappingUsed (le q.params 0 2) = true)) :
    exec (.unloadMapping q) s = .next { s.served (opRow 0x0451 4) q .ok with
      mappings := (s.setMapping (le q.params 0 2) .reset).mappings } := by
  rw [← State.mapping_received s q, ← State.mappingUsed_received s q] at good
  have does : unloadMappingBody ((opRow 0x0451 4).ticket q) q.params (s.received q) = _ := if_neg good
  refine (lysil_apart rfl (by decide : Code.ok ≠ Code.badCrc) taken does rfl rfl rfl).trans ?_
  have mappings : (s.received q).mappings = s.mappings := (congrArg State.mappings (s.received_eq q) :)
  rw [State.served_eq (a := .ok) rfl (by decide : Code.ok ≠ Code.badCrc), State.setMapping, State.setMapping, mappings]
end

/-- Settles O19: LOAD_MAPPING by its body's branches, the end of a load by its report, UNLOAD_MAPPING by its one check. -/
theorem mappingsLoadAndUnload : Obligations.MappingsLoadAndUnload := by
  unfold Obligations.MappingsLoadAndUnload
  refine ⟨fun q s f taken => ⟨fun full => ?full, fun empty odd => ?misaligned, fun empty aligned bad => ?range,
    fun empty aligned id mask reserved => ?accepts⟩, fun s t f l rest ready oldest copied => ?ends,
    fun q s taken => ⟨fun range loaded free => ?empties, fun bad => exec_unloadMapping_refused taken bad⟩⟩
  case full =>
    rw [← State.mapping_received s q] at full
    exact lysil_answers taken (loadMappingBody_taken _ f full)
  case misaligned =>
    rw [← State.mapping_received s q] at empty
    exact lysil_answers taken (loadMappingBody_misaligned _ f empty odd)
  case range =>
    rw [← State.mapping_received s q] at empty
    exact lysil_answers taken (loadMappingBody_range _ f empty aligned bad)
  case accepts =>
    rw [← State.mapping_received s q] at empty
    have loads : (s.received q).loads = s.loads := (congrArg State.loads (s.received_eq q) :)
    have body := loadMappingBody_accepts ((opRow 0x0450 16 true).ticket q) f empty aligned (by omega)
    have touches := ((s.received q).claim q.params).copyImage_touches (askedLoad ((opRow 0x0450 16 true).ticket q) q.params) f
    refine ⟨?runs, fun waits => ?_, fun serves => ?_, ?_, fun m other => ?_⟩
    case runs =>
      rw [loads] at body
      refine (lysil_of_takes taken (loadMappingBody f)).trans (congrArg Host.Outcome.next ?_)
      exact congrArg (fun x : State × Ack => x.1.acked (opRow 0x0450 16 true) q x.2) body
    · exact State.copyImage_waits f ((askedLoad_addr _ _).symm ▸ waits)
    · have reads := State.copyImage_reads (l := askedLoad ((opRow 0x0450 16 true).ticket q) q.params) f rfl
        ((askedLoad_addr _ _).symm ▸ serves)
      rw [askedLoad_addr] at reads
      exact ⟨congrArg (fun x => x.1.copied) reads, congrArg (fun x => x.1.image) reads⟩
    · exact (touches.mapping _).trans (State.mapping_setMapping_same ..)
    · exact (touches.mapping m).trans ((State.mapping_setMapping_other _ _ _ _ other).trans (s.mapping_received q m))
  case ends =>
    have touches := (s.begin t).copyImage_touches l f
    have load := (s.begin t).copyImage_load l f
    have run := exec_loadMappingDone ready oldest copied
    have again : l.copied = true → ((s.begin t).copyImage l f).2 = s.begin t := fun made =>
      congrArg Prod.snd (State.copyImage_copied f made)
    generalize (s.begin t).copyImage l f = y at *
    obtain ⟨x, v⟩ := y
    dsimp only at *
    have id : x.id = l.id := (congrArg MapLoad.id load :)
    have ticket : x.ticket = l.ticket := (congrArg MapLoad.ticket load :)
    have len : x.len = l.len := (congrArg MapLoad.len load :)
    have mask : x.regionMask = l.regionMask := (congrArg MapLoad.regionMask load :)
    have eth : s.eth = v.eth := (congrArg State.eth touches.only :).symm
    have kept := touches.loadDone x
    rw [← id, ← ticket, ← len, ← mask]
    refine ⟨v.loadDone x, run, ?_, fun unread => ?_, fun image read => ⟨fun c report => ?_, fun report => ?_⟩, fun made => ?_,
      kept.others, kept.spad, kept.pool, kept.channels, kept.pipes⟩
    · exact kept.loads.trans (congrArg (List.drop 1) oldest)
    · obtain ⟨free, ends⟩ := State.loadDone_fails (State.loadReport_unread (s := v) unread)
      exact ⟨free, State.completes_of_eth eth ends⟩
    · obtain ⟨free, ends⟩ := State.loadDone_fails ((State.loadReport_image read).trans report)
      exact ⟨free, State.completes_of_eth eth ends⟩
    · obtain ⟨loaded, ends⟩ := State.loadDone_loads read ((State.loadReport_image read).trans report)
      exact ⟨loaded, State.completes_of_eth eth ends⟩
    · exact (congrArg State.mem (v.loadDone_only x) :).trans (congrArg State.mem (again made) :)
  case empties =>
    refine ⟨_, exec_unloadMapping_empties taken (by simp [range, loaded, free]), rfl, ?_, fun m other => ?_⟩
    · exact (State.mapping_setMapping_same s (le q.params 0 2) .reset :)
    · exact (State.mapping_setMapping_other s (le q.params 0 2) .reset m other :)

end Sys2Proof.Machine
end

section
/-!
PROOFS. O22 fails: it keeps every pipeline when a staged input tile's copy completes, whatever the copy's reads find. Where the tile comes
from an outer buffer in the scratchpad, a read of that buffer can meet a write in its cycle, and BANK_COLLISION is then recorded against
the frame job whose unit reads (R127), which is a part of its pipeline. Of copies whose reads find nothing the counterexample says
nothing.
-/

namespace Sys2Proof.Machine

open Sys2Proof

/-! ## A mapping with two loop levels in the scratchpad -/

/-- A loop level above level 0, of the whole row of 128 features and all 8 outputs: its memory and its A buffer's line (Table 06-8). -/
def nestLevel (mem aBuf : Nat) : List Byte :=
  leBytes 32 (2 ^ 190 * mem + 2 ^ 170 * 0o543210 + 2 ^ 149 * aBuf + 2 ^ 104 + 2 ^ 84 + 2 ^ 64 + 2 ^ 40 + 2 ^ 20 * 8 + 128)

/-- A tensor of one fold and width 1 (Table 06-2). -/
def nestTensor (location layout base c h alloc rowPitch blockPitch shift : Nat) : List Byte :=
  leBytes 1 location ++ leBytes 1 layout ++ zeros 6 ++ leBytes 8 base ++ leBytes 4 1 ++ leBytes 4 c ++ leBytes 4 h ++ leBytes 4 1
    ++ leBytes 4 alloc ++ leBytes 4 rowPitch ++ leBytes 4 blockPitch ++ zeros 4 ++ leBytes 8 shift ++ zeros 8

/-- The header of an image of one operator and three tensors, without rings and residencies (Table 06-1). -/
def nestHeader : List Byte :=
  leBytes 4 0x4D51_4150 ++ leBytes 2 1 ++ leBytes 2 1 ++ leBytes 4 640 ++ leBytes 4 3500485913 ++ leBytes 2 3 ++ zeros 6 ++ leBytes 4 64
    ++ leBytes 4 448 ++ zeros 8 ++ leBytes 4 32 ++ zeros 20

/-- A MATMUL of tensors 0 and 1 into tensor 2 under four loop levels (Table 06-3). -/
def nestOperator : List Byte :=
  leBytes 1 0 ++ leBytes 1 4 ++ zeros 12 ++ leBytes 2 1 ++ leBytes 2 2 ++ zeros 2 ++ leBytes 4 192 ++ leBytes 4 320 ++ leBytes 4 384
    ++ leBytes 8 0x0001_0101_0101_0100 ++ zeros 88

/-- One token row of 128 features in DRAM by 8 outputs. The row is staged from DRAM into the buffer at line 21, of level 2, and from
there into the one at line 20, of level 1; both lie in the scratchpad. -/
def nestImage : List Byte :=
  nestHeader ++ nestOperator
    ++ leBytes 32 (2 ^ 104 + 2 ^ 84 + 2 ^ 64 + 2 ^ 40 + 2 ^ 20 * 8 + 64) ++ nestLevel 1 20 ++ nestLevel 1 21 ++ nestLevel 3 0
    ++ zeros 64 ++ List.replicate 64 0x55
    ++ nestTensor 0 2 0x1_0000 128 1 128 64 0 0x1_0040 ++ nestTensor 2 3 128 8 128 16 0 1024 0
    ++ nestTensor 2 2 1152 8 1 128 64 0 1216

/-! ## A frame job's unit that is to stage its row -/

/-- The origin of the tile that holds the whole row, at either level. -/
def nestTile : List Nat := [0, 0, 0, 0, 0, 0]

/-- Stripe 0 of frame 1 in progress: its row stands in the outer buffer, and nothing in the inner one. -/
def nestUnit : UnitRun :=
  { frame := 1, stripe := 0, segment := 0, started := [], ended := [], groups := []
    staged := [⟨0, 2, .a, nestTile, 21, [([0, 0, 0, 0], 0, false)]⟩], checks := [], segmentDone := false, since := 0 }

/-- Pipeline 0's thread, which runs that unit. -/
def nestThread : Thread :=
  { owner := .pipeline 0, mapping := 0, workBase := 0, rings := [], accAlloc := 256, carryEntries := 0, tiles := 0, checkDue := false
    checked := 0, cuts := [], unit := some nestUnit, next := (1, 0) }

/-- Frame 1, of one row of pixels, on block 0, with no status recorded against it. -/
def nestFrame : FrameJob := { blackFrame with settings := .reset, mask := 1, stripes := [newStripe 1000] }

/-- The device at command-ready with that frame on pipeline 0 and the thread on block 0. -/
def nestRuns : State :=
  { State.reset with
    phase := .ready
    mappings := [(0, { Mapping.reset with state := .loaded, image := nestImage, regionMask := 1, accElems := 256 })]
    pipes := [(0, { Pipe.reset 0 with stream := .streaming, set := 0x1_0000_0400, blocks := 1, frames := [nestFrame] })]
    blocks := [(0, { Block.reset with threads := [nestThread] })] }

/-- The unit, and where it runs. -/
def nestCtx : Ctx :=
  { b := 0, o := .pipeline 0, thread := nestThread, run := nestUnit
    place := { image := nestImage, span := .stripe 0 PipeSettings.reset.stripeH 1, count := 1, index := 0 } }

/-! ## The copy into the inner buffer -/

/-- The read of the outer buffer's line meets a write (R127), and no other error is found. -/
def meetsWrite : MemFindings := { MemFindings.none with collisions := [21] }

/-- The first status recorded against frame 1 of pipeline 0. -/
def nestStatus (s : State) : Option (BitVec 16) := ((s.pipe 0).job 1).map FrameJob.jobStatus

theorem nestStatus_nestRuns : nestStatus nestRuns = some 0 := by decide +kernel

theorem nestStatus_stagingComplete {u : State}
    (next : exec (.stagingComplete 0 0 (.pipeline 0) 0 1 .a nestTile meetsWrite) nestRuns = .next u) :
    nestStatus u = some Code.bankCollision := by
  have run : (match exec (.stagingComplete 0 0 (.pipeline 0) 0 1 .a nestTile meetsWrite) nestRuns with
    | .next u => nestStatus u
    | _ => none) = some Code.bankCollision := by decide +kernel
  rwa [next] at run

/-- Refutes O22: the copy of a tile from a scratchpad buffer whose read meets a write records a status against its frame job, where the
statement keeps every pipeline. -/
theorem not_unitsAdvanceAndStage : ¬ Obligations.UnitsAdvanceAndStage := by
  unfold Obligations.UnitsAdvanceAndStage
  intro ⟨_, staging⟩
  have unit : (nestRuns.begin 0).ctx (0 : Fin 64) (.pipeline 0) = some nestCtx := by decide +kernel
  have runs : (nestRuns.begin 0).threadRuns nestCtx = true := by decide +kernel
  have staged : stagedAt nestCtx.image (nestCtx.op 0) 1 .a = true := by decide +kernel
  have wanted : nestTile ∈ nestCtx.wanted 0 1 := by decide +kernel
  have source : nestCtx.sourceReady 0 1 .a nestTile = true := by decide +kernel
  have room : nestCtx.inSlot 0 1 .a = some 0 := by decide +kernel
  have outer : (nestCtx.srcLevel 0 .a (1 + 1)).isSome = true := by decide +kernel
  obtain ⟨u, next, _, _, _, _, _, inward, _⟩ := staging nestRuns 0 0 (.pipeline 0) 0 1 .a nestTile meetsWrite nestCtx rfl rfl rfl rfl
    unit runs (by decide +kernel)
  obtain ⟨_, pipes, _⟩ := inward 0 (by decide) staged (by decide +kernel) wanted source rfl room (.inl outer)
  have kept : nestStatus u = nestStatus nestRuns := by rw [nestStatus, State.pipe, pipes, nestStatus, State.pipe]
  have recorded := nestStatus_stagingComplete next
  rw [kept, nestStatus_nestRuns] at recorded
  exact absurd recorded (by decide)

end Sys2Proof.Machine
end

section
/-!
PROOFS. O25 fails: it keeps all memory when STOP_STREAM leaves its pipeline STOPPING, but after the ACK of any STOP_STREAM each
pipeline that is STOPPING with no result to come is STOPPED, whichever pipeline the request names. Where another pipeline is, its
channel halts (R254), and a halt's MSI-X message on a masked vector becomes pending (Table 11-7), which the model holds in `mem`. The
model settles such pipelines whenever a result is delivered, so a run from reset does not leave one to the next STOP_STREAM; of the
states that runs reach, and of the statement's other clauses, the counterexample says nothing.
-/

namespace Sys2Proof.Machine

open Sys2Proof

/-- A STOP_STREAM of pipeline 0 from the session's peer, in queue 0. -/
def stopAsked : Req :=
  let q : Req :=
    { time := 0, port := .a, intact := true, vid := none, secured := true, frameLen := 100, arrival := .whole, srcAddr := 7
      srcPort := 9, dstPort := 0, len := 40, magic := 0x4151, version := 1, queue := 0, seq := 0, flags := 0, paramLen := 4
      status := 0, tag := 5, expiry := 0, eventSeq := 0, params := [0, 0, 0, 0], crc := 0, unacked := 0 }
  { q with crc := reqCrc q 0x0491 }

/-- A channel that runs for pipeline 1, with vector 0. -/
def stoppingChannel : Channel := { Channel.reset with state := .running, ownerKind := 1, owner := 1, vector := 0 }

/-- The device at command-ready: pipeline 0 streams and has a result to come, pipeline 1 is STOPPING and has none; every vector is
masked. -/
def twoStops : State :=
  { State.reset with
    phase := .ready
    session := some ⟨7, 9, 0, 0, false⟩
    eth := [(0, { Eth.reset with up := true, link := true })]
    pipes := [(0, { Pipe.reset 0 with stream := .streaming, frames := [blackFrame] }), (1, { Pipe.reset 1 with stream := .stopping })]
    channels := [(0, stoppingChannel)] }

/-- The STOP_STREAM of pipeline 0 makes vector 0 pending. -/
theorem stopStream_leaves_pending {u : State} (next : exec (.stopStream stopAsked) twoStops = .next u) : u.mem.isPending 0 = true := by
  have run : (match exec (.stopStream stopAsked) twoStops with
    | .next u => u.mem.isPending 0
    | _ => false) = true := by decide +kernel
  rwa [next] at run

/-- Refutes O25: a STOP_STREAM that leaves pipeline 0 STOPPING also stops pipeline 1, whose channel's halt makes a vector pending in
the memory that the statement keeps. -/
theorem not_streamsStartAndStop : ¬ Obligations.StreamsStartAndStop := by
  unfold Obligations.StreamsStartAndStop
  intro ⟨_, stops, _⟩
  have taken : twoStops.takes (opRow 0x0491 4 true) stopAsked := by
    change (twoStops.begin stopAsked.time).gate (opRow 0x0491 4 true) stopAsked = .run
    decide +kernel
  obtain ⟨_, carried, _⟩ := stops stopAsked twoStops taken
  obtain ⟨u, next, _, _, _, _, mem, _⟩ := carried (by decide) (by decide +kernel) (by decide +kernel)
  have pending := stopStream_leaves_pending next
  rw [mem] at pending
  exact absurd pending (by decide +kernel)

end Sys2Proof.Machine
end

section
/-!
PROOFS. O26: the deadline of a stripe. What the stripes of a frame are after each update that STRIPE_DEADLINE makes, what a
cancellation and a stripe's finality leave, and then the three ways of the event and the wait for the last fallback row.
-/

namespace Sys2Proof.Machine

open Sys2Proof

/-! ## The stripes of a frame -/

/-- Stripe `i` of frame `f` of a pipeline, until the frame's result is delivered. -/
def State.stripeOf (s : State) (q : Nat) (f : BitVec 32) (i : Nat) : Option Stripe := ((s.pipe q).job f).bind fun j => j.stripe i

theorem State.stripeOf_of_job {s : State} {q : Nat} {f : BitVec 32} {j : FrameJob} (job : (s.pipe q).job f = some j) (i : Nat) :
    s.stripeOf q f i = j.stripe i := by
  rw [State.stripeOf, job]
  rfl

/-- Only the pipeline says which stripes a frame has. -/
theorem State.stripeOf_congr {s u : State} {q : Nat} (same : u.pipe q = s.pipe q) (f : BitVec 32) (i : Nat) :
    u.stripeOf q f i = s.stripeOf q f i := by
  rw [State.stripeOf, same, State.stripeOf]

/-- A frame job that changes is still the job of its frame. -/
theorem Pipe.job_updFrame (x : Pipe) (f : BitVec 32) {g : FrameJob → FrameJob}
    (keep : ∀ j, (g j).frame = j.frame ∧ (g j).delivered = j.delivered) : (x.updFrame f g).job f = (x.job f).map g := by
  have same : ((fun j : FrameJob => j.frame == f && !j.delivered) ∘ fun j => if j.frame == f && !j.delivered then g j else j) =
      fun j => j.frame == f && !j.delivered := by
    funext j
    dsimp only [Function.comp_apply]
    split
    · rw [(keep j).1, (keep j).2]
    · rfl
  unfold Pipe.job Pipe.updFrame
  dsimp only
  rw [List.find?_map, same]
  cases found : x.frames.find? fun j => j.frame == f && !j.delivered with
  | none => rfl
  | some j =>
    have own : (j.frame == f && !j.delivered) = true := List.find?_some (p := fun j : FrameJob => j.frame == f && !j.delivered) found
    simp only [Option.map_some, own, if_true]

/-- A change of a frame job that keeps its stripes. -/
theorem State.stripeOf_updFrame (s : State) (q : Nat) (f : BitVec 32) {g : FrameJob → FrameJob}
    (keep : ∀ j, (g j).frame = j.frame ∧ (g j).delivered = j.delivered) (stripes : ∀ j, (g j).stripes = j.stripes) (i : Nat) :
    (s.updPipe q fun x => x.updFrame f g).stripeOf q f i = s.stripeOf q f i := by
  unfold State.stripeOf
  rw [State.pipe_updPipe_same, Pipe.job_updFrame _ f keep]
  cases (s.pipe q).job f with
  | none => rfl
  | some j => exact congrArg (·[i]?) (stripes j)

section
variable (s : State) (q : Nat) (f : BitVec 32) (i : Nat) (g : Stripe → Stripe)

theorem State.job_updStripe :
    ((s.updStripe q f i g).pipe q).job f = ((s.pipe q).job f).map fun j => { j with stripes := j.stripes.modify i g } := by
  unfold State.updStripe
  rw [State.pipe_updPipe_same]
  exact Pipe.job_updFrame _ f fun _ => ⟨rfl, rfl⟩

theorem State.stripeOf_updStripe_same : (s.updStripe q f i g).stripeOf q f i = (s.stripeOf q f i).map g := by
  unfold State.stripeOf
  rw [State.job_updStripe]
  cases (s.pipe q).job f with
  | none => rfl
  | some j => simp [FrameJob.stripe]

theorem State.stripeOf_updStripe_other {k : Nat} (other : k ≠ i) : (s.updStripe q f i g).stripeOf q f k = s.stripeOf q f k := by
  unfold State.stripeOf
  rw [State.job_updStripe]
  cases (s.pipe q).job f with
  | none => rfl
  | some j => simp [FrameJob.stripe, other.symm]

theorem State.stripeCounters_updStripe : ((s.updStripe q f i g).pipe q).stripeCounters = (s.pipe q).stripeCounters := by
  unfold State.updStripe
  rw [State.pipe_updPipe_same]
  rfl

variable (w : Nat)

theorem State.stripeOf_countStripe : (s.countStripe q w).stripeOf q f i = s.stripeOf q f i := by
  unfold State.stripeOf State.countStripe
  rw [State.pipe_updPipe_same]
  rfl

/-- A word of STRIPE_COUNTERS. -/
def State.stripeCount : BitVec 32 := (s.pipe q).stripeCounters.get w

theorem State.stripeCount_updStripe : (s.updStripe q f i g).stripeCount q w = s.stripeCount q w :=
  congrArg (Counters.get · w) (s.stripeCounters_updStripe q f i g)

theorem State.stripeCount_countStripe_same :
    (s.countStripe q w).stripeCount q w = BitVec.ofNat 32 (min (2 ^ 32 - 1) ((s.stripeCount q w).toNat + 1)) := by
  unfold State.stripeCount State.countStripe
  rw [State.pipe_updPipe_same]
  exact Counters.get_add_same ..

theorem State.stripeCount_countStripe_other {v : Nat} (other : w ≠ v) : (s.countStripe q v).stripeCount q w = s.stripeCount q w := by
  unfold State.stripeCount State.countStripe
  rw [State.pipe_updPipe_same]
  exact Counters.get_add_other _ _ _ _ other

end

/-- A recorded status is no part of a frame's stripes, -/
theorem State.stripeOf_recordStatus (s : State) (q : Fin 24) (f : BitVec 32) (c : BitVec 16) (i : Nat) :
    (s.recordStatus (.pipeline q) f c).stripeOf q f i = s.stripeOf q f i :=
  s.stripeOf_updFrame q f (g := fun j => j.record c) (fun _ => ⟨rfl, rfl⟩) (fun _ => rfl) i

/-- and counts nothing. -/
theorem State.stripeCount_recordStatus (s : State) (q : Fin 24) (f : BitVec 32) (c : BitVec 16) (w : Nat) :
    (s.recordStatus (.pipeline q) f c).stripeCount q w = s.stripeCount q w := by
  unfold State.stripeCount State.recordStatus
  rw [State.pipe_updPipe_same]
  rfl

theorem State.pipe_fault (s : State) (x : FaultInfo) (n : Nat) : (s.fault x).pipe n = s.pipe n :=
  (State.WriteKeeps.fault .refl x).pipe n

/-! ## What the end of a stripe may touch -/

/-- From `s` to `u` nothing changes of the frame's other stripes, of the other pipelines, of the memories and of the channels. -/
structure State.OneStripe (q : Nat) (f : BitVec 32) (i : Nat) (s u : State) : Prop where
  stripes : ∀ k, k ≠ i → u.stripeOf q f k = s.stripeOf q f k
  pipes : ∀ n, n ≠ q → u.pipe n = s.pipe n
  mem : u.mem = s.mem
  spad : u.spad = s.spad
  pool : u.pool = s.pool
  channels : u.channels = s.channels

namespace State.OneStripe
variable {q : Nat} {f : BitVec 32} {i : Nat} {s u v : State}

theorem refl : State.OneStripe q f i s s := ⟨fun _ _ => rfl, fun _ _ => rfl, rfl, rfl, rfl, rfl⟩

theorem trans (h : State.OneStripe q f i s u) (g : State.OneStripe q f i u v) : State.OneStripe q f i s v :=
  ⟨fun k other => (g.stripes k other).trans (h.stripes k other), fun n other => (g.pipes n other).trans (h.pipes n other),
    g.mem.trans h.mem, g.spad.trans h.spad, g.pool.trans h.pool, g.channels.trans h.channels⟩

/-- An update of the pipeline that keeps the other stripes. -/
theorem updPipe (h : State.OneStripe q f i s u) {g : Pipe → Pipe}
    (keep : ∀ k, k ≠ i → (u.updPipe q g).stripeOf q f k = u.stripeOf q f k) : State.OneStripe q f i s (u.updPipe q g) :=
  { h with stripes := fun k other => (keep k other).trans (h.stripes k other)
           pipes := fun n other => (State.pipe_updPipe_other _ _ _ _ other).trans (h.pipes n other) }

theorem updStripe (h : State.OneStripe q f i s u) (g : Stripe → Stripe) : State.OneStripe q f i s (u.updStripe q f i g) :=
  h.updPipe fun _ other => u.stripeOf_updStripe_other q f i g other

theorem countStripe (h : State.OneStripe q f i s u) (w : Nat) : State.OneStripe q f i s (u.countStripe q w) :=
  h.updPipe fun k _ => u.stripeOf_countStripe q f k w

theorem blocks (h : State.OneStripe q f i s u) (b : Tab Block) : State.OneStripe q f i s { u with blocks := b } := { h with }

theorem fault (h : State.OneStripe q f i s u) (x : FaultInfo) : State.OneStripe q f i s (u.fault x) where
  stripes k other := (State.stripeOf_congr (u.pipe_fault x q) f k).trans (h.stripes k other)
  pipes n other := (u.pipe_fault x n).trans (h.pipes n other)
  mem := (State.mem_fault u x).trans h.mem
  spad := (State.spad_fault u x).trans h.spad
  pool := (State.pool_fault u x).trans h.pool
  channels := (State.channels_fault u x).trans h.channels

theorem recordStatus {q : Fin 24} (h : State.OneStripe q f i s u) (c : BitVec 16) :
    State.OneStripe q f i s (u.recordStatus (.pipeline q) f c) :=
  h.updPipe fun k _ => u.stripeOf_recordStatus q f c k

end State.OneStripe

/-- The job that then has the stripe, with the others as they were. -/
theorem State.OneStripe.job {q : Nat} {f : BitVec 32} {i : Nat} {s u : State} (only : State.OneStripe q f i s u) {j : FrameJob}
    (before : (s.pipe q).job f = some j) {st : Stripe} (stripe : u.stripeOf q f i = some st) :
    ∃ j', (u.pipe q).job f = some j' ∧ j'.stripe i = some st ∧ ∀ k, k ≠ i → j'.stripe k = j.stripe k := by
  obtain ⟨j', found, own⟩ := Option.bind_eq_some_iff.1 stripe
  refine ⟨j', found, own, fun k other => ?_⟩
  rw [← State.stripeOf_of_job found, ← State.stripeOf_of_job before, only.stripes k other]

/-! ## Cancellation (R212) -/

theorem State.passUnits_eq (s : State) (b : Nat) (o : Owner) : s.passUnits b o = { s with blocks := (s.passUnits b o).blocks } := by
  unfold State.passUnits
  split
  · rfl
  · rfl

/-- A stripe is marked as cancelled. -/
def Stripe.cut (st : Stripe) : Stripe := { st with cancelled := true }

/-- Beside the mark, a cancellation writes blocks alone. -/
theorem State.cancelUnit_eq (s : State) (q : Fin 24) (f : BitVec 32) (i : Nat) :
    s.cancelUnit q f i = { s.updStripe q f i Stripe.cut with blocks := (s.cancelUnit q f i).blocks } :=
  forEach_frame (fun s u : State => { s with blocks := u.blocks }) (fun _ _ _ => rfl) (fun _ => rfl)
    (f := fun b s => (s.passUnits b (.pipeline q)).updBlock b fun x =>
      (x.leave (.pipeline q) (f, i)).closeUnit (.pipeline q) (f, i) s.time)
    (fun b s => by rw [State.passUnits_eq]; rfl) (s.unitBlocks (.pipeline q) (f, i)) (s.updStripe q f i Stripe.cut)

/-- The stripe's unit is cancelled, if it is not yet. -/
def State.cutStripe (s : State) (q : Fin 24) (f : BitVec 32) (i : Nat) (st : Stripe) : State :=
  if st.cancelled then s else s.cancelUnit q f i

section
variable (s : State) (q : Fin 24) (f : BitVec 32) (i : Nat) (st : Stripe)

theorem State.oneStripe_cutStripe : State.OneStripe q f i s (s.cutStripe q f i st) := by
  unfold State.cutStripe
  split
  · exact .refl
  · rw [State.cancelUnit_eq]
    exact (State.OneStripe.refl.updStripe _).blocks _

theorem State.stripeCount_cutStripe (w : Nat) : (s.cutStripe q f i st).stripeCount q w = s.stripeCount q w := by
  unfold State.cutStripe
  split
  · rfl
  · rw [State.cancelUnit_eq]
    exact s.stripeCount_updStripe q f i _ w

theorem State.stripeOf_cutStripe (stripe : s.stripeOf q f i = some st) : (s.cutStripe q f i st).stripeOf q f i = some st.cut := by
  unfold State.cutStripe
  split
  · next cancelled =>
    rw [stripe, Stripe.cut, ← cancelled]
  · rw [State.cancelUnit_eq]
    exact (s.stripeOf_updStripe_same q f i _).trans (congrArg _ stripe)

end

/-! ## Finality (R209, R213) -/

/-- A stripe that becomes final with code `c`. -/
def Stripe.finalWith (c : Provenance) (st : Stripe) : Stripe :=
  { st with final := some c, waiting := false, fbSlot := if c = .neural then none else st.fbSlot }

/-- The job and the stripe that the events of a stripe look up. -/
theorem State.lookup_of_stripeOf {s : State} {q : Nat} {f : BitVec 32} {i : Nat} {st : Stripe} (stripe : s.stripeOf q f i = some st) :
    ∃ j, (((s.pipe q).job f).bind fun j => (j.stripe i).map fun st => (j, st)) = some (j, st) := by
  obtain ⟨j, job, own⟩ := Option.bind_eq_some_iff.1 stripe
  exact ⟨j, by rw [job, Option.bind_some, own, Option.map_some]⟩

section
variable {s : State} {q : Fin 24} {f : BitVec 32} {i : Nat} {c : Provenance} {st : Stripe} (stripe : s.stripeOf q f i = some st)
include stripe

/-- Once a stripe is final and its code is counted, PADDED is counted, a status is recorded and a record is made at most. -/
theorem State.makeFinal_keeps (P : State → Prop) (padded : ∀ u, P u → P (u.countStripe q 4))
    (status : ∀ u v, P u → P (u.recordStatus (.pipeline q) f v)) (record : ∀ u x, P u → P (u.fault x))
    (final : P ((s.updStripe q f i (Stripe.finalWith c)).countStripe q (provCode c))) : P (s.makeFinal q f i c) := by
  obtain ⟨j, found⟩ := State.lookup_of_stripeOf stripe
  unfold State.makeFinal
  rw [found]
  dsimp only
  have counted : P (if st.padded = true then _ else _) := iteInduction (fun _ => padded _ final) fun _ => final
  have noted : P (if c = .neural ∨ c = .poison then _ else _) :=
    iteInduction (fun _ => counted) fun _ => status _ (provStatus c) counted
  exact iteInduction (fun _ => record _ _ noted) fun _ => noted

theorem State.oneStripe_makeFinal : State.OneStripe q f i s (s.makeFinal q f i c) :=
  State.makeFinal_keeps stripe (State.OneStripe q f i s) (fun _ h => h.countStripe 4) (fun _ v h => h.recordStatus v)
    (fun _ x h => h.fault x) ((State.OneStripe.refl.updStripe _).countStripe _)

theorem State.stripeOf_makeFinal : (s.makeFinal q f i c).stripeOf q f i = some (st.finalWith c) :=
  State.makeFinal_keeps stripe (fun u => u.stripeOf q f i = some (st.finalWith c))
    (fun u h => (u.stripeOf_countStripe q f i 4).trans h) (fun u v h => (u.stripeOf_recordStatus q f v i).trans h)
    (fun u x h => (State.stripeOf_congr (u.pipe_fault x q) f i).trans h)
    ((State.stripeOf_countStripe ..).trans ((State.stripeOf_updStripe_same ..).trans (congrArg _ stripe)))

theorem State.stripeCount_makeFinal : (s.makeFinal q f i c).stripeCount q (provCode c) =
    BitVec.ofNat 32 (min (2 ^ 32 - 1) ((s.stripeCount q (provCode c)).toNat + 1)) := by
  have unpadded : provCode c ≠ 4 := by cases c <;> decide
  refine State.makeFinal_keeps stripe (fun u => u.stripeCount q (provCode c) = _)
    (fun u h => (u.stripeCount_countStripe_other q _ unpadded).trans h)
    (fun u v h => (u.stripeCount_recordStatus q f v _).trans h)
    (fun u x h => (congrArg (fun y : Pipe => y.stripeCounters.get (provCode c)) (u.pipe_fault x q)).trans h) ?_
  rw [State.stripeCount_countStripe_same, State.stripeCount_updStripe]

end

/-! ## STRIPE_DEADLINE (R211) -/

/-- A substituted stripe is never NEURAL. -/
theorem State.substituteCode_ne_neural (s : State) (q : Fin 24) (j : FrameJob) (i : Nat) : s.substituteCode q j i ≠ .neural := by
  unfold State.substituteCode
  split
  · decide
  · assumption

/-- A stripe waits for its last fallback row. -/
def Stripe.wait (st : Stripe) : Stripe := { st with waiting := true }

/-- The stripe waits, which FALLBACK_WAITS counts. -/
def State.waitStripe (s : State) (q : Nat) (f : BitVec 32) (i : Nat) : State := (s.updStripe q f i Stripe.wait).countStripe q 6

section
variable (s : State) (q : Nat) (f : BitVec 32) (i : Nat)

theorem State.oneStripe_waitStripe : State.OneStripe q f i s (s.waitStripe q f i) := (State.OneStripe.refl.updStripe _).countStripe 6

theorem State.stripeOf_waitStripe : (s.waitStripe q f i).stripeOf q f i = (s.stripeOf q f i).map Stripe.wait :=
  (State.stripeOf_countStripe ..).trans (s.stripeOf_updStripe_same q f i _)

theorem State.stripeCount_waitStripe :
    (s.waitStripe q f i).stripeCount q 6 = BitVec.ofNat 32 (min (2 ^ 32 - 1) ((s.stripeCount q 6).toNat + 1)) := by
  rw [State.waitStripe, State.stripeCount_countStripe_same, State.stripeCount_updStripe]

end

section
variable {s : State} {q : Fin 24} {f : BitVec 32} {i : Nat} {j : FrameJob} {st : Stripe}
  (job : (s.pipe q).job f = some j) (stripe : j.stripe i = some st)
include job stripe

theorem State.stripeDue_idle (idle : st.final ≠ none ∨ st.waiting = true ∨ s.now < st.deadline) : s.stripeDue q f i = s := by
  unfold State.stripeDue
  rw [job, Option.bind_some, stripe]
  exact if_pos idle

theorem State.stripeDue_acts (due : ¬ (st.final ≠ none ∨ st.waiting = true ∨ s.now < st.deadline)) : s.stripeDue q f i =
    if j.fallbackReady i then (s.cutStripe q f i st).makeFinal q f i (s.substituteCode q j i)
    else (s.cutStripe q f i st).waitStripe q f i := by
  unfold State.stripeDue
  rw [job, Option.bind_some, stripe]
  exact if_neg due

/-- With every fallback row final the stripe is final, by substitution. -/
theorem State.stripeDue_final (due : ¬ (st.final ≠ none ∨ st.waiting = true ∨ s.now < st.deadline))
    (ready : j.fallbackReady i = true) : State.OneStripe q f i s (s.stripeDue q f i) ∧
      (s.stripeDue q f i).stripeOf q f i = some (st.cut.finalWith (s.substituteCode q j i)) ∧
      (s.stripeDue q f i).stripeCount q (provCode (s.substituteCode q j i)) =
        BitVec.ofNat 32 (min (2 ^ 32 - 1) ((s.stripeCount q (provCode (s.substituteCode q j i))).toNat + 1)) := by
  have cut : (s.cutStripe q f i st).stripeOf q f i = some st.cut :=
    s.stripeOf_cutStripe q f i st ((State.stripeOf_of_job job i).trans stripe)
  have acts := (State.stripeDue_acts job stripe due).trans (if_pos ready)
  rw [acts, State.stripeCount_makeFinal cut, State.stripeCount_cutStripe]
  exact ⟨(s.oneStripe_cutStripe q f i st).trans (State.oneStripe_makeFinal cut), State.stripeOf_makeFinal cut, rfl⟩

/-- With one missing it waits. -/
theorem State.stripeDue_waits (due : ¬ (st.final ≠ none ∨ st.waiting = true ∨ s.now < st.deadline))
    (ready : j.fallbackReady i = false) : State.OneStripe q f i s (s.stripeDue q f i) ∧
      (s.stripeDue q f i).stripeOf q f i = some st.cut.wait ∧
      (s.stripeDue q f i).stripeCount q 6 = BitVec.ofNat 32 (min (2 ^ 32 - 1) ((s.stripeCount q 6).toNat + 1)) := by
  have cut : (s.cutStripe q f i st).stripeOf q f i = some st.cut :=
    s.stripeOf_cutStripe q f i st ((State.stripeOf_of_job job i).trans stripe)
  have acts := (State.stripeDue_acts job stripe due).trans (if_neg (Bool.eq_false_iff.1 ready))
  rw [acts, State.stripeCount_waitStripe, State.stripeCount_cutStripe, State.stripeOf_waitStripe, cut]
  exact ⟨(s.oneStripe_cutStripe q f i st).trans (State.oneStripe_waitStripe ..), rfl, rfl⟩

/-- A stripe that waits becomes final when its last fallback row is. -/
theorem State.fallbackFinal_acts (waits : st.waiting = true) (ready : j.fallbackReady i = true) :
    s.fallbackFinal q f i = s.makeFinal q f i (s.substituteCode q j i) := by
  unfold State.fallbackFinal
  rw [job, Option.bind_some, stripe]
  exact if_pos (by simp [waits, ready])

end

theorem exec_stripeDeadline {s : State} (ready : s.phase = .ready) (t : Time) (q : Fin 24) (f : BitVec 32) (i : Nat) :
    exec (.stripeDeadline t q f i) s = .next ((s.begin t).stripeDue q f i) :=
  whenReady_ready t (fun s => s.stripeDue q f i) s ready

/-- Settles O26: at its deadline a stripe is left alone, final by substitution or waiting; one that waits becomes final with its last
fallback row. -/
theorem stripesBecomeFinalAtTheirDeadline : Obligations.StripesBecomeFinalAtTheirDeadline := by
  unfold Obligations.StripesBecomeFinalAtTheirDeadline
  refine ⟨fun s t p frame i j st ready job stripe => ?deadline, fun s p frame i j st job stripe waits final => ?waited⟩
  case deadline =>
    have job' : ((s.begin t).pipe p).job frame = some j := job
    refine ⟨fun idle => ?idle, fun live free passed => ?due⟩
    case idle => rw [exec_stripeDeadline ready, State.stripeDue_idle job' stripe idle]
    case due =>
      have due : ¬ (st.final ≠ none ∨ st.waiting = true ∨ (s.begin t).now < st.deadline) := by
        simp [live, free, Nat.not_lt.2 passed]
      have next := exec_stripeDeadline ready t p frame i
      have never := (s.begin t).substituteCode_ne_neural p j i
      cases rows : j.fallbackReady i with
      | true =>
        obtain ⟨only, own, count⟩ := State.stripeDue_final job' stripe due rows
        obtain ⟨j', found, own', others⟩ := only.job job' own
        exact ⟨_, j', _, next, found, own', rfl, never, fun _ => ⟨rfl, rfl, count⟩, nofun, others,
          only.pipes, only.mem, only.spad, only.pool, only.channels⟩
      | false =>
        obtain ⟨only, own, count⟩ := State.stripeDue_waits job' stripe due rows
        obtain ⟨j', found, own', others⟩ := only.job job' own
        exact ⟨_, j', _, next, found, own', rfl, never, nofun, fun _ => ⟨live, rfl, count⟩, others,
          only.pipes, only.mem, only.spad, only.pool, only.channels⟩
  case waited =>
    have own := State.stripeOf_makeFinal (c := s.substituteCode p j i) ((State.stripeOf_of_job job i).trans stripe)
    rw [← State.fallbackFinal_acts job stripe waits final] at own
    obtain ⟨j', found, own'⟩ := Option.bind_eq_some_iff.1 own
    exact ⟨j', _, found, own', rfl⟩

end Sys2Proof.Machine
end

section
/-!
PROOFS. What traffic over the Fovar link leaves as it is: the frames kept ahead of their turn, device time, and all of a port but what
it sends; and no record of the collector is lost.
-/

namespace Sys2Proof.Machine

open Sys2Proof

/-! ## Frames of the memory writes -/

theorem State.allocLine_eq (s : State) (r : Nat) (l : CacheLine) :
    s.allocLine r l = { s with mem := (s.allocLine r l).mem, regions := (s.allocLine r l).regions } := by
  unfold State.allocLine
  dsimp only
  split
  · rfl
  · split
    · rfl
    · split
      · rw [State.writeBack_eq]
        rfl
      · rfl

theorem State.regionWrite_eq (s : State) (r g : Nat) (k : Bool) (d : List Byte) (p : Bool) :
    s.regionWrite r g k d p = { s with mem := (s.regionWrite r g k d p).mem, regions := (s.regionWrite r g k d p).regions } := by
  have count : ∀ (s : State) (a b : Bool), s.countAccess r a b = { s with regions := (s.countAccess r a b).regions } :=
    fun s a b => by cases a <;> rfl
  unfold State.regionWrite
  dsimp only
  split
  · split
    · rw [count, State.invalidateOthers_eq]
      rfl
    · rw [State.allocLine_eq, count, State.invalidateOthers_eq]
  · rw [State.writeGranule_eq, count, State.invalidateOthers_eq]
    rfl

theorem State.writePool_eq (s : State) (r a : Nat) (d : List Byte) (p : Bool) : s.writePool r a d p =
    { s with pool := (s.writePool r a d p).pool, poolPoison := (s.writePool r a d p).poolPoison } :=
  forEach_frame (fun s u : State => { s with pool := u.pool, poolPoison := u.poolPoison }) (fun _ _ _ => rfl) (fun _ => rfl)
    (fun _ _ => rfl) _ s

/-! ## What traffic keeps -/

/-- A port as traffic over it leaves it: without its send sequence and its replay buffer. -/
def FovarPort.still (p : FovarPort) : FovarPort := { p with txSeq := 0, replay := [] }

/-- From `s` to `u` there may be traffic over the link, but none is received, no port comes up or goes down, and no time passes. -/
structure State.LinkKeeps (s u : State) : Prop where
  time : u.time = s.time
  ahead : u.fovar.ahead = s.fovar.ahead
  port : ∀ n, (u.fovarPort n).still = (s.fovarPort n).still
  downs : u.fovar.counters.get 1 = s.fovar.counters.get 1
  held : s.faults.held.length ≤ u.faults.held.length

namespace State.LinkKeeps
variable {s u v : State}

theorem refl : s.LinkKeeps s := ⟨rfl, rfl, fun _ => rfl, rfl, Nat.le_refl _⟩

theorem trans (h : s.LinkKeeps u) (g : u.LinkKeeps v) : s.LinkKeeps v :=
  ⟨g.time.trans h.time, g.ahead.trans h.ahead, fun n => (g.port n).trans (h.port n), g.downs.trans h.downs, h.held.trans g.held⟩

theorem ite (p : Prop) [Decidable p] (h : s.LinkKeeps u) (g : s.LinkKeeps v) : s.LinkKeeps (if p then u else v) := by
  split
  · exact h
  · exact g

/-- What writes neither the link nor the collector keeps it. -/
theorem of_fovar (time : u.time = s.time := by rfl) (fovar : u.fovar = s.fovar := by rfl)
    (held : u.faults.held = s.faults.held := by rfl) : s.LinkKeeps u := by
  refine ⟨time, congrArg Fovar.ahead fovar, fun n => ?_, congrArg (fun f : Fovar => f.counters.get 1) fovar, (congrArg List.length held).ge⟩
  exact congrArg (fun f : Fovar => (Tab.get (fun _ => FovarPort.reset) f.ports n).still) fovar

theorem foldl {α : Type} {f : State → α → State} (each : ∀ (s : State) x, s.LinkKeeps (f s x)) (l : List α) (s : State) :
    s.LinkKeeps (l.foldl f s) :=
  foldl_keeps s.LinkKeeps f (fun u x h => h.trans (each u x)) l s .refl

theorem forEach {α : Type} {f : α → State → State} (each : ∀ x (s : State), s.LinkKeeps (f x s)) (l : List α) (s : State) :
    s.LinkKeeps (forEach l f s) := foldl (fun s x => each x s) l s

/-- A record joins those that wait. -/
theorem fault (h : s.LinkKeeps u) (f : FaultInfo) : s.LinkKeeps (u.fault f) := by
  refine h.trans ⟨u.time_fault f, congrArg Fovar.ahead (u.fovar_fault f), fun n => ?_,
    congrArg (fun f : Fovar => f.counters.get 1) (u.fovar_fault f), ?_⟩
  · exact congrArg (fun f : Fovar => (Tab.get (fun _ => FovarPort.reset) f.ports n).still) (u.fovar_fault f)
  · by_cases up : u.faults.up = true
    · rw [State.held_fault up]
      exact Nat.le_succ _
    · rw [State.fault, if_neg up]

theorem mem (h : s.LinkKeeps u) (m : MemSys) : s.LinkKeeps { u with mem := m } := h.trans .of_fovar

theorem countMem (h : s.LinkKeeps u) (k w : Nat) : s.LinkKeeps (u.countMem k w) := h.mem _

theorem send (h : s.LinkKeeps u) (o : Output) : s.LinkKeeps (u.send o) := h.trans .of_fovar

theorem setPipe (h : s.LinkKeeps u) (q : Nat) (x : Pipe) : s.LinkKeeps (u.setPipe q x) := h.trans .of_fovar

theorem updPipe (h : s.LinkKeeps u) (q : Nat) (f : Pipe → Pipe) : s.LinkKeeps (u.updPipe q f) := h.trans .of_fovar

/-! ### Frames that leave (R349, R351) -/

theorem setFovarPort {n : Nat} {p : FovarPort} (still : p.still = (s.fovarPort n).still) : s.LinkKeeps (s.setFovarPort n p) := by
  refine ⟨rfl, rfl, fun m => ?_, rfl, Nat.le_refl _⟩
  by_cases same : m = n
  · rw [same, State.fovarPort_setFovarPort_same]
    exact still
  · rw [State.fovarPort_setFovarPort_other _ _ _ _ same]

theorem countFovar {w : Nat} (other : w ≠ 1) (n : Nat) : s.LinkKeeps (s.countFovar w n) :=
  ⟨rfl, rfl, fun _ => rfl, Counters.get_add_other _ _ _ _ other.symm, Nat.le_refl _⟩

theorem transmit (h : s.LinkKeeps u) (n : Nat) (x : LinkTx) : s.LinkKeeps (u.transmit n x) := by
  unfold State.transmit State.emit
  dsimp only
  refine .send (h.trans (.setFovarPort ?_)) _
  rfl

theorem sendFrame (h : s.LinkKeeps u) (n : Nat) (type : BitVec 4) (dst : BitVec 3) (epoch : BitVec 16) (w : BitVec 6) (i : BitVec 27)
    (p : Bool) (d : List Byte) (x : Option CollContent) : s.LinkKeeps (u.sendFrame n type dst epoch w i p d x) := by
  unfold State.sendFrame
  dsimp only
  refine .transmit (h.trans ?_) _ _
  exact ⟨rfl, rfl, fun _ => rfl, rfl, Nat.le_refl _⟩

theorem sendPeer (via : Nat × BitVec 64) (dev w i : Nat) (ep : BitVec 16) (isRead p : Bool) (d : List Byte) (x : PeerUse) (hit : Bool) :
    s.LinkKeeps (s.sendPeer via dev w i ep isRead p d x hit) := by
  unfold State.sendPeer
  dsimp only
  refine .sendFrame ?_ _ _ _ _ _ _ _ _ _
  exact ⟨rfl, rfl, fun _ => rfl, rfl, Nat.le_refl _⟩

/-! ### Uncached writes to device virtual space (R303) -/

theorem meetEntry (a : Nat) (carr : List Nat) : s.LinkKeeps (s.meetEntry a carr) := by
  unfold State.meetEntry State.badEntry
  exact .ite _ (.ite _ .refl (.fault (.mem .refl _) _)) .refl

theorem correctGranule (g : Nat) (r : Reader) : s.LinkKeeps (s.correctGranule g r) := by
  unfold State.correctGranule
  have counted (m : MemSys) (k : Nat) : s.LinkKeeps { s.countMem k 0 with mem := m } := .mem (.countMem .refl _ _) m
  exact .ite _ (.fault (.countMem (.ite _ (.fault (counted ..) _) (counted ..)) _ _) _) (.ite _ (.fault (counted ..) _) (counted ..))

theorem readGranule (g : Nat) (f : MemFindings) (r : Reader) : s.LinkKeeps (s.readGranule g f r).2 := by
  have wrong : s.LinkKeeps (((f.wrong.find? fun w => w.1 == g).map fun w => s.wrongGranule g w.2).getD s) := by
    cases f.wrong.find? fun w => w.1 == g with
    | none => exact .refl
    | some w => exact .mem .refl _
  unfold State.readGranule
  dsimp only
  split
  · exact .countMem .refl _ _
  · split
    · exact .fault (.mem (.mem (.countMem (.countMem .refl _ _) _ _) _) _) _
    · exact wrong.trans (.ite _ (.correctGranule g r) .refl)

theorem writeLocal (g o : Nat) (d : List Byte) (p : Bool) (f : MemFindings) (r : Reader) : s.LinkKeeps (s.writeLocal g o d p f r) := by
  unfold State.writeLocal
  dsimp only
  rw [State.invalidateOthers_eq, State.writeGranule_eq]
  exact .trans (.ite _ .refl (.readGranule g f r)) .of_fovar

theorem peerGranule (via : Nat × BitVec 64) (g dev w i : Nat) (ep : BitVec 16) (f : MemFindings) :
    s.LinkKeeps (s.peerGranule via g dev w i ep f).2 := by
  unfold State.peerGranule State.readPeer
  split
  · exact .refl
  · split
    · split
      · exact .sendPeer ..
      · exact .sendPeer ..
    · exact .refl

theorem writePeer (via : Nat × BitVec 64) (g o : Nat) (d : List Byte) (p : Bool) (x : PeerUse) (f : MemFindings) (dev w i : Nat)
    (ep : BitVec 16) : s.LinkKeeps (s.writePeer via g o d p x f dev w i ep).2 := by
  have read := peerGranule (s := s) via g dev w i ep f
  unfold State.writePeer
  dsimp only
  split
  · exact .refl
  · split
    · exact .sendPeer ..
    · split
      · next found => exact .trans (found ▸ read :) (.sendPeer ..)
      · next found => exact (found ▸ read :)

theorem writeVaPiece (g o : Nat) (d : List Byte) (p : Bool) (x : PeerUse) (f : MemFindings) :
    s.LinkKeeps (s.writeVaPiece g o d p x f).2 := by
  have entry := meetEntry (s := s) (64 * g) f.carr
  unfold State.writeVaPiece
  dsimp only
  split
  · dsimp only
    exact entry.trans (.writeLocal ..)
  · split
    · dsimp only
      exact .send (.ite _ (.mem entry _) entry) _
    · exact entry
  · exact entry.trans (.writePeer ..)
  · exact entry

theorem writeVa (a : Nat) (d : List Byte) (p : Bool) (x : PeerUse) (f : MemFindings) : s.LinkKeeps (s.writeVa a d p x f).2 :=
  foldl_snd_keeps s.LinkKeeps _ (fun _ a h => h.trans (.writeVaPiece a.1 a.2.1 a.2.2 p x f)) _ (true, s) .refl

/-! ### COMPLETIONs, events and halts (R254, R321, R326) -/

theorem complete (k : Ticket) (st : BitVec 16) (d : List Byte) : s.LinkKeeps (s.complete k st d) := by
  rw [State.complete_eq]
  exact .of_fovar

theorem completeOpt (h : s.LinkKeeps u) (k : Option Ticket) (st : BitVec 16) (d : List Byte) : s.LinkKeeps (u.completeOpt k st d) := by
  rw [State.completeOpt_eq]
  exact h.trans .of_fovar

theorem event (e : EthPort) (code : BitVec 16) (d : List Byte) : s.LinkKeeps (s.event e code d) := by
  rw [State.event, State.post_eq]
  exact .of_fovar

theorem interrupt (v : BitVec 11) : s.LinkKeeps (s.interrupt v) := by
  rw [State.interrupt_eq]
  exact .of_fovar

theorem haltChannel (c : Nat) (st : BitVec 16) : s.LinkKeeps (s.haltChannel c st) := by
  rw [State.haltChannel_eq]
  exact .of_fovar

theorem haltError (c : Nat) (st : BitVec 16) : s.LinkKeeps (s.haltError c st) := by
  have halted : s.LinkKeeps ((s.haltChannel c st).countSluice c 7 (if haltCounts st then 0 else 1)) := .trans (.haltChannel c st) .of_fovar
  unfold State.haltError
  dsimp only
  split
  · exact .refl
  · split
    · exact halted.trans .of_fovar
    · exact halted

theorem refuseGranule (c serial unit part : Nat) (st : BitVec 16) : s.LinkKeeps (s.refuseGranule c serial unit part st) := by
  unfold State.refuseGranule
  split
  · exact .ite _ .refl (.trans .of_fovar (.haltError c st))
  · exact .refl

theorem settleFault (c : Nat) : s.LinkKeeps (s.settleFault c) := by
  unfold State.settleFault
  dsimp only
  split
  · cases (s.channel c).faultMsix with
    | none => exact .trans .of_fovar (.event ..)
    | some v => exact .trans (.trans .of_fovar (.event ..)) (.interrupt v)
  · exact .refl

end State.LinkKeeps

/-! ## The granules of a channel that land (R266, R355) -/

/-- A property that every write of a unit of channel `c` keeps. -/
structure State.KeptByLanding (c : Nat) (P : State → Prop) : Prop where
  data : ∀ (s : State) mem regions blocks pool poolPoison spad spadPoison out, P s → P { s with
    mem := mem, regions := regions, blocks := blocks, pool := pool, poolPoison := poolPoison, spad := spad
    spadPoison := spadPoison, out := out }
  moved : ∀ (s : State) serial g, (∀ m, (g m).ended = m.ended) → P s → P (s.updMove c serial g)
  asked : ∀ (s : State) via dev w i ep isRead p d x hit, P s → P (s.sendPeer via dev w i ep isRead p d x hit)
  refused : ∀ (s : State) serial unit part st, P s → P (s.refuseGranule c serial unit part st)
  settled : ∀ s : State, P s → P (s.settleFault c)

namespace State.KeptByLanding
variable {c : Nat} {P : State → Prop} (kept : KeptByLanding c P)
include kept

theorem writeDest (serial unit part : Nat) (d : List Byte) (bad : Bool) (x : Dest) (s : State) (h : P s) :
    P (s.writeDest c serial unit part d bad x) := by
  cases x with
  | dram pa k o =>
    unfold State.writeDest
    dsimp only
    rw [State.regionWrite_eq]
    exact kept.data _ _ _ _ _ _ _ _ _ h
  | pool a =>
    unfold State.writeDest
    dsimp only
    rw [State.writePool_eq]
    exact kept.data _ _ _ _ _ _ _ _ _ h
  | spad b a =>
    unfold State.writeDest
    dsimp only
    split
    · rw [State.writeSpad_eq]
      exact kept.data _ _ _ _ _ _ _ _ _ h
    · exact h
  | host a o =>
    unfold State.writeDest
    dsimp only
    split
    · refine kept.data _ _ _ _ _ _ _ _ _ ?_
      split
      · exact kept.data _ _ _ _ _ _ _ _ _ h
      · exact h
    · exact h
  | peer dev w i ep via =>
    unfold State.writeDest
    dsimp only
    split
    · exact kept.moved _ _ _ (fun _ => rfl) (kept.asked _ _ _ _ _ _ _ _ _ _ _ h)
    · exact kept.refused _ _ _ _ _ h

theorem landUnit (serial : Nat) (u : MoveUnit) (s : State) (h : P s) : P (s.landUnit c serial u) := by
  refine foldl_keeps P _ (fun s x h => ?_) _ _ ?_
  · exact foldl_keeps P _ (fun s d h => kept.writeDest serial u.index x.2 x.1.1.1 x.1.1.2 d s h) _ s h
  · refine kept.data _ _ _ _ _ _ _ _ _ ?_
    exact foldl_keeps P _ (fun s _ h => kept.data s _ _ _ _ _ _ _ _ h) _ s h

theorem land (n : Nat) (s : State) (h : P s) : P (s.land c n) := by
  induction n generalizing s with
  | zero => exact kept.settled s h
  | succ n ih =>
    unfold State.land
    split
    · split
      · exact ih _ (kept.landUnit _ _ _ (kept.moved s _ _ (fun _ => rfl) h))
      · exact kept.settled s h
    · exact kept.settled s h

theorem dropUnit (serial unit : Nat) (s : State) (h : P s) : P (s.dropUnit c serial unit) :=
  kept.land _ _ (kept.moved s serial _ (fun _ => rfl) h)

theorem answered (serial : Nat) (s : State) (h : P s) : P (s.answered c serial) := kept.moved s serial _ (fun _ => rfl) h

end State.KeptByLanding

theorem State.LinkKeeps.keptByLanding (s : State) (c : Nat) : KeptByLanding c s.LinkKeeps where
  data _ _ _ _ _ _ _ _ _ h := h.trans .of_fovar
  moved _ _ _ _ h := h.trans .of_fovar
  asked _ _ _ _ _ _ _ _ _ _ _ h := h.trans (.sendPeer ..)
  refused _ _ _ _ _ h := h.trans (.refuseGranule ..)
  settled _ h := h.trans (.settleFault c)

/-! ## Outputs and their delivery (R227, R245, R246) -/

namespace State.LinkKeeps
variable {s u v : State}

theorem dropOutput (q : Nat) (f : BitVec 32) : s.LinkKeeps (s.dropOutput q f) := by
  unfold State.dropOutput
  exact .ite _ (.fault (.updPipe (.updPipe .refl _ _) _ _) _) (.updPipe (.updPipe .refl _ _) _ _)

theorem outWrite (q : Nat) (f : BitVec 32) (ps : List OutPiece) (m : MemFindings) (i : Option Nat) (coding : Bool) :
    s.LinkKeeps (s.outWrite q f ps m i coding) := by
  refine foldl (fun s p => ?_) ps s
  exact .ite _ (.writeVaPiece ..) (.trans (.writeVaPiece ..) (.dropOutput q f))

theorem raiseDone (q : Nat) (f : BitVec 32) (m : MemFindings) : s.LinkKeeps (s.raiseDone q f m) := by
  unfold State.raiseDone
  split
  · exact .ite _ (.trans (.updPipe .refl _ _) (.outWrite ..)) .refl
  · exact .refl

theorem haltWhere (h : s.LinkKeeps u) (p : Nat → Channel → Bool) (st : BitVec 16) : s.LinkKeeps (u.haltWhere p st) := by
  rw [State.haltWhere_eq]
  exact h.trans .of_fovar

theorem releaseThreads (h : s.LinkKeeps u) (o : Owner) : s.LinkKeeps (u.releaseThreads o) := by
  rw [State.releaseThreads_eq]
  exact h.trans .of_fovar

theorem endShed (h : s.LinkKeeps u) (q : Nat) : s.LinkKeeps (u.endShed q) := h.trans .of_fovar

theorem stopped (q : Fin 24) : s.LinkKeeps (s.stopped q) := by
  have undue (l : List Nat) (u : State) : u.LinkKeeps (Machine.forEach l (fun b s =>
      s.updBlock b fun y => { y with placeDue := y.placeDue.filter fun p => p != q.val }) u) := .forEach (fun _ _ => .of_fovar) l u
  unfold State.stopped
  dsimp only
  refine .completeOpt (.setPipe (.trans ?_ (undue _ _)) _ _) _ _ _
  exact .endShed (.releaseThreads (.haltWhere .refl _ _) _) _

theorem settleStops : s.LinkKeeps s.settleStops := .forEach (fun q _ => .ite _ (.stopped q) .refl) _ s

theorem deliver (q : Nat) (j : FrameJob) : s.LinkKeeps (s.deliver q j) := by
  have counted : s.LinkKeeps (if j.detTruncated then (s.countOutput q 0 1).countOutput q 3 1 else s.countOutput q 0 1) :=
    .ite _ (.updPipe (.updPipe .refl _ _) _ _) (.updPipe .refl _ _)
  unfold State.deliver
  exact .updPipe (.ite _ (counted.trans (.interrupt _)) counted) _ _

theorem settleOutput (q : Nat) (f : MemFindings) : s.LinkKeeps (s.settleOutput q f) := by
  have record : s.LinkKeeps (s.pushRecord q f) := by
    unfold State.pushRecord
    split
    · exact .ite _ (.trans (.updPipe .refl _ _) (.outWrite ..)) .refl
    · exact .refl
  have delivery (u : State) : u.LinkKeeps (u.pushDelivery q) := by
    unfold State.pushDelivery
    split
    · exact .ite _ (.trans (.deliver q _) .settleStops) .refl
    · exact .refl
  exact record.trans (delivery _)

/-- What a refusal does at the sender (R355). -/
theorem refused (g : PeerGranule) (st : BitVec 16) (m : MemFindings) : s.LinkKeeps (s.refused g st m) := by
  unfold State.refused
  split
  · have halted := refuseGranule (s := s)
    exact .ite _ ((keptByLanding s _).dropUnit _ _ _ (halted ..)) (.trans (.trans (halted ..) .of_fovar) (.settleFault _))
  · exact .trans (.trans (.dropOutput ..) (.raiseDone ..)) (.settleOutput ..)
  · dsimp only
    rw [State.consumePoison_eq]
    exact .trans (.fault .refl _) .of_fovar
  · exact .refl
  · exact .refl
  · exact .refl

end State.LinkKeeps

end Sys2Proof.Machine
end

section
/-!
PROOFS. O50: what a peer's answers do at the sender, and the ports of the link that come up and go down. A frame that is next in order is
taken alone, as what it does keeps the frames that are ahead of their turn; a channel that a refusal has halted stays as it halted while
what is left of it lands; and the traffic that follows a port's change leaves the port as it is.
-/

namespace Sys2Proof.Machine

open Sys2Proof

/-! ## A frame that is taken as it arrives (R349, R351) -/

/-- A frame for this device is next in order on an UP port and of its source, and no frame of its source is kept ahead of its turn. -/
structure State.InOrder (s : State) (n : Fin 4) (f : LinkFrame) : Prop where
  ready : s.phase = .ready
  up : (s.fovarPort n).state = .up
  crc : f.crcOk = true
  nak : f.nak = false
  link : f.linkSeq = (s.fovarPort n).rxSeq
  dst : f.dst = s.straps.devId
  next : f.e2eSeq = s.nextFrom f.src
  alone : ∀ x ∈ s.fovar.ahead, x.frame.src ≠ f.src

/-- Its port then expects the next frame, -/
def State.portHeard (s : State) (n : Nat) (f : LinkFrame) : State :=
  let s := s.setFovarPort n ((s.fovarPort n).acked f.linkAck)
  s.setFovarPort n { s.fovarPort n with rxSeq := (s.fovarPort n).rxSeq + 1 }

/-- and so does its pair. -/
def State.heard (s : State) (n : Nat) (f : LinkFrame) : State :=
  let s := s.portHeard n f
  { s with fovar := { s.fovar with e2eRx := Tab.set (fun _ => 0) s.fovar.e2eRx f.src.toNat (s.nextFrom f.src + 1) } }

theorem State.followUp_alone {s : State} {d : BitVec 3} (alone : ∀ x ∈ s.fovar.ahead, x.frame.src ≠ d) (n : Nat) : s.followUp d n = s := by
  cases n with
  | zero => rfl
  | succ n =>
    have found : (s.fovar.ahead.find? fun x => x.frame.src == d && x.frame.e2eSeq == s.nextFrom d) = none :=
      List.find?_eq_none.2 fun x hx => by simp [alone x hx]
    rw [State.followUp, found]

namespace State.InOrder
variable {s : State} {n : Fin 4} {x : FovarFrame}

theorem accept_portHeard (h : s.InOrder n x.frame) (t : Time) :
    ((s.begin t).portHeard n x.frame).accept x = ((s.begin t).heard n x.frame).takeArrival x := by
  have absent : s.fovar.ahead.erase x = s.fovar.ahead := List.erase_of_not_mem fun mem => h.alone x mem rfl
  have ahead : ((s.begin t).portHeard n x.frame).fovar.ahead = s.fovar.ahead := rfl
  unfold State.accept State.heard
  dsimp only
  rw [ahead, absent, ← ahead]

theorem receive (h : s.InOrder n x.frame) (t : Time) :
    (s.begin t).receive n x = ((s.begin t).portHeard n x.frame).deliverFrame x := by
  have crc : ¬ x.frame.crcOk = false := by simp [h.crc]
  have nak : ¬ x.frame.nak = true := Bool.eq_false_iff.1 h.nak
  have up : ¬ ((s.begin t).fovarPort n).state ≠ .up := not_not.2 h.up
  have goes : ¬ ((((s.begin t).setFovarPort n (((s.begin t).fovarPort n).acked x.frame.linkAck)).fovarPort n).state ≠ .up ∨
      x.frame.linkSeq ≠ (((s.begin t).setFovarPort n (((s.begin t).fovarPort n).acked x.frame.linkAck)).fovarPort n).rxSeq) := by
    rw [State.fovarPort_setFovarPort_same, not_or]
    exact ⟨up, not_not.2 h.link⟩
  unfold State.receive State.portHeard
  dsimp only
  rw [if_neg up, if_neg crc, if_neg nak, if_neg goes]
  exact if_neg (not_not.2 h.dst)

/-- It is taken at once, and no other after it. -/
theorem takes (h : s.InOrder n x.frame) (t : Time)
    (keeps : ((s.begin t).heard n x.frame).LinkKeeps (((s.begin t).heard n x.frame).takeArrival x)) :
    (s.begin t).receive n x = ((s.begin t).heard n x.frame).takeArrival x := by
  have ahead : (((s.begin t).heard n x.frame).takeArrival x).fovar.ahead = s.fovar.ahead := keeps.ahead
  have next : x.frame.e2eSeq = ((s.begin t).portHeard n x.frame).nextFrom x.frame.src := h.next
  rw [h.receive t, State.deliverFrame, if_pos next, h.accept_portHeard t]
  refine State.followUp_alone ?_ _
  rw [ahead]
  exact h.alone

/-- A peer's answer, and what it does. -/
theorem exec_answer (h : s.InOrder n x.frame) (t : Time) {c : Instr} {u : State}
    (instr : exec c s = whenReady t (fun s => s.receive n x) s) (does : ((s.begin t).heard n x.frame).takeArrival x = u)
    (keeps : ((s.begin t).heard n x.frame).LinkKeeps u) : exec c s = .next u := by
  rw [instr, whenReady_ready t _ s h.ready, h.takes t (does ▸ keeps), does]

end State.InOrder

/-! ## The granules that answers belong to (R355) -/

/-- The oldest granule sent that meets a test is taken out. -/
def State.sentLess (s : State) (p : PeerGranule → Bool) : State :=
  { s with fovar := { s.fovar with sent := s.fovar.sent.eraseP p } }

theorem State.takeSent_found {s : State} {p : PeerGranule → Bool} {g : PeerGranule} (found : s.fovar.sent.find? p = some g) :
    s.takeSent p = some (g, s.sentLess p) := by
  rw [State.takeSent, found]
  rfl

theorem State.LinkKeeps.sentLess (s : State) (p : PeerGranule → Bool) : s.LinkKeeps (s.sentLess p) :=
  ⟨rfl, rfl, fun _ => rfl, rfl, Nat.le_refl _⟩

section
variable {s : State} {f : LinkFrame} {g : PeerGranule}

theorem State.takeReadData_move {c k i j : Nat} (found : s.fovar.sent.find? (fun g => answersTo f g && g.isRead) = some g)
    (use : g.use = .move c k i j) : s.takeReadData f =
      (s.sentLess fun g => answersTo f g && g.isRead).arrive c k i j f.payload (f.poison || g.hit) := by
  rw [State.takeReadData, State.takeSent_found found]
  dsimp only
  rw [use]

theorem State.takeAck_move {c k i j : Nat} (found : s.fovar.sent.find? (fun g => answersTo f g && !g.isRead) = some g)
    (use : g.use = .move c k i j) : s.takeAck f =
      ((s.sentLess fun g => answersTo f g && !g.isRead).answered c k).settleFault c := by
  rw [State.takeAck, State.takeSent_found found]
  dsimp only
  rw [use]

theorem State.takeAck_output {p : Nat} {num : BitVec 32} {i : Option Nat} {coding : Bool}
    (found : s.fovar.sent.find? (fun g => answersTo f g && !g.isRead) = some g) (use : g.use = .output p num i coding) :
    s.takeAck f = ((s.sentLess fun g => answersTo f g && !g.isRead).raiseDone p num f.mem).settleOutput p f.mem := by
  rw [State.takeAck, State.takeSent_found found]
  dsimp only
  rw [use]

theorem State.takeRefuse_found (found : s.fovar.sent.find? (answersTo f) = some g) :
    s.takeRefuse f = ((s.countFovar 4 1).sentLess (answersTo f)).refused g f.epoch f.mem := by
  have same : (s.countFovar 4 1).fovar.sent.find? (answersTo f) = some g := found
  rw [State.takeRefuse, State.takeSent_found same]

end

/-! ## A MOVE's granules (R266, R276) -/

theorem State.settleFault_idle {s : State} {c : Nat} (idle : (s.channel c).faultDue = false) : s.settleFault c = s := by
  rw [State.settleFault]
  dsimp only
  rw [idle]
  rfl

theorem findSome?_head_serial (l : List MoveRun) : (l.findSome? fun m => m.units.head?) =
    (l.findSome? fun m => m.units.head?.map fun u => (m.serial, u)).map Prod.snd := by
  rw [List.map_findSome?]
  congr 1
  funext m
  simp [Function.comp_def]

/-- While the oldest unit of a channel lacks a granule, none of it lands. -/
theorem State.land_waits {s : State} {c : Nat} (n : Nat)
    (waits : (((s.channel c).moves.findSome? fun m => m.units.head?).all fun v => v.got.length != v.need) = true)
    (idle : (s.channel c).faultDue = false) : s.land c n = s := by
  cases n with
  | zero => exact State.settleFault_idle idle
  | succ n =>
    rw [findSome?_head_serial] at waits
    unfold State.land
    split
    · next serial u oldest =>
      rw [oldest] at waits
      have lacks : (u.got.length == u.need) = false := by simpa using waits
      rw [if_neg (by simp [State.unitReady, lacks]), State.settleFault_idle idle]
    · exact State.settleFault_idle idle

/-- A channel has halted with a status, at a PC, and so have its MOVEs. -/
structure State.HaltedAt (c : Nat) (st : BitVec 16) (pc : Nat) (s : State) : Prop where
  state : (s.channel c).state = .halted
  status : (s.channel c).status = st
  pc : (s.channel c).pc = pc
  due : (s.channel c).faultDue = false
  ended : ∀ m ∈ (s.channel c).moves, m.ended = true

namespace State.HaltedAt
variable {c : Nat} {st : BitVec 16} {pc : Nat} {s u : State}

theorem of_channels (h : s.HaltedAt c st pc) (same : u.channels = s.channels := by rfl) : u.HaltedAt c st pc := by
  have channel : u.channel c = s.channel c := congrArg (Tab.get (fun _ => Channel.reset) · c) same
  obtain ⟨state, status, pc, due, ended⟩ := h
  constructor <;> rwa [channel]

theorem updMove (h : s.HaltedAt c st pc) (serial : Nat) {g : MoveRun → MoveRun} (ended : ∀ m, (g m).ended = m.ended) :
    (s.updMove c serial g).HaltedAt c st pc := by
  unfold State.updMove
  constructor <;> rw [State.channel_updChannel_same]
  · exact h.state
  · exact h.status
  · exact h.pc
  · exact h.due
  · intro m mem
    obtain ⟨old, there, rfl⟩ := List.mem_map.1 mem
    split
    · exact (ended old).trans (h.ended old there)
    · exact h.ended old there

/-- No granule of it halts it again. -/
theorem refuseGranule (h : s.HaltedAt c st pc) (serial unit part : Nat) (status : BitVec 16) :
    s.refuseGranule c serial unit part status = s := by
  unfold State.refuseGranule
  split
  · next m found => exact if_pos (h.ended m (List.mem_of_find?_eq_some found))
  · rfl

theorem keptByLanding (c : Nat) (st : BitVec 16) (pc : Nat) : KeptByLanding c (State.HaltedAt c st pc) where
  data _ _ _ _ _ _ _ _ _ h := h.of_channels
  moved _ serial _ ended h := h.updMove serial ended
  asked _ _ _ _ _ _ _ _ _ _ _ h := h.of_channels
  refused _ serial unit part status h := (h.refuseGranule serial unit part status).symm ▸ h
  settled _ h := (State.settleFault_idle h.due).symm ▸ h

theorem haltChannel (running : (s.channel c).state = .running) : (s.haltChannel c st).HaltedAt c st (s.channel c).pc := by
  have channels : (s.haltChannel c st).channels = (s.setChannel c { s.channel c with
      state := .halted, status := st, waitKind := 0xFF, waitArg := 0, ticket := none, resume := none, faultDue := false
      moves := (s.channel c).moves.map fun m => { m with issued := true, ended := true } }).channels := by
    unfold State.haltChannel
    dsimp only
    rw [if_neg (by simp [running])]
    split
    · rw [State.interrupt_eq, State.completeOpt_eq]
      rfl
    · rw [State.completeOpt_eq]
      rfl
  refine .of_channels ?_ channels
  constructor <;> rw [State.channel_setChannel_same]
  · intro m mem
    obtain ⟨m, -, rfl⟩ := List.mem_map.1 mem
    rfl

theorem haltError (running : (s.channel c).state = .running) : (s.haltError c st).HaltedAt c st (s.channel c).pc := by
  have halted := haltChannel (st := st) running
  unfold State.haltError
  dsimp only
  rw [if_neg (by simp [running])]
  split
  · exact halted.of_channels
  · exact halted.of_channels

/-- A refusal halts a running channel at the granule's MOVE (R281, R355). -/
theorem refused {k i j : Nat} {g : PeerGranule} {m : MoveRun} (use : g.use = .move c k i j)
    (found : (s.channel c).moves.find? (fun m => m.serial == k) = some m) (live : m.ended = false)
    (running : (s.channel c).state = .running) (f : MemFindings) : (s.refused g st f).HaltedAt c st m.pc := by
  have halted : (s.refuseGranule c k i j st).HaltedAt c st m.pc := by
    unfold State.refuseGranule
    rw [found]
    dsimp only
    rw [if_neg (by simp [live])]
    have there (f : Channel → Channel) (pc : (f (s.channel c)).pc = m.pc) (state : (f (s.channel c)).state = .running) :
        ((s.updChannel c f).haltError c st).HaltedAt c st m.pc := by
      rw [← State.channel_updChannel_same s c f] at pc state
      exact pc ▸ haltError state
    exact there _ rfl running
  have kept := keptByLanding c st m.pc
  unfold State.refused
  rw [use]
  dsimp only
  split
  · exact kept.dropUnit _ _ _ halted
  · exact kept.settled _ (kept.answered _ _ halted)

end State.HaltedAt

/-! ## An output's granules (R227, R245) -/

/-- A frame job that loses a granule of its result. -/
def FrameJob.loseWrite (j : FrameJob) : FrameJob := { j with writeFault := true, recordLost := j.recordLost || j.recordSent }

section
variable (s : State) (q : Nat) (f : BitVec 32)

theorem State.frames_dropOutput : ((s.dropOutput q f).pipe q).frames = ((s.pipe q).updFrame f FrameJob.loseWrite).frames := by
  unfold State.dropOutput State.countOutput
  dsimp only
  split
  · rw [State.pipe_fault, State.pipe_updPipe_same, State.pipe_updPipe_same]
    rfl
  · rw [State.pipe_updPipe_same, State.pipe_updPipe_same]
    rfl

theorem State.job_dropOutput : ((s.dropOutput q f).pipe q).job f = ((s.pipe q).job f).map FrameJob.loseWrite := by
  rw [← Pipe.job_updFrame (s.pipe q) f (g := FrameJob.loseWrite) fun _ => ⟨rfl, rfl⟩]
  exact congrArg (List.find? _) (s.frames_dropOutput q f)

theorem State.mem_dropOutput : (s.dropOutput q f).mem = s.mem := by
  unfold State.dropOutput
  dsimp only
  split
  · exact State.mem_fault ..
  · rfl

theorem State.fovar_dropOutput : (s.dropOutput q f).fovar = s.fovar := by
  unfold State.dropOutput
  dsimp only
  split
  · exact State.fovar_fault ..
  · rfl

end

/-- DONE of the frame's job rises. -/
def State.doneRaised (s : State) (q : Nat) (f : BitVec 32) (n : Nat) : State :=
  s.updPipe q fun x => x.updFrame f fun j => { j with done := n }

section
variable {s : State} {q : Nat} {f : BitVec 32} {j : FrameJob} (job : (s.pipe q).job f = some j) (m : MemFindings)
include job

theorem State.raiseDone_idle (idle : j.settings.codingEn = false ∨ s.doneNow q j ≤ j.done) : s.raiseDone q f m = s := by
  unfold State.raiseDone
  rw [job]
  refine if_neg ?_
  rw [Bool.and_eq_true, decide_eq_true_eq, not_and]
  exact fun on => idle.elim (fun off => absurd (on.symm.trans off) (by decide)) Nat.not_lt.2

theorem State.raiseDone_rises (coding : j.settings.codingEn = true) (more : j.done < s.doneNow q j) : s.raiseDone q f m =
    (s.doneRaised q f (s.doneNow q j)).writeMarker q j (s.doneNow q j) m := by
  unfold State.raiseDone
  rw [job]
  exact if_pos (by simp [coding, more])

end

theorem State.done_doneRaised {s : State} {q : Nat} {f : BitVec 32} {n : Nat} {x : FrameJob}
    (mem : x ∈ ((s.doneRaised q f n).pipe q).frames) (frame : x.frame = f) (open_ : x.delivered = false) : x.done = n := by
  unfold State.doneRaised at mem
  rw [State.pipe_updPipe_same] at mem
  obtain ⟨y, -, rfl⟩ := List.mem_map.1 mem
  split
  · rfl
  · next other =>
    rw [if_neg other] at frame open_
    exact absurd (by simp [frame, open_]) other

/-- Every stripe below DONE has its coding rows in memory, or dropped. -/
theorem State.codingLanded_of_lt {s : State} {q : Nat} {j : FrameJob} {i : Nat} (lt : i < s.doneNow q j) : s.codingLanded q j i = true := by
  have same : ((List.range j.stripes.length).takeWhile (s.codingLanded q j))[i]'lt = i := by
    simp only [List.takeWhile_eq_take_findIdx_not, List.getElem_take, List.getElem_range]
  exact same ▸ List.mem_takeWhile_imp (List.getElem_mem lt)

theorem State.landed_of_lt_doneNow {s : State} {q : Nat} {j : FrameJob} {i : Nat} (lt : i < s.doneNow q j) :
    (∀ st, j.stripe i = some st → st.written = true) ∧ ∀ g ∈ s.fovar.sent, g.use ≠ .output q j.frame (some i) true := by
  have landed := State.codingLanded_of_lt lt
  rw [State.codingLanded, Bool.and_eq_true, List.all_eq_true] at landed
  obtain ⟨written, answered⟩ := landed
  refine ⟨fun st stripe => ?_, fun g sent use => ?_⟩
  · rwa [stripe] at written
  · have open_ := answered g sent
    simp [PeerUse.isCoding, use] at open_

/-- With no map and no record of the pipeline out, no delivery goes on. -/
theorem State.settleOutput_idle {s : State} {q : Nat} (idle : ∀ j ∈ (s.pipe q).frames, j.mapSent = false ∧ j.recordSent = false)
    (f : MemFindings) : s.settleOutput q f = s := by
  have next {j : FrameJob} (found : (s.pipe q).nextResult = some j) := idle j (List.mem_of_find?_eq_some found)
  have record : s.pushRecord q f = s := by
    unfold State.pushRecord
    split
    · next found => exact if_neg (by simp [next found])
    · rfl
  rw [State.settleOutput, record]
  unfold State.pushDelivery
  split
  · next found => exact if_neg (by simp [next found])
  · rfl

theorem State.idle_dropOutput {s : State} {q : Nat} (idle : ((s.pipe q).frames.all fun j => !j.mapSent && !j.recordSent) = true)
    (f : BitVec 32) : ∀ j ∈ ((s.dropOutput q f).pipe q).frames, j.mapSent = false ∧ j.recordSent = false := by
  intro j mem
  rw [State.frames_dropOutput] at mem
  obtain ⟨old, there, rfl⟩ := List.mem_map.1 mem
  have open_ : old.mapSent = false ∧ old.recordSent = false := by simpa using List.all_eq_true.1 idle old there
  split
  · exact open_
  · exact open_

theorem State.refused_output {s : State} {g : PeerGranule} {p : Nat} {num : BitVec 32} {i : Option Nat} {coding : Bool}
    (use : g.use = .output p num i coding) (st : BitVec 16) (m : MemFindings) :
    s.refused g st m = ((s.dropOutput p num).raiseDone p num m).settleOutput p m := by
  rw [State.refused, use]

/-! ## Ports that come up (R346, R351) -/

/-- From `s` to `u` frames go out, and that is all. -/
structure State.Sends (s u : State) : Prop extends State.LinkKeeps s u where
  only : u = { s with out := u.out, fresh := u.fresh, fovar := u.fovar }

namespace State.Sends
variable {s u v : State}

theorem refl : s.Sends s := ⟨.refl, rfl⟩

theorem trans (h : s.Sends u) (g : u.Sends v) : s.Sends v :=
  ⟨h.toLinkKeeps.trans g.toLinkKeeps, frame_trans (fun s u : State => { s with out := u.out, fresh := u.fresh, fovar := u.fovar })
    (fun _ _ _ => rfl) h.only g.only⟩

theorem foldl {α : Type} {f : State → α → State} (each : ∀ (s : State) x, s.Sends (f s x)) (l : List α) (s : State) :
    s.Sends (l.foldl f s) :=
  foldl_keeps s.Sends f (fun u x h => h.trans (each u x)) l s .refl

theorem forEach {α : Type} {f : α → State → State} (each : ∀ x (s : State), s.Sends (f x s)) (l : List α) (s : State) :
    s.Sends (forEach l f s) := foldl (fun s x => each x s) l s

theorem transmit (n : Nat) (x : LinkTx) : s.Sends (s.transmit n x) := ⟨.transmit .refl n x, rfl⟩

theorem collFrameOut (k : Nat) (c : Collective) (d key i : Nat) (b : List Byte) (x : CollContent) :
    s.Sends (s.collFrameOut k c d key i b x) := by
  unfold State.collFrameOut
  split
  · exact ⟨.sendFrame .refl .., rfl⟩
  · exact .refl

theorem sendColl (k : Nat) (c : Collective) (d : Nat) (x : CollContent) : s.Sends (s.sendColl k c d x) := by
  have taken : s.Sends s.free.2 := ⟨.of_fovar, rfl⟩
  exact taken.trans (.collFrameOut ..)

/-- Frames that were held are sent again. -/
theorem resendHeld (up : Option Nat) : s.Sends (s.resendHeld up) := by
  refine forEach (fun n s => ?_) _ s
  have kept : s.Sends (s.setFovarPort n { s.fovarPort n with
      replay := (s.fovarPort n).replay.filter fun x => !s.reachable x.dst.toNat }) := ⟨.setFovarPort rfl, rfl⟩
  exact kept.trans (foldl (fun s x => (transmit _ x).trans ⟨.countFovar (by decide) 1, rfl⟩) _ _)

theorem rejoin (d : Nat) : s.Sends (s.rejoin d) := by
  refine forEach (fun k s => ?_) _ s
  split
  · split
    · exact .sendColl ..
    · exact .refl
  · exact .refl

end State.Sends

/-- A port is UP, trained with a neighbour. -/
structure FovarPort.UpWith (d : BitVec 3) (dp : BitVec 2) (boot : BitVec 32) (p : FovarPort) : Prop where
  state : p.state = .up
  neighbour : p.neighbour = d
  neighbourPort : p.neighbourPort = dp
  rxSeq : p.rxSeq = 0
  boot : p.boot = some boot

theorem FovarPort.UpWith.of_still {d : BitVec 3} {dp : BitVec 2} {boot : BitVec 32} {p q : FovarPort} (h : p.UpWith d dp boot)
    (still : q.still = p.still) : q.UpWith d dp boot where
  state := (congrArg FovarPort.state still).trans h.state
  neighbour := (congrArg FovarPort.neighbour still).trans h.neighbour
  neighbourPort := (congrArg FovarPort.neighbourPort still).trans h.neighbourPort
  rxSeq := (congrArg FovarPort.rxSeq still).trans h.rxSeq
  boot := (congrArg FovarPort.boot still).trans h.boot

/-- What was held and owed for a device is given up: no port goes down, and no time passes. -/
theorem State.forgetDevice_keeps (s : State) (d : BitVec 3) : (s.forgetDevice d).time = s.time ∧
    ∀ n, ((s.forgetDevice d).fovarPort n).still = (s.fovarPort n).still := by
  have dropped : s.LinkKeeps (forEach (indices 4 fun _ => true) (fun n s => s.setFovarPort n { s.fovarPort n with
      replay := (s.fovarPort n).replay.filter fun x => x.dst != d }) s) := .forEach (fun _ _ => .setFovarPort (by rfl)) _ s
  unfold State.forgetDevice
  generalize forEach (indices 4 fun _ => true) (fun n s => s.setFovarPort n { s.fovarPort n with
      replay := (s.fovarPort n).replay.filter fun x => x.dst != d }) s = v at dropped
  dsimp only
  generalize owed : { v with fovar := { v.fovar with
    sent := v.fovar.sent.filter fun g => g.device != d, ahead := v.fovar.ahead.filter fun x => x.frame.src != d
    e2eTx := Tab.set (fun _ => 0) v.fovar.e2eTx d.toNat 0, e2eRx := Tab.set (fun _ => 0) v.fovar.e2eRx d.toNat 0 } } = w
  have refused : w.LinkKeeps ((v.fovar.sent.filter fun g => g.device == d).foldl (fun s g => s.refused g Code.windowClosed) w) :=
    .foldl (fun s g => .refused g _ .none) _ w
  have same : w.time = v.time ∧ ∀ n, w.fovarPort n = v.fovarPort n := by
    subst owed
    exact ⟨rfl, fun _ => rfl⟩
  obtain ⟨time, port⟩ := same
  exact ⟨refused.time.trans (time.trans dropped.time), fun n =>
    (refused.port n).trans ((congrArg FovarPort.still (port n)).trans (dropped.port n))⟩

section
variable {s : State} {n : Nat} {d : BitVec 3} {dp : BitVec 2} (boot : BitVec 32)

/-- With the neighbour of the wiring a port comes up, and its event is made last. -/
theorem State.trained_up (wired : s.fovar.wiring s.straps.devId.toNat n = (d.toNat, dp.toNat)) : ∃ v : State,
    s.trained n d dp boot = v.portStateEvent n 2 (fovarStateCode (s.fovarPort n).state) d.toNat ∧
    v.time = s.time ∧ (v.fovarPort n).UpWith d dp boot := by
  unfold State.trained
  dsimp only
  rw [if_pos wired]
  refine ⟨_, rfl, ?_⟩
  generalize set_ : State.suppressTail _ _ = w
  have time : w.time = s.time := set_ ▸ rfl
  have up : (w.fovarPort n).UpWith d dp boot := by
    have port : w.fovarPort n = { s.fovarPort n with
        state := .up, neighbour := d, neighbourPort := dp, at16 := s.fovar.rate16, boot := some boot, rxSeq := 0, txSeq := 0
        resends := 0 } := set_ ▸ State.fovarPort_setFovarPort_same ..
    rw [port]
    exact ⟨rfl, rfl, rfl, rfl, rfl⟩
  split
  · obtain ⟨later, still⟩ := w.forgetDevice_keeps d
    refine forEach_keeps (fun v => v.time = s.time ∧ (v.fovarPort n).UpWith d dp boot) _ (fun m v h => ?_) _ _
      ⟨later.trans time, up.of_still (still n)⟩
    obtain ⟨time, up⟩ := h
    refine ⟨time, ?_⟩
    by_cases same : n = m
    · subst same
      rw [State.fovarPort_setFovarPort_same]
      exact ⟨up.state, up.neighbour, up.neighbourPort, up.rxSeq, rfl⟩
    · rw [State.fovarPort_setFovarPort_other _ _ _ _ same]
      exact up
  · exact ⟨time, up⟩

/-- With another it is MISWIRED. -/
theorem State.trained_miswired (other : s.fovar.wiring s.straps.devId.toNat n ≠ (d.toNat, dp.toNat)) :
    ((s.trained n d dp boot).fovarPort n).state = .miswired ∧ (s.trained n d dp boot).mem = s.mem ∧
      (s.trained n d dp boot).channels = s.channels := by
  unfold State.trained
  dsimp only
  rw [if_neg other]
  exact ⟨congrArg FovarPort.state (State.fovarPort_setFovarPort_same ..), rfl, rfl⟩

end

/-- PORT_UP ends a port's training, and what then goes out is frames alone. -/
theorem exec_portUp {s : State} {n : Fin 4} (ready : s.phase = .ready)
    (trains : (s.fovarPort n).state = .training ∨ (s.fovarPort n).state = .down) (on : (s.domain (95 + n.val)).isOn = true)
    (locked : s.health.lock.getLsbD 3 = true) (t : Time) (d : BitVec 3) (dp : BitVec 2) (boot : BitVec 32) :
    ∃ u, exec (.portUp t n d dp boot) s = .next u ∧ ((s.begin t).trained n d dp boot).Sends u := by
  have due : ((((s.begin t).fovarPort n).state == .training || ((s.begin t).fovarPort n).state == .down) &&
      ((s.begin t).domain (95 + n)).isOn && (s.begin t).health.lock.getLsbD 3) = true := by
    rw [Bool.and_eq_true, Bool.and_eq_true, Bool.or_eq_true, beq_iff_eq, beq_iff_eq]
    exact ⟨⟨trains, on⟩, locked⟩
  refine ⟨_, whenReady_ready t _ s ready, ?_⟩
  dsimp only
  rw [due, if_pos rfl]
  exact .trans (.resendHeld _) (.forEach (fun d s => .rejoin d) _ _)

/-- The event of a port's state stands last in port A's ring. -/
theorem State.getLast?_portStateEvent (s : State) (n new old d : Nat) : ∃ pk,
    ((s.portStateEvent n new old d).ethOf .a).ring.getLast? = some pk ∧ pk.opcode = 0x07F0 ∧ pk.flags = 3 ∧
      pk.data = leBytes 1 n ++ leBytes 1 new ++ leBytes 1 old ++ leBytes 1 d ++ zeros 4 ++ leBytes 8 s.now := by
  have last (p : Packet) : ((s.post p).ethOf p.port).ring.getLast? = some (s.posted p) := by
    rw [State.ethOf_post]
    dsimp only
    exact getLast?_ring ..
  unfold State.portStateEvent State.event
  exact ⟨_, last _, rfl, rfl, rfl⟩

/-! ## Ports that go down (R349, R351, R359) -/

namespace State.LinkKeeps
variable {s u : State}

theorem setCollSlot (h : s.LinkKeeps u) (k : Nat) (c : Option Collective) : s.LinkKeeps (u.setCollSlot k c) :=
  h.trans ⟨rfl, rfl, fun _ => rfl, rfl, Nat.le_refl _⟩

theorem scramble (a n : Nat) : s.LinkKeeps (s.scramble a n) :=
  foldl (fun s x => by
    have taken : s.LinkKeeps s.free.2 := .of_fovar
    exact taken.trans (.writeVa ..)) _ s

theorem endColl (k : Nat) (st : BitVec 16) (det con snd : BitVec 8) (ch : BitVec 32) : s.LinkKeeps (s.endColl k st det con snd ch) := by
  unfold State.endColl
  split
  · next c _ =>
    have freed : s.LinkKeeps (s.setCollSlot k none) := .setCollSlot .refl k none
    have ended := LinkKeeps.ite (st = Code.ok) (freed.trans (.countFovar (by decide : 5 ≠ 1) 1))
      (freed.trans (.scramble c.dst c.resultBytes))
    exact .trans (.ite _ (ended.trans (.countFovar (by decide : 6 ≠ 1) 1)) ended) (.complete ..)
  · exact .refl

theorem abortColl (k : Nat) (st : BitVec 16) (con snd ch : Nat) : s.LinkKeeps (s.abortColl k st con snd ch) := by
  unfold State.abortColl
  split
  · next c _ =>
    have told (x : CollContent) : s.LinkKeeps (s.sendMembers k c x) := .foldl (fun s d => (Sends.sendColl ..).toLinkKeeps) _ s
    exact .trans (.ite _ (.fault (told _) _) (told _)) (.endColl ..)
  · exact .refl

theorem collLost : s.LinkKeeps s.collLost := .forEach (fun _ _ => .abortColl ..) _ s

end State.LinkKeeps

/-- A port as it goes down. -/
def FovarPort.lost (p : FovarPort) : FovarPort := { p with state := .down, resends := 0 }

/-- A port that is to be DOWN, counted, says so. -/
def State.downSaid (s : State) (n : Nat) : State :=
  (((s.setFovarPort n (s.fovarPort n).lost).countFovar 1 1).train n).portStateEvent n 3
    (fovarStateCode (s.fovarPort n).state) (s.fovarPort n).neighbour.toNat

theorem State.fovarDown_keeps (s : State) (n : Nat) : ((s.downSaid n).fault (fovarFault n)).LinkKeeps (s.fovarDown n) := by
  have suppressed (u : State) : u.LinkKeeps (u.suppress (.fovar (Fin.ofNat 4 n))) := .of_fovar
  exact (suppressed _).trans (Sends.resendHeld none).toLinkKeeps

theorem State.downSaid_eq (s : State) (n : Nat) : s.downSaid n = 
    { (s.setFovarPort n (s.fovarPort n).lost).countFovar 1 1 with
      eth := (s.downSaid n).eth, out := (s.downSaid n).out } := by
  unfold State.downSaid State.portStateEvent State.event
  rw [State.post_eq]
  rfl

/-- It is DOWN and counted, and the collector has heard nothing yet. -/
theorem State.downSaid_down (s : State) (n : Nat) : ((s.downSaid n).fovarPort n).state = .down ∧
    (s.downSaid n).fovar.counters.get 1 = BitVec.ofNat 32 (min (2 ^ 32 - 1) ((s.fovar.counters.get 1).toNat + 1)) ∧
    (s.downSaid n).faults = s.faults := by
  have port : ((s.setFovarPort n (s.fovarPort n).lost).fovarPort n).state = .down :=
    congrArg FovarPort.state (State.fovarPort_setFovarPort_same ..)
  rw [State.downSaid_eq]
  exact ⟨port, Counters.get_add_same .., rfl⟩

/-- PORT_DOWN of an UP port: what it says and records, and then what its loss leads to. -/
theorem exec_portDown {s : State} {n : Fin 4} (ready : s.phase = .ready) (up : (s.fovarPort n).state = .up) (t : Time) :
    ∃ u, exec (.portDown t n) s = .next u ∧ (((s.begin t).downSaid n).fault (fovarFault n)).LinkKeeps u := by
  have due : (((s.begin t).fovarPort n).state == .up) = true := beq_iff_eq.2 up
  refine ⟨_, whenReady_ready t _ s ready, ?_⟩
  dsimp only
  rw [due, if_pos rfl]
  exact (State.fovarDown_keeps ..).trans .collLost

/-- Settles O50: an answer in order does to its granule what its kind says, DONE rises with the stripes that have landed, and a port
comes up, is miswired or goes down. -/
theorem peersAnswerAndPortsChange : Obligations.PeersAnswerAndPortsChange := by
  unfold Obligations.PeersAnswerAndPortsChange
  refine ⟨fun s t n f g ready up crc nak link dst next none => ?answers, fun s q f m j job => ?done,
    fun s t n d dp boot ready trains on locked => ⟨fun wired => ?up, fun other => ?miswired⟩, fun s t n ready up => ?down⟩
  case answers =>
    have order : s.InOrder n f := ⟨ready, up, crc, nak, link, dst, next, none⟩
    refine ⟨fun c k i j found use => ?readData, fun c k i j found use idle => ?ack, fun c k i j m found use move live running => ?halt,
      fun p num i k j found use job => ?drop, fun p num i k found use => ?land⟩
    case readData =>
      intro x mv waits idle
      have there : ((s.begin t).heard n f).fovar.sent.find? (fun g => answersTo f g && g.isRead) = some g := found
      have does := State.takeReadData_move there use
      rw [State.arrive, State.land_waits] at does
      · refine ⟨_, order.exec_answer (x := .readData f) t rfl does ?_, ?_, rfl, rfl⟩
        · exact .trans (.sentLess ..) .of_fovar
        · exact State.channel_updChannel_same ..
      · rw [State.updMove, State.channel_updChannel_same]
        exact waits
      · rw [State.updMove, State.channel_updChannel_same]
        exact idle
    case ack =>
      have there : ((s.begin t).heard n f).fovar.sent.find? (fun g => answersTo f g && !g.isRead) = some g := found
      have does := State.takeAck_move there use
      rw [State.settleFault_idle] at does
      · refine ⟨_, order.exec_answer (x := .ack f) t rfl does ?_, ?_, rfl, rfl⟩
        · exact .trans (.sentLess ..) .of_fovar
        · exact State.channel_updChannel_same ..
      · rw [State.answered, State.updMove, State.channel_updChannel_same]
        exact idle
    case halt =>
      have there : ((s.begin t).heard n f).fovar.sent.find? (answersTo f) = some g := found
      have does := State.takeRefuse_found there
      have halted := State.HaltedAt.refused (s := (((s.begin t).heard n f).countFovar 4 1).sentLess (answersTo f)) (st := f.epoch) use
        move live running f.mem
      refine ⟨_, order.exec_answer (x := .refuse f) t rfl does ?_, halted.state, halted.status, halted.pc⟩
      exact .trans (.trans (.countFovar (by decide) 1) (.sentLess ..)) (.refused ..)
    case drop =>
      have there : ((s.begin t).heard n f).fovar.sent.find? (answersTo f) = some g := found
      have does := (State.takeRefuse_found there).trans (State.refused_output use f.epoch f.mem)
      have lost : ((((((s.begin t).heard n f).countFovar 4 1).sentLess (answersTo f)).dropOutput p num).pipe p).job num =
          some j.loseWrite := (State.job_dropOutput ..).trans (congrArg (Option.map FrameJob.loseWrite) job)
      refine ⟨_, j.loseWrite, order.exec_answer (x := .refuse f) t rfl does ?_, lost, rfl, State.mem_dropOutput .., ?_, fun off idle => ?_⟩
      · rw [← State.refused_output use f.epoch f.mem]
        exact .trans (.trans (.countFovar (by decide) 1) (.sentLess ..)) (.refused ..)
      · rw [State.fovar_dropOutput]
        exact Counters.get_add_same ..
      · rw [State.raiseDone_idle lost f.mem (.inl off)]
        refine State.settleOutput_idle (State.idle_dropOutput ?_ num) f.mem
        exact idle
    case land =>
      have there : ((s.begin t).heard n f).fovar.sent.find? (fun g => answersTo f g && !g.isRead) = some g := found
      refine ⟨_, order.exec_answer (x := .ack f) t rfl (State.takeAck_output there use) ?_, rfl, rfl, rfl⟩
      exact .trans (.trans (.sentLess ..) (.raiseDone ..)) (.settleOutput ..)
  case done =>
    exact ⟨State.raiseDone_idle job m, fun coding more => ⟨_, State.raiseDone_rises job m coding more,
      fun x mem frame open_ => State.done_doneRaised mem frame open_⟩, fun i lt => State.landed_of_lt_doneNow lt⟩
  case up =>
    obtain ⟨u, next, sends⟩ := exec_portUp ready trains on locked t d dp boot
    obtain ⟨v, trained, time, port⟩ := State.trained_up (s := s.begin t) boot wired
    obtain ⟨pk, last, opcode, flags, data⟩ := v.getLast?_portStateEvent n 2 (fovarStateCode (s.fovarPort n).state) d.toNat
    have upNow : (u.fovarPort n).UpWith d dp boot := by
      refine port.of_still ((sends.port n).trans ?_)
      rw [trained]
      exact (State.LinkKeeps.event ..).port n
    have eth : u.ethOf .a = ((s.begin t).trained n d dp boot).ethOf .a := (congrArg (State.ethOf · .a) sends.only :)
    refine ⟨u, pk, next, upNow.state, upNow.neighbour, upNow.neighbourPort, upNow.rxSeq, upNow.boot, ?_, opcode, flags, ?_⟩
    · rw [eth, trained]
      exact last
    · rw [data, State.now, time]
      rfl
  case miswired =>
    obtain ⟨u, next, sends⟩ := exec_portUp ready trains on locked t d dp boot
    obtain ⟨state, mem, channels⟩ := State.trained_miswired (s := s.begin t) boot other
    refine ⟨u, next, ?_, ?_, ?_⟩
    · exact (congrArg FovarPort.state (sends.port n)).trans state
    · exact (congrArg State.mem sends.only :).trans mem
    · exact (congrArg State.channels sends.only :).trans channels
  case down =>
    obtain ⟨u, next, keeps⟩ := exec_portDown ready up t
    obtain ⟨state, count, faults⟩ := (s.begin t).downSaid_down n
    have link := State.fovar_fault ((s.begin t).downSaid n) (fovarFault n)
    refine ⟨u, next, ?_, ?_, fun running => ?_⟩
    · refine (congrArg FovarPort.state (keeps.port n)).trans (Eq.trans ?_ state)
      exact congrArg (fun f : Fovar => (Tab.get (fun _ => FovarPort.reset) f.ports n).state) link
    · rw [keeps.downs, link]
      exact count
    · have recorded := State.held_fault (s := (s.begin t).downSaid n) (faults ▸ running) (fovarFault n)
      rw [faults] at recorded
      exact Nat.lt_of_lt_of_le (recorded ▸ Nat.lt_succ_self _) keeps.held

end Sys2Proof.Machine
end

section
/-!
PROOFS. O30 fails: its last clause has the MSI-X message of a SIGNAL COMPLETION leave whenever the vector is not masked and the PCIe link
is up, but while PCIE_PERST_N holds the endpoint in reset the model loses the message (R458). The statement ranges over every state; in
the model PCIE_PERST_N low takes the link down and keeps it down, so a run from reset does not bring the two together. Of the states that
runs reach, and of the statement's other clauses, the counterexample says nothing.
-/

namespace Sys2Proof.Machine

open Sys2Proof

/-- SIGNAL COMPLETION with token 0 and vector 0. -/
def signalVector0 : List Byte := [5, 2] ++ zeros 14

/-- A channel that runs and has fetched that instruction alone. -/
def signallingChannel : Channel := { Channel.reset with state := .running, bursts := [(0, signalVector0)] }

/-- The device at command-ready with the channel's program at it, vector 0 not masked, the PCIe link up and PCIE_PERST_N low. -/
def heldEndpoint : State :=
  { State.reset with
    phase := .ready
    channels := [(0, signallingChannel)]
    mem := { MemSys.reset with pcieLink := true, perstLow := true, msix := [(12, 0)] } }

/-- No message leaves. -/
theorem signalCompletion_sends_nothing {u : State} (next : exec (.signalCompletion 0 0) heldEndpoint = .next u) : u.out = [] := by
  have run : (match exec (.signalCompletion 0 0) heldEndpoint with
    | .next u => u.out.isEmpty
    | _ => false) = true := by decide +kernel
  rw [next] at run
  exact List.isEmpty_iff.1 run

/-- Refutes O30: the message of an unmasked vector is lost while PCIE_PERST_N is low, where the statement has it sent. -/
theorem not_sluiceControlFlow : ¬ Obligations.SluiceControlFlow := by
  unfold Obligations.SluiceControlFlow
  intro holds
  obtain ⟨_, _, _, _, _, signals⟩ := holds heldEndpoint 0 0 signalVector0 rfl rfl rfl rfl (by decide +kernel)
  obtain ⟨_, _, completion⟩ := signals (by decide) (by decide) (by decide) rfl (by decide)
  obtain ⟨u, _, next, _, _, _, _, _, _, message⟩ := completion (by decide) (by decide) (by decide)
  have sent := message (by decide) (by decide +kernel) rfl
  rw [signalCompletion_sends_nothing next] at sent
  exact absurd sent List.not_mem_nil

end Sys2Proof.Machine
end

section
/-!
PROOFS. The rules of the sluice programs (chapter 10): what a halt leaves of its channel, of the others and of the counters, and how a
channel comes to the instruction at its PC and to the next one.
-/

namespace Sys2Proof.Machine

open Sys2Proof

/-! ## Halts (R254, R268) -/

/-- A channel as a halt leaves it. -/
def Channel.haltedBy (x : Channel) (st : BitVec 16) : Channel :=
  { x with state := .halted, status := st, waitKind := 0xFF, waitArg := 0, ticket := none, resume := none
           faultDue := false, moves := x.moves.map fun m => { m with issued := true, ended := true } }

/-- A channel that a halt acts on. -/
def Channel.active (x : Channel) : Prop := ¬ (x.state = .idle ∨ x.state = .halted)

theorem Channel.active_of_state {x : Channel} {k : ChannelState} (state : x.state = k) (idle : k ≠ .idle) (halted : k ≠ .halted) :
    x.active := by
  rw [Channel.active, state, not_or]
  exact ⟨idle, halted⟩

theorem State.haltChannel_idle {s : State} {c : Nat} (idle : ¬ (s.channel c).active) (st : BitVec 16) : s.haltChannel c st = s :=
  if_pos (not_not.1 idle)

/-- A message that a masked vector holds back becomes pending in the MSI-X structures, and changes no other memory. -/
theorem State.mem_interrupt (s : State) (v : BitVec 11) : (s.interrupt v).mem = { s.mem with msix := (s.interrupt v).mem.msix } := by
  unfold State.interrupt
  split
  · rfl
  · split
    · rfl
    · split <;> rfl

section
variable {s : State} {c : Nat} (active : (s.channel c).active) (st : BitVec 16)
include active

/-- A halt writes its channel and counts, then completes SLUICE_START, then sends its message. -/
theorem State.haltChannel_active : ∃ n, s.haltChannel c st =
    let u := ((s.setChannel c ((s.channel c).haltedBy st)).countSluice c 7 n).completeOpt (s.channel c).ticket st
      ((s.channel c).haltedBy st).statusBytes
    if (s.channel c).vector.toNat < 2048 then u.interrupt ((s.channel c).vector.setWidth 11) else u :=
  ⟨_, if_neg active⟩

theorem State.channels_haltChannel : (s.haltChannel c st).channels = (s.setChannel c ((s.channel c).haltedBy st)).channels := by
  obtain ⟨n, halt⟩ := State.haltChannel_active active st
  rw [halt]
  dsimp only
  split
  · rw [State.interrupt_eq, State.completeOpt_eq]
    rfl
  · rw [State.completeOpt_eq]
    rfl

theorem State.regions_haltChannel : ∃ n, (s.haltChannel c st).regions = (s.countSluice c 7 n).regions := by
  obtain ⟨n, halt⟩ := State.haltChannel_active active st
  refine ⟨n, ?_⟩
  rw [halt]
  dsimp only
  split
  · rw [State.interrupt_eq, State.completeOpt_eq]
    rfl
  · rw [State.completeOpt_eq]
    rfl

theorem State.mem_haltChannel : (s.haltChannel c st).keepsMemory s := by
  obtain ⟨n, halt⟩ := State.haltChannel_active active st
  unfold State.keepsMemory
  rw [halt]
  dsimp only
  split
  · rw [State.mem_interrupt, State.completeOpt_eq]
    rfl
  · rw [State.completeOpt_eq]
    rfl

/-- The command of its SLUICE_START completes with the channel's status (R254). -/
theorem State.haltChannel_completes {k : Ticket} (ticket : (s.channel c).ticket = some k) :
    (s.haltChannel c st).completed k st ((s.channel c).haltedBy st).statusBytes := by
  obtain ⟨n, halt⟩ := State.haltChannel_active active st
  have made (u : State) := (u.completes_complete k st ((s.channel c).haltedBy st).statusBytes).1
  rw [halt, ticket]
  dsimp only
  split
  · rw [State.interrupt_eq]
    exact made _
  · exact made _

@[simp] theorem State.channel_haltChannel_same : (s.haltChannel c st).channel c = (s.channel c).haltedBy st := by
  rw [State.channel, State.channels_haltChannel active]
  exact s.channel_setChannel_same c _

end

theorem State.channel_haltChannel_other (s : State) (c : Nat) (st : BitVec 16) {n : Nat} (other : n ≠ c) :
    (s.haltChannel c st).channel n = s.channel n := by
  by_cases active : (s.channel c).active
  · rw [State.channel, State.channels_haltChannel active]
    exact s.channel_setChannel_other c _ n other
  · rw [State.haltChannel_idle active]

/-- The job that an error ends beside its channel (R268). -/
def State.endOwner (s : State) (o : Option Owner) (st : BitVec 16) : State :=
  match o with
  | some (.job k) => s.updJob k fun j => { j with endStatus := some (j.endStatus.getD st) }
  | _ => s

theorem State.endOwner_eq (s : State) (o : Option Owner) (st : BitVec 16) : s.endOwner o st = { s with jobs := (s.endOwner o st).jobs } := by
  unfold State.endOwner
  split <;> rfl

/-- An error halts as a halt does, and counts in HALTS. -/
theorem State.haltError_active {s : State} {c : Nat} (active : (s.channel c).active) (st : BitVec 16) : ∃ n, s.haltError c st =
    ((s.haltChannel c st).countSluice c 7 n).endOwner (s.channel c).owned st :=
  ⟨_, if_neg active⟩

section
variable {s : State} {c : Nat} (active : (s.channel c).active) (st : BitVec 16)
include active

theorem State.channels_haltError : (s.haltError c st).channels = (s.haltChannel c st).channels := by
  obtain ⟨n, halt⟩ := State.haltError_active active st
  rw [halt, State.endOwner_eq]
  rfl

@[simp] theorem State.channel_haltError_same : (s.haltError c st).channel c = (s.channel c).haltedBy st := by
  rw [State.channel, State.channels_haltError active]
  exact State.channel_haltChannel_same active st

/-- The other SLUICE_COUNTERS stay. -/
theorem State.sluice_haltError {w : Nat} (other : w ≠ 7) :
    ((s.haltError c st).region (c / 256)).sluice.get w = (s.region (c / 256)).sluice.get w := by
  have count (u : State) (n : Nat) : ((u.countSluice c 7 n).region (c / 256)).sluice.get w = (u.region (c / 256)).sluice.get w := by
    rw [State.countSluice, State.region_updRegion_same]
    exact Counters.get_add_other _ _ _ _ other
  obtain ⟨n, halt⟩ := State.haltError_active active st
  obtain ⟨m, regions⟩ := State.regions_haltChannel active st
  rw [halt, State.endOwner_eq]
  refine (count _ n).trans ?_
  rw [State.region_congr regions]
  exact count s m

end

/-! ## The instruction at PC (R254, R255, R277) -/

/-- At command-ready a channel of a block that is not fenced runs, no fault holds it, and the instruction at its PC is in its buffer. -/
structure State.Executes (s : State) (c : Fin 1024) (i : List Byte) : Prop where
  ready : s.phase = .ready
  live : (s.block (c.val / 16)).fenced = false
  running : (s.channel c).state = .running
  due : (s.channel c).faultDue = false
  instr : (s.channel c).instr = some i

theorem State.Executes.active {s : State} {c : Fin 1024} {i : List Byte} (h : s.Executes c i) : (s.channel c).active :=
  Channel.active_of_state h.running (by decide) (by decide)

theorem State.running_runs {s : State} {c : Nat} (live : (s.block (c / 16)).fenced = false) (running : (s.channel c).state = .running)
    (due : (s.channel c).faultDue = false) (f : Channel → State) : s.running c f = f (s.channel c) := by
  unfold State.running
  rw [if_neg (by simp [live])]
  exact if_pos ⟨running, due⟩

/-- It executes that instruction under the row that the test names. -/
theorem State.Executes.atInstr {s : State} {c : Fin 1024} {i : List Byte} (h : s.Executes c i) (t : Time)
    {p : State → List Byte → Bool} (named : p (s.begin t) i = true) (f : State → Channel → List Byte → State) :
    whenReady t (fun s => s.atInstr c (p s) (f s)) s = .next (f (s.begin t) (s.channel c) i) := by
  have instr : ((s.begin t).channel c).instr = some i := h.instr
  rw [whenReady_ready t _ s h.ready, State.atInstr,
    State.running_runs (s := s.begin t) (c := c) h.live h.running h.due, instr]
  exact congrArg Host.Outcome.next (if_pos named)

/-- A channel as it goes on with the next instruction. -/
def Channel.next (x : Channel) : Channel := { x with pc := x.pc + 1, state := .running, waitKind := 0xFF, waitArg := 0 }

theorem State.nextInstr_next {s : State} {c : Nat} (more : (s.channel c).pc < 65535) :
    s.nextInstr c = s.setChannel c (s.channel c).next :=
  if_pos (Nat.succ_lt_succ more)

end Sys2Proof.Machine
end

section
/-!
PROOFS. O31: the WAITs and what ends them, the time-out of a page fault and the end of a deadlock.
-/

namespace Sys2Proof.Machine

open Sys2Proof

/-! ## WAIT (R264, R266) -/

/-- A WAIT whose checks pass starts once every earlier MOVE is complete. -/
theorem State.Executes.wait {s : State} {c : Fin 1024} {i : List Byte} (h : s.Executes c i) (t : Time)
    (moved : (s.channel c).moves = []) (op : opOf i = 4) (code : le i 0 1 = 4) {p : Nat → Bool} (kind : p (kindOf i) = true)
    {legal : State → List Byte → Bool} (good : legal (s.begin t) i = true) (f : State → Channel → List Byte → State) :
    whenReady t (fun s => s.wait c p (legal s) (f s)) s = .next (f (s.begin t) (s.channel c) i) := by
  refine (h.atInstr t (p := fun _ i => opOf i == 4 && p (kindOf i)) (by simp [op, kind]) _).trans ?_
  have passed : ¬ (le i 0 1 ≠ 4 ∨ (!legal (s.begin t) i) = true) := by simp [code, good]
  rw [if_neg (by simp [Channel.moved, moved]), if_neg passed]

section
variable {s : State} {c : Fin 1024} {i : List Byte} (t : Time) (h : s.Executes c i) (moved : (s.channel c).moves = [])
  (op : opOf i = 4) (code : le i 0 1 = 4)
include h moved op code

theorem exec_ringSpace (kind : kindOf i = 0) (legal : (s.begin t).ringLegal c 2 i = true) : exec (.ringSpace t c) s =
    .next ((s.begin t).startWait c (s.channel c) 0 (le i 2 2) (le i 4 4) 0) :=
  h.wait t moved op code (p := fun k => k == 0 || decide (4 < k)) (by simp [kind])
    (legal := fun s i => kindOf i == 0 && s.ringLegal c 2 i) (by simp [kind, legal])
    fun s x i => s.startWait c x 0 (le i 2 2) (le i 4 4) 0

theorem exec_ringData (kind : kindOf i = 1) (legal : (s.begin t).ringLegal c 3 i = true) : exec (.ringData t c) s =
    .next ((s.begin t).startWait c (s.channel c) 1 (le i 2 2) (le i 4 4) 0) :=
  h.wait t moved op code (p := (· == 1)) (by simp [kind]) (legal := fun s => s.ringLegal c 3) legal
    fun s x i => s.startWait c x 1 (le i 2 2) (le i 4 4) 0

theorem exec_waitEvent (kind : kindOf i = 2) (flag : le i 2 2 < 64) (low : le i 4 4 = 0) (high : le i 8 8 = 0) :
    exec (.waitEvent t c) s = .next ((s.begin t).startWait c (s.channel c) 2 (le i 2 2) 0 0) :=
  h.wait t moved op code (p := (· == 2)) (by simp [kind])
    (legal := fun _ i => decide (le i 2 2 < 64) && le i 4 4 == 0 && le i 8 8 == 0) (by simp [flag, low, high])
    fun s x i => s.startWait c x 2 (le i 2 2) 0 0

theorem exec_timeAbs (kind : kindOf i = 3) (zero : le i 2 6 = 0) : exec (.timeAbs t c) s =
    .next ((s.begin t).startWait c (s.channel c) 3 0 0 (le i 8 8)) :=
  h.wait t moved op code (p := (· == 3)) (by simp [kind]) (legal := fun _ i => le i 2 6 == 0) (by simp [zero])
    fun s x i => s.startWait c x 3 0 0 (le i 8 8)

theorem exec_timeRel (kind : kindOf i = 4) (zero : le i 2 6 = 0) : exec (.timeRel t c) s =
    .next ((s.begin t).startWait c (s.channel c) 4 0 0 (min (2 ^ 64 - 1) ((s.begin t).now + le i 8 8))) :=
  h.wait t moved op code (p := (· == 4)) (by simp [kind]) (legal := fun _ i => le i 2 6 == 0) (by simp [zero])
    fun s x i => s.startWait c x 4 0 0 (min (2 ^ 64 - 1) (s.now + le i 8 8))

end

/-- A channel as it waits from `s` on. -/
def Channel.waiting (x : Channel) (s : State) (k n m till : Nat) : Channel :=
  { x with state := .waiting, waitKind := BitVec.ofNat 8 k, waitArg := BitVec.ofNat 32 n, waitN := BitVec.ofNat 32 m
           waitUntil := BitVec.ofNat 64 till, waitSince := s.time, watchdog := bits 47 32 s.sluiceConfig }

theorem State.startWait_eq (s : State) (c : Nat) (x : Channel) (k n m till : Nat) : s.startWait c x k n m till =
    let y := x.waiting s k n m till
    let u := s.setChannel c y
    if u.waitHolds c y then u.endWait c y else u := rfl

/-- The flag that a WAIT on it clears as it ends. -/
def State.takeFlag (s : State) (c : Nat) (x : Channel) : State :=
  if x.waitKind = 2 then s.updBlock (c / 16) fun b => { b with events := b.events &&& ~~~ BitVec.ofNat 64 (2 ^ x.waitArg.toNat) } else s

theorem State.takeFlag_eq (s : State) (c : Nat) (x : Channel) : s.takeFlag c x = { s with blocks := (s.takeFlag c x).blocks } := by
  unfold State.takeFlag
  split <;> rfl

theorem State.block_takeFlag (s : State) (c : Nat) (x : Channel) (b : Nat) : (s.takeFlag c x).block b =
    if x.waitKind = 2 ∧ b = c / 16 then
      { s.block b with events := (s.block b).events &&& ~~~ BitVec.ofNat 64 (2 ^ x.waitArg.toNat) }
    else s.block b := by
  unfold State.takeFlag
  by_cases event : x.waitKind = 2
  · by_cases own : b = c / 16
    · subst own
      rw [if_pos event, State.block_updBlock_same, if_pos ⟨event, rfl⟩]
    · rw [if_pos event, State.block_updBlock_other _ _ _ _ own, if_neg fun h => own h.2]
  · rw [if_neg event, if_neg fun h => event h.1]

/-- A WAIT that ends goes on with the next instruction. -/
theorem State.endWait_next {s : State} {c : Nat} (x : Channel) (more : (s.channel c).pc < 65535) :
    s.endWait c x = (s.takeFlag c x).setChannel c (s.channel c).next := by
  have same : (s.takeFlag c x).channel c = s.channel c := (congrArg (State.channel · c) (s.takeFlag_eq c x) :)
  exact (State.nextInstr_next (same ▸ more)).trans (same ▸ rfl)

/-- What the start of a WAIT leaves: the channel waits, or has gone on where its condition holds at once. -/
theorem startWait_leaves {s r : State} {c : Fin 1024} {op : Instr} {k n m till : Nat} (time : ∃ t, r = s.begin t)
    (starts : exec op s = .next (r.startWait c (s.channel c) k n m till)) (more : (s.channel c).pc < 65535) (kind : k < 256)
    (flag : k = 2 → n < 64) :
    let y := (s.channel c).waiting r k n m till
    ∃ u, exec op s = .next u ∧ (∀ n, n ≠ c.val → u.channel n = s.channel n) ∧
      ((r.setChannel c y).waitHolds c y = false → u = r.setChannel c y) ∧
      ((r.setChannel c y).waitHolds c y = true → u = { r with channels := u.channels, blocks := u.blocks } ∧
        u.channel c = { y with pc := (s.channel c).pc + 1, state := .running, waitKind := 0xFF, waitArg := 0 } ∧
        ∀ b, u.block b = if k = 2 ∧ b = c.val / 16 then
          { s.block b with events := (s.block b).events &&& ~~~ BitVec.ofNat 64 (2 ^ n) } else s.block b) := by
  obtain ⟨t, rfl⟩ := time
  intro y
  have others (n : Nat) (other : n ≠ c.val) : ((s.begin t).setChannel c y).channel n = s.channel n :=
    State.channel_setChannel_other _ _ _ _ other
  rw [State.startWait_eq] at starts
  refine ⟨_, starts, fun n other => ?_, fun no => ?_, fun yes => ?_⟩
  · dsimp only
    split
    · rw [State.endWait_next _ (by rw [State.channel_setChannel_same]; exact more), State.channel_setChannel_other _ _ _ _ other]
      exact (congrArg (State.channel · n) (State.takeFlag_eq ..)).trans (others n other)
    · exact others n other
  · exact if_neg (by simpa using no)
  · have goes := State.endWait_next (s := (s.begin t).setChannel c y) (c := c) y (by rw [State.channel_setChannel_same]; exact more)
    dsimp only
    rw [if_pos yes, goes, State.channel_setChannel_same]
    refine ⟨?_, State.channel_setChannel_same .., fun b => ?_⟩
    · rw [State.takeFlag_eq]
      rfl
    · have event : y.waitKind = 2 ↔ k = 2 := by
        change BitVec.ofNat 8 k = 2 ↔ k = 2
        rw [← BitVec.toNat_inj, BitVec.toNat_ofNat, Nat.mod_eq_of_lt kind]
        rfl
      refine (State.block_takeFlag ((s.begin t).setChannel c y) c y b).trans ?_
      by_cases own : k = 2 ∧ b = c.val / 16
      · have arg : y.waitArg.toNat = n := Nat.mod_eq_of_lt (by have := flag own.1; omega)
        rw [if_pos own, if_pos ⟨event.2 own.1, own.2⟩, arg]
        rfl
      · rw [if_neg own, if_neg fun h => own ⟨event.1 h.1, h.2⟩]
        rfl

/-! ## The end of a wait (R264, R271) -/

/-- From `s` the command makes its channel go on with the next instruction, and changes no memory. -/
def State.GoesOn (s : State) (c : Fin 1024) (op : Instr) : Prop :=
  ∃ u, exec op s = .next u ∧ (u.channel c).pc = (s.channel c).pc + 1 ∧ (u.channel c).state = .running ∧
    (u.channel c).waitKind = 0xFF ∧ u.mem = s.mem ∧ u.spad = s.spad ∧ u.eth = s.eth

theorem State.GoesOn.of_endWait {s : State} {c : Fin 1024} {t : Time} {op : Instr} (more : (s.channel c).pc < 65535)
    (ends : exec op s = .next ((s.begin t).endWait c (s.channel c))) : s.GoesOn c op := by
  have goes := State.endWait_next (s := s.begin t) (c := c) (s.channel c) more
  rw [goes] at ends
  refine ⟨_, ends, ?_, ?_, ?_, ?_, ?_, ?_⟩
  · rw [State.channel_setChannel_same]
    rfl
  · rw [State.channel_setChannel_same]
    rfl
  · rw [State.channel_setChannel_same]
    rfl
  all_goals
    rw [State.takeFlag_eq]
    rfl

section
variable {s : State} {c : Fin 1024} (t : Time) (ready : s.phase = .ready) (waiting : (s.channel c).state = .waiting)
include ready waiting

/-- A wait on a ring or a flag. -/
theorem exec_waitConditionMet_ring (kind : (s.channel c).waitKind.toNat < 3) : exec (.waitConditionMet t c) s = .next
    (if (s.begin t).waitHolds c (s.channel c) then (s.begin t).endWait c (s.channel c) else s.begin t) := by
  change execWaitConditionMet t c s = _
  rw [execWaitConditionMet, whenReady_ready t _ s ready]
  exact congrArg Host.Outcome.next ((if_neg (not_not.2 waiting)).trans (if_pos kind))

/-- The wait of a MOVE on its rings. -/
theorem exec_waitConditionMet_move {i : List Byte} (kind : (s.channel c).waitKind = 5) (instr : (s.channel c).instr = some i)
    (rings : (s.begin t).moveReady c i = true) : exec (.waitConditionMet t c) s = .next ((s.begin t).setChannel c
      { s.channel c with state := .running, waitKind := 0xFF, waitArg := 0 }) := by
  have at_ : ((s.begin t).channel c).instr = some i := instr
  have later : ¬ ((s.begin t).channel c).waitKind.toNat < 3 := by
    change ¬ (s.channel c).waitKind.toNat < 3
    rw [kind]
    decide
  change execWaitConditionMet t c s = _
  rw [execWaitConditionMet, whenReady_ready t _ s ready]
  refine congrArg Host.Outcome.next ((if_neg (not_not.2 waiting)).trans ((if_neg later).trans ((if_pos kind).trans ?_)))
  rw [at_]
  exact if_pos rings

/-- A wait for a time. -/
theorem exec_waitTimeReached (kind : (s.channel c).waitKind = 3 ∨ (s.channel c).waitKind = 4) : exec (.waitTimeReached t c) s = .next
    (if (s.channel c).waitUntil.toNat ≤ (s.begin t).now then (s.begin t).endWait c (s.channel c) else s.begin t) := by
  have holds : (s.begin t).waitHolds c (s.channel c) = decide ((s.channel c).waitUntil.toNat ≤ (s.begin t).now) := by
    unfold State.waitHolds
    obtain kind | kind := kind <;> rw [kind] <;> rfl
  change execWaitTimeReached t c s = _
  rw [execWaitTimeReached, whenReady_ready t _ s ready]
  refine congrArg Host.Outcome.next (if_congr ?_ rfl rfl)
  change (s.channel c).state = .waiting ∧ _ ∧ (s.begin t).waitHolds c (s.channel c) = true ↔ _
  rw [holds, decide_eq_true_iff]
  exact ⟨fun h => h.2.2, fun h => ⟨waiting, kind, h⟩⟩

end

/-! ## Page faults (R280) -/

theorem exec_pageFaultTimeout {s : State} {c : Fin 1024} (t : Time) (ready : s.phase = .ready)
    (faulted : (s.channel c).state = .faulted) (past : (s.channel c).faultUntil ≤ (s.begin t).now) :
    exec (.pageFaultTimeout t c) s = .next (((s.begin t).haltError c Code.pageFaultTimeout).countSluice c 5 1) := by
  change execPageFaultTimeout t c s = _
  rw [execPageFaultTimeout, whenReady_ready t _ s ready]
  exact congrArg Host.Outcome.next (if_pos ⟨faulted, past⟩)

/-! ## Deadlocks (R282) -/

/-- The units of the frame that are still open. -/
def FrameJob.openStripes (j : FrameJob) : List Nat :=
  (List.range j.stripes.length).filter fun i => (j.stripe i).any fun st => st.final.isNone && !st.cancelled

/-- A frame job with some of its stripes cancelled. -/
def FrameJob.cut (j : FrameJob) (l : List Nat) : FrameJob :=
  { j with stripes := l.foldl (fun ss i => ss.modify i Stripe.cut) j.stripes }

theorem State.job_cancelUnit (s : State) (q : Fin 24) (f : BitVec 32) (i : Nat) : ((s.cancelUnit q f i).pipe q).job f =
    ((s.pipe q).job f).map fun j => { j with stripes := j.stripes.modify i Stripe.cut } := by
  rw [State.cancelUnit_eq]
  exact s.job_updStripe q f i Stripe.cut

theorem State.job_cancelUnits (q : Fin 24) (f : BitVec 32) (l : List Nat) (s : State) :
    ((forEach l (fun i s => s.cancelUnit q f i) s).pipe q).job f =
      ((s.pipe q).job f).map fun j => j.cut l := by
  induction l generalizing s with
  | nil => exact (congrFun Option.map_id _).symm
  | cons i l ih =>
    refine (ih _).trans ?_
    rw [State.job_cancelUnit, Option.map_map]
    rfl

/-- Each of the stripes named is cancelled, -/
theorem getElem?_cutStripes (l : List Nat) (ss : List Stripe) (k : Nat) :
    (l.foldl (fun ss i => ss.modify i Stripe.cut) ss)[k]? = if k ∈ l then ss[k]?.map Stripe.cut else ss[k]? := by
  induction l generalizing ss with
  | nil => rfl
  | cons i l ih =>
    refine (ih _).trans ?_
    by_cases own : k = i
    · subst own
      have twice : Stripe.cut ∘ Stripe.cut = Stripe.cut := rfl
      simp [twice]
    · simp [own, Ne.symm own]

/-- so a stripe that is not final is then cancelled. -/
theorem FrameJob.cancelled_cut {j : FrameJob} {st : Stripe} (mem : st ∈ (j.cut j.openStripes).stripes) (unfinished : st.final = none) :
    st.cancelled = true := by
  obtain ⟨k, there⟩ := List.mem_iff_getElem?.1 mem
  rw [FrameJob.cut, getElem?_cutStripes] at there
  split at there
  · obtain ⟨old, -, cut⟩ := Option.map_eq_some_iff.1 there
    exact cut ▸ rfl
  · next closed =>
    by_contra not_cancelled
    have live : st.cancelled = false := Bool.eq_false_iff.2 not_cancelled
    refine closed (List.mem_filter.2 ⟨List.mem_range.2 (List.getElem?_eq_some_iff.1 there).1, ?_⟩)
    rw [FrameJob.stripe, there]
    simp [unfinished, live]

theorem State.deadlockFrame_eq (s : State) (p : Fin 24) (f : BitVec 32) : s.deadlockFrame p f =
    let u := s.recordStatus (.pipeline p) f Code.streamDeadlock
    forEach (((u.pipe p).job f).elim [] FrameJob.openStripes) (fun i s => s.cancelUnit p f i) u := rfl

/-- A frame that ends on a deadlock records it, and none of its stripes is left to be computed. -/
theorem State.deadlockFrame_ends {s : State} {p : Fin 24} {f : BitVec 32} {j : FrameJob} (job : (s.pipe p).job f = some j) :
    ∃ j', ((s.deadlockFrame p f).pipe p).job f = some j' ∧
      j'.jobStatus = (if j.jobStatus = 0 then Code.streamDeadlock else j.jobStatus) ∧
      ∀ st ∈ j'.stripes, st.final = none → st.cancelled = true := by
  have recorded : ((s.recordStatus (.pipeline p) f Code.streamDeadlock).pipe p).job f = some (j.record Code.streamDeadlock) := by
    rw [State.recordStatus, State.pipe_updPipe_same, Pipe.job_updFrame _ f (g := fun j => j.record Code.streamDeadlock) fun _ => ⟨rfl, rfl⟩, job]
    rfl
  refine ⟨(j.record Code.streamDeadlock).cut (j.record Code.streamDeadlock).openStripes, ?_, rfl, fun st => FrameJob.cancelled_cut⟩
  rw [State.deadlockFrame_eq]
  dsimp only
  rw [State.job_cancelUnits, recorded]
  rfl

/-- The channel that a node is. -/
def WaitNode.number : WaitNode → Option Nat
  | .channel c => some c.val
  | .thread _ _ => none

section
variable {s : State} {nodes : List WaitNode}

theorem State.breakDeadlock_frame {p : Fin 24} {f : BitVec 32} (last : lastRanked (nodes.filterMap s.nodeJob) = some (.pipeline p, f)) :
    s.breakDeadlock nodes = (s.deadlockFrame p f).countDeadlock (s.pipe p).setRegion := by
  unfold State.breakDeadlock
  rw [last]

theorem State.breakDeadlock_job {k f : BitVec 32} (last : lastRanked (nodes.filterMap s.nodeJob) = some (.job k, f)) :
    s.breakDeadlock nodes =
      (s.updJob k fun j => { j with endStatus := some (j.endStatus.getD Code.streamDeadlock) }).countDeadlock
        (((s.jobOf k).map fun j => j.region).getD 0) := by
  unfold State.breakDeadlock
  rw [last]

/-- Without a job, the lowest of the channels. -/
theorem State.breakDeadlock_channel {n : Fin 1024} (none : lastRanked (nodes.filterMap s.nodeJob) = none)
    (mem : WaitNode.channel n ∈ nodes) (lowest : ∀ m : Fin 1024, WaitNode.channel m ∈ nodes → n.val ≤ m.val) :
    s.breakDeadlock nodes = (s.haltChannel n Code.streamDeadlock).countDeadlock (n.val / 256) := by
  have least : (nodes.filterMap WaitNode.number).min? = some n.val := by
    refine List.min?_eq_some_iff.2 ⟨List.mem_filterMap.2 ⟨.channel n, mem, rfl⟩, fun b inside => ?_⟩
    obtain ⟨x, there, node⟩ := List.mem_filterMap.1 inside
    cases x with
    | channel m =>
      obtain rfl := Option.some.inj node
      exact lowest m there
    | thread b o => cases node
  unfold State.breakDeadlock
  rw [none]
  dsimp only
  split
  · next c found =>
    obtain rfl : c = n.val := Option.some.inj (found.symm.trans least)
    rfl
  · next found => exact absurd (least.symm.trans found) (Option.some_ne_none _)

/-- It halts, and no other does. -/
theorem State.breakDeadlock_halts {n : Fin 1024} (none : lastRanked (nodes.filterMap s.nodeJob) = none)
    (mem : WaitNode.channel n ∈ nodes) (lowest : ∀ m : Fin 1024, WaitNode.channel m ∈ nodes → n.val ≤ m.val)
    (waiting : (s.channel n).state = .waiting) :
    ((s.breakDeadlock nodes).channel n).state = .halted ∧ ((s.breakDeadlock nodes).channel n).status = Code.streamDeadlock ∧
      ∀ m, m ≠ n.val → (s.breakDeadlock nodes).channel m = s.channel m := by
  have halted := State.channel_haltChannel_same (Channel.active_of_state waiting (by decide) (by decide)) Code.streamDeadlock
  rw [State.breakDeadlock_channel none mem lowest]
  exact ⟨congrArg Channel.state halted, congrArg Channel.status halted, fun m other => s.channel_haltChannel_other n _ other⟩

end

theorem exec_streamDeadlock {s : State} {t : Time} {nodes : List WaitNode} (ready : s.phase = .ready)
    (stalled : (s.begin t).stalled nodes = true) : exec (.streamDeadlock t nodes) s = .next ((s.begin t).breakDeadlock nodes) := by
  change execStreamDeadlock t nodes s = _
  rw [execStreamDeadlock, whenReady_ready t _ s ready]
  rw [stalled, State.onlyIf_true]

/-- Settles O31: a WAIT by its condition as it starts, a waiting channel by what it waits on, a deadlock by whose job is last. -/
theorem sluiceWaitsAndFaults : Obligations.SluiceWaitsAndFaults := by
  unfold Obligations.SluiceWaitsAndFaults
  refine ⟨fun s t c i ready live running due instr moved op code more => ?_, fun s t c ready waiting more => ?_,
    fun s t c ready faulted past => ?_, fun s t nodes => ⟨fun ready stalled => ⟨?_, ?_, ?_⟩, ?_⟩⟩
  · have h : s.Executes c i := ⟨ready, live, running, due, instr⟩
    refine ⟨fun kind legal => ?_, fun kind legal => ?_, fun kind arg low high => ?_, fun kind zero => ?_, fun kind zero => ?_⟩
    · exact startWait_leaves ⟨t, rfl⟩ (exec_ringSpace t h moved op code kind legal) more (by decide) (by simp)
    · exact startWait_leaves ⟨t, rfl⟩ (exec_ringData t h moved op code kind legal) more (by decide) (by simp)
    · exact startWait_leaves ⟨t, rfl⟩ (exec_waitEvent t h moved op code kind arg low high) more (by decide) fun _ => arg
    · exact startWait_leaves ⟨t, rfl⟩ (exec_timeAbs t h moved op code kind zero) more (by decide) (by simp)
    · exact startWait_leaves ⟨t, rfl⟩ (exec_timeRel t h moved op code kind zero) more (by decide) (by simp)
  · refine ⟨fun kind holds => ?_, fun kind holds => ?_, fun i kind at_ rings => ?_, fun kind past => ?_, fun kind early => ?_⟩
    · exact State.GoesOn.of_endWait more ((exec_waitConditionMet_ring t ready waiting kind).trans (congrArg _ (if_pos holds)))
    · exact (exec_waitConditionMet_ring t ready waiting kind).trans (congrArg _ (if_neg (by simp [holds])))
    · exact exec_waitConditionMet_move t ready waiting kind at_ rings
    · exact State.GoesOn.of_endWait more ((exec_waitTimeReached t ready waiting kind).trans (congrArg _ (if_pos past)))
    · exact (exec_waitTimeReached t ready waiting kind).trans (congrArg _ (if_neg (Nat.not_le.2 early)))
  · have active : ((s.begin t).channel c).active := Channel.active_of_state faulted (by decide) (by decide)
    have halted := State.channel_haltError_same active Code.pageFaultTimeout
    refine ⟨_, exec_pageFaultTimeout t ready faulted past, congrArg Channel.state halted, congrArg Channel.status halted, ?_⟩
    rw [State.countSluice, State.region_updRegion_same, Counters.get_add_same, State.sluice_haltError active _ (by decide)]
    rfl
  · intro k f j last _ _
    exact ⟨_, exec_streamDeadlock ready stalled, by rw [State.breakDeadlock_job last]; rfl⟩
  · intro p f last
    refine ⟨_, exec_streamDeadlock ready stalled, fun j job => ?_⟩
    rw [State.breakDeadlock_frame last]
    exact State.deadlockFrame_ends (s := s.begin t) job
  · intro n none mem lowest waiting
    exact ⟨_, exec_streamDeadlock ready stalled, State.breakDeadlock_halts none mem lowest waiting⟩
  · intro n none mem lowest waiting
    exact State.breakDeadlock_halts none mem lowest waiting

end Sys2Proof.Machine
end

section
/-!
PROOFS. O29: SLUICE_START, SLUICE_HALT and the instruction fetch.
-/

namespace Sys2Proof.Machine

open Sys2Proof

/-! ## SLUICE_START (R252) -/

/-- The channel that SLUICE_START's operands name. -/
def startNumber (p : List Byte) : Nat := 16 * le p 0 1 + le p 1 1

/-- That channel as they start it. -/
def Channel.started (x : Channel) (k : Ticket) (p : List Byte) : Channel :=
  { x with
    state := .running, status := 0, pc := 0, ownerKind := BitVec.ofNat 8 (le p 2 1), owner := BitVec.ofNat 32 (le p 4 4)
    ringKind := BitVec.ofNat 8 (le p 3 1), ringOwner := BitVec.ofNat 32 (le p 8 4), vector := BitVec.ofNat 16 (le p 12 2)
    program := BitVec.ofNat 64 (le p 16 8), shapes := BitVec.ofNat 64 (le p 24 8), ticket := some k, loops := [], bursts := []
    shapeCache := [], waitKind := 0xFF, waitArg := 0, resume := none, position := 0, faultDst := false, faultAddr := 0
    faultDue := false }

/-- The operands are legal. -/
def State.starts (s : State) (k : Ticket) (p : List Byte) : Bool :=
  decide (le p 0 1 < 64) && decide (le p 1 1 < 16) && (decide (le p 12 2 < 2048) || le p 12 2 == 0xFFFF)
    && ((s.channel (startNumber p)).state == .idle || (s.channel (startNumber p)).state == .halted)
    && le p 16 8 % 256 == 0 && le p 24 8 % 64 == 0 && s.mayName (le p 2 1) (le p 4 4) && s.mayName (le p 3 1) (le p 8 4)
    && ((s.channel (startNumber p)).started k p).context.all (fun o => ((s.block (le p 0 1)).threadOf o).isSome)
    && !s.requestedOff (le p 0 1) && !s.requestedOff (64 + le p 0 1 / 16)

theorem sluiceStartBody_eq (k : Ticket) (p : List Byte) (s : State) : sluiceStartBody k p s =
    if s.starts k p = true then (s.setChannel (startNumber p) ((s.channel (startNumber p)).started k p), .err Code.accepted)
    else (s, .err Code.notPermitted) := rfl

theorem State.starts_received (s : State) (q : Req) (k : Ticket) (p : List Byte) : (s.received q).starts k p = s.starts k p :=
  (congrArg (State.starts · k p) (s.received_eq q) :)

@[simp] theorem State.channel_received (s : State) (q : Req) (c : Nat) : (s.received q).channel c = s.channel c :=
  (congrArg (State.channel · c) (s.received_eq q) :)

/-- A body that writes one channel. -/
theorem lysil_setChannel {s : State} {o : OpRow} {q : Req} {a : Ack} (taken : s.takes o q) {body : Body} {c : Nat} {y : Channel}
    (does : body (o.ticket q) q.params (s.received q) = ((s.received q).setChannel c y, a)) (sent : a.held = false)
    (crc : a.status ≠ Code.badCrc) : ∃ u, lysil o q body s = .next u ∧ u = { s.served o q a with channels := u.channels } ∧
      u.channel c = y ∧ ∀ n, n ≠ c → u.channel n = s.channel n := by
  refine ⟨{ s.served o q a with channels := ((s.received q).setChannel c y).channels }, ?_, rfl, ?_, fun n other => ?_⟩
  · rw [lysil_apart sent crc taken does rfl rfl rfl, State.served_eq sent crc]
    rfl
  · exact State.channel_setChannel_same (s.received q) c y
  · exact (State.channel_setChannel_other (s.received q) c y n other).trans (s.channel_received q n)

section
variable {s : State} {q : Req} (taken : s.takes (opRow 0x0510 32 true) q)
include taken

theorem execSluiceStart_good (good : s.starts ((opRow 0x0510 32 true).ticket q) q.params = true) :
    ∃ u, exec (.sluiceStart q) s = .next u ∧
      u = { s.served (opRow 0x0510 32 true) q { status := Code.accepted } with channels := u.channels } ∧
      u.channel (startNumber q.params) =
        (s.channel (startNumber q.params)).started ((opRow 0x0510 32 true).ticket q) q.params ∧
      ∀ n, n ≠ startNumber q.params → u.channel n = s.channel n := by
  refine lysil_setChannel (body := sluiceStartBody) taken ?_ rfl (by decide : Code.accepted ≠ Code.badCrc)
  rw [sluiceStartBody_eq, State.starts_received, if_pos good, State.channel_received]
  rfl

theorem execSluiceStart_bad (bad : s.starts ((opRow 0x0510 32 true).ticket q) q.params = false) :
    exec (.sluiceStart q) s = .next (s.served (opRow 0x0510 32 true) q (.err Code.notPermitted)) := by
  refine lysil_answers (body := sluiceStartBody) taken ?_
  rw [sluiceStartBody_eq, State.starts_received, if_neg (Bool.not_eq_true _ ▸ bad)]

end

/-! ## SLUICE_HALT (R254) -/

/-- A write of a port that leaves the packets it keeps. -/
theorem State.ring_setEth {s : State} {e : EthPort} {v : Eth} (same : v.ring = (s.ethOf e).ring) (f : EthPort) :
    ((s.setEth e v).ethOf f).ring = (s.ethOf f).ring := by
  by_cases here : f = e
  · rw [here, State.ethOf_setEth_same, same]
  · rw [State.ethOf_setEth_other _ _ _ _ here]

/-- The ACK of a request that is answered OK is not among the packets that a port keeps (R326). -/
theorem State.ring_acked_ok (s : State) (o : OpRow) (q : Req) (e : EthPort) : ((s.acked o q .ok).ethOf e).ring = (s.ethOf e).ring := by
  have short : s.noteLong o q .ok = s := if_neg (by simp [Ack.ok, Code.ok, Code.accepted])
  rw [State.acked, short]
  cases consumed : o.code != Opc.sessionOpen
  · rfl
  · unfold State.answer
    refine State.ring_setEth (s := s) (e := q.port) ?_ e
    rfl

theorem State.completed_of_ring {s u : State} {k : Ticket} {st : BitVec 16} {d : List Byte}
    (same : (u.ethOf k.port).ring = (s.ethOf k.port).ring) (made : s.completed k st d) : u.completed k st d := by
  unfold State.completed
  rwa [same]

/-- SLUICE_HALT's row of Table 12-8. -/
abbrev haltRow : OpRow := opRow 0x0511 4

theorem sluiceHaltBody_known {p : List Byte} (block : le p 0 1 ≤ 63) (channel : le p 1 1 ≤ 15) (k : Ticket) (s : State) :
    sluiceHaltBody k p s = (s.haltChannel (startNumber p) Code.ok, .ok) :=
  if_neg (by omega)

section
variable {s : State} {q : Req} (taken : s.takes haltRow q)
include taken

theorem execSluiceHalt_unknown (unknown : 63 < le q.params 0 1 ∨ 15 < le q.params 1 1) :
    exec (.sluiceHalt q) s = .next (s.served haltRow q (.err Code.notPermitted)) :=
  lysil_answers (body := sluiceHaltBody) taken (if_pos unknown)

variable (block : le q.params 0 1 ≤ 63) (channel : le q.params 1 1 ≤ 15)
include block channel

theorem execSluiceHalt_idle (idle : ¬ (s.channel (startNumber q.params)).active) :
    exec (.sluiceHalt q) s = .next (s.served haltRow q .ok) := by
  refine lysil_answers (body := sluiceHaltBody) taken ?_
  rw [sluiceHaltBody_known block channel, State.haltChannel_idle (by rwa [State.channel_received])]

theorem execSluiceHalt_halts : exec (.sluiceHalt q) s =
    .next (((s.received q).haltChannel (startNumber q.params) Code.ok).acked haltRow q .ok) := by
  refine (lysil_of_takes taken sluiceHaltBody).trans ?_
  rw [sluiceHaltBody_known block channel]

end

/-- What the halt of a channel leaves once its command is answered. -/
theorem State.haltChannel_acked {s : State} {q : Req} {c : Nat} (active : (s.channel c).active) :
    let u := ((s.received q).haltChannel c Code.ok).acked haltRow q .ok
    u.channel c = (s.channel c).haltedBy Code.ok ∧
      (∀ k, (s.channel c).ticket = some k → u.completed k Code.ok ((s.channel c).haltedBy Code.ok).statusBytes) ∧
      (∀ n, n ≠ c → u.channel n = s.channel n) ∧ u.keepsMemory s ∧ u.spad = s.spad ∧ u.blocks = s.blocks := by
  have same := s.channel_received q
  have acts : ((s.received q).channel c).active := (same c).symm ▸ active
  have only := ((s.received q).haltChannel c Code.ok).acked_ok_eq haltRow q
  have channel (n : Nat) := (congrArg (State.channel · n) only :)
  refine ⟨?_, fun k ticket => ?_, fun n other => ?_, ?_, ?_, ?_⟩
  · rw [channel, ← same c]
    exact State.channel_haltChannel_same acts Code.ok
  · rw [← same c] at ticket ⊢
    exact State.completed_of_ring (State.ring_acked_ok ..) (State.haltChannel_completes acts Code.ok ticket)
  · exact (channel n).trans ((State.channel_haltChannel_other _ c Code.ok other).trans (same n))
  · have kept := State.mem_haltChannel acts Code.ok
    unfold State.keepsMemory at kept ⊢
    rw [State.mem_acked_ok, kept, State.mem_received]
  · rw [only, State.haltChannel_eq]
    exact (congrArg State.spad (s.received_eq q) :)
  · rw [State.blocks_acked_ok, State.haltChannel_eq]
    exact State.blocks_received s q

/-! ## What a burst read touches (R132, R255, R303) -/

namespace State.ReadTouches
variable {s u : State}

theorem updRegion (h : s.ReadTouches u) (r : Nat) (f : Region → Region) : s.ReadTouches (u.updRegion r f) :=
  h.trans ⟨rfl, (State.StatusOnly.refl u).of_blocks rfl⟩

theorem countAccess (h : s.ReadTouches u) (r : Nat) (cacheable hit : Bool) : s.ReadTouches (u.countAccess r cacheable hit) :=
  .ite _ (.updRegion h _ _) h

theorem poolCorrected (h : s.ReadTouches u) (r q addr n : Nat) : s.ReadTouches (u.poolCorrected r q addr n) :=
  foldl_keeps s.ReadTouches _ (fun _ _ g => g.fault _) _ u h

theorem allocLine (h : s.ReadTouches u) (r : Nat) (l : CacheLine) : s.ReadTouches (u.allocLine r l) := by
  rw [State.allocLine_eq]
  exact h.trans ⟨rfl, (State.StatusOnly.refl u).of_blocks rfl⟩

theorem readHit (r g : Nat) (l : CacheLine) (k : Bool) (f : MemFindings) (who : Reader) :
    s.ReadTouches (s.readHit r g l k f who).2 := by
  unfold State.readHit
  dsimp only
  split
  · dsimp only
    exact .updRegion (.fault (.updRegion (.countAccess (.readGranule ..) _ _ _) _ _) _) _ _
  · split
    · dsimp only
      exact .updRegion (.countAccess (.fault (.refl s) _) _ _ _) _ _
    · dsimp only
      exact .updRegion (.poolCorrected (.countAccess (.refl s) _ _ _) _ _ _ _) _ _

theorem regionRead (r g : Nat) (k : Bool) (f : MemFindings) (who : Reader) : s.ReadTouches (s.regionRead r g k f who).2 := by
  unfold State.regionRead
  split
  · exact .readHit r g _ k f who
  · exact .ite _ (.allocLine (.countAccess (.readGranule ..) _ _ _) _ _) (.countAccess (.readGranule ..) _ _ _)

theorem readCached (c va : Nat) (via : Nat × BitVec 64) (f : MemFindings) : s.ReadTouches (s.readCached c va via f).2 := by
  unfold State.readCached
  dsimp only
  split
  · exact .trans (.regionRead ..) (.transit ..)
  · exact .readVia ..

theorem readBurst (c va : Nat) (f : MemFindings) : s.ReadTouches (s.readBurst c va f).2 := by
  unfold State.readBurst
  refine foldl_snd_keeps s.ReadTouches _ ?_ _ _ (foldl_keeps s.ReadTouches _ (fun _ _ h => h.trans (.meetEntry ..)) _ s (.refl s))
  rintro ⟨acc, u⟩ k h
  dsimp only
  cases acc with
  | data d bad =>
    have read (via : Nat × BitVec 64) := h.trans (.readCached (s := u) c (va + 64 * k) via f)
    dsimp only
    split
    · next found => exact (congrArg Prod.snd found :) ▸ read _
    · next found => exact (congrArg Prod.snd found :) ▸ read _
    · next found => exact (congrArg Prod.snd found :) ▸ read _
  | fault a => exact h
  | refused => exact h

theorem channel (h : s.ReadTouches u) (c : Nat) : u.channel c = s.channel c := (congrArg (State.channel · c) h.only :)

end State.ReadTouches

/-! ## Page faults (R277, R278) -/

theorem State.channels_interrupt (s : State) (v : BitVec 11) : (s.interrupt v).channels = s.channels :=
  (congrArg State.channels (s.interrupt_eq v) :)

theorem State.channels_event (s : State) (e : EthPort) (code : BitVec 16) (d : List Byte) : (s.event e code d).channels = s.channels :=
  (congrArg State.channels (State.post_eq ..) :)

/-- A channel that a fault holds as it becomes FAULTED. -/
def Channel.faults (x : Channel) : Channel := { x with faultDue := false, state := .faulted }

/-- A message that a fault may send leaves the channels. -/
theorem State.channels_mayInterrupt (s : State) (m : Option (BitVec 11)) :
    ((m.map fun v => s.interrupt v).getD s).channels = s.channels := by
  cases m with
  | none => rfl
  | some v => exact s.channels_interrupt v

/-- A fault that is due settles or waits for the granules under way; the restart point stays. -/
theorem State.channel_settleFault (s : State) (c : Nat) : (s.settleFault c).channel c =
    if ((s.channel c).faultDue && (s.channel c).quiet) = true then (s.channel c).faults else s.channel c := by
  unfold State.settleFault
  dsimp only
  split
  · rw [State.channel, State.channels_mayInterrupt, State.channels_event]
    exact State.channel_setChannel_same s c (s.channel c).faults
  · rfl

/-- A channel as a fault at an address records it (R277). -/
def State.faulting (s : State) (x : Channel) (a : Nat) (dst : Bool) (k : Nat) : Channel :=
  { x with faultDue := true, faultDst := dst, faultAddr := BitVec.ofNat 36 a, position := BitVec.ofNat 64 k, faultTime := s.time
           faultUntil := s.now + 1000 * bits 31 0 s.sluiceConfig
           faultMsix := if s.sluiceConfig.getLsbD 63 then some (BitVec.ofNat 11 (bits 62 52 s.sluiceConfig)) else none }

/-- The fault is recorded and counted, then settles. -/
theorem State.pageFault_eq (s : State) (c a : Nat) (dst : Bool) (k : Nat) : s.pageFault c a dst k =
    ((s.setChannel c (s.faulting (s.channel c) a dst k)).countSluice c 4 1).settleFault c := rfl

theorem State.channel_pageFault (s : State) (c a : Nat) (dst : Bool) (k : Nat) : (s.pageFault c a dst k).channel c =
    if (s.channel c).quiet = true then (s.faulting (s.channel c) a dst k).faults else s.faulting (s.channel c) a dst k := by
  have own : (((s.setChannel c (s.faulting (s.channel c) a dst k)).countSluice c 4 1)).channel c = s.faulting (s.channel c) a dst k :=
    State.channel_setChannel_same ..
  rw [State.pageFault_eq, State.channel_settleFault, own]
  rfl

/-! ## INSTRUCTION_FETCH (R255) -/

/-- The burst of PC stays beside another that enters the buffer. -/
theorem Channel.keepBurst_keeps {x : Channel} {n : Nat} {b : Nat × List Byte} (d : List Byte) (old : b ∈ x.bursts)
    (here : b.1 = x.pc / 16) (other : b.1 ≠ n) : ∃ b' ∈ (x.keepBurst n d).bursts, b'.1 = b.1 := by
  have kept : b ∈ (x.bursts.filter fun b => b.1 != n).filter fun b => b.1 == x.pc / 16 := by simp [old, here, here ▸ other]
  obtain ⟨e, rest, split⟩ := List.exists_cons_of_ne_nil (List.ne_nil_of_mem kept)
  have first : e ∈ (x.bursts.filter fun b => b.1 != n).filter fun b => b.1 == x.pc / 16 := split ▸ List.mem_cons_self
  refine ⟨e, ?_, (beq_iff_eq.1 (List.mem_filter.1 first).2).trans here.symm⟩
  simp [Channel.keepBurst, split]

/-- At command-ready a channel of a block that is on and not fenced runs, no fault holds it, and it wants a burst. -/
structure State.Fetches (s : State) (t : Time) (c : Fin 1024) (n : Nat) : Prop where
  ready : s.phase = .ready
  on : (s.begin t).blockOn (c.val / 16) = true
  live : (s.block (c.val / 16)).fenced = false
  running : (s.channel c).state = .running
  due : (s.channel c).faultDue = false
  wants : (s.channel c).wantBurst = some n

/-- The state in which its read is counted. -/
def State.granted (s : State) (c va : Nat) : State := s.countSluice c (grantClass [va] false) 1

namespace State.Fetches
variable {s : State} {t : Time} {c : Fin 1024} {n : Nat}

theorem exec_fetch (h : s.Fetches t c n) (f : MemFindings) : exec (.instructionFetch t c false f) s =
    .next ((s.begin t).fetchAt c ((s.channel c).program.toNat + 256 * n) f fun x d => x.keepBurst n d) := by
  have wants : ((s.begin t).channel c).wantBurst = some n := h.wants
  change execInstructionFetch t c false f s = _
  rw [execInstructionFetch, whenReady_ready t _ s h.ready, State.onlyIf, h.on, if_pos rfl,
    State.running_runs (s := s.begin t) (c := c) h.live h.running h.due]
  dsimp only
  rw [wants]
  rfl

theorem exec_waits (h : s.Fetches t c n) {f : MemFindings}
    (waits : (s.begin t).deviceWaits ((s.channel c).program.toNat + 256 * n) = true) :
    exec (.instructionFetch t c false f) s = .next (s.begin t) :=
  (h.exec_fetch f).trans (congrArg Host.Outcome.next (if_pos waits))

theorem exec_burst (h : s.Fetches t c n) {f : MemFindings}
    (served : (s.begin t).deviceWaits ((s.channel c).program.toNat + 256 * n) = false) :
    exec (.instructionFetch t c false f) s =
      .next ((s.begin t).burst c ((s.channel c).program.toNat + 256 * n) f fun x d => x.keepBurst n d) :=
  (h.exec_fetch f).trans (congrArg Host.Outcome.next (if_neg (Bool.eq_false_iff.1 served)))

/-- The read leaves the channels as they are. -/
theorem channel_read (s : State) (t : Time) (c va k : Nat) (f : MemFindings) :
    (((s.begin t).granted c va).readBurst c va f).2.channel k = s.channel k :=
  (State.ReadTouches.readBurst c va f).channel k

end State.Fetches

section
variable {s : State} {c va : Nat} {f : MemFindings} (keep : Channel → List Byte → Channel)

theorem State.burst_clean {d : List Byte} (read : ((s.granted c va).readBurst c va f).1 = .data d false) :
    s.burst c va f keep = ((s.granted c va).readBurst c va f).2.updChannel c fun x => keep x d := by
  unfold State.granted at read ⊢
  unfold State.burst
  dsimp only
  rw [read]
  rfl

theorem State.burst_poisoned {d : List Byte} (read : ((s.granted c va).readBurst c va f).1 = .data d true) :
    s.burst c va f keep = ((s.granted c va).readBurst c va f).2.haltError c Code.poisonConsumed := by
  unfold State.granted at read ⊢
  unfold State.burst
  dsimp only
  rw [read]
  rfl

theorem State.burst_refused (read : ((s.granted c va).readBurst c va f).1 = .refused) :
    s.burst c va f keep = ((s.granted c va).readBurst c va f).2.haltError c Code.windowClosed := by
  unfold State.granted at read ⊢
  unfold State.burst
  dsimp only
  rw [read]

theorem State.burst_faults {a : Nat} (read : ((s.granted c va).readBurst c va f).1 = .fault a) :
    s.burst c va f keep = ((s.granted c va).readBurst c va f).2.pageFault c a false 0 := by
  unfold State.granted at read ⊢
  unfold State.burst
  dsimp only
  rw [read]

end

/-- Settles O29: by the bodies of the two commands, and by the burst that a fetch reads, which leaves every channel as it is. -/
theorem sluiceProgramsStartHaltAndFetch : Obligations.SluiceProgramsStartHaltAndFetch := by
  unfold Obligations.SluiceProgramsStartHaltAndFetch
  refine ⟨fun q s taken => ⟨execSluiceStart_good taken, execSluiceStart_bad taken⟩, fun q s taken => ?halt,
    fun s t c f n ready on live running due wants => ?fetch⟩
  case halt =>
    refine ⟨execSluiceHalt_unknown taken, fun block channel idle => execSluiceHalt_idle taken block channel (not_not.2 idle),
      fun block channel idle halted => ?_⟩
    obtain ⟨own, completes, others, memory, spad, blocks⟩ :=
      State.haltChannel_acked (q := q) (c := startNumber q.params) (not_or.2 ⟨idle, halted⟩)
    refine ⟨_, execSluiceHalt_halts taken block channel, ?_, ?_, ?_, ?_, fun k ticket => ?_, others, memory, spad, blocks⟩
    · exact congrArg Channel.state own
    · exact congrArg Channel.status own
    · exact congrArg Channel.ticket own
    · exact (congrArg Channel.pc own :)
    · exact (own ▸ completes k ticket :)
  case fetch =>
    have fetches : s.Fetches t c n := ⟨ready, on, live, running, due, wants⟩
    have channel := State.Fetches.channel_read s t c ((s.channel c).program.toNat + 256 * n) (f := f)
    refine ⟨fun waits => fetches.exec_waits waits, fun served => ?_⟩
    have next := fetches.exec_burst (f := f) served
    have active := (channel c).symm ▸ Channel.active_of_state running (by decide) (by decide)
    refine ⟨fun d read => ?clean, fun d read => ?poisoned, fun read => ?refused, fun a read => ?faults⟩
    case clean =>
      rw [State.burst_clean _ read] at next
      have own := State.channel_updChannel_same (((s.begin t).granted c ((s.channel c).program.toNat + 256 * n)).readBurst c
        ((s.channel c).program.toNat + 256 * n) f).2 c fun x => x.keepBurst n d
      rw [channel] at own
      exact ⟨_, next, own, fun b old here other => own ▸ Channel.keepBurst_keeps d old here other,
        fun k other => (State.channel_updChannel_other _ _ _ k other).trans (channel k)⟩
    case poisoned =>
      rw [State.burst_poisoned _ read] at next
      have own := State.channel_haltError_same active Code.poisonConsumed
      exact ⟨_, next, congrArg Channel.state own, congrArg Channel.status own⟩
    case refused =>
      rw [State.burst_refused _ read] at next
      have own := State.channel_haltError_same active Code.windowClosed
      exact ⟨_, next, congrArg Channel.state own, congrArg Channel.status own⟩
    case faults =>
      rw [State.burst_faults _ read] at next
      refine ⟨_, next, ?_⟩
      rw [State.channel_pageFault]
      split
      · exact ⟨rfl, rfl, rfl, .inl rfl⟩
      · exact ⟨rfl, rfl, rfl, .inr rfl⟩

end Sys2Proof.Machine
end

section
/-!
PROOFS. O33: MAP_PAGES and its coming into force.
-/

namespace Sys2Proof.Machine

open Sys2Proof

/-! ## MAP_PAGES (R302) -/

/-- The request names 1 to 256 entries within the map, each legal at its index. -/
def State.mapsLegal (s : State) (p : List Byte) : Bool :=
  decide (1 ≤ le p 4 2) && decide (le p 4 2 ≤ 256) && decide (le p 0 4 + le p 4 2 ≤ 262144)
    && (List.range (le p 4 2)).all fun k => s.entryLegal (le p 0 4 + k) (BitVec.ofNat 64 (le p (8 + 8 * k) 8))

/-- The change that it asks for. -/
def mapChange (k : Ticket) (p : List Byte) : MapChange := { ticket := k, first := le p 0 4, entries := (mapEntries p).map carrKeep }

/-- The state with it waiting last. -/
def State.queueMap (s : State) (m : MapChange) : State := { s with mem := { s.mem with mapChanges := s.mem.mapChanges ++ [m] } }

theorem all_zipIdx_mapEntries (p : List Byte) (f : BitVec 64 × Nat → Bool) : (mapEntries p).zipIdx.all f =
    (List.range (le p 4 2)).all fun k => f (BitVec.ofNat 64 (le p (8 + 8 * k) 8), k) := by
  rw [Bool.eq_iff_iff, List.all_eq_true, List.all_eq_true, List.forall_mem_zipIdx']
  simp [mapEntries]

theorem mapPagesBody_eq (k : Ticket) (p : List Byte) (s : State) : mapPagesBody k p s =
    if s.mapsLegal p = true then (s.queueMap (mapChange k p), .err Code.accepted) else (s, .err Code.notPermitted) := by
  unfold mapPagesBody State.mapsLegal
  dsimp only
  rw [all_zipIdx_mapEntries]
  simp only [Bool.and_eq_true, decide_eq_true_eq, and_assoc]
  rfl

theorem State.mapsLegal_received (s : State) (q : Req) (p : List Byte) : (s.received q).mapsLegal p = s.mapsLegal p :=
  (congrArg (State.mapsLegal · p) (s.received_eq q) :)

section
variable {s : State} {q : Req} (taken : s.takes mapPagesRow q)
include taken

theorem execMapPages_good (good : s.mapsLegal q.params = true) : exec (.mapPages q) s =
    .next { s.served mapPagesRow q { status := Code.accepted } with
      mem := { s.mem with mapChanges := s.mem.mapChanges ++ [mapChange (mapPagesRow.ticket q) q.params] } } := by
  have does : mapPagesBody (mapPagesRow.ticket q) q.params (s.received q) =
      ((s.received q).queueMap (mapChange (mapPagesRow.ticket q) q.params), .err Code.accepted) := by
    rw [mapPagesBody_eq, State.mapsLegal_received, if_pos good]
  refine (lysil_apart rfl (by decide) taken does rfl rfl rfl).trans ?_
  have served := State.served_eq (s := s) (o := mapPagesRow) (q := q) (a := .err Code.accepted) rfl (by decide)
  rw [State.queueMap, State.mem_received]
  exact congrArg (fun u : State => Host.Outcome.next { u with
    mem := { s.mem with mapChanges := s.mem.mapChanges ++ [mapChange (mapPagesRow.ticket q) q.params] } }) served.symm

theorem execMapPages_bad (bad : s.mapsLegal q.params = false) :
    exec (.mapPages q) s = .next (s.served mapPagesRow q (.err Code.notPermitted)) := by
  refine lysil_answers (body := mapPagesBody) taken ?_
  rw [mapPagesBody_eq, State.mapsLegal_received, if_neg (Bool.not_eq_true _ ▸ bad)]

end

/-! ## The write-back of a page (R304) -/

theorem State.mem_writeGranule (s : State) (g o : Nat) (d : List Byte) (p : Bool) : (s.writeGranule g o d p).mem =
    { s.mem with dram := (s.writeGranule g o d p).mem.dram, poison := (s.writeGranule g o d p).mem.poison
                 dramStacks := (s.writeGranule g o d p).mem.dramStacks } := by
  unfold State.writeGranule
  dsimp only
  split <;> rfl

theorem State.mem_writeBack (s : State) (r : Nat) (l : CacheLine) : (s.writeBack r l).mem =
    { s.mem with dram := (s.writeBack r l).mem.dram, poison := (s.writeBack r l).mem.poison
                 dramStacks := (s.writeBack r l).mem.dramStacks } := by
  unfold State.writeBack
  split
  · rw [State.countPool, State.mem_updRegion, State.invalidateOthers_eq]
    exact State.mem_writeGranule ..
  · rfl

/-- What lines that are written back may write: bytes of DRAM, its poison, the counters of its stacks, and the caches. -/
def State.writtenBack (s u : State) : State :=
  { s with mem := { s.mem with dram := u.mem.dram, poison := u.mem.poison, dramStacks := u.mem.dramStacks }, regions := u.regions }

/-- A line that is written back and given up. -/
def State.flushLine (s : State) (r : Nat) (l : CacheLine) : State := (s.writeBack r l).updRegion r fun x => x.dropLine l.addr

theorem State.flushLine_eq (s : State) (r : Nat) (l : CacheLine) : s.flushLine r l = s.writtenBack (s.flushLine r l) := by
  have only := s.writeBack_eq r l
  rw [State.mem_writeBack] at only
  exact (congrArg (fun u : State => u.updRegion r fun x => x.dropLine l.addr) only :)

/-- The lines of a page in one region. -/
def State.flushRegion (s : State) (page r : Nat) : State :=
  forEach ((s.region r).cache.filter fun l => l.addr / 4096 == page) (fun l s => s.flushLine r l) s

theorem State.flushRegion_eq (s : State) (page r : Nat) : s.flushRegion page r = s.writtenBack (s.flushRegion page r) :=
  forEach_frame State.writtenBack (fun _ _ _ => rfl) (fun _ => rfl) (fun l s => s.flushLine_eq r l) _ s

theorem State.flushPage_regions (s : State) (page : Nat) :
    s.flushPage page = forEach (indices 4 fun _ => true) (fun r s => s.flushRegion page r) s := rfl

theorem State.flushPage_eq (s : State) (page : Nat) : s.flushPage page = s.writtenBack (s.flushPage page) :=
  forEach_frame State.writtenBack (fun _ _ _ => rfl) (fun _ => rfl) (fun r s => s.flushRegion_eq page r) _ s

/-- No dirty line of the four caches holds an address. -/
def State.Uncached (s : State) (a : Nat) : Prop :=
  ∀ x, x < 4 → ∀ l ∈ (s.region x).cache, l.dirty = true → a < 64 * l.addr ∨ 64 * l.addr + l.data.length ≤ a

/-- From `s` to `u` lines go, and DRAM keeps every byte that no dirty line of `s` holds. -/
structure State.Flushes (s u : State) : Prop where
  loses : s.Loses u
  dram : ∀ a, s.Uncached a → u.mem.dram.read a = s.mem.dram.read a

namespace State.Flushes
variable {s u v : State}

theorem refl (s : State) : s.Flushes s := ⟨.refl s, fun _ _ => rfl⟩

theorem trans (h : s.Flushes u) (g : u.Flushes v) : s.Flushes v where
  loses := h.loses.trans g.loses
  dram a free := (g.dram a fun x small l there => free x small l ((h.loses x).cache l there)).trans (h.dram a free)

theorem flushLine (h : s.Flushes u) {r : Nat} (small : r < 4) {l : CacheLine} (there : l ∈ (s.region r).cache) :
    s.Flushes (u.flushLine r l) where
  loses := (h.loses.trans (.writeBack r l)).trans (.dropLine r l.addr)
  dram a free := by
    refine Eq.trans ?_ (h.dram a free)
    rw [State.flushLine, State.mem_updRegion, State.dram_writeBack]
    split
    · next dirty => exact Memory.read_put_other _ _ _ _ (free r small l there dirty)
    · rfl

theorem flushRegion (page : Nat) {r : Nat} (small : r < 4) : s.Flushes (s.flushRegion page r) :=
  List.foldlRecOn _ _ (.refl s) fun _ h _ named => h.flushLine small (List.mem_filter.1 named).1

theorem flushPage (page : Nat) : s.Flushes (s.flushPage page) :=
  List.foldlRecOn _ _ (.refl s) fun _ h _ named =>
    h.trans (.flushRegion page (List.mem_range.1 (List.mem_filter.1 named).1))

/-- The map's entries are no cached bytes. -/
theorem of_dram (h : s.Flushes u) (dram : v.mem.dram = u.mem.dram) (regions : v.regions = u.regions) : s.Flushes v where
  loses := h.loses.trans (.of_regions regions)
  dram a free := dram ▸ h.dram a free

end State.Flushes

/-! ## The entries of a change (R303) -/

/-- The state in which the page that an entry maps is flushed, if it takes another. -/
def State.unmapped (s : State) (i : Nat) (e : BitVec 64) : State :=
  match cacheablePage (s.carrEntry i) with
  | some p => if e.getLsbD 5 ∧ bits 2 1 e = 0 ∧ bits 34 18 e = p then s else s.flushPage p
  | none => s

theorem State.unmapped_eq (s : State) (i : Nat) (e : BitVec 64) : s.unmapped i e = s.writtenBack (s.unmapped i e) := by
  unfold State.unmapped
  split
  · split
    · rfl
    · exact State.flushPage_eq ..
  · rfl

theorem State.Flushes.unmapped (s : State) (i : Nat) (e : BitVec 64) : s.Flushes (s.unmapped i e) := by
  unfold State.unmapped
  split
  · split
    · exact .refl s
    · exact .flushPage _
  · exact .refl s

theorem State.setCarr_unmapped (s : State) (i : Nat) (e : BitVec 64) : s.setCarr i e =
    { s.unmapped i e with mem := { (s.unmapped i e).mem with
      carr := Tab.set carrReset (s.unmapped i e).mem.carr i e, carrBad := (s.unmapped i e).mem.carrBad.erase i } } := rfl

/-- What a change may write: what it writes back, and the map. -/
def State.remapped (s u : State) : State :=
  { s with mem := { s.mem with dram := u.mem.dram, poison := u.mem.poison, dramStacks := u.mem.dramStacks, carr := u.mem.carr
                               carrBad := u.mem.carrBad }
           regions := u.regions }

theorem State.setCarr_eq (s : State) (i : Nat) (e : BitVec 64) : s.setCarr i e = s.remapped (s.setCarr i e) := by
  rw [State.setCarr_unmapped, State.unmapped_eq]
  rfl

theorem State.carr_setCarr (s : State) (i : Nat) (e : BitVec 64) : (s.setCarr i e).mem.carr = Tab.set carrReset s.mem.carr i e := by
  rw [State.setCarr_unmapped, State.unmapped_eq]
  rfl

/-- The entries of a list from an index on take their values. -/
def State.setCarrs (s : State) (first : Nat) (l : List (BitVec 64 × Nat)) : State :=
  forEach l (fun e s => s.setCarr (first + e.2) e.1) s

theorem State.remapped_remapped (s u v : State) : (s.remapped u).remapped v = s.remapped v := rfl
theorem State.remapped_self (s : State) : s = s.remapped s := rfl

theorem State.setCarrs_eq (s : State) (first : Nat) (l : List (BitVec 64 × Nat)) :
    s.setCarrs first l = s.remapped (s.setCarrs first l) := by
  unfold State.setCarrs
  refine forEach_frame State.remapped State.remapped_remapped State.remapped_self (fun e s => ?_) l s
  exact s.setCarr_eq (first + e.2) e.1

theorem State.Flushes.setCarrs (s : State) (first : Nat) (l : List (BitVec 64 × Nat)) : s.Flushes (s.setCarrs first l) :=
  List.foldlRecOn l _ (.refl s) fun u h e _ => h.trans (.of_dram (.unmapped u (first + e.2) e.1) rfl rfl)

/-- Each of them has its new value, and every other keeps its own. -/
theorem State.carr_setCarrs (first i : Nat) : ∀ (l : List (BitVec 64)) (k : Nat) (s : State),
    Tab.get carrReset (s.setCarrs first (l.zipIdx k)).mem.carr i =
      if first + k ≤ i then (l[i - (first + k)]?).getD (Tab.get carrReset s.mem.carr i) else Tab.get carrReset s.mem.carr i
  | [], _, _ => by simp [State.setCarrs, forEach]
  | e :: l, k, s => by
    have rest := State.carr_setCarrs first i l (k + 1) (s.setCarr (first + k) e)
    rw [State.carr_setCarr] at rest
    refine rest.trans ?_
    rcases Nat.lt_trichotomy i (first + k) with before | here | after
    · rw [if_neg (by omega), if_neg (by omega), Tab.get_set_other _ _ _ before.ne]
    · subst here
      simp [Tab.get_set_same]
    · obtain ⟨n, rfl⟩ := Nat.exists_eq_add_of_lt after
      rw [if_pos (by omega), if_pos (by omega), Tab.get_set_other _ _ _ after.ne',
        show first + k + n + 1 - (first + (k + 1)) = n by omega, show first + k + n + 1 - (first + k) = n + 1 by omega,
        List.getElem?_cons_succ]

/-! ## FAULTED channels try again (R279) -/

/-- A channel that runs again if its address no longer faults. -/
def Channel.retried (x : Channel) (translate : Nat → Bool → Target) : Channel :=
  if translate x.faultAddr.toNat x.faultDst = .fault then x else { x with state := .running }

/-- One of them. -/
def State.retry (s : State) (c : Nat) : State :=
  match s.translate (s.channel c).faultAddr.toNat (s.channel c).faultDst with
  | .fault => s
  | _ => s.setChannel c { s.channel c with state := .running }

theorem State.retryFaults_each (s : State) : s.retryFaults =
    forEach (indices 1024 fun c => (s.channel c).state == .faulted) (fun c s => s.retry c) s := rfl

theorem State.retry_eq (s : State) (c : Nat) : s.retry c = { s with channels := (s.retry c).channels } := by
  unfold State.retry
  split <;> rfl

theorem State.translate_retry (s : State) (c : Nat) : (s.retry c).translate = s.translate := by
  rw [State.retry_eq]
  rfl

theorem State.channel_retry (s : State) (c n : Nat) :
    (s.retry c).channel n = if n = c then (s.channel n).retried s.translate else s.channel n := by
  unfold State.retry Channel.retried
  split
  · next faults =>
    split
    · next here => rw [here, if_pos faults]
    · rfl
  · next goes =>
    split
    · next here => rw [here, State.channel_setChannel_same, if_neg goes]
    · next other => exact State.channel_setChannel_other _ _ _ _ other

theorem Channel.retried_once (x : Channel) (t : Nat → Bool → Target) : (x.retried t).retried t = x.retried t := by
  by_cases faults : t x.faultAddr.toNat x.faultDst = .fault
  · simp [Channel.retried, faults]
  · simp [Channel.retried, faults]

theorem State.channel_forEach_retry (n : Nat) : ∀ (l : List Nat) (s : State),
    (forEach l (fun c s => s.retry c) s).channel n = if n ∈ l then (s.channel n).retried s.translate else s.channel n
  | [], _ => rfl
  | c :: l, s => by
    have rest := State.channel_forEach_retry n l (s.retry c)
    rw [State.translate_retry, State.channel_retry] at rest
    refine rest.trans ?_
    by_cases here : n = c
    · simp [here, Channel.retried_once]
    · simp [here]

theorem State.retryFaults_eq (s : State) : s.retryFaults = { s with channels := s.retryFaults.channels } :=
  forEach_frame (fun s u : State => { s with channels := u.channels }) (fun _ _ _ => rfl) (fun _ => rfl) (fun c s => s.retry_eq c) _ s

theorem State.channel_retryFaults (s : State) (n : Nat) : s.retryFaults.channel n =
    if n < 1024 ∧ (s.channel n).state = .faulted then (s.channel n).retried s.translate else s.channel n := by
  rw [State.retryFaults_each, State.channel_forEach_retry]
  simp [indices]

/-! ## MAP_PAGES_DONE (R303, R304) -/

/-- The state with the later changes left. -/
def State.leftMaps (s : State) (rest : List MapChange) : State := { s with mem := { s.mem with mapChanges := rest } }

/-- The state with a change in force, before its command completes. -/
def State.inForce (s : State) (m : MapChange) (rest : List MapChange) : State :=
  (s.leftMaps rest).setCarrs m.first m.entries.zipIdx

/-- The state in which the command has completed. -/
def State.mapTold (s : State) (m : MapChange) (rest : List MapChange) : State := (s.inForce m rest).complete m.ticket Code.ok []

/-- The state in which FAULTED channels have tried again too. -/
def State.mapDone (s : State) (m : MapChange) (rest : List MapChange) : State := (s.mapTold m rest).retryFaults

section
variable (s : State) (m : MapChange) (rest : List MapChange)

theorem State.inForce_eq : s.inForce m rest = (s.leftMaps rest).remapped (s.inForce m rest) := State.setCarrs_eq ..

theorem State.Flushes.inForce : s.Flushes (s.inForce m rest) := by
  have left : s.Flushes (s.leftMaps rest) := .of_dram (.refl s) rfl rfl
  exact left.trans (.setCarrs (s.leftMaps rest) m.first m.entries.zipIdx)

theorem State.carr_inForce (i : Nat) : Tab.get carrReset (s.inForce m rest).mem.carr i =
    if m.first ≤ i then (m.entries[i - m.first]?).getD (Tab.get carrReset s.mem.carr i) else Tab.get carrReset s.mem.carr i :=
  State.carr_setCarrs m.first i m.entries 0 (s.leftMaps rest)

theorem State.mapTold_eq : s.mapTold m rest = { s.inForce m rest with eth := (s.mapTold m rest).eth, out := (s.mapTold m rest).out } :=
  State.complete_eq ..

theorem State.mapDone_eq : ∃ l, s.mapDone m rest = { s.mapTold m rest with channels := l } :=
  ⟨_, State.retryFaults_eq ..⟩

theorem State.channel_mapTold (c : Nat) : (s.mapTold m rest).channel c = s.channel c :=
  (congrArg (State.channel · c) (s.mapTold_eq m rest) :).trans (congrArg (State.channel · c) (s.inForce_eq m rest) :)

theorem State.translate_mapDone : (s.mapDone m rest).translate = (s.mapTold m rest).translate := by
  obtain ⟨l, done⟩ := s.mapDone_eq m rest
  rw [done]
  rfl

theorem State.channel_mapDone (c : Nat) : (s.mapDone m rest).channel c = if c < 1024 ∧ (s.channel c).state = .faulted then
    (s.channel c).retried (s.mapDone m rest).translate else s.channel c := by
  have own := (s.mapTold m rest).channel_retryFaults c
  rw [State.channel_mapTold] at own
  rw [State.translate_mapDone]
  exact own

theorem State.completes_mapDone : s.completes (s.mapDone m rest) m.ticket Code.ok [] := by
  have eth : s.eth = (s.inForce m rest).eth := (congrArg State.eth (s.inForce_eq m rest) :).symm
  have told : s.completes (s.mapTold m rest) m.ticket Code.ok [] :=
    State.completes_of_eth eth ((s.inForce m rest).completes_complete m.ticket Code.ok [])
  obtain ⟨l, done⟩ := s.mapDone_eq m rest
  rw [done]
  exact told

end

section
variable {s : State} {m : MapChange} {rest : List MapChange} (ready : s.phase = .ready) (t : Time)
  (changes : s.mem.mapChanges = m :: rest)
include ready changes

theorem exec_mapPagesDone : exec (.mapPagesDone t) s = .next
    ((s.begin t).onlyIf (s.mapSettled m && !(s.begin t).mapWaits m) fun s => s.mapDone m rest) := by
  have same : (s.begin t).mem.mapChanges = m :: rest := changes
  change execMapPagesDone t s = _
  rw [execMapPagesDone, whenReady_ready t _ s ready, same]
  rfl

end

/-- Settles O33: a change keeps to the frame of the lines it writes back and the entries it sets, and each FAULTED channel tries again
by itself. -/
theorem carrMapChanges : Obligations.CarrMapChanges := by
  unfold Obligations.CarrMapChanges
  refine ⟨fun q s taken => ⟨execMapPages_good taken, execMapPages_bad taken⟩, fun s t m rest ready changes => ?done⟩
  case done =>
    have next := exec_mapPagesDone ready t changes
    refine ⟨fun waits => ?waits, fun settled serves => ?comes⟩
    case waits =>
      refine next.trans (congrArg Host.Outcome.next (if_neg ?_))
      simpa [imp_iff_not_or] using waits
    case comes =>
      have comes : exec (.mapPagesDone t) s = .next ((s.begin t).mapDone m rest) :=
        next.trans (congrArg Host.Outcome.next (if_pos (by simp [settled, serves])))
      obtain ⟨l, done⟩ := (s.begin t).mapDone_eq m rest
      have told := (s.begin t).mapTold_eq m rest
      have force := (s.begin t).inForce_eq m rest
      have mem : ((s.begin t).mapDone m rest).mem = ((s.begin t).inForce m rest).mem :=
        (congrArg State.mem done :).trans (congrArg State.mem told :)
      have channel := (s.begin t).channel_mapDone m rest
      refine ⟨_, comes, ?_, (s.begin t).completes_mapDone m rest, fun i => ?_,
        fun c small faulted => ⟨fun faults => ?_, fun goes => ?_⟩, fun c live => ?_, fun a free => ?_, ?_, ?_, ?_, ?_⟩
      · exact (congrArg MemSys.mapChanges mem).trans (congrArg (fun u : State => u.mem.mapChanges) force :)
      · rw [mem]
        exact (s.begin t).carr_inForce m rest i
      · exact (channel c).trans ((if_pos ⟨small, faulted⟩).trans (if_pos faults))
      · exact (channel c).trans ((if_pos ⟨small, faulted⟩).trans (if_neg goes))
      · exact (channel c).trans (if_neg fun h => live h.2)
      · rw [mem]
        exact (State.Flushes.inForce (s.begin t) m rest).dram a free
      · exact (congrArg State.spad done :).trans ((congrArg State.spad told :).trans (congrArg State.spad force :))
      · exact (congrArg State.pool done :).trans ((congrArg State.pool told :).trans (congrArg State.pool force :))
      · exact (congrArg State.pipes done :).trans ((congrArg State.pipes told :).trans (congrArg State.pipes force :))
      · exact (congrArg State.blocks done :).trans ((congrArg State.blocks told :).trans (congrArg State.blocks force :))

end Sys2Proof.Machine
end

section
/-!
PROOFS. A MOVE that is issued stands among the MOVEs of its channel under its number, whatever its granules meet on their way.
-/

namespace Sys2Proof.Machine

open Sys2Proof

theorem State.channels_readPoolLine (s : State) (r l : Nat) (f : MemFindings) : (s.readPoolLine r l f).2.channels = s.channels := by
  unfold State.readPoolLine
  dsimp only
  split
  · rfl
  · split
    · exact State.channels_fault ..
    · exact (congrArg State.channels (State.ReadTouches.poolCorrected (.refl s) _ _ _ _).only :)

theorem State.channels_dmaCollision (s : State) (b c : Nat) (d : MoveSide) : (s.dmaCollision b c d).2.channels = s.channels := by
  unfold State.dmaCollision
  split
  · exact (State.KeepsThreads.bankCollision ..).channels
  · rfl

/-- A channel holds a MOVE of a number, issued at a PC. -/
def State.HasMove (c serial pc : Nat) (s : State) : Prop := ∃ v ∈ (s.channel c).moves, v.serial = serial ∧ v.pc = pc

namespace State.HasMove
variable {c serial pc : Nat} {s u : State}

/-- What changes each MOVE, but neither its number nor its PC, keeps it. -/
theorem of_moves (h : s.HasMove c serial pc) (g : MoveRun → MoveRun) (number : ∀ m, (g m).serial = m.serial)
    (at_ : ∀ m, (g m).pc = m.pc) (moves : (u.channel c).moves = (s.channel c).moves.map g) : u.HasMove c serial pc := by
  obtain ⟨v, mem, same, here⟩ := h
  exact ⟨g v, moves ▸ List.mem_map_of_mem mem, (number v).trans same, (at_ v).trans here⟩

theorem of_channel (h : s.HasMove c serial pc) (moves : (u.channel c).moves = (s.channel c).moves) : u.HasMove c serial pc :=
  h.of_moves id (fun _ => rfl) (fun _ => rfl) (moves.trans (List.map_id _).symm)

theorem of_channels (h : s.HasMove c serial pc) (same : u.channels = s.channels := by rfl) : u.HasMove c serial pc :=
  h.of_channel (congrArg (fun l => (Tab.get (fun _ => Channel.reset) l c).moves) same)

theorem updChannel (h : s.HasMove c serial pc) {f : Channel → Channel} (moves : ∀ x, (f x).moves = x.moves := by intro; rfl) :
    (s.updChannel c f).HasMove c serial pc :=
  h.of_channel ((congrArg Channel.moves (s.channel_updChannel_same c f)).trans (moves _))

theorem updMove (h : s.HasMove c serial pc) (k : Nat) {g : MoveRun → MoveRun} (number : ∀ m, (g m).serial = m.serial := by intro; rfl)
    (at_ : ∀ m, (g m).pc = m.pc := by intro; rfl) : (s.updMove c k g).HasMove c serial pc := by
  refine h.of_moves (fun m => if m.serial = k then g m else m) (fun m => ?_) (fun m => ?_)
    (congrArg Channel.moves (s.channel_updChannel_same c _))
  · split
    · exact number m
    · rfl
  · split
    · exact at_ m
    · rfl

theorem haltChannel (h : s.HasMove c serial pc) (st : BitVec 16) : (s.haltChannel c st).HasMove c serial pc := by
  by_cases active : (s.channel c).active
  · exact h.of_moves (fun m => { m with issued := true, ended := true }) (fun _ => rfl) (fun _ => rfl)
      (congrArg Channel.moves (State.channel_haltChannel_same active st))
  · exact (State.haltChannel_idle active st).symm ▸ h

theorem haltError (h : s.HasMove c serial pc) (st : BitVec 16) : (s.haltError c st).HasMove c serial pc := by
  by_cases active : (s.channel c).active
  · exact (h.haltChannel st).of_channels (State.channels_haltError active st)
  · rwa [State.haltError, if_pos (not_not.1 active)]

theorem settleFault (h : s.HasMove c serial pc) : (s.settleFault c).HasMove c serial pc := by
  refine h.of_channel ?_
  rw [State.channel_settleFault]
  split <;> rfl

theorem pageFault (h : s.HasMove c serial pc) (a : Nat) (dst : Bool) (k : Nat) : (s.pageFault c a dst k).HasMove c serial pc := by
  refine h.of_channel ?_
  rw [State.channel_pageFault]
  split <;> rfl

theorem refuseGranule (h : s.HasMove c serial pc) (k unit part : Nat) (st : BitVec 16) :
    (s.refuseGranule c k unit part st).HasMove c serial pc := by
  unfold State.refuseGranule
  split
  · split
    · exact h
    · exact h.updChannel.haltError st
  · exact h

theorem nextInstr (h : s.HasMove c serial pc) : (s.nextInstr c).HasMove c serial pc := by
  unfold State.nextInstr
  dsimp only
  split
  · exact h.of_channel (congrArg Channel.moves (s.channel_setChannel_same c (s.channel c).next) :)
  · exact h.haltError _

/-! ## Granules that land (R266) -/

theorem writeDest (h : s.HasMove c serial pc) (k unit part : Nat) (d : List Byte) (bad : Bool) (x : Dest) :
    (s.writeDest c k unit part d bad x).HasMove c serial pc := by
  cases x with
  | dram pa w o => exact h.of_channels (congrArg State.channels (State.regionWrite_eq ..) :)
  | pool a => exact h.of_channels (congrArg State.channels (State.writePool_eq ..) :)
  | spad b a =>
    unfold State.writeDest
    dsimp only
    split
    · exact h.of_channels (congrArg State.channels (State.writeSpad_eq ..) :)
    · exact h
  | host a o =>
    unfold State.writeDest
    dsimp only
    split
    · split
      · exact h.of_channels
      · exact h.of_channels
    · exact h
  | peer dev w i ep via =>
    unfold State.writeDest
    dsimp only
    split
    · exact (h.of_channels : (s.sendPeer via dev w i ep false bad d (.move c k unit part)).HasMove c serial pc).updMove k
    · exact h.refuseGranule k unit part _

theorem landUnit (h : s.HasMove c serial pc) (k : Nat) (u : MoveUnit) : (s.landUnit c k u).HasMove c serial pc := by
  have counted : (u.output.2.foldl (fun s n => s.updBlock (c / 16) fun x => { x with window := x.window.add n.1 n.2 }) s).HasMove
      c serial pc := foldl_keeps (State.HasMove c serial pc) _ (fun _ _ h => h.of_channels) _ s h
  refine foldl_keeps (State.HasMove c serial pc) _ (fun s x h => ?_) _ _ counted.of_channels
  exact foldl_keeps (State.HasMove c serial pc) _ (fun s d h => h.writeDest k u.index x.2 x.1.1.1 x.1.1.2 d) _ s h

theorem land (n : Nat) : ∀ {s : State}, s.HasMove c serial pc → (s.land c n).HasMove c serial pc := by
  induction n with
  | zero => exact fun h => h.settleFault
  | succ n ih =>
    intro s h
    unfold State.land
    split
    · split
      · exact ih ((h.updMove _).landUnit _ _)
      · exact h.settleFault
    · exact h.settleFault

/-! ## Granules that are issued (R259, R276) -/

theorem readEntries (h : s.HasMove c serial pc) (d : MoveSide) (a n : Nat) (f : MemFindings) :
    (s.readEntries d a n f).HasMove c serial pc := by
  have bad (u : State) (i : Nat) : u.ReadTouches (u.badEntry i) := by
    unfold State.badEntry
    exact .ite _ (.refl u) (.fault (.mem (.refl u) _) _)
  unfold State.readEntries
  split
  · exact foldl_keeps (State.HasMove c serial pc) _ (fun u i h => h.of_channel (congrArg Channel.moves ((bad u i).channel c))) _ s h
  · exact h

theorem grantUnit (h : s.HasMove c serial pc) (m : MoveOp) (a b : Int) (n : Nat) : (s.grantUnit c m a b n).HasMove c serial pc :=
  foldl_keeps (State.HasMove c serial pc) _ (fun _ _ h => h.of_channels) _ s h

theorem of_touches (h : s.HasMove c serial pc) (touches : s.ReadTouches u) : u.HasMove c serial pc :=
  h.of_channel (congrArg Channel.moves (touches.channel c))

theorem readSource (h : s.HasMove c serial pc) (k unit part : Nat) (d : MoveSide) (f : MemFindings) (hit : Bool) (x : Dest) :
    (s.readSource c k unit part d f hit x).2.HasMove c serial pc := by
  cases x with
  | dram pa w via => exact h.of_touches (.regionRead ..)
  | pool a => exact h.of_channels (State.channels_readPoolLine ..)
  | spad b a =>
    have read := h.of_channels (State.KeepsThreads.readLine b (a / 64) f (s.channel c).reader).channels
    unfold State.readSource
    dsimp only
    split
    · exact read.of_channels (State.channels_dmaCollision ..)
    · exact read
  | host a via =>
    unfold State.readSource
    dsimp only
    split
    · exact h.of_channels
    · exact h
  | peer dev w i ep via => exact h.of_channels

theorem readUnitData (h : s.HasMove c serial pc) (k : Nat) (m : MoveOp) (i need : Nat) (f : MemFindings) (src : List Dest) :
    (s.readUnitData c k m i need f src).2.HasMove c serial pc := by
  refine foldl_snd_keeps (State.HasMove c serial pc) _ (fun acc d h => ?_) _ _ h
  have read := (h.of_touches (.transit f (i * need + d.2) (acc.2.channelReader c))).readSource k i d.2 m.src f
    (acc.2.transit f (i * need + d.2) (acc.2.channelReader c)).1 d.1
  dsimp only
  split
  · exact read
  · exact read

theorem issueUnit (h : s.HasMove c serial pc) (k : Nat) (m : MoveOp) (dims : List Nat) (i : Nat) (f : MemFindings) :
    (s.issueUnit c k m dims i f).2.HasMove c serial pc := by
  have met (a b : Nat) := (h.readEntries m.src a (if m.codec = 0 then 1 else m.srcRow / 64) f).readEntries m.dst b
    (if m.codec = 0 then 1 else m.dstRow / 64) f
  unfold State.issueUnit
  dsimp only
  split
  · split
    · exact (met _ _).updChannel.pageFault _ _ _
    · exact (met _ _).refuseGranule _ _ _ _
    · exact met _ _
  · split
    · split
      · exact (met _ _).updChannel.pageFault _ _ _
      · exact (met _ _).refuseGranule _ _ _ _
      · exact met _ _
    · exact (((met _ _).grantUnit _ _ _ _).readUnitData _ _ _ _ _ _ |>.updMove k).land _

theorem issueFrom (h : s.HasMove c serial pc) (k : Nat) (m : MoveOp) (dims : List Nat) (i : Nat) (f : MemFindings) :
    (s.issueFrom c k m dims i f).HasMove c serial pc := by
  have issued : ((List.range (m.rows * m.perRow - i)).foldl
      (fun acc j => if acc.1 then acc.2.issueUnit c k m dims (i + j) f else acc) (true, s)).2.HasMove c serial pc := by
    refine foldl_snd_keeps (State.HasMove c serial pc) _ (fun acc j h => ?_) _ _ h
    split
    · exact h.issueUnit k m dims (i + j) f
    · exact h
  unfold State.issueFrom
  dsimp only
  split
  · exact ((issued.updMove k).updChannel).nextInstr
  · exact issued

end State.HasMove

end Sys2Proof.Machine
end

section
/-!
PROOFS. O32: a MOVE that fails a check, one that waits, one that is issued and one that completes; and the copy of one granule within a
scratchpad.
-/

namespace Sys2Proof.Machine

open Sys2Proof

/-! ## A MOVE at PC (R259, R267, R271) -/

/-- What a MOVE at PC does. -/
def State.moveAt (s : State) (c : Nat) (x : Channel) (i : List Byte) (f : MemFindings) : State :=
  if 64 ≤ le i 2 1 then s.haltError c Code.notPermitted
  else match x.shapeCache.find? fun e => e.1 == le i 2 1 with
    | some e =>
      if x.resume.isSome then s.onlyIf (s.moveServed i) fun s => s.startMove c x i e.2 f
      else match s.moveCheck c x i e.2 with
        | some status => s.haltError c status
        | none => if s.moveReady c i then s.onlyIf (s.moveServed i) fun s => s.startMove c x i e.2 f else s.waitRing c x i
    | none => s

theorem State.Executes.exec_move {s : State} {c : Fin 1024} {i : List Byte} (h : s.Executes c i) (op : opOf i = 1) (t : Time)
    (f : MemFindings) : exec (.move t c f) s = .next ((s.begin t).moveAt c (s.channel c) i f) :=
  h.atInstr t (p := fun _ i => opOf i == 1) (by simp [op]) fun s x i => s.moveAt c x i f

section
variable {s : State} {c : Nat} {x : Channel} {i : List Byte} {f : MemFindings}

theorem State.moveAt_unknown (unknown : 64 ≤ le i 2 1) : s.moveAt c x i f = s.haltError c Code.notPermitted := if_pos unknown

variable (known : le i 2 1 < 64) {e : Nat × List Byte} (cached : x.shapeCache.find? (fun e => e.1 == le i 2 1) = some e)
  (fresh : x.resume = none)
include known cached fresh

theorem State.moveAt_cached : s.moveAt c x i f = match s.moveCheck c x i e.2 with
    | some status => s.haltError c status
    | none => if s.moveReady c i then s.onlyIf (s.moveServed i) fun s => s.startMove c x i e.2 f else s.waitRing c x i := by
  rw [State.moveAt, if_neg (by omega), cached]
  exact if_neg (by simp [fresh])

theorem State.moveAt_fails {st : BitVec 16} (fails : s.moveCheck c x i e.2 = some st) : s.moveAt c x i f = s.haltError c st := by
  rw [State.moveAt_cached known cached fresh, fails]

variable (passes : s.moveCheck c x i e.2 = none)
include passes

theorem State.moveAt_waits (waits : s.moveReady c i = false) : s.moveAt c x i f = s.waitRing c x i := by
  rw [State.moveAt_cached known cached fresh, passes]
  exact if_neg (by simp [waits])

variable (goes : s.moveReady c i = true)
include goes

theorem State.moveAt_starts (served : s.moveServed i = true) : s.moveAt c x i f = s.startMove c x i e.2 f := by
  rw [State.moveAt_cached known cached fresh, passes]
  exact (if_pos goes).trans (if_pos served)

theorem State.moveAt_unserved (away : s.moveServed i = false) : s.moveAt c x i f = s := by
  rw [State.moveAt_cached known cached fresh, passes]
  exact (if_pos goes).trans (if_neg (by simp [away]))

end

/-- The MOVE that starts. -/
def Channel.newMove (x : Channel) (m : MoveOp) : MoveRun :=
  { serial := x.serial, pc := x.pc, units := [], unacked := 0, issued := false, dims := m.perRow :: m.counts, ended := false }

/-- Its channel once it has started. -/
def Channel.withMove (x : Channel) (m : MoveOp) : Channel :=
  { x with moves := x.moves ++ [x.newMove m], serial := x.serial + 1, position := 0 }

theorem State.startMove_fresh {s : State} {c : Nat} {x : Channel} {i sh : List Byte} {f : MemFindings} (fresh : x.resume = none) :
    s.startMove c x i sh f = (s.setChannel c (x.withMove (moveOf i sh))).issueFrom c x.serial (moveOf i sh)
      ((moveOf i sh).perRow :: (moveOf i sh).counts) 0 f := by
  unfold State.startMove
  dsimp only
  split
  · next resumed _ => exact absurd (fresh.symm.trans resumed) (by simp)
  · rfl

/-- A MOVE that starts stands among its channel's under the next number. -/
theorem State.HasMove.startMove {s : State} {c : Nat} {x : Channel} {i sh : List Byte} {f : MemFindings} (fresh : x.resume = none) :
    (s.startMove c x i sh f).HasMove c x.serial x.pc := by
  rw [State.startMove_fresh fresh]
  refine .issueFrom ⟨x.newMove (moveOf i sh), ?_, rfl, rfl⟩ ..
  rw [State.channel_setChannel_same]
  exact List.mem_append_right _ (List.mem_singleton.2 rfl)

/-! ## MOVE_COMPLETE (R266) -/

/-- With no granule under way and no fault due, nothing lands. -/
theorem State.land_none {s : State} {c : Nat} (none_ : (s.channel c).moves.all (fun m => m.units.isEmpty) = true)
    (due : (s.channel c).faultDue = false) : s.land c (s.channel c).underWay = s := by
  have empty : (s.channel c).underWay = 0 := by
    unfold Channel.underWay
    rw [List.sum_eq_zero_iff]
    simpa using none_
  rw [empty]
  exact State.settleFault_idle due

theorem exec_moveComplete {s : State} (ready : s.phase = .ready) (t : Time) {c : Fin 1024} {v : MoveRun}
    (none_ : (s.channel c).moves.all (fun m => m.units.isEmpty) = true) (due : (s.channel c).faultDue = false)
    (oldest : (s.channel c).moves.find? (fun m => m.issued && m.units.isEmpty && m.unacked == 0) = some v) :
    exec (.moveComplete t c) s = .next ((s.begin t).updChannel c fun x =>
      { x with moves := x.moves.filter fun m => m.serial != v.serial }) := by
  have found : ((s.begin t).channel c).moves.find? (fun m => m.issued && m.units.isEmpty && m.unacked == 0) = some v := oldest
  change execMoveComplete t c s = _
  rw [execMoveComplete, whenReady_ready t _ s ready]
  dsimp only
  rw [State.land_none (s := s.begin t) none_ due, found]

/-! ## A granule copied within a scratchpad -/

/-- A MOVE of one granule from scratchpad to scratchpad of its own block, with no codec. -/
structure MoveOp.CopiesLine (m : MoveOp) : Prop where
  codec : m.codec = 0
  len0 : m.len0 = 64
  counts : m.counts = [1, 1, 1]
  src : m.src.space = 2
  dst : m.dst.space = 2
  mask : m.mask = 0

theorem MoveOp.CopiesLine.perRow {m : MoveOp} (h : m.CopiesLine) : m.perRow = 1 := by simp [MoveOp.perRow, h.codec, h.len0]
theorem MoveOp.CopiesLine.rows {m : MoveOp} (h : m.CopiesLine) : m.rows = 1 := by simp [MoveOp.rows, h.counts]

/-- The scratchpad address of a side's first row, from the working base of the context's thread on (R253). -/
def State.lineAt (s : State) (c : Nat) (m : MoveOp) (d : MoveSide) (dst : Bool) : Nat :=
  64 * ((s.contextThread c (c / 16)).map fun t => t.workBase).getD 0
    + (d.rowAt m.counts ((s.channel c).loopShift dst) 0).toNat

/-- Its unit once the granule has been read. -/
def lineUnit (m : MoveOp) (d : List Byte) (x : Dest) : MoveUnit :=
  { index := 0, need := 1, got := [(0, d, false)], codec := 0, cw := m.cw, len0 := m.len0, dsts := [[x]] }

section
variable (s : State) (c : Nat)

theorem State.readEntries_inside {d : MoveSide} (inside : d.space = 2) (a n : Nat) (f : MemFindings) : s.readEntries d a n f = s :=
  if_neg (by simp [inside])

theorem State.placeRun_one {d : MoveSide} (inside : d.space = 2) (b a : Nat) (dst : Bool) : s.placeRun c d [b] a 1 0 dst =
    .ok [[.spad b (64 * ((s.contextThread c b).map fun t => t.workBase).getD 0 + a)]] := by
  simp [State.placeRun, State.placeGranule, State.granuleOn, inside, List.range_one, Except.bind]

/-- A grant counts in a region. -/
theorem State.grantUnit_regions (m : MoveOp) (a b : Int) (n : Nat) : ∃ l, s.grantUnit c m a b n = { s with regions := l } := by
  refine foldl_keeps (fun u => ∃ l, u = { s with regions := l }) _ (fun u k counted => ?_) _ s ⟨s.regions, rfl⟩
  obtain ⟨l, rfl⟩ := counted
  exact ⟨_, rfl⟩

theorem State.readLine_clean {b l : Nat} (clean : s.lineBad b l = false) (r : Reader) :
    s.readLine b l .none r = ((s.spad.bytes (spadAddr b l) 64, false), s) := by
  rw [State.readLine, if_neg (by simp [clean])]
  rfl

theorem State.readSource_line {b a : Nat} (clean : s.lineBad b (a / 64) = false) (k unit part : Nat) (d : MoveSide) (hit : Bool) :
    s.readSource c k unit part d .none hit (.spad b a) = (some (s.spad.bytes (spadAddr b (a / 64)) 64, false), s) := by
  unfold State.readSource
  dsimp only
  rw [State.readLine_clean s clean]
  rfl

theorem State.readUnitData_line {b a : Nat} (clean : s.lineBad b (a / 64) = false) (k : Nat) (m : MoveOp) :
    s.readUnitData c k m 0 1 .none [.spad b a] = ([(0, s.spad.bytes (spadAddr b (a / 64)) 64, false)], s) := by
  have way (i : Nat) (r : Reader) : s.transit .none i r = (false, s) := rfl
  simp [State.readUnitData, way, State.readSource_line s c clean]

/-- The state in which the granule is granted. -/
def State.lineGranted (s : State) (c : Nat) (m : MoveOp) : State :=
  s.grantUnit c m (m.src.rowAt m.counts ((s.channel c).loopShift false) 0) (m.dst.rowAt m.counts ((s.channel c).loopShift true) 0) 1

/-- The MOVE's unit once the granule has been read. -/
def State.lineRead (s : State) (c : Nat) (m : MoveOp) : MoveUnit :=
  lineUnit m (s.spad.bytes (spadAddr (c / 16) (s.lineAt c m m.src false / 64)) 64) (.spad (c / 16) (s.lineAt c m m.dst true))

/-- The state in which it is under way. -/
def State.lineTaken (s : State) (c k : Nat) (m : MoveOp) : State :=
  (s.lineGranted c m).updMove c k fun v => { v with units := v.units ++ [s.lineRead c m] }

theorem State.lineGranted_regions (m : MoveOp) : ∃ l, s.lineGranted c m = { s with regions := l } := s.grantUnit_regions ..

theorem State.issueUnit_line {m : MoveOp} (h : m.CopiesLine) (k : Nat) (dims : List Nat)
    (clean : s.lineBad (c / 16) (s.lineAt c m m.src false / 64) = false) : s.issueUnit c k m dims 0 .none =
      let w := (s.lineTaken c k m).land c ((s.lineTaken c k m).channel c).underWay
      (decide ((w.channel c).state = .running), w) := by
  have own : s.targetBlocks c m.mask = [c / 16] := if_pos h.mask
  have flat (x : Dest) : [[x]].flatten = [x] := rfl
  have read : (s.lineGranted c m).readUnitData c k m 0 1 .none [.spad (c / 16) (s.lineAt c m m.src false)] =
      ([(0, s.spad.bytes (spadAddr (c / 16) (s.lineAt c m m.src false / 64)) 64, false)], s.lineGranted c m) := by
    obtain ⟨l, granted⟩ := s.lineGranted_regions c m
    rw [granted]
    exact State.readUnitData_line { s with regions := l } c clean k m
  unfold State.lineTaken State.lineRead
  unfold State.issueUnit
  unfold State.lineGranted State.lineAt at *
  simp only [h.perRow, h.codec, if_true, Nat.zero_div, Nat.zero_mod, Nat.mul_zero, Nat.cast_zero, add_zero,
    State.readEntries_inside _ h.src, State.readEntries_inside _ h.dst, own, State.placeRun_one _ _ h.src, State.placeRun_one _ _ h.dst,
    flat, read]
  rfl

end

theorem State.channel_updMove (s : State) (c k : Nat) (g : MoveRun → MoveRun) : (s.updMove c k g).channel c =
    { s.channel c with moves := (s.channel c).moves.map fun m => if m.serial = k then g m else m } :=
  s.channel_updChannel_same c _

/-- The unit lands as its one granule, clean. -/
theorem output_lineUnit (m : MoveOp) (d : List Byte) (x : Dest) : (lineUnit m d x).output = ([(d, false)], []) := by
  simp [MoveUnit.output, lineUnit]

theorem State.landUnit_line {s : State} {b : Nat} (takes : s.takesLines b = true) (c k a : Nat) (m : MoveOp) (d : List Byte) :
    s.landUnit c k (lineUnit m d (.spad b a)) = (s.countSluice c 3 0).writeSpad b a d false := by
  rw [State.landUnit, output_lineUnit]
  exact if_pos takes

theorem State.unitReady_line (s : State) (m : MoveOp) (d : List Byte) (b a : Nat) : s.unitReady (lineUnit m d (.spad b a)) = true := by
  simp [State.unitReady, lineUnit]

/-- A write of the scratchpad, and what the landing counts, leave the channels. -/
theorem State.channel_landed (s : State) (c b a n : Nat) (d : List Byte) :
    (((s.countSluice c 3 0).writeSpad b a d false).channel n) = s.channel n :=
  (congrArg (State.channel · n) (State.writeSpad_eq ..) :)

/-- The one unit of a channel's one MOVE leaves it as it lands. -/
def State.unitLeft (s : State) (c k : Nat) : State := s.updMove c k fun m => { m with units := m.units.drop 1 }

theorem State.land_line {s : State} {c b a : Nat} {v : MoveRun} {m : MoveOp} {d : List Byte} (moves : (s.channel c).moves = [v])
    (units : v.units = [lineUnit m d (.spad b a)]) (takes : s.takesLines b = true) (due : (s.channel c).faultDue = false) :
    s.land c (s.channel c).underWay = ((s.unitLeft c v.serial).countSluice c 3 0).writeSpad b a d false := by
  have one : (s.channel c).underWay = 1 := by simp [Channel.underWay, moves, units]
  have oldest : ((s.channel c).moves.findSome? fun m => m.units.head?.map fun u => (m.serial, u)) =
      some (v.serial, lineUnit m d (.spad b a)) := by simp [moves, units]
  have left : (s.unitLeft c v.serial).takesLines b = true := takes
  have settled : ((((s.unitLeft c v.serial).countSluice c 3 0).writeSpad b a d false).channel c).faultDue = false := by
    rw [State.channel_landed, State.unitLeft, State.channel_updMove]
    exact due
  rw [one, State.land, oldest]
  dsimp only
  rw [if_pos (s.unitReady_line m d b a)]
  change ((s.unitLeft c v.serial).landUnit c v.serial (lineUnit m d (.spad b a))).land c 0 = _
  rw [State.landUnit_line left]
  exact State.settleFault_idle settled

/-- The state in which the last granule of a MOVE has been issued. -/
def State.moveIssued (s : State) (c k : Nat) : State :=
  (s.updMove c k fun v => { v with issued := true }).updChannel c fun x => { x with resume := none, position := 0 }

/-- What the channel does then is written there alone. -/
theorem State.moveIssued_channels (s : State) (c k : Nat) (y : Channel) :
    ∃ l, (s.moveIssued c k).setChannel c y = { s with channels := l } := by
  unfold State.moveIssued State.updMove State.updChannel State.setChannel
  exact ⟨_, rfl⟩

/-- A MOVE of one unit that leaves its channel running is issued, and the channel goes on. -/
theorem State.issueFrom_line {s u : State} {c k : Nat} {m : MoveOp} {dims : List Nat} {f : MemFindings} (h : m.CopiesLine)
    (issued : s.issueUnit c k m dims 0 f = (true, u)) : s.issueFrom c k m dims 0 f = (u.moveIssued c k).nextInstr c := by
  have units : (List.range (m.rows * m.perRow - 0)).foldl
      (fun acc i => if acc.1 then acc.2.issueUnit c k m dims (0 + i) f else acc) (true, s) = (true, u) := by
    simp [h.rows, h.perRow, List.range_one, issued]
  unfold State.issueFrom
  dsimp only
  rw [units]
  rfl

/-- The state in which the granule is written. -/
def State.lineWritten (s : State) (c k : Nat) (m : MoveOp) : State :=
  (((s.lineTaken c k m).unitLeft c k).countSluice c 3 0).writeSpad (c / 16) (s.lineAt c m m.dst true)
    (s.spad.bytes (spadAddr (c / 16) (s.lineAt c m m.src false / 64)) 64) false

/-- What it writes of the memories. -/
theorem State.memories_lineWritten (s : State) (c k : Nat) (m : MoveOp) :
    (s.lineWritten c k m).spad = s.spad.put (spadAddr (c / 16) 0 + s.lineAt c m m.dst true)
      (s.spad.bytes (spadAddr (c / 16) (s.lineAt c m m.src false / 64)) 64) ∧
    (s.lineWritten c k m).mem = s.mem ∧ (s.lineWritten c k m).pool = s.pool := by
  obtain ⟨l, granted⟩ := s.lineGranted_regions c m
  have before : ((s.lineTaken c k m).unitLeft c k).countSluice c 3 0 = { s with
      regions := (((s.lineTaken c k m).unitLeft c k).countSluice c 3 0).regions
      channels := (((s.lineTaken c k m).unitLeft c k).countSluice c 3 0).channels } := by
    unfold State.lineTaken
    rw [granted]
    rfl
  unfold State.lineWritten
  refine ⟨?_, ?_, ?_⟩
  · rw [State.spad_writeSpad]
    exact congrArg (Memory.put · _ _) (congrArg State.spad before :)
  · exact (State.mem_writeSpad ..).trans (congrArg State.mem before :)
  · exact (State.pool_writeSpad ..).trans (congrArg State.pool before :)

section
variable {s : State} {c : Nat} {m : MoveOp} {v : MoveRun} (h : m.CopiesLine) (moves : (s.channel c).moves = [v])
  (units : v.units = [])
include moves units

theorem State.channel_lineTaken : (s.lineTaken c v.serial m).channel c =
    { s.channel c with moves := [{ v with units := [s.lineRead c m] }] } := by
  have same : (s.lineGranted c m).channel c = s.channel c := by
    obtain ⟨l, granted⟩ := s.lineGranted_regions c m
    rw [granted]
    rfl
  rw [State.lineTaken, State.channel_updMove, same, moves]
  simp [units]

theorem State.channel_lineWritten : (s.lineWritten c v.serial m).channel c = s.channel c := by
  have taken := State.channel_lineTaken (m := m) moves units
  rw [State.lineWritten, State.channel_landed, State.unitLeft, State.channel_updMove, taken]
  simp [← moves, ← units]

variable (clean : s.lineBad (c / 16) (s.lineAt c m m.src false / 64) = false) (takes : s.takesLines (c / 16) = true)
  (running : (s.channel c).state = .running) (due : (s.channel c).faultDue = false)
include h clean takes running due

/-- Its unit reads the granule and lands at once. -/
theorem State.issueUnit_copies (dims : List Nat) :
    s.issueUnit c v.serial m dims 0 .none = (true, s.lineWritten c v.serial m) := by
  have taken := State.channel_lineTaken (m := m) moves units
  have accepts : (s.lineTaken c v.serial m).takesLines (c / 16) = true := by
    obtain ⟨l, granted⟩ := s.lineGranted_regions c m
    rw [State.lineTaken, granted]
    exact takes
  have landed : (s.lineTaken c v.serial m).land c ((s.lineTaken c v.serial m).channel c).underWay = s.lineWritten c v.serial m :=
    State.land_line (v := { v with units := [s.lineRead c m] }) (congrArg Channel.moves taken) rfl accepts
      ((congrArg Channel.faultDue taken).trans due)
  rw [State.issueUnit_line s c h v.serial dims clean]
  dsimp only
  rw [landed, State.channel_lineWritten moves units, running]
  rfl

/-- It is issued, and its channel goes on. -/
theorem State.issueFrom_copies (dims : List Nat) (more : (s.channel c).pc < 65535) :
    let u := s.issueFrom c v.serial m dims 0 .none
    u.channel c = { s.channel c with moves := [{ v with issued := true }], resume := none, position := 0 }.next ∧
      u.spad = s.spad.put (spadAddr (c / 16) 0 + s.lineAt c m m.dst true)
        (s.spad.bytes (spadAddr (c / 16) (s.lineAt c m m.src false / 64)) 64) ∧ u.mem = s.mem ∧ u.pool = s.pool := by
  obtain ⟨spad, mem, pool⟩ := s.memories_lineWritten c v.serial m
  have own : ((s.lineWritten c v.serial m).moveIssued c v.serial).channel c =
      { s.channel c with moves := [{ v with issued := true }], resume := none, position := 0 } := by
    rw [State.moveIssued, State.channel_updChannel_same, State.channel_updMove, State.channel_lineWritten moves units, moves]
    simp
  rw [State.issueFrom_line h (State.issueUnit_copies h moves units clean takes running due dims)]
  generalize s.lineWritten c v.serial m = w at spad mem pool own
  rw [State.nextInstr_next (by rw [own]; exact more), own]
  obtain ⟨l, only⟩ := w.moveIssued_channels c v.serial
    { s.channel c with moves := [{ v with issued := true }], resume := none, position := 0 }.next
  refine ⟨State.channel_setChannel_same .., ?_, ?_, ?_⟩
  · exact (congrArg State.spad only :).trans spad
  · exact (congrArg State.mem only :).trans mem
  · exact (congrArg State.pool only :).trans pool

end

/-- A channel whose one MOVE has been issued, as it goes on. -/
def Channel.afterMove (x : Channel) (m : MoveOp) : Channel :=
  { x.withMove m with moves := [{ x.newMove m with issued := true }], resume := none, position := 0 }.next

theorem State.lineAt_withMove (s : State) (c : Nat) (m : MoveOp) (d : MoveSide) (dst : Bool) :
    (s.setChannel c ((s.channel c).withMove m)).lineAt c m d dst = s.lineAt c m d dst := by
  unfold State.lineAt State.contextThread
  rw [State.channel_setChannel_same]
  rfl

/-- A MOVE of one granule within the own scratchpad copies it and goes on. -/
theorem State.startMove_copies {s : State} {c : Nat} {i sh : List Byte} (h : (moveOf i sh).CopiesLine)
    (fresh : (s.channel c).resume = none) (moves : (s.channel c).moves = []) (more : (s.channel c).pc < 65535)
    (running : (s.channel c).state = .running) (due : (s.channel c).faultDue = false) (takes : s.takesLines (c / 16) = true)
    (clean : s.lineBad (c / 16) (s.lineAt c (moveOf i sh) (moveOf i sh).src false / 64) = false) :
    let u := s.startMove c (s.channel c) i sh .none
    u.channel c = (s.channel c).afterMove (moveOf i sh) ∧
      u.spad = s.spad.put (spadAddr (c / 16) 0 + s.lineAt c (moveOf i sh) (moveOf i sh).dst true)
        (s.spad.bytes (spadAddr (c / 16) (s.lineAt c (moveOf i sh) (moveOf i sh).src false / 64)) 64) ∧
      u.mem = s.mem ∧ u.pool = s.pool := by
  have own : (s.setChannel c ((s.channel c).withMove (moveOf i sh))).channel c = (s.channel c).withMove (moveOf i sh) :=
    State.channel_setChannel_same ..
  have one : ((s.setChannel c ((s.channel c).withMove (moveOf i sh))).channel c).moves = [(s.channel c).newMove (moveOf i sh)] := by
    rw [own, Channel.withMove, moves]
    rfl
  have copies := State.issueFrom_copies h one rfl (by rwa [State.lineAt_withMove]) takes ((congrArg Channel.state own).trans running)
    ((congrArg Channel.faultDue own).trans due) ((moveOf i sh).perRow :: (moveOf i sh).counts)
    (by rw [own]; exact more)
  rw [own, State.lineAt_withMove, State.lineAt_withMove] at copies
  rw [State.startMove_fresh fresh]
  exact copies

/-- It waits neither on rings nor on DRAM. -/
theorem State.moveReady_line {i sh : List Byte} (h : (moveOf i sh).CopiesLine) (s : State) (c : Nat) :
    s.moveReady c i = true ∧ s.moveServed i = true := by
  have src : fld 7 6 (le i 1 1) = 2 := h.src
  have dst : fld 5 4 (le i 1 1) = 2 := h.dst
  simp [State.moveReady, State.moveServed, src, dst]

theorem spadAddr_line {b a : Nat} (aligned : a % 64 = 0) : spadAddr b (a / 64) = spadAddr b 0 + a := by
  unfold spadAddr
  omega

/-- Settles O32: a MOVE that starts is issued unit by unit, each of which keeps it among its channel's MOVEs; one of a single granule
is followed to its write. -/
theorem movesIssueAndComplete : Obligations.MovesIssueAndComplete := by
  unfold Obligations.MovesIssueAndComplete
  refine ⟨fun s t c f i ready live running due instr op => ?move, fun s t c v ready landed due oldest => ?completes⟩
  case completes =>
    exact ⟨_, exec_moveComplete ready t landed due oldest, rfl, State.channel_updChannel_same ..,
      fun n other => State.channel_updChannel_other _ _ _ n other⟩
  case move =>
    have here : s.Executes c i := ⟨ready, live, running, due, instr⟩
    have next := here.exec_move op t f
    have active : ((s.begin t).channel c).active := here.active
    refine ⟨fun unknown => ?unknown, fun e known cached fresh => ⟨fun st fails => ?fails, fun passes waits => ?waits,
      fun passes goes served => ?issued, fun passes goes away => ?away, fun passes clean takes moves more => ?copies⟩⟩
    case unknown =>
      rw [State.moveAt_unknown unknown] at next
      have own := State.channel_haltError_same active Code.notPermitted
      exact ⟨_, next, congrArg Channel.state own, congrArg Channel.status own⟩
    case fails =>
      rw [State.moveAt_fails known cached fresh fails] at next
      have own := State.channel_haltError_same active st
      exact ⟨_, next, congrArg Channel.state own, congrArg Channel.status own, (congrArg Channel.pc own :)⟩
    case waits =>
      rw [State.moveAt_waits known cached fresh passes waits] at next
      have own := (s.begin t).channel_setChannel_same c
      exact ⟨_, next, rfl, congrArg Channel.state (own _), congrArg Channel.waitKind (own _), (congrArg Channel.pc (own _) :)⟩
    case issued =>
      rw [State.moveAt_starts known cached fresh passes goes served] at next
      obtain ⟨v, stands, serial, pc⟩ := State.HasMove.startMove (s := s.begin t) (c := c) (i := i) (sh := e.2) (f := f) fresh
      exact ⟨_, v, next, stands, serial, pc⟩
    case away =>
      rw [State.moveAt_unserved known cached fresh passes goes away] at next
      exact next
    case copies =>
      intro m codec len0 counts src dst mask base from_ to_ fromAligned toAligned good
      subst clean
      have line : (moveOf i e.2).CopiesLine := ⟨codec, len0, counts, src, dst, mask⟩
      obtain ⟨goes, served⟩ := State.moveReady_line line (s.begin t) c
      rw [State.moveAt_starts known cached fresh passes goes served] at next
      obtain ⟨own, spad, mem, pool⟩ := State.startMove_copies (s := s.begin t) (c := c) line fresh moves more running due takes good
      have length := Memory.length_bytes s.spad (spadAddr (c.val / 16) 0 + from_) 64
      have written : ((s.begin t).startMove c (s.channel c) i e.2 .none).spad =
          s.spad.put (spadAddr (c.val / 16) 0 + to_) (s.spad.bytes (spadAddr (c.val / 16) 0 + from_) 64) := by
        rw [← spadAddr_line fromAligned]
        exact spad
      refine ⟨_, _, next, congrArg Channel.pc own, congrArg Channel.moves own, rfl, rfl, ?_, fun a out => ?_, mem, pool⟩
      · have copied := Memory.bytes_put (s.spad.bytes (spadAddr (c.val / 16) 0 + from_) 64) s.spad (spadAddr (c.val / 16) 0 + to_)
        rw [length] at copied
        rw [written, copied]
      · rw [written]
        exact Memory.read_put_other _ _ _ _ (by rwa [length])

end Sys2Proof.Machine
end

section
/-!
PROOFS. O34: the patrol scrubber, the stacks' temperatures and the end of zeroing.
-/

namespace Sys2Proof.Machine

open Sys2Proof

theorem mem_insertAsc (k : Nat) : ∀ l : List Nat, k ∈ insertAsc k l
  | [] => List.mem_singleton_self k
  | j :: t => by
    unfold insertAsc
    split
    · exact List.mem_cons_self
    · split
      · next same => exact same ▸ List.mem_cons_self
      · exact List.mem_cons_of_mem j (mem_insertAsc k t)

/-! ## Counters of the stacks (R295) -/

theorem State.dramStack_countMem_same (s : State) (k w : Nat) :
    (s.countMem k w).dramStack k = { s.dramStack k with counters := (s.dramStack k).counters.bump w } :=
  State.dramStack_setDramStack_same ..

theorem State.dramStack_countMem_other (s : State) (w : Nat) {j k : Nat} (other : j ≠ k) : (s.countMem k w).dramStack j = s.dramStack j :=
  State.dramStack_setDramStack_other _ _ _ j other

/-- Two stacks that differ at most in counter word `w`. -/
structure Stack.CountsOnly (w : Nat) (x y : Stack) : Prop where
  only : y = { x with counters := y.counters }
  others : ∀ v, v ≠ w → y.counters.get v = x.counters.get v

theorem Stack.CountsOnly.refl (w : Nat) (x : Stack) : x.CountsOnly w x := ⟨rfl, fun _ _ => rfl⟩

theorem Stack.CountsOnly.trans {w : Nat} {x y z : Stack} (h : x.CountsOnly w y) (g : y.CountsOnly w z) : x.CountsOnly w z where
  only := by rw [g.only, h.only]
  others v other := (g.others v other).trans (h.others v other)

theorem State.countsOnly_countMem (s : State) (j k w : Nat) : (s.dramStack j).CountsOnly w ((s.countMem k w).dramStack j) := by
  by_cases same : j = k
  · rw [same, State.dramStack_countMem_same]
    exact ⟨rfl, fun v other => Counters.get_add_other _ _ _ _ other⟩
  · rw [State.dramStack_countMem_other s w same]
    exact .refl w _

/-- From `s` to `u` bytes and poison of DRAM stay, and the stacks change in their count of passes alone. -/
structure State.CountsPass (s u : State) : Prop where
  dram : u.mem.dram = s.mem.dram
  poison : u.mem.poison = s.mem.poison
  stack : ∀ j, (s.dramStack j).CountsOnly 5 (u.dramStack j)

namespace State.CountsPass
variable {s u v : State}

theorem refl (s : State) : s.CountsPass s := ⟨rfl, rfl, fun _ => .refl 5 _⟩

theorem ite (p : Prop) [Decidable p] (h : s.CountsPass u) (g : s.CountsPass v) : s.CountsPass (if p then u else v) := by
  split
  · exact h
  · exact g

theorem countMem (h : s.CountsPass u) (k : Nat) : s.CountsPass (u.countMem k 5) :=
  ⟨h.dram, h.poison, fun j => (h.stack j).trans (u.countsOnly_countMem j k 5)⟩

theorem mem (h : s.CountsPass u) (m : MemSys) (dram : m.dram = u.mem.dram := by rfl) (poison : m.poison = u.mem.poison := by rfl)
    (table : m.dramStacks = u.mem.dramStacks := by rfl) : s.CountsPass { u with mem := m } where
  dram := dram.trans h.dram
  poison := poison.trans h.poison
  stack j := by
    have same : State.dramStack { u with mem := m } j = u.dramStack j := congrArg (Tab.get (fun _ => Stack.reset) · j) table
    exact same ▸ h.stack j

end State.CountsPass

/-! ## What a read does to its granule (R289 to R291) -/

section
variable (s : State) (g : Nat) (r : Reader)

theorem State.dram_correctGranule : (s.correctGranule g r).mem.dram = s.mem.dram := by
  unfold State.correctGranule
  dsimp only
  split <;> split <;> simp

theorem State.poison_correctGranule : (s.correctGranule g r).mem.poison = s.mem.poison := by
  unfold State.correctGranule
  dsimp only
  split <;> split <;> simp [State.countMem]

/-- The memory system as an uncorrectable granule leaves it; the record is no part of it. -/
theorem State.mem_poisonGranule : (s.poisonGranule g r).mem =
    let k := s.mem.stackOf (64 * g)
    let u := (s.countMem k 1).countMem k 2
    { (u.setDramStack k { u.dramStack k with lastPoison := BitVec.ofNat 35 (64 * g) }).mem with poison := insertAsc g s.mem.poison } :=
  State.mem_fault ..

theorem State.dram_poisonGranule : (s.poisonGranule g r).mem.dram = s.mem.dram :=
  (congrArg MemSys.dram (s.mem_poisonGranule g r) :)

theorem State.poison_poisonGranule : (s.poisonGranule g r).mem.poison = insertAsc g s.mem.poison :=
  (congrArg MemSys.poison (s.mem_poisonGranule g r) :)

theorem State.dramStack_poisonGranule : (s.poisonGranule g r).dramStack (s.mem.stackOf (64 * g)) =
    let x := s.dramStack (s.mem.stackOf (64 * g))
    { x with counters := (x.counters.bump 1).bump 2, lastPoison := BitVec.ofNat 35 (64 * g) } := by
  have whole : (s.poisonGranule g r).dramStack (s.mem.stackOf (64 * g)) = _ :=
    congrArg (fun m : MemSys => Tab.get (fun _ => Stack.reset) m.dramStacks (s.mem.stackOf (64 * g))) (s.mem_poisonGranule g r)
  refine whole.trans ((State.dramStack_setDramStack_same ..).trans ?_)
  rw [State.dramStack_countMem_same, State.dramStack_countMem_same]

end

/-! ## SCRUB_READ (R292) -/

/-- What the scrubber's read does to granule `g`. -/
def State.scrubFinds (s : State) (g : Nat) (f : ScrubFinding) : State :=
  if s.mem.poison.contains g then s else match f with
    | .clean => s
    | .correctable => s.correctGranule g .nobody
    | .uncorrectable => s.poisonGranule g .nobody
    | .wrong reported d => if reported then (s.wrongGranule g d).correctGranule g .nobody else s.wrongGranule g d

/-- The scrubber of stack `k` goes on past granule `g`. -/
def State.scrubPast (s : State) (g k : Nat) : State :=
  let s := s.setDramStack k { s.dramStack k with scrubPos := 4 * (g / 4096) }
  let s := if g % 4096 = 4095 then
      { s with mem := { s.mem with pageCe := Tab.set (fun _ => 0) s.mem.pageCe (g / 4096) 0 } }
    else s
  let s := if g + 1 = dramGranules then
      let s := { s with mem := { s.mem with passHours := BitVec.ofNat 8 (bits 15 8 s.mem.config) } }
      (s.countMem 0 5).countMem 1 5
    else s
  { s with mem := { s.mem with scrubNext := (g + 1) % dramGranules } }

theorem exec_scrubRead {s : State} (ready : s.phase = .ready) (serves : s.dramServes = true) (t : Time) (f : ScrubFinding) :
    exec (.scrubRead t f) s =
      .next (((s.begin t).scrubFinds s.mem.scrubNext f).scrubPast s.mem.scrubNext (s.mem.stackOf (64 * s.mem.scrubNext))) := by
  have same : (s.begin t).dramServes = true := serves
  change execScrubRead t f s = _
  rw [execScrubRead, whenReady_ready t _ s ready, same, State.onlyIf_true]
  rfl

section
variable (s : State) (g k : Nat)

theorem State.ReadTouches.scrubPast : s.ReadTouches (s.scrubPast g k) := by
  have shown : s.ReadTouches (s.setDramStack k { s.dramStack k with scrubPos := 4 * (g / 4096) }) := .mem (.refl s) _
  exact .mem (.ite _ (.countMem (.countMem (.mem (.ite _ (.mem shown _) shown) _) _ _) _ _) (.ite _ (.mem shown _) shown)) _

/-- Its stack shows the page it is in; the end of a pass counts besides. -/
theorem State.CountsPass.scrubPast :
    (s.setDramStack k { s.dramStack k with scrubPos := 4 * (g / 4096) }).CountsPass (s.scrubPast g k) := by
  have shown := State.CountsPass.refl (s.setDramStack k { s.dramStack k with scrubPos := 4 * (g / 4096) })
  exact .mem (.ite _ (.countMem (.countMem (.mem (.ite _ (.mem shown _) shown) _) _) _) (.ite _ (.mem shown _) shown)) _

end

theorem State.scrubFinds_poisoned {s : State} {g : Nat} (bad : s.mem.poison.contains g = true) (f : ScrubFinding) :
    s.scrubFinds g f = s := if_pos bad

theorem State.scrubFinds_uncorrectable {s : State} {g : Nat} (good : s.mem.poison.contains g = false) :
    s.scrubFinds g .uncorrectable = s.poisonGranule g .nobody := if_neg (Bool.eq_false_iff.1 good)

section
variable (s : State) (g : Nat) (f : ScrubFinding)

theorem State.ReadTouches.scrubFinds : s.ReadTouches (s.scrubFinds g f) := by
  unfold State.scrubFinds
  refine .ite _ (.refl s) ?_
  cases f with
  | clean => exact .refl s
  | correctable => exact .correctGranule g .nobody
  | uncorrectable => exact .poisonGranule g .nobody
  | wrong reported d =>
    have wrong : s.ReadTouches (s.wrongGranule g d) := .mem (.refl s) _
    exact .ite _ (wrong.trans (.correctGranule g .nobody)) wrong

/-- The bytes of DRAM change by an error in three or more symbols alone, within its granule. -/
theorem State.dram_scrubFinds : (s.scrubFinds g f).mem.dram = s.mem.dram ∨ s.mem.poison.contains g = false ∧
    ∃ r d, f = .wrong r d ∧ (s.scrubFinds g f).mem.dram = (s.wrongGranule g d).mem.dram := by
  by_cases bad : s.mem.poison.contains g = true
  · exact .inl (congrArg (fun u : State => u.mem.dram) (State.scrubFinds_poisoned bad f))
  · unfold State.scrubFinds
    rw [if_neg bad]
    cases f with
    | clean => exact .inl rfl
    | correctable => exact .inl (s.dram_correctGranule g .nobody)
    | uncorrectable => exact .inl (s.dram_poisonGranule g .nobody)
    | wrong reported d =>
      refine .inr ⟨Bool.eq_false_iff.2 bad, reported, d, rfl, ?_⟩
      cases reported with
      | false => rfl
      | true => exact State.dram_correctGranule _ g .nobody

theorem State.read_wrongGranule_other (d : List Byte) {a : Nat} (out : a / 64 ≠ g) :
    (s.wrongGranule g d).mem.dram.read a = s.mem.dram.read a := by
  refine Memory.read_put_other _ _ _ _ ?_
  have length : ((d ++ zeros 64).take 64).length = 64 := by simp [zeros]
  rw [length]
  omega

theorem State.read_scrubFinds_other {a : Nat} (out : a / 64 ≠ g) : (s.scrubFinds g f).mem.dram.read a = s.mem.dram.read a := by
  obtain same | ⟨-, r, d, -, wrong⟩ := s.dram_scrubFinds g f
  · rw [same]
  · rw [wrong, s.read_wrongGranule_other g d out]

theorem State.poison_scrubFinds (other : s.mem.poison.contains g = true ∨ f ≠ .uncorrectable) :
    (s.scrubFinds g f).mem.poison = s.mem.poison := by
  by_cases bad : s.mem.poison.contains g = true
  · rw [State.scrubFinds_poisoned bad]
  · unfold State.scrubFinds
    rw [if_neg bad]
    cases f with
    | clean => rfl
    | correctable => exact s.poison_correctGranule g .nobody
    | uncorrectable => exact absurd rfl (other.resolve_left bad)
    | wrong reported d =>
      cases reported with
      | false => rfl
      | true => exact State.poison_correctGranule _ g .nobody

end

/-! ## The end of zeroing (R288) -/

/-- An ACK that an access has held back leaves, where its port sends. -/
def State.sendCloseAck (s : State) (p : Packet) : State :=
  s.onlyIf (s.ethOf p.port).sends fun s => s.send ((s.ethOf p.port).packetOut { p with time := s.time })

/-- What leaves of such ACKs. -/
def State.closeAcksOut (s : State) (l : List Packet) : List Output :=
  (l.filter fun p => (s.ethOf p.port).sends).map fun p => (s.ethOf p.port).packetOut { p with time := s.time }

theorem State.closeAcksOut_sends {s : State} {p : Packet} (sends : (s.ethOf p.port).sends = true) (l : List Packet) :
    s.closeAcksOut (p :: l) = (s.ethOf p.port).packetOut { p with time := s.time } :: s.closeAcksOut l := by
  simp [State.closeAcksOut, sends]

theorem State.closeAcksOut_silent {s : State} {p : Packet} (silent : ¬ (s.ethOf p.port).sends = true) (l : List Packet) :
    s.closeAcksOut (p :: l) = s.closeAcksOut l := by
  simp [State.closeAcksOut, silent]

/-- They leave in order, and each writes the interface alone. -/
theorem State.foldl_sendCloseAck (l : List Packet) (s : State) :
    l.foldl State.sendCloseAck s = { s with out := s.out ++ s.closeAcksOut l } := by
  induction l generalizing s with
  | nil => exact congrArg (fun o => { s with out := o }) s.out.append_nil.symm
  | cons p l ih =>
    rw [List.foldl_cons, ih]
    by_cases sends : (s.ethOf p.port).sends = true
    · rw [State.sendCloseAck, sends, State.onlyIf_true, State.closeAcksOut_sends sends, List.append_cons]
      rfl
    · rw [State.sendCloseAck, Bool.eq_false_iff.2 sends, State.onlyIf_false, State.closeAcksOut_silent sends]

theorem State.sendCloseAcks_eq (s : State) : s.sendCloseAcks =
    { s with fovar := { s.fovar with closeAcks := [] }, out := s.out ++ s.closeAcksOut s.fovar.closeAcks } :=
  State.foldl_sendCloseAck s.fovar.closeAcks _

theorem State.sendCloseAcks_none {s : State} (acks : s.fovar.closeAcks = []) : s.sendCloseAcks = s := by
  have none : s.out ++ s.closeAcksOut [] = s.out := s.out.append_nil
  rw [State.sendCloseAcks_eq, acks, none, ← acks]

theorem State.dramBack_away {s : State} (away : s.dramServes = false) : s.dramBack = s := by
  rw [State.dramBack, away, State.onlyIf_false]

theorem State.dramBack_idle {s : State} (waiting : s.mem.waiting = []) (acks : s.fovar.closeAcks = []) : s.dramBack = s := by
  refine State.onlyIf_keeps (· = s) s _ _ rfl ?_
  have same : { s with mem := { s.mem with waiting := [] } } = s := by rw [← waiting]
  rw [waiting, List.foldl_nil, same, State.sendCloseAcks_none acks]

/-- The state as zeroing leaves it. -/
def State.zeroed (s : State) : State := { s with mem := { s.mem with zeroing := false, dram := [], poison := [] } }

theorem exec_interleaveZeroed {s : State} (ready : s.phase = .ready) (zeroing : s.mem.zeroing = true) (t : Time) :
    exec (.interleaveZeroed t) s = .next (s.begin t).zeroed.dramBack := by
  have same : (s.begin t).mem.zeroing = true := zeroing
  change execInterleaveZeroed t s = _
  rw [execInterleaveZeroed, whenReady_ready t _ s ready, same, State.onlyIf_true]
  rfl

/-! ## STACK_TEMPERATURE_READ -/

/-- A stack reads its temperature and sets its refresh rate by it. -/
def Stack.warm (x : Stack) (v : BitVec 8) : Stack := { x with temp := v, refresh2x := decide (85 ≤ v.toInt) }

/-- Both stacks do. -/
def State.warm (s : State) (t0 t1 : BitVec 8) : State :=
  (s.setDramStack 0 ((s.dramStack 0).warm t0)).setDramStack 1 ((s.dramStack 1).warm t1)

theorem exec_stackTemperatureRead {s : State} (ready : s.phase = .ready) (t : Time) (t0 t1 : BitVec 8) :
    exec (.stackTemperatureRead t t0 t1) s = .next ((s.begin t).warm t0 t1) := by
  have other := (s.begin t).dramStack_setDramStack_other 0 (((s.begin t).dramStack 0).warm t0) 1 Nat.one_ne_zero
  change execStackTemperatureRead t t0 t1 s = _
  rw [State.warm, ← other, execStackTemperatureRead, whenReady_ready t _ s ready]
  rfl

/-- Settles O34: the scrubber's read touches its granule alone and then goes on past it; each stack takes its own temperature; and what
waits goes on from the zeroed state. -/
theorem dramUpkeep : Obligations.DramUpkeep := by
  unfold Obligations.DramUpkeep
  refine ⟨fun s t f ready serves => ?scrub, fun s t t0 t1 ready => ?warm, fun s t ready zeroing => ?zero⟩
  case scrub =>
    intro g k up
    have touches := (State.ReadTouches.scrubFinds (s.begin t) g f).trans (.scrubPast _ g k)
    obtain ⟨dram, poison, counts⟩ := State.CountsPass.scrubPast ((s.begin t).scrubFinds g f) g k
    have stack := counts k
    rw [State.dramStack_setDramStack_same] at stack
    refine ⟨_, exec_scrubRead ready serves t f, rfl, (congrArg Stack.scrubPos stack.only :), fun right => ?dram, fun a out => ?outside,
      fun other => ?poison, fun good bad => ?uncorrectable, (congrArg State.spad touches.only :), (congrArg State.pool touches.only :),
      (congrArg State.channels touches.only :), (congrArg State.pipes touches.only :)⟩
    case dram =>
      refine dram.trans (((s.begin t).dram_scrubFinds g f).resolve_right ?_)
      rintro ⟨good, r, d, wrong, -⟩
      exact right.elim (Bool.eq_false_iff.1 good) fun never => never r d wrong
    case outside =>
      rw [dram]
      exact (s.begin t).read_scrubFinds_other g f out
    case poison => exact poison.trans ((s.begin t).poison_scrubFinds g f other)
    case uncorrectable =>
      subst bad
      have finds : (s.begin t).scrubFinds g .uncorrectable = (s.begin t).poisonGranule g .nobody := State.scrubFinds_uncorrectable good
      have own : ((s.begin t).poisonGranule g .nobody).dramStack k = _ := (s.begin t).dramStack_poisonGranule g .nobody
      rw [finds] at poison stack ⊢
      rw [own] at stack
      refine ⟨?_, (stack.others 1 (by decide)).trans (Counters.get_add_add _ (by decide) 1 1 1),
        (stack.others 2 (by decide)).trans (Counters.get_add_add _ (by decide) 1 1 2), (congrArg Stack.lastPoison stack.only :)⟩
      rw [poison, State.mem_poison_setDramStack, State.poison_poisonGranule]
      exact mem_insertAsc g _
  case warm =>
    refine ⟨_, exec_stackTemperatureRead ready t t0 t1, rfl, ?_, State.dramStack_setDramStack_same ..⟩
    exact (State.dramStack_setDramStack_other _ _ _ 0 Nat.zero_ne_one).trans (State.dramStack_setDramStack_same ..)
  case zero =>
    refine ⟨exec_interleaveZeroed ready zeroing t, fun a => rfl, fun idle => ?_, fun w => ⟨?_, ?_⟩⟩
    · obtain ⟨waiting, acks⟩ | unlocked := idle
      · exact State.dramBack_idle waiting acks
      · exact State.dramBack_away unlocked
    · exact congrArg (fun u : State => u.fovar.closeAcks) w.sendCloseAcks_eq
    · exact congrArg State.out w.sendCloseAcks_eq

end Sys2Proof.Machine
end
